-- ==== Sys2Proof/Word.lean ====
section
/-!
DEFINITION. The word types of the hub and their plainest arithmetic: registers are 32 bits wide (R7), a byte is the
smallest addressable unit, journal words and ledger arguments are 64 bits wide.
-/

namespace Sys2Proof

/-- A byte of a cell, a memory or a frame. -/
abbrev Byte := BitVec 8

/-- A register of the hub (R7). -/
abbrev Word := BitVec 32

/-- A 64-bit word of the journal, the ledger or the Process Image RAM. -/
abbrev Dword := BitVec 64

end Sys2Proof
end

