-- ==== Sys2Proof/Syntax.lean ====
section
/-!
DEFINITION. The commands of the hub as syntax: one constructor of `Instr` per row of spec/opcode_table.json, with the
operands that the rule of the row leaves to whoever sends it: the die and unit that an event names, the bytes that come
from outside the node, the values that sensors and external devices give.
-/

namespace Sys2Proof

/-- A hub die (R10). -/
abbrev Die := Fin 8

/-- The part numbers of R1. -/
inductive Part where
  | opr101 | opr102 | opr104 | opr108
deriving DecidableEq, Repr

/-- What a Pump's parity checks answer as it issues an instruction (R308): nothing amiss, the fetched word fails, or a
register or stage fails. -/
inductive Parity where
  | good | word | reg
deriving DecidableEq, Repr

/-- The temperature grades of R1. -/
inductive Grade where
  | industrial | extended
deriving DecidableEq, Repr

/-- The hub dies of a part (R1). -/
def Part.dies : Part → Nat
  | .opr101 => 1
  | .opr102 => 2
  | .opr104 => 4
  | .opr108 => 8

/-- The bit of a part in PARTMASK (R96). -/
def Part.maskBit : Part → Nat
  | .opr101 => 0
  | .opr102 => 1
  | .opr104 => 2
  | .opr108 => 3

/-- The origins of R114, with the die or node that the table gives them. -/
inductive Origin where
  | image
  | host (die : Nat)
  | backplane (die : Nat)
  | ring (node : Nat)
  | management (die : Nat)
  | vault
  | loader
deriving DecidableEq, Repr

/-- The origin codes of R114. -/
def Origin.code : Origin → Nat
  | .image => 0
  | .host _ => 1
  | .backplane _ => 2
  | .ring _ => 3
  | .management _ => 4
  | .vault => 5
  | .loader => 6

/-- The die of an origin's port, 0 where it has none (ODIE of R486). -/
def Origin.die : Origin → Nat
  | .host d => d
  | .backplane d => d
  | .management d => d
  | _ => 0

/-- The source node of ring origin, else 0 (ONODE of R486). -/
def Origin.node : Origin → Nat
  | .ring n => n
  | _ => 0

/-- Is this management origin? -/
def Origin.isManagement : Origin → Bool
  | .management _ => true
  | _ => false


/-- What the check logic of the Cistern finds in the cell, entry or pointer copies that an access uses (R266 to R270):
nothing, a corrected word, an uncorrectable cell, differing pointer copies of the queue, differing free-list copies of
a bank, a link RAM parity error with its owner field trusted or not. -/
inductive Upset where
  | clean
  | corrected (word : Fin 8)
  | uncorrectable (word : Fin 8)
  | pointers
  | freeList (bank : Fin 16)
  | linkParity (ownerTrusted : Bool)
deriving DecidableEq, Repr
/-- The read modes of R90, in its order: command, address and data lines, and double transfer rate. -/
inductive NorMode where
  | m144d | m144 | m114 | m122 | m112 | m111
deriving DecidableEq, Repr

/-- What the hub takes from a NOR's SFDP tables (R89 to R92): which of the modes of R90 are advertised (bit 0 for 1-4-4 DTR, bit 4 for
1-1-2; 1-1-1 is always there), the dummy cycles of each from the same order, the quad-enable method and the capacity of the basic
table, whether the 4-byte address instruction table is present. -/
structure Sfdp where
  modes : BitVec 5
  dummies : List Nat
  quadEnable : Nat
  capacity : Nat
  addr4 : Bool
deriving DecidableEq, Repr

/-- The BARs of R428. -/
inductive Bar where
  | bar0 | bar2 | bar4
deriving DecidableEq, Repr

/-- The data widths of R437. -/
inductive BusWidth where
  | d8 | d16 | d32
deriving DecidableEq, Repr

/-- Bytes of a width. -/
def BusWidth.bytes : BusWidth → Nat
  | .d8 => 1
  | .d16 => 2
  | .d32 => 4

/-- The commands and events of the hub: one constructor per row of spec/opcode_table.json. -/
inductive Instr where
  /-- POWER_ON_RESET_RELEASE (R68). Power-on reset is released after PORST_N qualification with power-good, straps are sampled and the node passes from Night to Dawn. -/
  | powerOnResetRelease (straps : BitVec 8) (slot : BitVec 6) (nightVoid : Bool) (nightTicks : Nat)
  /-- INPUT_POWER_LOST (R112). Input power is lost, held configuration is lost and the node enters Night. -/
  | inputPowerLost
  /-- PORST_N_ASSERT (R619). PORST_N falls in any state other than Night and every die resets in the same core cycle without Dusk. -/
  | porstNAssert
  /-- NOR_DISCOVERY (R89). Dawn step 3 resets the configuration NOR, reads its JEDEC ID and SFDP tables and chooses the read mode. -/
  | norDiscovery (romOk : Bool) (jedecOk : Bool) (sfdp : Option Sfdp)
  /-- IMAGE_HEADER (R96). Dawn step 4 reads the image header and checks magic, fixed fields, signature, signer, part and generation. -/
  | imageHeader (bytes : List Byte)
  /-- IMAGE_RECORD (R107). One typed record of the image is read, checked and loaded into held configuration. -/
  | imageRecord (first : List Word) (reread : List Word)
  /-- END_RECORD (R629). The END record is read, cross-record checks and the image hash are made and held configuration is committed at Dawn step 6. -/
  | endRecord (first : List Word) (reread : List Word) (firmware : List Byte) (supplies : List (Die × Fin 12 × Fin 4))
  /-- KEYTREE_UNWRAP (R542). Dawn step 7 reconstructs the PUF key, unwraps the root secret and derives or imports the key tree. -/
  | keytreeUnwrap (failed : List Die)
  /-- BUILT_IN_SELF_TEST (R110). Dawn step 8 completes self-test of every unit on every die and quarantines the node on any failure. -/
  | builtInSelfTest (fails : List (Die × BitVec 8)) (trains : Bool)
  /-- QUARANTINE_TO_DUSK (R626). A node that entered Quarantine while the feed-loss report stands enters Dusk at the next core cycle. -/
  | quarantineToDusk
  /-- RING_BOOT_TIMEOUT (R86). No image is complete within 10 s of ring boot and the node enters Quarantine with code 0x0C. -/
  | ringBootTimeout
  /-- BOOT_REQUEST (R94). A node with an image-server entry answers the first boot request by streaming the stored image as class-2 cells. -/
  | bootRequest (die : Die) (port : Fin 4) (part : Part) (node : BitVec 16)
  /-- IMAGE_STREAM_CELL (R95). A requester takes a streamed image cell from the first server and passes it through steps 4 to 6. -/
  | imageStreamCell (server : BitVec 16) (serverDie : Die) (bytes : List Byte)
  /-- NOD_CMD_ENTER_SAFE (R36). NOD_CMD enter-Safe moves Run or Degraded to Safe with a command cause, or is refused and recorded. -/
  | nodCmdEnterSafe (die : Die) (origin : Origin) (same : BitVec 7)
  /-- NOD_CMD_RESUME (R625). NOD_CMD resume leaves Safe for Run or Degraded when no trains-lost or fault-response cause is active, else is refused. -/
  | nodCmdResume (die : Die) (origin : Origin) (same : BitVec 7)
  /-- NOD_CMD_SLEEP (R37). NOD_CMD sleep moves Run or Degraded to Sleep, stopping Pumps and trackers, or is refused and recorded. -/
  | nodCmdSleep (die : Die) (origin : Origin) (same : BitVec 7)
  /-- NOD_CMD_DUSK (R36). NOD_CMD dusk moves the node to Dusk from any state that permits it. -/
  | nodCmdDusk (die : Die) (origin : Origin) (same : BitVec 7)
  /-- NOD_CMD_RESET (R45). NOD_CMD reset from management origin in Quarantine returns the node to Dawn, or is refused. -/
  | nodCmdReset (die : Die) (origin : Origin) (same : BitVec 7)
  /-- NOD_CMD_RESERVED (R45). A NOD_CMD write of 0 or a reserved encoding is ignored and recorded as an access violation. -/
  | nodCmdReserved (die : Die) (origin : Origin) (value : BitVec 4)
  /-- RING_WAKE (R36). The ring wake listener in Sleep detects a wake and opens train windows from the wake train. -/
  | ringWake (die : Die) (port : Fin 4)
  /-- DUSK_CAN_LIMIT (R354). 2 ms after Dusk entry each CAN controller enters Off. -/
  | duskCanLimit
  /-- DUSK_RECORD (R507). After the ledger flush the owner writes the Dusk record and copies it and uncopied records to the log NVM, newest first. -/
  | duskRecord (count : Nat)
  /-- DUSK_COPY_LIMIT (R507). Recorder copying stops 25 ms after Dusk entry. -/
  | duskCopyLimit
  /-- TAKEOVER (R24). D1 completes takeover of node-level functions, sets OWNER and records it in recorder and ledger. -/
  | takeover
  /-- AMEND_CELL (R119). The owner processes one amend cell from Q560, checks it, stages a ledger entry and applies it, or returns a refusal code. -/
  | amendCell (holds : Bool) (inbox : Upset)
  /-- EXTEST (R77). TAP instruction EXTEST drives boundary register values in Quarantine, else acts as BYPASS. -/
  | extest (die : Die) (shifted levels : List (Nat × Bool)) (leaving : Bool)
  /-- SAMPLE_PRELOAD (R72). TAP instruction SAMPLE/PRELOAD captures and preloads the boundary register. -/
  | samplePreload (die : Die) (preload levels : List (Nat × Bool))
  /-- IDCODE (R75). TAP instruction IDCODE selects the 0x2B10_15CB identification register. -/
  | idcode (die : Die)
  /-- HIGHZ (R77). TAP instruction HIGHZ releases covered pins in Quarantine, else acts as BYPASS. -/
  | highz (die : Die)
  /-- CLAMP (R77). TAP instruction CLAMP holds boundary values with bypass in Quarantine, else acts as BYPASS. -/
  | clamp (die : Die)
  /-- BYPASS (R72). TAP instruction BYPASS, or a reserved or locked private code, selects the one-bit bypass register. -/
  | bypass (die : Die) (code : BitVec 6)
  /-- RPLY (R74). Private instruction RPLY in D0 at the end of Dawn step 2 selects Replay mode when debug access is open. -/
  | rply (die : Die)
  /-- MDBG (R74). Private instruction MDBG connects the die's management pair to its debug port when debug access is open. -/
  | mdbg (die : Die) (shifted : Dword)
  /-- TEST_LOGIC_RESET (R78). Power-on reset or TRST_N places every TAP controller in Test-Logic-Reset. -/
  | testLogicReset
  /-- BLOCK_LOCK_LOSS (R135). Block lock is lost on a lane of an Active or Passive port, which goes Down and counts LINKLOSS. -/
  | blockLockLoss (die : Die) (port : Fin 4) (lane : Fin 4)
  /-- DESKEW_LOSS (R135). Deskew of lanes 1 to 3 is lost and the port goes Down. -/
  | deskewLoss (die : Die) (port : Fin 4)
  /-- FRAME_SILENCE_TIMEOUT (R135). No frame arrives on lanes 1 to 3 for 2 µs and the port goes Down. -/
  | frameSilenceTimeout (die : Die) (port : Fin 4) (frameSame : Bool)
  /-- BLOCK_LOCK (R133). 64 consecutive valid sync headers give block lock on a lane during training. -/
  | blockLock (die : Die) (port : Fin 4) (lane : Fin 4)
  /-- DESKEW (R133). Lanes 1 to 3 are deskewed on alignment markers during training. -/
  | deskew (die : Die) (port : Fin 4)
  /-- TRAINING_EXCHANGE (R134). The peer's training exchange is received and compared; a mismatch returns the port to Down. -/
  | trainingExchange (die : Die) (port : Fin 4) (bytes : List Byte)
  /-- TRAINING_AUTH_FRAME (R133). At training step 5 the peer's control frame tagged under the new session key is verified. -/
  | trainingAuthFrame (die : Die) (port : Fin 4) (bytes : List Byte)
  /-- TRAINING_TIMEOUT (R134). Training not complete within 10 ms returns the port to Down. -/
  | trainingTimeout (die : Die) (port : Fin 4)
  /-- TRAINING_RETRY (R134). 10 ms after a failed attempt the port starts Training again. -/
  | trainingRetry (die : Die) (port : Fin 4)
  /-- LES_DECAY (R137). At the end of each 1 ms without a scored event the port's error score falls by 1, possibly returning Passive to Active. -/
  | lesDecay (die : Die) (port : Fin 4)
  /-- OFF_HOLD_EXPIRY (R139). After OFFHOLD an Off port enters Training with LES set to PASSTH unless REARM is reached. -/
  | offHoldExpiry (die : Die) (port : Fin 4)
  /-- OFFCNT_CLEAR (R139). After 60 s in Active without a break OFFCNT clears. -/
  | offcntClear (die : Die) (port : Fin 4)
  /-- RETRAIN (R132). RNG_PCMD retrain sends the port to Training. -/
  | retrain (die : Die) (port : Fin 4)
  /-- FORCE_OFF (R132). RNG_PCMD force-off sends the port to Off until release. -/
  | forceOff (die : Die) (port : Fin 4)
  /-- PORT_RELEASE (R139). RNG_PCMD release clears OFFCNT and sends an Off port to Training. -/
  | portRelease (die : Die) (port : Fin 4)
  /-- TRAIN_START_BLOCK (R141). A train start block arrives on an express receiver and the node starts or stops wrapping. -/
  | trainStartBlock (die : Die) (port : Fin 4) (residence : BitVec 20)
  /-- TRAIN_SEGMENT (R146). One train segment passes: received units are substituted, the CRC is adjusted and poison forwarded. -/
  | trainSegment (die : Die) (port : Fin 4) (bytes : List Byte) (tamper : Bool)
  /-- TRAIN_END_BLOCK (R141). A train end block ends the train's passage through the node. -/
  | trainEndBlock (die : Die) (port : Fin 4)
  /-- TRAIN_WINDOW_EXPIRY (R159). A train window expires without a train, incrementing CONSEC and TOTAL and entering Safe at HOLD + 1. -/
  | trainWindowExpiry (die : Die) (headerSame : Bool)
  /-- TRAIN_ORIGINATE (R157). The cycle master starts a train on both rings every PERIOD from its carry image. -/
  | trainOriginate (die : Die)
  /-- PHASE_LOCKED_BOUND (R158). In phase-locked mode a train starts at PMIN or PMAX with PLSLIP, or at PERIOD with PLHOLD on loss of source. -/
  | phaseLockedBound (die : Die) (boundarySame : Bool)
  /-- ORIGINATION_START (R200). A die receiving no train begins originating after the wait for its CMROLE. -/
  | originationStart (die : Die) (headerSame : Bool)
  /-- CELL_FRAME (R165). A cell frame is received, checked for CRC, LSEQ and tag, applied for credit and ACKSEQ, and presented to the switch. -/
  | cellFrame (die : Die) (port : Fin 4) (bytes : List Byte) (abort : Bool) (blkErr : Nat) (cut : List (Fin 4))
  /-- REPLAY_TIMEOUT (R166). ACKSEQ does not advance for RTTO, so outstanding frames are replayed, and RETRYMAX timeouts take the port Down. -/
  | replayTimeout (die : Die) (port : Fin 4) (ackSame : Bool)
  /-- KEEPALIVE (R163). A plain keepalive link control frame is received. -/
  | keepalive (die : Die) (port : Fin 4) (bytes : List Byte)
  /-- CREDIT_SYNC (R169). A clean credit sync resets the port's credit for each class from freed and used counts. -/
  | creditSync (die : Die) (port : Fin 4) (bytes : List Byte)
  /-- CREDIT_FRAME_DUE (R168). A receiver sends a frame within 1 µs of its previous frame to return credit. -/
  | creditFrameDue (die : Die) (port : Fin 4)
  /-- OUTPUT_SELECT (R228). An output chooses the class to send at a frame or cell slot, honouring guaranteed gaps and credit. -/
  | outputSelect (die : Die) (out : Fin 10) (upset : Upset)
  /-- PRESENCE_SEND (R182). Each ring die sends a presence cell on every live port every 1 ms and on any change of its port states. -/
  | presenceSend (die : Die)
  /-- PRESENCE_CELL (R184). A received presence cell updates the ring map, lost links and routes. -/
  | presenceCell (die : Die) (inbox : Upset)
  /-- NODE_ABSENT (R184). A node from which no presence has come for 3 ms is marked absent. -/
  | nodeAbsent (die : Die) (node : BitVec 16)
  /-- ERROR_PACKET_SEND (R236). A pending error packet is generated through MP, at most one per 8 core cycles. -/
  | errorPacketSend (die : Die)
  /-- MULTICAST_COPY (R238). The replicator makes a copy for an owed destination once MCRES allows. -/
  | multicastCopy (die : Die)
  /-- MULTICAST_GIVE_UP (R239). 10 µs after arrival, destinations not copied are given up and the Multicast Residue record written. -/
  | multicastGiveUp (die : Die) (granted : Option (Fin 10))
  /-- LP_MP_RELINK (R221). LP or MP relinks the head cell of its output queue onto its destination queue. -/
  | lpMpRelink (die : Die) (mp : Bool) (upset dest : Upset)
  /-- DIE_LINK_SILENCE (R588). 2 µs without die link keepalive takes the die link down and raises DIE_LINK. -/
  | dieLinkSilence (die : Die) (dp : Fin 2)
  /-- CLOCK_MONITOR (R588). The core clock counter is checked against REFCLK and raises CLK_MON when off by more than 1 %. -/
  | clockMonitor (die : Die) (ppm : Int)
  /-- FTIME_COMPARE (R588). Every 1 µs each die compares its fabric time with the source die and raises FTM_DIV beyond 4 ns. -/
  | ftimeCompare (die : Die) (diff : Int)
  /-- WRITE_BUFFER_RELEASE (R247). A write held in the Cistern write buffer is placed once a bank with a free cell is available. -/
  | writeBufferRelease (die : Die)
  /-- FORWARD_PRESENT (R257). The forward engine presents a ready forwarding queue's head cell to LP or MP and decrements ECRED. -/
  | forwardPresent (die : Die) (mp : Bool) (upset : Upset)
  /-- WORD_CELL_CLOSE (R258). PACKTO cycles after a word cell's first word, the open cell closes. -/
  | wordCellClose (die : Die) (queue : Fin 8192) (joined : Option Word)
  /-- CREDIT_RETURN_TIMER (R259). 1 ms after a link's last return the sink sends a credit return cell. -/
  | creditReturnTimer (die : Die) (link : Fin 512)
  /-- CREDIT_RETURN_CELL (R260). A source die's credit agent applies a credit return cell to the matching forwarding queue's ECRED. -/
  | creditReturnCell (die : Die) (upset : Upset)
  /-- QGRANT_READ (R261). A QGRANT read returns min(FREE, GRANTMAX) and adds it to GRANTED. -/
  | qgrantRead (die : Die) (origin : Origin) (queue : Fin 8192)
  /-- WINDOW_DATA_WRITE (R262). A queue window DATA write enqueues a cell or word under the arrival accounting, or is discarded. -/
  | windowDataWrite (die : Die) (origin : Origin) (queue : Fin 8192) (bytes : List Byte) (posted : Bool) (upset : Upset)
  /-- WINDOW_DATA_READ (R265). A queue window DATA read dequeues a cell or word, or returns the last value on an empty queue. -/
  | windowDataRead (die : Die) (origin : Origin) (queue : Fin 8192) (upset : Upset) (arrived : Bool)
  /-- QUEUE_SWEEP_END (R267). 12,288 core cycles after a queue reset, the sweep of its old-epoch cells ends. -/
  | queueSweepEnd (die : Die) (queue : Fin 8192)
  /-- FREE_LIST_REBUILD_END (R268). The bank's free-list rebuild completes after 12,288 core cycles and the bank returns to allocation. -/
  | freeListRebuildEnd (die : Die) (bank : Fin 16)
  /-- CELL_SCRUB (R272). The cell-memory scrubber reads, corrects and writes back one word line. -/
  | cellScrub (die : Die) (bank : Fin 16) (finds : List (Fin 4 × Fin 8 × Bool))
  /-- LINK_RAM_SCRUB (R272). The link RAM scrubber checks the parity of one entry. -/
  | linkRamScrub (die : Die) (bank : Fin 16) (bad : Bool) (trusted : Bool)
  /-- DESCRIPTOR_SCRUB (R272). The descriptor scrubber compares copies A and B of one queue. -/
  | descriptorScrub (die : Die) (differ : Bool)
  /-- PUMP_START (R304). PMP_CTL START initialises IP, accumulator, pending bits and stuff state, or is refused with STARTREF. -/
  | pumpStart (die : Die) (pump : Fin 64)
  /-- PUMP_START_EFFECT (R282). START takes effect at the first base-clock edge at least 2 core cycles later and the Pump runs. -/
  | pumpStartEffect (die : Die) (pump : Fin 64)
  /-- PUMP_STOP_NOW (R302). STOP-NOW discards stage contents, idles OUT and SIDE pins and stops the Pump within 2 core cycles. -/
  | pumpStopNow (die : Die) (pump : Fin 64)
  /-- PUMP_STOP_AT_BOUNDARY (R303). STOP-AT-BOUNDARY lets the program run to a shift boundary before stopping. -/
  | pumpStopAtBoundary (die : Die) (pump : Fin 64)
  /-- PUMP_CLEAR (R300). CLEAR moves a Faulted Pump to Stopped. -/
  | pumpClear (die : Die) (pump : Fin 64) (origin : Origin)
  /-- PUMP_CMD_RESERVED (R300). A reserved PMP_CTL command, or CLEAR while not Faulted, is ignored and recorded as an access violation. -/
  | pumpCmdReserved (die : Die) (pump : Fin 64) (origin : Origin)
  /-- STOP_BOUNDARY_REACHED (R303). A pending stop reaches a shift boundary at the end of an instruction and performs STOP-NOW. -/
  | stopBoundaryReached (die : Die) (pump : Fin 64) (limit : Bool)
  /-- STOP_TIMEOUT (R303). No boundary within 1 ms forces STOP-NOW and sets STOPTMO. -/
  | stopTimeout (die : Die) (pump : Fin 64)
  /-- NOP (R287). NOP does nothing beyond its pin action and delay. -/
  | nop (die : Die) (pump : Fin 64) (parity : Parity)
  /-- DRAW (R287). DRAW dequeues one word from IN0 or IN1 into PS or X. -/
  | draw (die : Die) (pump : Fin 64) (parity : Parity) (upset : Upset)
  /-- POUR (R288). POUR hands n bits of PS to the pour stage, waiting while the stage is busy. -/
  | pour (die : Die) (pump : Fin 64) (parity : Parity)
  /-- GATHER (R289). GATHER arms the gather stage for n bits, waiting while it is collecting. -/
  | gather (die : Die) (pump : Fin 64) (parity : Parity)
  /-- STORE (R298). STORE enqueues the shifted source word to OUT0 or OUT1, feeding tracker and IRIG taps, waiting or dropping without credit. -/
  | store (die : Die) (pump : Fin 64) (parity : Parity) (upset : Upset)
  /-- AWAIT (R294). AWAIT waits for a pin, edge, flag, signal or phase channel condition. -/
  | await (die : Die) (pump : Fin 64) (parity : Parity) (was : Option Bool)
  /-- LOADX (R287). LOADX sets X to a zero-extended immediate. -/
  | loadx (die : Die) (pump : Fin 64) (parity : Parity)
  /-- LOADY (R287). LOADY sets Y to a zero-extended immediate. -/
  | loady (die : Die) (pump : Fin 64) (parity : Parity)
  /-- LOADXH (R287). LOADXH sets the upper half of X. -/
  | loadxh (die : Die) (pump : Fin 64) (parity : Parity)
  /-- LOADYH (R287). LOADYH sets the upper half of Y. -/
  | loadyh (die : Die) (pump : Fin 64) (parity : Parity)
  /-- MOVE (R287). MOVE copies a register, pins or flags into a destination register. -/
  | moveOp (die : Die) (pump : Fin 64) (parity : Parity)
  /-- ADD (R287). ADD adds an immediate or register to X or Y. -/
  | addOp (die : Die) (pump : Fin 64) (parity : Parity)
  /-- XOR (R287). XOR exclusive-ors an immediate or register into X or Y. -/
  | xorOp (die : Die) (pump : Fin 64) (parity : Parity)
  /-- TEST (R290). TEST jumps to its target when its condition holds. -/
  | testOp (die : Die) (pump : Fin 64) (parity : Parity)
  /-- COUNT_LOAD (R287). COUNT op 0 loads LC from the immediate. -/
  | countLoad (die : Die) (pump : Fin 64) (parity : Parity)
  /-- COUNT_LOAD_X (R287). COUNT op 1 loads LC from X. -/
  | countLoadX (die : Die) (pump : Fin 64) (parity : Parity)
  /-- COUNT_DECREMENT (R287). COUNT op 2 decrements LC and jumps while it is non-zero. -/
  | countDecrement (die : Die) (pump : Fin 64) (parity : Parity)
  /-- SIGNAL (R296). SIGNAL raises a die signal line in every subscribing Pump. -/
  | signal (die : Die) (pump : Fin 64) (parity : Parity)
  /-- CRC_INIT (R292). CRC op 0 loads the accumulator with CRCINIT. -/
  | crcInit (die : Die) (pump : Fin 64) (parity : Parity)
  /-- CRC_FEED (R292). CRC op 1 feeds n bits of a register into the accumulator. -/
  | crcFeed (die : Die) (pump : Fin 64) (parity : Parity)
  /-- CRC_FINAL (R292). CRC op 2 writes the accumulator xor CRCXOR to X. -/
  | crcFinal (die : Die) (pump : Fin 64) (parity : Parity)
  /-- STUFF (R291). STUFF clears the pour or gather run counters and FLAG and ABORT. -/
  | stuff (die : Die) (pump : Fin 64) (parity : Parity)
  /-- CODE_ENCODE (R293). CODE encode maps g data groups of X to line symbols in PS. -/
  | codeEncode (die : Die) (pump : Fin 64) (parity : Parity)
  /-- CODE_DECODE (R293). CODE decode maps g symbol groups of GS to data in X, setting CODEERR on no match. -/
  | codeDecode (die : Die) (pump : Fin 64) (parity : Parity)
  /-- HALT (R303). HALT requests STOP-AT-BOUNDARY from the program. -/
  | halt (die : Die) (pump : Fin 64) (parity : Parity)
  /-- ILLEGAL_INSTRUCTION (R309). An illegal instruction puts the Pump in Faulted and raises PMP_ILL. -/
  | illegalInstruction (die : Die) (pump : Fin 64) (parity : Parity)
  /-- SHIFT_STAGE_FREE (R288). A POUR or GATHER waiting on a busy stage completes at the stage's last emission or sample. -/
  | shiftStageFree (die : Die) (pump : Fin 64) (bad : Bool)
  /-- GATHER_DELIVERY (R289). A completed collection is delivered to GS, raising GCT and setting GRDY. -/
  | gatherDelivery (die : Die) (pump : Fin 64) (samples : List Word) (bad : Bool)
  /-- AWAIT_CONDITION_MET (R294). A waiting AWAIT completes in the first cycle its condition holds, consuming signals or channels. -/
  | awaitConditionMet (die : Die) (pump : Fin 64) (again bad : Bool)
  /-- AWAIT_TIMEOUT (R295). An AWAIT with TMO reaches cycle Y + 1 and jumps to its target. -/
  | awaitTimeout (die : Die) (pump : Fin 64) (holds bad : Bool)
  /-- STORE_CREDIT_WAIT_END (R298). A STORE waiting for credit completes when credit appears. -/
  | storeCreditWaitEnd (die : Die) (pump : Fin 64) (upset : Upset) (bad : Bool)
  /-- PUMP_PARITY_CHECK (R308). The background checker reads one program word or line-code entry of each Pump every 256 cycles. -/
  | pumpParityCheck (die : Die) (pump : Fin 64) (entry : Fin 80) (bad : Bool)
  /-- PIN_TRANSITION (R319). A synchronised pin level change enters the input chain and is journaled. -/
  | pinTransition (die : Die) (bank : Fin 12) (changed : BitVec 16)
  /-- QUALIFIED_LEVEL_CHANGE (R319). The filtered level holds FILT sample cycles and the qualified level changes. -/
  | qualifiedLevelChange (die : Die) (pins : List (Fin 192))
  /-- RANGE_OPEN_LIMIT (R321). An open measure reaching MAX + 1 closes and reports RNGHI at once. -/
  | rangeOpenLimit (die : Die) (pin : Fin 192)
  /-- PIN_TIMEOUT (R322). TMO sample cycles pass without an active edge, setting TMOERR. -/
  | pinTimeout (die : Die) (pin : Fin 192)
  /-- TRIP_RELEASE (R329). An accepted amend writing 1 to LATCHED releases a group that is not active. -/
  | tripRelease (die : Die) (groups : BitVec 16)
  /-- MIO_OUT_WRITE (R326). A MIO_OUT write sets discrete output levels, at once or at the next train with OUTSYNC. -/
  | mioOutWrite (die : Die) (word : Fin 6) (value : Word)
  /-- OUTMV_WRITE (R332). An OUTMV window write sets masked bits of MIO_OUT. -/
  | outmvWrite (die : Die) (word : Fin 6) (value : Word) (mask : Word)
  /-- READBACK_SETTLE_END (R327). RBSET sample cycles after a commanded change, readback comparison starts. -/
  | readbackSettleEnd (die : Die) (pin : Fin 192)
  /-- READBACK_MISMATCH (R327). An output's synchronised level differs from its driven level, reporting MIO_RB once per episode. -/
  | readbackMismatch (die : Die) (pin : Fin 192)
  /-- RECEIVER_MISMATCH (R590). The two input receivers differ for 4 ticks and MIO_INCMP is raised. -/
  | receiverMismatch (die : Die) (pin : Fin 192) (level : Bool)
  /-- CAN_START (R354). CAN_CMD START puts the controller in Integrating. -/
  | canStart (die : Die) (can : Fin 16)
  /-- CAN_STOP (R354). CAN_CMD STOP lets a frame in progress complete and enters Off. -/
  | canStop (die : Die) (can : Fin 16) (receiving : Bool)
  /-- CAN_RECOVER (R353). CAN_CMD RECOVER in bus-off starts waiting for 128 runs of 11 recessive bits. -/
  | canRecover (die : Die) (can : Fin 16) (origin : Origin)
  /-- CAN_SLEEP (R355). CAN_CMD SLEEP puts the controller in Sleep. -/
  | canSleep (die : Die) (can : Fin 16)
  /-- CAN_WAKE (R355). CAN_CMD WAKE wakes the controller with cause 0. -/
  | canWake (die : Die) (can : Fin 16)
  /-- CAN_ABORT (R347). CAN_CMD ABORT frees every TX and TXH frame not yet begun. -/
  | canAbort (die : Die) (can : Fin 16)
  /-- CAN_CMD_RESERVED (R354). CAN_CMD 0b111, or RECOVER outside bus-off, is ignored and recorded as an access violation. -/
  | canCmdReserved (die : Die) (can : Fin 16) (origin : Origin)
  /-- FRAME_SELECTION (R343). At a selection point the controller offers the TXH head, or an ungated or released TX head. -/
  | frameSelection (die : Die) (can : Fin 16) (upset : Upset)
  /-- CAN_FRAME_TRANSMITTED (R346). A frame completes without error, is dequeued and echoed to RX1 when ECHO = 1. -/
  | canFrameTransmitted (die : Die) (can : Fin 16) (tdcv : Option (BitVec 7))
  /-- ARBITRATION_LOST (R346). A frame loses arbitration and returns to selection, or is discarded with ONESHOT. -/
  | arbitrationLost (die : Die) (can : Fin 16)
  /-- CAN_ERROR (R351). A bus error updates TEC and REC and the confinement state. -/
  | canError (die : Die) (can : Fin 16) (lec : Fin 7) (exempt : Bool) (extra : Nat) (tdcv : Option (BitVec 7))
  /-- CAN_FRAME_RECEIVED (R348). A valid received frame is filtered and routed to RX0, RX1 or discarded. -/
  | canFrameReceived (die : Die) (can : Fin 16) (id : Word) (dlc : BitVec 4) (brs : Bool) (esi : Bool) (data : List Byte) (parity : Bool) (limit : Bool)
  /-- INTEGRATION_COMPLETE (R354). 11 consecutive recessive bits move Integrating to Operating. -/
  | integrationComplete (die : Die) (can : Fin 16)
  /-- RECOVERY_COMPLETE (R353). 128 runs of 11 recessive bits clear TEC and REC and make the controller error-active. -/
  | recoveryComplete (die : Die) (can : Fin 16)
  /-- CAN_WAKE_DOMINANT (R355). A dominant RX level lasting WKDOM × 100 ns wakes a sleeping controller. -/
  | canWakeDominant (die : Die) (can : Fin 16) (ends : Bool)
  /-- CAN_WAKE_FRAME (R356). A classical frame matching the selective-wake rules wakes a sleeping controller. -/
  | canWakeFrame (die : Die) (can : Fin 16) (id : Word) (dlc : BitVec 4) (data : List Byte) (limit : Bool)
  /-- WAKE_ERROR_LIMIT (R355). The wake decoder error count reaches 32 and wakes the controller. -/
  | wakeErrorLimit (die : Die) (can : Fin 16) (frames : Nat)
  /-- CAN_PARITY_CHECK (R359). A background check of one filter every 256 cycles puts the controller Off on a parity error. -/
  | canParityCheck (die : Die) (can : Fin 16) (bad : Bool)
  /-- TRACKER_UPDATE (R369). At each update tick the tracker applies the latest measurement through its loop and plausibility checks. -/
  | trackerUpdate (die : Die) (trk : Fin 8) (parityBad : Bool)
  /-- GAP_LIMIT (R372). The estimate moves more than GAP/16 of a pitch without a measurement and the tracker enters Holdover. -/
  | gapLimit (die : Die) (trk : Fin 8) (arrival : Bool)
  /-- TRACKER_SILENCE (R372). No measurement for LOSTO × 100 µs sets SILENT and enters Holdover. -/
  | trackerSilence (die : Die) (trk : Fin 8) (arrival : Bool)
  /-- HOLDOVER_TIMEOUT (R373). HOLDTO expires in Holdover and the tracker enters Stopped, raising PHS_LOSS. -/
  | holdoverTimeout (die : Die) (trk : Fin 8) (arrival : Bool)
  /-- PACING_RAISE (R368). PACE µs without a raise makes the tracker raise its Pump phase channel. -/
  | pacingRaise (die : Die) (trk : Fin 8)
  /-- ENTRY_SCAN (R384). The scanner evaluates table entries, moving near crossings to the pending list and firing late ones. -/
  | entryScan (die : Die) (entry : Fin 4096) (parityBad trackerBad : Bool)
  /-- EVENT_COMMIT (R384). 256 core cycles before its predicted time a pending event is committed with fixed Tc. -/
  | eventCommit (die : Die) (entry : Fin 4096)
  /-- EVENT_FIRE (R386). A committed event acts at Tc and the entry's NEXT and ARM are updated. -/
  | eventFire (die : Die) (entry : Fin 4096)
  /-- EVENT_CELL_PRESENT (R387). A buffered event cell is presented at LP once the class reservation allows. -/
  | eventCellPresent (die : Die)
  /-- PLACER_CALIBRATION (R391). Every 16 µs the calibrator takes a free placer for 64 cycles and updates or keeps its taps. -/
  | placerCalibration (die : Die) (ok : Bool)
  /-- ENTRY_ARM (R382). A write of ARM = 1 to an entry initialises its NEXT crossing. -/
  | entryArm (die : Die) (entry : Fin 4096) (arm : Bool) (fires : Bool)
  /-- TRACKER_LIVE_READ (R364). A read of PHS_TPHLO latches the tracker's other live values from the same core cycle. -/
  | trackerLiveRead (die : Die) (trk : Fin 8)
  /-- DELAY_REQUEST_SEND (R411). Every 100 µs each live port sends a delay request keepalive. -/
  | delayRequestSend (die : Die) (port : Fin 4)
  /-- DELAY_REQUEST (R411). A received delay request is answered by a delay response as the next frame. -/
  | delayRequest (die : Die) (port : Fin 4) (bytes : List Byte) (turn : Word)
  /-- DELAY_RESPONSE (R411). A delay response updates the port's mean link delay and DLYOK. -/
  | delayResponse (die : Die) (port : Fin 4) (bytes : List Byte) (stamp : Dword)
  /-- SECOND_EDGE (R409). A time master's second edge from PPS_IN or IRIG is paired with a label and applied to the servo or step. -/
  | secondEdge
  /-- PPS_LOSS (R410). 1.5 s without a second edge puts the master in holdover and sets PPSLOSS. -/
  | ppsLoss (edgeSame : Bool)
  /-- FTM_ACCEPT (R416). An amend writing ACCEPT puts the node in slewing towards its time input. -/
  | ftmAccept
  /-- UTC_OFFSET_CHANGE (R418). Fabric time reaches UTCAT and NEXTOFF becomes the UTCOFF in force. -/
  | utcOffsetChange
  /-- CALENDAR_SET (R419). Every 60 s while time is valid the owner sets the Night calendar from fabric time. -/
  | calendarSet
  /-- PPS_OUT_PULSE (R420). At each fabric second boundary the owner drives PPS_OUT high for 100 ms. -/
  | ppsOutPulse
  /-- PCIE_MEMORY_READ (R430). A host memory read is split at 64-byte boundaries and served locally or sent as read requests. -/
  | pcieMemoryRead (die : Die) (bar : Bar) (offset : BitVec 40) (len : Nat) (tag : Fin 1024) (reqid : BitVec 16) (upset : Upset)
  /-- PCIE_MEMORY_WRITE (R430). A host memory write is split and performed locally or sent as write requests. -/
  | pcieMemoryWrite (die : Die) (bar : Bar) (offset : BitVec 40) (bytes : List Byte) (reqid : BitVec 16) (upset : Upset)
  /-- PCIE_CONFIGURATION (R427). A configuration request accesses the endpoint's configuration space. -/
  | pcieConfiguration (die : Die) (write : Bool) (word : BitVec 10) (value : Word) (enables : BitVec 4) (tag : Fin 1024)
  /-- UNSUPPORTED_REQUEST (R427). An I/O, AtomicOp or locked read request is answered with Unsupported Request. -/
  | unsupportedRequest (die : Die) (tag : Fin 1024)
  /-- FUNCTION_LEVEL_RESET (R433). FLR clears configuration space and MSI-X table and takes the host link down. -/
  | functionLevelReset (die : Die)
  /-- HOST_LINK_DOWN (R433). The host link leaves DL_Active or PERST_N falls, flushing HP queues and abandoning reads. -/
  | hostLinkDown (die : Die) (perst : Bool)
  /-- HOST_LINK_UP (R433). The host link reaches DL_Active. -/
  | hostLinkUp (die : Die) (speed : Fin 5) (width : Fin 3)
  /-- HOST_READ_TIMEOUT (R431). An outstanding remote read reaches 20 ms and completes with Completer Abort. -/
  | hostReadTimeout (die : Die) (tag : Fin 1024) (completion : Bool)
  /-- READ_REQUEST (R426). The access engine takes a read request from Q576, performs it and returns a read completion. -/
  | readRequest (die : Die) (upset inbox : Upset)
  /-- WRITE_REQUEST (R426). The access engine takes a write request from Q576, performs it and answers a non-posted one. -/
  | writeRequest (die : Die) (upset inbox : Upset)
  /-- READ_COMPLETION (R431). A read completion completes a host read or fills a backplane prefetch slot. -/
  | readCompletion (die : Die) (inbox : Upset)
  /-- WRITE_COMPLETION (R431). A write completion completes a non-posted write. -/
  | writeCompletion (die : Die) (inbox : Upset)
  /-- LOCK_READ (R445). A lock read at its target holds the unit or far bus and returns data. -/
  | lockRead (die : Die) (inbox : Upset)
  /-- LOCK_WRITE (R445). A lock write is performed at the target and releases the lock. -/
  | lockWrite (die : Die) (inbox : Upset)
  /-- UNLOCK (R445). An unlock releases the held bus or unit. -/
  | unlock (die : Die) (inbox : Upset)
  /-- LOCK_BUSY (R447). A lock busy answer makes the requester resend its lock read. -/
  | lockBusy (die : Die) (inbox : Upset)
  /-- ERROR_PACKET (R434). An error packet fails the named request or is logged in the Posted Write Fault Log. -/
  | errorPacket (die : Die) (inbox : Upset)
  /-- BAD_ACCESS_CELL (R424). An access cell with an unknown MSG or VER is discarded and counted in BADMSG. -/
  | badAccessCell (die : Die) (errors : Bool) (inbox : Upset)
  /-- POP (R435). Writing POP removes the oldest Posted Write Fault Log entry. -/
  | pop (die : Die)
  /-- SLAVE_READ (R441). A backplane slave read is answered with data, RETRY from a prefetch slot, or held. -/
  | slaveRead (die : Die) (addr : Word) (am : BitVec 6) (width : BusWidth) (upset : Upset)
  /-- SLAVE_WRITE (R442). A backplane slave write is posted and acknowledged or sent non-posted. -/
  | slaveWrite (die : Die) (addr : Word) (am : BitVec 6) (width : BusWidth) (data : Word) (upset : Upset)
  /-- SLAVE_LOCK_READ (R445). A read in a LOCKEN window withholds DTACK and sends a lock read. -/
  | slaveLockRead (die : Die) (addr : Word) (am : BitVec 6) (width : BusWidth) (upset : Upset)
  /-- SLAVE_LOCK_WRITE (R445). A data strobe with AS still held sends a lock write. -/
  | slaveLockWrite (die : Die) (data : Word)
  /-- AS_RELEASE (R445). The master releasing AS sends an unlock. -/
  | asRelease (die : Die)
  /-- LOCK_TIMEOUT (R445). LOCKTO after a lock read releases the lock and sends code 0x05. -/
  | lockTimeout (die : Die) (unitNo : Option Nat)
  /-- LOCK_READ_RESEND (R447). A requester resends its lock read every 1 µs after lock busy. -/
  | lockReadResend (die : Die)
  /-- HOLDMAX_EXPIRY (R441). HOLDMAX passes without data and the held cycle ends with BERR or RETRY. -/
  | holdmaxExpiry (die : Die) (dataSame : Bool)
  /-- SLOT_TIMEOUT (R441). A prefetch slot's data unclaimed for SLOTTO is freed and SLOTEXP counted. -/
  | slotTimeout (die : Die) (slot : Fin 16) (retrySame : Bool)
  /-- MASTER_ACCESS (R443). An access to space 0x08 runs backplane master cycles through the master map. -/
  | masterAccess (die : Die) (origin : Origin) (offset : Word) (write posted : Bool) (bytes : List Byte)
  /-- MASTER_CYCLE_END (R444). A master cycle ends with DTACK, or fails with BERR. -/
  | masterCycleEnd (die : Die) (berr : Bool) (data : Word)
  /-- FETCH_TIMEOUT (R444). No bus grant or DTACK within FETCHTO ends the access with code 0x04. -/
  | fetchTimeout (die : Die)
  /-- INTERRUPT_ACKNOWLEDGE (R448). An acknowledge cycle at LEVEL is answered with STATID and releases BP_IRQ_N, else passed on. -/
  | interruptAcknowledge (die : Die) (level : Fin 8)
  /-- STROBE_BUS_ACCESS (R449). In strobe-bus mode an access drives multiplexed address and data with a strobe. -/
  | strobeBusAccess (die : Die) (data : Word)
  /-- BUS_CLEAR (R437). BP_BCLR_N makes the bridge release the bus after the current cycle or lock. -/
  | busClear (die : Die)
  /-- BACKPLANE_SYSRESET (R438). BP_SYSRST_N low takes port BP down and the bridge drives no backplane signal. -/
  | backplaneSysreset (die : Die) (asserted : Bool)
  /-- CONTROL_FRAME_SEND (R452). Every 10 µs D0 and D1 send a control frame to the Wellhouse, clearing AUTO on an owner frame. -/
  | controlFrameSend (die : Die)
  /-- MEASUREMENT_FRAME (R452). A Wellhouse measurement frame is copied into the WLH block as a journaled input. -/
  | measurementFrame (die : Die)
  /-- WLH_LINK_SILENT (R454). No measurement frame for 100 µs sets LINK0 or LINK1 and raises WLH_LINK. -/
  | wlhLinkSilent (die : Die)
  /-- WELLHOUSE_CONVERSION (R473). Every 10 µs the Wellhouse converts all channels, accumulates energy and computes hold-up energy. -/
  | wellhouseConversion (volts : List (BitVec 16)) (shunts : List Int)
  /-- REFCLK_QUALIFIED (R455). After REFCLK has run 1 ms within tolerance the Wellhouse times from it. -/
  | refclkQualified
  /-- INPUT_WINDOW_ENTER (R458). VIN enters the input window and the hot-swap channel starts qualifying. -/
  | inputWindowEnter
  /-- INPUT_WINDOW_LEAVE (R458). VIN below UVOFF for UVDEB, or above OVON before On, leaves the window. -/
  | inputWindowLeave (above : Bool)
  /-- INSERTION_DELAY_END (R459). After TINS in the window the hot-swap gate charges and the channel ramps. -/
  | insertionDelayEnd
  /-- HOTSWAP_ON (R459). VOUT reaches 92 % of VIN with the limit inactive and the channel is On. -/
  | hotswapOn
  /-- POWER_GOOD_QUALIFIED (R464). 2 ms of qualification pass and power-good and PWR_EN are asserted. -/
  | powerGoodQualified (timerStart : Bool)
  /-- FAULT_TIMER_EXPIRY (R463). The fault timer reaches TFLT, the gate turns off and the channel latches or retries. -/
  | faultTimerExpiry
  /-- FAULT_TIMER_CLEAR (R461). The limit inactive for 1 ms clears the fault timer. -/
  | faultTimerClear
  /-- FAST_TRIP (R462). The shunt reaches 2 × VLIM and the gate is pulled down within 500 ns. -/
  | fastTrip
  /-- FAST_TRIP_HOLD_END (R462). After 50 µs of hold-down the gate charges again under the limit. -/
  | fastTripHoldEnd
  /-- RETRY_WAIT_END (R463). 10 s in RetryWait restart the channel at insertion step 2. -/
  | retryWaitEnd
  /-- RETRY_COUNT_CLEAR (R463). Power-good held for 60 s clears the retry count. -/
  | retryCountClear
  /-- POWER_GOOD_DROP (R465). Power-good drops on fault-timer expiry or VOUT below PGUV, PWR_EN falls and the node enters Night. -/
  | powerGoodDrop
  /-- OVERVOLTAGE_EVENT (R460). VIN above OVON while On sets OVEVT. -/
  | overvoltageEvent
  /-- REVERSE_TURN_OFF (R467). The combined node above a feed by 10 mV turns that ideal-diode gate off. -/
  | reverseTurnOff (feed : Fin 2)
  /-- IDEAL_DIODE_RESUME (R467). A feed 25 mV above the combined node has its gate driven again. -/
  | idealDiodeResume (feed : Fin 2)
  /-- FEED_PRESENT (R468). A 48 V feed reaches UVON and becomes present, ending a feed-loss report. -/
  | feedPresent (feed : Fin 2)
  /-- FEED_LOST (R468). A present feed below UVOFF for UVDEB is lost, raising WLH_FEED or reporting loss of both feeds. -/
  | feedLost (feed : Fin 2) (otherPresent : Bool)
  /-- FIELD_FEED_BAD (R469). The selected field feed leaves its window for FDEB and its gate turns off. -/
  | fieldFeedBad (both : Bool)
  /-- BBM_END (R469). After BBM and gate discharge the other good field feed is turned on. -/
  | bbmEnd
  /-- FIELD_RETURN (R470). The preferred field feed good for FRET is selected again. -/
  | fieldReturn
  /-- FIELD_OVERCURRENT (R471). Field current above FOC for FOCT turns both pairs off and sets FOCLAT. -/
  | fieldOvercurrent
  /-- FIELD_RESUME (R471). WLH_FCMD 0b01 clears FOCLAT and resumes field selection. -/
  | fieldResume
  /-- FIELD_OFF (R471). WLH_FCMD 0b10 turns both field feeds off until resumed. -/
  | fieldOff
  /-- AUTO_ENTRY (R477). No valid frame from D0 or D1 for WLHTO sets AUTO. -/
  | autoEntry (frame : Bool)
  /-- HOLDUP_FAULT (R475). HU fails to exceed VMIN within HUTCHG, or stays below it, and HUFLT is set. -/
  | holdupFault (reached : Bool)
  /-- REQUESTED_ENTRY_WAIT_END (R491). A waiting requested entry is staged when fewer than 20 are staged and hold-up passes. -/
  | requestedEntryWaitEnd
  /-- FORCED_ENTRY_WAIT_END (R491). A forced entry waiting for a staging slot is staged as one frees. -/
  | forcedEntryWaitEnd
  /-- LEDGER_PAGE_WRITE (R492). The owner writes the staged slots of a ledger page to the log NVM. -/
  | ledgerPageWrite
  /-- LOG_NVM_WRITE_DONE (R492). An RDSR poll shows the write ended, the page is read back and entries flushed or the page rewritten. -/
  | logNvmWriteDone (readback : Option (List Byte))
  /-- LEDGER_PAGE_RETRY (R492). After four failed writes the page is retried every 100 ms. -/
  | ledgerPageRetry
  /-- LAST_SEQ_REBUILD (R498). The owner rebuilds last_seq from checkpoints and amend entries and sets READY. -/
  | lastSeqRebuild
  /-- ARCHIVE_MARK (R499). A write of LDG_MARKHI applies the archive mark and re-evaluates NEARFULL. -/
  | archiveMark (hi : Word) (sameCycle : Bool)
  /-- LEDGER_READ (R484). A space 0x11 read returns log NVM contents, or a staged entry's value. -/
  | ledgerRead (die : Die) (origin : Origin) (offset : BitVec 40) (len : Nat)
  /-- IMAGE_SHADOW_READ (R92). A space 0x01 read is served from the configuration NOR by the owner. -/
  | imageShadowRead (die : Die) (origin : Origin) (offset : BitVec 40) (len : Nat)
  /-- EVENT_REPORT (R502). The recorder takes up to four reports per cycle into its input buffer, dropping them when full. -/
  | eventReport (die : Die)
  /-- RECORD_WRITE (R502). Every 3 core cycles one buffered report is written as an event record. -/
  | recordWrite (die : Die)
  /-- RECORDER_COPY (R506). A page of uncopied records is written to the log NVM when full or 1 s old. -/
  | recorderCopy (aged : Bool)
  /-- EVR_CLR (R508). A write of CLR requests a clear of the die's recorder as a requested ledger entry. -/
  | evrClr (die : Die) (origin : Origin)
  /-- CLEAR_RETRY (R508). A waiting clear is retried when staged entries fall below 20, discarding records or being refused. -/
  | clearRetry (die : Die)
  /-- DIGEST (R524). Every 1 ms each die writes a DIGEST record of eight state CRCs, compared in Replay mode. -/
  | digest (die : Die)
  /-- CHECKPOINT_BEGIN (R521). At a due digest boundary a checkpoint begins with MARK kind 5. -/
  | checkpointBegin
  /-- CHECKPOINT_END (R521). The last unit is copied and MARK kind 6 completes the checkpoint. -/
  | checkpointEnd (die : Die)
  /-- JRN_FREEZE (R529). A write of JRN_CMD.FREEZE triggers a journal freeze. -/
  | jrnFreeze (die : Die)
  /-- FREEZE_EFFECT (R529). 4 core cycles after a trigger the freeze takes effect on every die and the journal enters Post. -/
  | freezeEffect
  /-- POST_COMPLETE (R529). POST × 64 KiB written ends the window with MARK kind 7 and the journal is Frozen. -/
  | postComplete (die : Die)
  /-- JRN_REARM (R530). An amend of REARM in Frozen discards the window and restarts recording. -/
  | jrnRearm
  /-- JOURNAL_LOSS_END (R528). The next cycle whose records fit writes MARK kind 4. -/
  | journalLossEnd (die : Die)
  /-- REPLAY_LOAD (R535). JRN_RCTL load checks the mark and loads the checkpoint, entering Replay paused or setting RMISM. -/
  | replayLoad (die : Die)
  /-- REPLAY_RUN (R536). JRN_RCTL run advances the domain cycle by cycle applying journal records. -/
  | replayRun (die : Die)
  /-- REPLAY_PAUSE (R536). JRN_RCTL pause enters Replay paused. -/
  | replayPause (die : Die)
  /-- REPLAY_CMD_RESERVED (R536). A reserved JRN_RCTL command is ignored and recorded as an access violation. -/
  | replayCmdReserved (die : Die) (origin : Origin)
  /-- REPLAY_FEED (R535). The bench host writes journal words and advances JRN_RFEED. -/
  | replayFeed (die : Die) (words : List Dword)
  /-- REPLAY_STOP (R536). The cycle count reaches RSTOP with STOPEN and replay pauses. -/
  | replayStop
  /-- REPLAY_END (R537). At MARK kind 7, a loss mark or the end of fed words replay ends. -/
  | replayEnd (die : Die)
  /-- VAULT_COMMAND (R549). A management access to the space 0x18 command interface requests a vault operation. -/
  | vaultCommand (die : Die) (origin : Origin) (offset : BitVec 40) (slot : Fin 64) (engine : Fin 6)
  /-- ENGINE_REQUEST (R547). An engine requests a key slot, which is delivered or refused with ENGREF. -/
  | engineRequest (die : Die) (slot : Fin 64) (engine : Fin 6) (goesOn : Bool)
  /-- ENTROPY_HEALTH_FAIL (R540). An entropy health test fails, setting ENT and raising VLT_ENT. -/
  | entropyHealthFail
  /-- VLT_REVOKE (R552). An amend of VLT_REVOKE revokes a slot and its descendants on every die. -/
  | vltRevoke (slot : Fin 64)
  /-- KEY_SLOT_CHECK (R592). Every 4 µs the vault checks one slot's parity, revoking it on failure. -/
  | keySlotCheck (die : Die) (slot : Fin 64) (bad : Bool) (amended : Bool)
  /-- ATTESTATION_REQUEST (R555). A write of GO requests an attestation statement, or is refused. -/
  | attestationRequest (die : Die) (origin : Origin)
  /-- STATEMENT_SIGNED (R557). The statement's signature is written and ASTAT reports done. -/
  | statementSigned
  /-- TAMPER_SAMPLE (R560). Tamper sources are sampled and two consecutive failing samples raise an alarm. -/
  | tamperSample (holds : List Bool)
  /-- TAMPER_LOG_CLEAR (R562). An amend of VLT_TCLR clears the tamper log and stages OP 0x05. -/
  | tamperLogClear
  /-- HEARTBEAT (R566). The firmware writes MGT_HBEAT, restarting the watchdog. -/
  | heartbeat (die : Die) (origin : Origin) (value : Word)
  /-- WATCHDOG_EXPIRY (R566). 1 ms without a heartbeat stops the pair and raises MGT_WDOG. -/
  | watchdogExpiry (die : Die) (beat : Option Word)
  /-- LOCKSTEP_MISMATCH (R565). A compare mismatch or double-bit error stops both cores and raises MGT_LOCK. -/
  | lockstepMismatch (die : Die)
  /-- PAIR_RESTART (R568). The owner reloads and restarts a failed non-owner pair within 20 ms. -/
  | pairRestart (die : Die)
  /-- MIRROR_REBUILD (R569). A restarted D1 takes a full copy of node-level state and MIRROR returns to 1. -/
  | mirrorRebuild
  /-- UPDATE_START (R573). MGT_UCMD START opens an update, or is refused with BUSY. -/
  | updateStart
  /-- UPDATE_COMMIT (R574). MGT_UCMD COMMIT closes reception and checks the staged image. -/
  | updateCommit
  /-- UPDATE_ABORT (R583). MGT_UCMD ABORT ends the update with code ABORT. -/
  | updateAbort
  /-- MGT_UDATA (R573). A write of MGT_UDATA appends 4 bytes to the staging copy or ends with STAGEFULL. -/
  | mgtUdata (die : Die) (origin : Origin) (value : Word)
  /-- NOR_WRITE_COMPLETE (R575). The image write to the NOR completes and its readback is compared. -/
  | norWriteComplete (equal : Bool)
  /-- HOLDUP_WAIT_TIMEOUT (R575). A hold-up wait longer than 10 s ends the update with HOLDUP. -/
  | holdupWaitTimeout
  /-- HANDOVER (R576). One die is handed over to the new firmware through a sealed handover block. -/
  | handover (accepts : Bool) (blackout : BitVec 16)
  /-- HANDOVER_TIMEOUT (R577). No heartbeat within 25 ms of handover fails the pair and sets HOFAIL. -/
  | handoverTimeout
  /-- RING_BOOT_WRITE_BACK (R581). After a fallback ring boot with RBWB the loader writes the image back to the NOR. -/
  | ringBootWriteBack (bytes : List Byte)
  /-- FAULT_REPORT (R598). A block's fault report reaches its fault manager, is forwarded to the owner and its reaction is applied. -/
  | faultReport
  /-- FLT_SCLR (R596). An amend of FLT_SCLR ends a fault-response Safe cause unless it still holds. -/
  | fltSclr (code : BitVec 8) (holds : Bool)
  /-- RESTORE (R597). Management firmware restores a faulted unit from the values in force and stages a kind 0x0B entry. -/
  | restore
  /-- RC_READ (R12). A read of an RC field returns and clears it in the same access. -/
  | rcRead (die : Die) (origin : Origin) (offset : BitVec 21)
  /-- REGISTER_WRITE (R623). A plain store to a register without its own row acts field by field, denying changes to IMG and AMD fields. -/
  | registerWrite (die : Die) (origin : Origin) (offset : BitVec 21) (value : Word) (posted : Bool)
  /-- POUR_GROUP_EMIT (R288). At a Pump cycle boundary the busy pour stage emits its next group onto the OUT pins, or its last group, after which the pins hold and PIDLE is set. -/
  | pourGroupEmit (die : Die) (pump : Fin 64) (bad : Bool)
  /-- DIE_LINK_TRAINED (R588). A die link that was down trains again, carries traffic and ends the masked DIE_LINK fault. -/
  | dieLinkTrained (die : Die) (dp : Fin 2)
  /-- CURRENT_LIMIT_ACTIVE (R461). The hot-swap current limit engages because the shunt voltage reaches VLIM, starting the fault timer and restarting any power-good qualification. -/
  | currentLimitActive
  /-- STORE_FET_CONDUCT (R476). The store FET conducts within 2 µs after the card bus falls 25 mV below the hold-up bank. -/
  | storeFetConduct
  /-- STORE_FET_OFF (R476). The store FET turns off when the card bus exceeds the bank by 10 mV. -/
  | storeFetOff
  /-- BUS_GRANT (R437). BP_BGIN_N grants the backplane to the requesting bridge, which then drives its master cycle or serves a held lock read. -/
  | busGrant (die : Die)
  /-- PROCESS_IMAGE_SCRUB (R589). The Process Image RAM scrubber checks and corrects one 64-bit word, raising MEM_UE on a double-bit error. -/
  | processImageScrub (die : Die) (double : Option Bool)
  /-- ENTROPY_HEALTH_PASS (R540). A later entropy test window passes and the vault again permits operations that need fresh entropy. -/
  | entropyHealthPass
  /-- SUPPLY_CONDITION_CHANGE (R585). An on-die supply monitor finds a supply leaving or re-entering its recommended range, changing FLT_COND.SUPPLY and GUAR. -/
  | supplyConditionChange (die : Die) (ok : Bool)
  /-- TEMPERATURE_CONDITION_CHANGE (R606). A die sensor reading crosses the junction limit of the grade, changing FLT_COND.TEMP and GUAR. -/
  | temperatureConditionChange (die : Die) (ok : Bool)
deriving DecidableEq, Repr

end Sys2Proof
end

