-- ==== Sys2Proof/Decode.lean ====
section
/-!
DEFINITION. The command that a word spells. No row of spec/opcode_table.json gives bits: the commands of the hub are events and
requests, not words, so no word spells one.
-/

namespace Sys2Proof

/-- The command that the word `w` of `nbits` bits spells by the table: none. -/
def decodeTableWord (nbits w : Nat) : Option Instr := if nbits = 0 ∧ w = 0 then none else none

end Sys2Proof
end

