-- ==== Sys2Proof/Config.lean ====
section
/-!
DEFINITION. What the manual leaves to the silicon or names by a published algorithm without giving its tables: the
cryptographic functions (LOG 6), the event codes of the recorder, which no chapter states (LOG 12), the CRC of a unit's
serialised state (LOG 7) and the values that the manual leaves open (LOG 3). Each is an opaque constant: nothing in Lean
can prove a value of it, so a statement about it holds for every value.
-/

namespace Sys2Proof.Config

/-- A value the manual leaves open; the step reads the counter `freeCtr` of the state and advances it (LOG 3). -/
opaque freeValue : Nat → Dword

/-- Whether a quotient the manual leaves unrounded (R473) is taken up: numerator and denominator (LOG 3). -/
opaque roundsUp : Int → Nat → Bool

/-- SHA-384 of a byte string (R18, FIPS 180-4; LOG 6). -/
opaque sha384 : List Byte → BitVec 384

/-- HMAC-SHA-384 of a message under a key (FIPS 198-1; LOG 6). -/
opaque hmac384 : Nat → List Byte → BitVec 384

/-- ECDSA P-384 verification: signer's public key, message, signature (FIPS 186-5; LOG 6). -/
opaque ecdsaVerify : List Byte → List Byte → List Byte → Bool

/-- ECDSA P-384 signature of a message under a private key with fresh entropy (R556; LOG 6). -/
opaque ecdsaSign : Nat → List Byte → Nat → List Byte

/-- The counter-mode KDF of R544: parent key, label, context, length in bits (LOG 6). -/
opaque kdf : Nat → List Byte → List Byte → Nat → Nat

/-- AES-256-GCM open: key, nonce, additional data, ciphertext, tag; none where the tag fails (LOG 6). -/
opaque gcmOpen : Nat → List Byte → List Byte → List Byte → List Byte → Option Nat

/-- AES-256-GCM seal: key, nonce, additional data, plaintext; ciphertext with its tag (LOG 6). -/
opaque gcmSeal : Nat → List Byte → List Byte → Nat → List Byte

/-- AES-256-GCM tag over additional data with empty plaintext (R172): key, nonce, additional data (LOG 6). -/
opaque gcmTag : Nat → List Byte → List Byte → List Byte

/-- The x-coordinate of the ECC CDH of R545: private key and ephemeral public key (LOG 6). -/
opaque ecdhX : Nat → List Byte → Nat

/-- The key that a die reconstructs from its physically unclonable function (R539; LOG 6). -/
opaque pufKey : Nat → Nat

/-- The device identity that the first start fuses: the device ID of R541 for a root secret. -/
opaque devId : Nat → List Byte

/-- The device and intermediate certificates of R541, in DER. -/
opaque deviceCert : Nat → List Byte

/-- The intermediate certificate of R541, held in ROM. -/
opaque intCert : List Byte

/-- The private keys DIK and DIMP that D0 derives from a root secret (R539), by a derivation the manual does not give. -/
opaque dik : Nat → Nat
opaque dimp : Nat → Nat

/-- The owner key hash as it reads while blank, in the derivations of R544 before the fuse of R98. -/
opaque blankOwnerHash : List Byte

/-- The identity area state of R556, whose encoding the manual does not give. -/
opaque identityCode : Bool → Byte

/-- The SHA-384 measurements 1 and 2 of R556 (ROM and resident loader). -/
opaque romMeasure : Nat → BitVec 384

/-- The peer protocol version that a firmware section carries, at a place the manual does not give (R571; LOG 61). -/
opaque firmwarePpv : List Byte → Byte

/-- The event code EVT of an event within its channel; the chapters that R500 points to state none (LOG 12). -/
opaque evtCode : Nat → Byte

/-- The bytes of a boot request, whose layout R93 does not give: variant, die count, SLOT, generation floor, entry die and
port (LOG 60). -/
opaque bootRequest : List Nat → List Byte

/-- The CRC-32C of a digest component (R524) over the serialised state of its units, whose layout the manual does not
give: component number and the listed values in the order of the table (LOG 7). -/
opaque digestCrc : Nat → List Nat → Word

/-- A word of a checkpoint unit whose layout R522 does not give: memory code, unit and the listed values (LOG 62). -/
opaque ckptWord : Nat → Nat → List Nat → Dword

/-- What a replay load reads back from such a word: memory code, number of the value, the word (LOG 62). -/
opaque ckptField : Nat → Nat → Dword → Nat

/-- The level of BP_ADIR and BP_DDIR that turns a transceiver towards the backplane, which the manual does not give (LOG 38). -/
opaque towardsBackplane : Bool

/-- The place of the MSI-X capability in the configuration space, which the manual does not give (LOG 64). -/
opaque msixCap : Nat

/-- A word of the configuration space that the manual does not state: its offset and what was last written there (LOG 64). -/
opaque pcieWord : Nat → Word → Word

end Sys2Proof.Config
end

