-- ==== Sys2Proof/Machine/Map.lean ====
section
/-!
DEFINITION. The sparse map that holds every table and memory of the hub: a list of key and value pairs in one canonical
form, keys strictly rising and no entry equal to what an unlisted key reads as. `SMap.put` keeps that form, so equal
tables are equal data. With it the bit-field, byte-order and CRC helpers that all blocks use.
-/

namespace Sys2Proof.Machine

/-- A sparse table: the pairs of key and value, keys strictly rising. -/
structure SMap (β : Type) where
  entries : List (Nat × β)
deriving DecidableEq, Repr

/-- The table with nothing listed. -/
def SMap.empty {β : Type} : SMap β := ⟨[]⟩

/-- The value listed under a key. -/
def lookupKey {β : Type} (k : Nat) : List (Nat × β) → Option β
  | [] => none
  | (a, b) :: rest => if a = k then some b else lookupKey k rest

/-- Insert before the first larger key. -/
def insertKey {β : Type} (k : Nat) (v : β) : List (Nat × β) → List (Nat × β)
  | [] => [(k, v)]
  | (a, b) :: rest => if k < a then (k, v) :: (a, b) :: rest else (a, b) :: insertKey k v rest

/-- Remove every entry of a key. -/
def removeKey {β : Type} (k : Nat) : List (Nat × β) → List (Nat × β)
  | [] => []
  | (a, b) :: rest => if a = k then removeKey k rest else (a, b) :: removeKey k rest

/-- What a key reads as: its entry, else the default. -/
def SMap.get {β : Type} (dflt : β) (m : SMap β) (k : Nat) : β := (lookupKey k m.entries).getD dflt

/-- Write one key; writing the default removes the entry. -/
def SMap.put {β : Type} [DecidableEq β] (dflt : β) (m : SMap β) (k : Nat) (v : β) : SMap β :=
  if v = dflt then ⟨removeKey k m.entries⟩ else ⟨insertKey k v (removeKey k m.entries)⟩

/-- Change the value of one key. -/
def SMap.upd {β : Type} [DecidableEq β] (dflt : β) (m : SMap β) (k : Nat) (f : β → β) : SMap β :=
  m.put dflt k (f (m.get dflt k))

/-- Keys strictly rising from a lower bound, and no entry equal to the default. -/
def entriesWf {β : Type} [DecidableEq β] (dflt : β) : Nat → List (Nat × β) → Bool
  | _, [] => true
  | lo, (a, b) :: rest => decide (lo ≤ a) && decide (b ≠ dflt) && entriesWf dflt (a + 1) rest

/-- The canonical form. -/
def SMap.wf {β : Type} [DecidableEq β] (dflt : β) (m : SMap β) : Bool := entriesWf dflt 0 m.entries

/-- The low `w` bits of a number. -/
def low (w n : Nat) : Nat := n % 2 ^ w

/-- Bits [lo + w - 1 : lo] of a number. -/
def bits (n lo w : Nat) : Nat := (n / 2 ^ lo) % 2 ^ w

/-- One bit of a number. -/
def bit (n i : Nat) : Bool := n / 2 ^ i % 2 == 1

/-- A Bool as 0 or 1. -/
def b2n (b : Bool) : Nat := if b then 1 else 0

/-- Replace bits [lo + w - 1 : lo] of a register by the low w bits of a number. -/
def setBits (r : Word) (lo w v : Nat) : Word :=
  BitVec.ofNat 32 (r.toNat - bits r.toNat lo w * 2 ^ lo + low w v * 2 ^ lo)

/-- A count that stops at the largest value of its width. -/
def satAdd (w n k : Nat) : Nat := min (n + k) (2 ^ w - 1)

/-- A signed field of width w as an integer. -/
def signed (w n : Nat) : Int := if n < 2 ^ (w - 1) then (n : Int) else (n : Int) - (2 ^ w : Nat)

/-- An integer in two's complement of width w. -/
def toTwos (w : Nat) (i : Int) : Nat := (i % (2 ^ w : Nat)).toNat

/-- Clamp an integer between two bounds. -/
def clampInt (lo hi i : Int) : Int := max lo (min hi i)

/-- A little-endian number from bytes (R7). -/
def leNat : List Byte → Nat
  | [] => 0
  | b :: rest => b.toNat + 256 * leNat rest

/-- The `n` little-endian bytes of a number (R7). -/
def leBytes : Nat → Nat → List Byte
  | 0, _ => []
  | n + 1, v => BitVec.ofNat 8 v :: leBytes n (v / 256)

/-- `n` bytes of a list from offset `o`, zero beyond its end. -/
def slice (l : List Byte) (o n : Nat) : List Byte := (List.range n).map fun k => l.getD (o + k) 0

/-- A little-endian number of `n` bytes at offset `o`. -/
def leAt (l : List Byte) (o n : Nat) : Nat := leNat (slice l o n)

/-- Overwrite the bytes of a list from offset `o`. -/
def spliceAt (l : List Byte) (o : Nat) (v : List Byte) : List Byte :=
  (List.range l.length).map fun k => if o ≤ k ∧ k < o + v.length then v.getD (k - o) 0 else l.getD k 0

/-- One bit into the reflected CRC-32C register (polynomial 0x1EDC_6F41 of R18, reflected 0x82F6_3B78). -/
def crcStep (c : BitVec 32) : BitVec 32 :=
  if c.getLsbD 0 then (c >>> 1) ^^^ 0x82F63B78#32 else c >>> 1

/-- One byte into the CRC-32C register. -/
def crcByte (c : BitVec 32) (b : Byte) : BitVec 32 :=
  let c0 := c ^^^ b.zeroExtend 32
  crcStep (crcStep (crcStep (crcStep (crcStep (crcStep (crcStep (crcStep c0)))))))

/-- CRC-32C (Castagnoli) of a byte string: initial value and final exclusive-or all ones. -/
def crc32c (l : List Byte) : BitVec 32 := (l.foldl crcByte 0xFFFFFFFF#32) ^^^ 0xFFFFFFFF#32

/-- The first index of a list at which a test holds. -/
def firstIdx {α : Type} (p : α → Bool) : List α → Option Nat
  | [] => none
  | a :: rest => if p a then some 0 else (firstIdx p rest).map (· + 1)

/-- Replace the element at an index. -/
def setNth {α : Type} (l : List α) (i : Nat) (a : α) : List α := l.set i a

/-- Apply a function for each index below `n`, in ascending order. -/
def iter {α : Type} (n : Nat) (f : Nat → α → α) (a : α) : α := (List.range n).foldl (fun a i => f i a) a

/-- Apply a function for each element of a list, in order. -/
def each {α β : Type} (l : List β) (f : β → α → α) (a : α) : α := l.foldl (fun a b => f b a) a

/-- Apply a function where a condition holds. -/
def whenDo {α : Type} (c : Bool) (f : α → α) (a : α) : α := if c then f a else a

end Sys2Proof.Machine
end

