-- ==== Sys2Proof/Machine/Regs.lean ====
section
/-!
DEFINITION. The register tables of the manual as data: one `Fld` per field (its register's offset in space 0x00, the
strides of its instances, its lowest bit and its width) and one `RegDesc` per register with the access, amend class and
reset of every field (R12, R14, R15). A field's name is its register's name and its own, as the manual writes them.
-/

namespace Sys2Proof.Machine

/-- A field of a register: offset of instance 0 in space 0x00 (R33), strides of the instances, lowest bit, width, and
whether reads on any die return the node's one value. -/
structure Fld where
  addr : Nat
  s1 : Nat
  s2 : Nat
  lo : Nat
  w : Nat
  node : Bool
deriving DecidableEq, Repr

/-- The access codes of R12. -/
inductive Access where
  | ro | rw | w1c | rc
deriving DecidableEq, Repr

/-- The amend classes of R14; `none` is the dash of the tables. -/
inductive AmendClass where
  | none | img | amd | opr
deriving DecidableEq, Repr

/-- A field as its table lists it. -/
structure FieldDesc where
  lo : Nat
  w : Nat
  acc : Access
  cls : AmendClass
  reset : Nat
deriving DecidableEq, Repr

/-- A register with its instances: `n1` of stride `s1`, within each `n2` of stride `s2`. -/
structure RegDesc where
  addr : Nat
  n1 : Nat
  s1 : Nat
  n2 : Nat
  s2 : Nat
  node : Bool
  fields : List FieldDesc
deriving DecidableEq, Repr

namespace R

/-! NOD_IDENT: identity of this die (01_node_architecture.md). -/
def NOD_IDENT_REV : Fld := ⟨0x0, 0, 0, 0, 8, false⟩
def NOD_IDENT_DIES : Fld := ⟨0x0, 0, 0, 8, 4, false⟩
def NOD_IDENT_FWGEN : Fld := ⟨0x0, 0, 0, 12, 4, false⟩
def NOD_IDENT_DIE : Fld := ⟨0x0, 0, 0, 16, 3, false⟩

/-! NOD_NODEID: node ID and slot (01_node_architecture.md). -/
def NOD_NODEID_NODEID : Fld := ⟨0x4, 0, 0, 0, 16, false⟩
def NOD_NODEID_SLOT : Fld := ⟨0x4, 0, 0, 16, 6, false⟩

/-! NOD_STATE: node state (01_node_architecture.md). -/
def NOD_STATE_STATE : Fld := ⟨0x8, 0, 0, 0, 4, false⟩
def NOD_STATE_DEGR : Fld := ⟨0x8, 0, 0, 4, 1, false⟩
def NOD_STATE_OWNER : Fld := ⟨0x8, 0, 0, 5, 1, false⟩
def NOD_STATE_TAKEOVER : Fld := ⟨0x8, 0, 0, 6, 1, false⟩
def NOD_STATE_HOLD : Fld := ⟨0x8, 0, 0, 8, 8, false⟩
def NOD_STATE_SCAUSE : Fld := ⟨0x8, 0, 0, 16, 4, false⟩

/-! NOD_CMD: node state command (01_node_architecture.md). -/
def NOD_CMD_CMD : Fld := ⟨0xC, 0, 0, 0, 4, true⟩

/-! NOD_STRAP: sampled straps (03_dawn_and_the_image.md). -/
def NOD_STRAP_BOOT : Fld := ⟨0x10, 0, 0, 0, 2, true⟩
def NOD_STRAP_PREIMG : Fld := ⟨0x10, 0, 0, 2, 1, true⟩
def NOD_STRAP_CMCAND : Fld := ⟨0x10, 0, 0, 3, 1, true⟩
def NOD_STRAP_TMCAND : Fld := ⟨0x10, 0, 0, 4, 1, true⟩
def NOD_STRAP_HOSTEN : Fld := ⟨0x10, 0, 0, 5, 1, true⟩
def NOD_STRAP_BPEN : Fld := ⟨0x10, 0, 0, 6, 1, true⟩
def NOD_STRAP_DEBUG : Fld := ⟨0x10, 0, 0, 7, 1, true⟩
def NOD_STRAP_DEBUGEFF : Fld := ⟨0x10, 0, 0, 8, 1, true⟩

/-! NOD_DAWN: progress of the last Dawn (03_dawn_and_the_image.md). -/
def NOD_DAWN_STEP : Fld := ⟨0x14, 0, 0, 0, 4, true⟩
def NOD_DAWN_SRC : Fld := ⟨0x14, 0, 0, 4, 2, true⟩
def NOD_DAWN_DTR : Fld := ⟨0x14, 0, 0, 6, 1, true⟩
def NOD_DAWN_FALLBACK : Fld := ⟨0x14, 0, 0, 7, 1, true⟩
def NOD_DAWN_ELAPSED : Fld := ⟨0x14, 0, 0, 16, 16, true⟩

/-! NOD_DAWNERR: Dawn exit cause (03_dawn_and_the_image.md). -/
def NOD_DAWNERR_CODE : Fld := ⟨0x18, 0, 0, 0, 8, true⟩
def NOD_DAWNERR_SEQ : Fld := ⟨0x18, 0, 0, 8, 16, true⟩

/-! NOD_IMGGEN: image versions (03_dawn_and_the_image.md). -/
def NOD_IMGGEN_GEN : Fld := ⟨0x1C, 0, 0, 0, 8, true⟩
def NOD_IMGGEN_FLOOR : Fld := ⟨0x1C, 0, 0, 8, 8, true⟩
def NOD_IMGGEN_FWVER : Fld := ⟨0x1C, 0, 0, 16, 16, true⟩

/-! NOD_BIST: self-test result (03_dawn_and_the_image.md). -/
def NOD_BIST_FAIL : Fld := ⟨0x20, 0, 0, 0, 8, false⟩
def NOD_BIST_DONE : Fld := ⟨0x20, 0, 0, 8, 1, false⟩

/-! NOD_AMDCNT: amend counts (03_dawn_and_the_image.md). -/
def NOD_AMDCNT_ACCEPT : Fld := ⟨0x24, 0, 0, 0, 16, true⟩
def NOD_AMDCNT_REFUSE : Fld := ⟨0x24, 0, 0, 16, 16, true⟩

/-! NOD_AMDRESA: amend result, first word (03_dawn_and_the_image.md). -/
def NOD_AMDRESA_TAG : Fld := ⟨0x100, 8, 0, 0, 16, true⟩
def NOD_AMDRESA_ORIGIN : Fld := ⟨0x100, 8, 0, 16, 3, true⟩
def NOD_AMDRESA_CODE : Fld := ⟨0x100, 8, 0, 24, 8, true⟩

/-! NOD_AMDRESB: amend result, second word (03_dawn_and_the_image.md). -/
def NOD_AMDRESB_LSEQ : Fld := ⟨0x104, 8, 0, 0, 32, true⟩

/-! RNG_CFG: ring attachment (04_ring_links_and_cycle_train.md). -/
def RNG_CFG_RINGNO : Fld := ⟨0x10000, 0, 0, 0, 8, false⟩
def RNG_CFG_RATE : Fld := ⟨0x10000, 0, 0, 8, 1, false⟩
def RNG_CFG_CMROLE : Fld := ⟨0x10000, 0, 0, 9, 2, false⟩
def RNG_CFG_AUTHEN : Fld := ⟨0x10000, 0, 0, 11, 1, false⟩
def RNG_CFG_LINKKEY : Fld := ⟨0x10000, 0, 0, 16, 6, false⟩

/-! RNG_PERIOD: fixed cycle period (04_ring_links_and_cycle_train.md). -/
def RNG_PERIOD_PERIOD : Fld := ⟨0x10004, 0, 0, 0, 26, false⟩

/-! RNG_PLOCK: phase-locked cycle (04_ring_links_and_cycle_train.md). -/
def RNG_PLOCK_PLEN : Fld := ⟨0x10008, 0, 0, 0, 1, false⟩
def RNG_PLOCK_TRACKER : Fld := ⟨0x10008, 0, 0, 1, 3, false⟩
def RNG_PLOCK_K : Fld := ⟨0x10008, 0, 0, 16, 16, false⟩

/-! RNG_PBOUND: phase-locked bounds (04_ring_links_and_cycle_train.md). -/
def RNG_PBOUND_PMIN : Fld := ⟨0x1000C, 0, 0, 0, 16, false⟩
def RNG_PBOUND_PMAX : Fld := ⟨0x1000C, 0, 0, 16, 16, false⟩

/-! RNG_TRAIN: train size and tolerance (04_ring_links_and_cycle_train.md). -/
def RNG_TRAIN_SEGCNT : Fld := ⟨0x10010, 0, 0, 0, 12, false⟩
def RNG_TRAIN_TRAINTOL : Fld := ⟨0x10010, 0, 0, 16, 16, false⟩

/-! RNG_LES: error score limits (04_ring_links_and_cycle_train.md). -/
def RNG_LES_PASSTH : Fld := ⟨0x10014, 0, 0, 0, 10, false⟩
def RNG_LES_OFFTH : Fld := ⟨0x10014, 0, 0, 10, 10, false⟩
def RNG_LES_REARM : Fld := ⟨0x10014, 0, 0, 20, 4, false⟩
def RNG_LES_RETRYMAX : Fld := ⟨0x10014, 0, 0, 24, 4, false⟩

/-! RNG_LINKTM: link timers (04_ring_links_and_cycle_train.md). -/
def RNG_LINKTM_OFFHOLD : Fld := ⟨0x10018, 0, 0, 0, 16, false⟩
def RNG_LINKTM_RTTO : Fld := ⟨0x10018, 0, 0, 16, 16, false⟩

/-! RNG_CYC: last train (04_ring_links_and_cycle_train.md). -/
def RNG_CYC_CYCLE : Fld := ⟨0x1001C, 0, 0, 0, 32, false⟩

/-! RNG_MISS: missing trains (04_ring_links_and_cycle_train.md). -/
def RNG_MISS_CONSEC : Fld := ⟨0x10020, 0, 0, 0, 8, false⟩
def RNG_MISS_TOTAL : Fld := ⟨0x10020, 0, 0, 16, 16, false⟩

/-! RNG_EXSTAT: express status (04_ring_links_and_cycle_train.md). -/
def RNG_EXSTAT_PLSLIP : Fld := ⟨0x10024, 0, 0, 0, 1, false⟩
def RNG_EXSTAT_PLHOLD : Fld := ⟨0x10024, 0, 0, 1, 1, false⟩
def RNG_EXSTAT_RINGMIS : Fld := ⟨0x10024, 0, 0, 2, 1, false⟩
def RNG_EXSTAT_HOPERR : Fld := ⟨0x10024, 0, 0, 3, 1, false⟩
def RNG_EXSTAT_BKTOOR : Fld := ⟨0x10024, 0, 0, 4, 1, false⟩
def RNG_EXSTAT_TRUNC : Fld := ⟨0x10024, 0, 0, 5, 1, false⟩

/-! RNG_EXCNT: express counters (04_ring_links_and_cycle_train.md). -/
def RNG_EXCNT_MARGIN : Fld := ⟨0x10028, 0, 0, 0, 16, false⟩
def RNG_EXCNT_BKTLOST : Fld := ⟨0x10028, 0, 0, 16, 16, false⟩

/-! RNG_PSTAT: port state (04_ring_links_and_cycle_train.md). -/
def RNG_PSTAT_STATE : Fld := ⟨0x10100, 64, 0, 0, 3, false⟩
def RNG_PSTAT_LES : Fld := ⟨0x10100, 64, 0, 4, 10, false⟩
def RNG_PSTAT_LOCK : Fld := ⟨0x10100, 64, 0, 16, 4, false⟩
def RNG_PSTAT_OFFCNT : Fld := ⟨0x10100, 64, 0, 20, 4, false⟩
def RNG_PSTAT_AUTHOK : Fld := ⟨0x10100, 64, 0, 24, 1, false⟩

/-! RNG_PPEER: peer identity (04_ring_links_and_cycle_train.md). -/
def RNG_PPEER_NODE : Fld := ⟨0x10104, 64, 0, 0, 16, false⟩
def RNG_PPEER_PORT : Fld := ⟨0x10104, 64, 0, 16, 2, false⟩
def RNG_PPEER_RING : Fld := ⟨0x10104, 64, 0, 18, 8, false⟩

/-! RNG_PCMD: port command (04_ring_links_and_cycle_train.md). -/
def RNG_PCMD_CMD : Fld := ⟨0x10108, 64, 0, 0, 2, false⟩

/-! RNG_PERRA: link errors (04_ring_links_and_cycle_train.md). -/
def RNG_PERRA_BLKERR : Fld := ⟨0x1010C, 64, 0, 0, 16, false⟩
def RNG_PERRA_FRMERR : Fld := ⟨0x1010C, 64, 0, 16, 16, false⟩

/-! RNG_PERRB: segment errors (04_ring_links_and_cycle_train.md). -/
def RNG_PERRB_SEGERR : Fld := ⟨0x10110, 64, 0, 0, 16, false⟩
def RNG_PERRB_POISONRX : Fld := ⟨0x10110, 64, 0, 16, 16, false⟩

/-! RNG_PERRC: replay and tags (04_ring_links_and_cycle_train.md). -/
def RNG_PERRC_REPLAY : Fld := ⟨0x10114, 64, 0, 0, 16, false⟩
def RNG_PERRC_TAGFAIL : Fld := ⟨0x10114, 64, 0, 16, 16, false⟩

/-! RNG_PERRD: discards and losses (04_ring_links_and_cycle_train.md). -/
def RNG_PERRD_STOMPRX : Fld := ⟨0x10118, 64, 0, 0, 16, false⟩
def RNG_PERRD_LINKLOSS : Fld := ⟨0x10118, 64, 0, 16, 8, false⟩
def RNG_PERRD_HOPDROP : Fld := ⟨0x10118, 64, 0, 24, 8, false⟩

/-! RNG_PCRED: class credit (04_ring_links_and_cycle_train.md). -/
def RNG_PCRED_AVAIL : Fld := ⟨0x10120, 64, 4, 0, 16, false⟩
def RNG_PCRED_INIT : Fld := ⟨0x10120, 64, 4, 16, 16, false⟩

/-! RNG_ATTACH: ring attachment mode (05_rings_redundancy_and_junctions.md). -/
def RNG_ATTACH_MODE : Fld := ⟨0x10200, 0, 0, 0, 2, false⟩

/-! RNG_CMSTAT: cycle-master status (05_rings_redundancy_and_junctions.md). -/
def RNG_CMSTAT_MASTER : Fld := ⟨0x10204, 0, 0, 0, 16, false⟩
def RNG_CMSTAT_ORIG : Fld := ⟨0x10204, 0, 0, 16, 1, false⟩
def RNG_CMSTAT_YIELD : Fld := ⟨0x10204, 0, 0, 17, 1, false⟩
def RNG_CMSTAT_TOOK : Fld := ⟨0x10204, 0, 0, 18, 1, false⟩

/-! RNG_RTRIP: ring round trip (05_rings_redundancy_and_junctions.md). -/
def RNG_RTRIP_RTRIP : Fld := ⟨0x10208, 0, 0, 0, 24, false⟩
def RNG_RTRIP_RTOVR : Fld := ⟨0x10208, 0, 0, 24, 1, false⟩

/-! RNG_WRAP: wrap state (05_rings_redundancy_and_junctions.md). -/
def RNG_WRAP_WRAPX : Fld := ⟨0x1020C, 0, 0, 0, 2, false⟩
def RNG_WRAP_WRAPB : Fld := ⟨0x1020C, 0, 0, 2, 2, false⟩
def RNG_WRAP_WRAPCNT : Fld := ⟨0x1020C, 0, 0, 24, 8, false⟩

/-! RNG_RINGINFO: ring membership (05_rings_redundancy_and_junctions.md). -/
def RNG_RINGINFO_NODES : Fld := ⟨0x10210, 0, 0, 0, 8, false⟩
def RNG_RINGINFO_POS : Fld := ⟨0x10210, 0, 0, 8, 8, false⟩
def RNG_RINGINFO_CLOSED : Fld := ⟨0x10210, 0, 0, 16, 1, false⟩
def RNG_RINGINFO_DUPID : Fld := ⟨0x10210, 0, 0, 17, 1, false⟩
def RNG_RINGINFO_FULL : Fld := ⟨0x10210, 0, 0, 18, 1, false⟩
def RNG_RINGINFO_NOROUTE : Fld := ⟨0x10210, 0, 0, 24, 8, false⟩

/-! RNG_MAP: ring map entry (05_rings_redundancy_and_junctions.md). -/
def RNG_MAP_NODE : Fld := ⟨0x10400, 4, 0, 0, 16, false⟩
def RNG_MAP_PRESENT : Fld := ⟨0x10400, 4, 0, 16, 1, false⟩
def RNG_MAP_ALOST : Fld := ⟨0x10400, 4, 0, 17, 1, false⟩
def RNG_MAP_BLOST : Fld := ⟨0x10400, 4, 0, 18, 1, false⟩
def RNG_MAP_DIE : Fld := ⟨0x10400, 4, 0, 19, 3, false⟩

/-! RNG_ROUTEA: route range (05_rings_redundancy_and_junctions.md). -/
def RNG_ROUTEA_NODELO : Fld := ⟨0x10800, 8, 0, 0, 16, false⟩
def RNG_ROUTEA_NODEHI : Fld := ⟨0x10800, 8, 0, 16, 16, false⟩

/-! RNG_ROUTEB: route egress (05_rings_redundancy_and_junctions.md). -/
def RNG_ROUTEB_VIA : Fld := ⟨0x10804, 8, 0, 0, 16, false⟩
def RNG_ROUTEB_DIE : Fld := ⟨0x10804, 8, 0, 16, 3, false⟩
def RNG_ROUTEB_VALID : Fld := ⟨0x10804, 8, 0, 19, 1, false⟩

/-! SWC_CFG: eviction enables (06_switch_core.md). -/
def SWC_CFG_EVICT : Fld := ⟨0x20000, 0, 0, 1, 3, false⟩

/-! SWC_GAP: guaranteed output slots (06_switch_core.md). -/
def SWC_GAP_GAP1 : Fld := ⟨0x20004, 0, 0, 0, 8, false⟩
def SWC_GAP_GAP2 : Fld := ⟨0x20004, 0, 0, 8, 8, false⟩
def SWC_GAP_GAP3 : Fld := ⟨0x20004, 0, 0, 16, 8, false⟩

/-! SWC_MCRES: multicast copy reservation (06_switch_core.md). -/
def SWC_MCRES_MCRES : Fld := ⟨0x20008, 0, 0, 0, 18, false⟩

/-! SWC_MCUSE: multicast use (06_switch_core.md). -/
def SWC_MCUSE_MCUSE : Fld := ⟨0x2000C, 0, 0, 0, 18, false⟩
def SWC_MCUSE_PENDING : Fld := ⟨0x2000C, 0, 0, 18, 10, false⟩

/-! SWC_MARGIN: coincidence and error packet counts (06_switch_core.md). -/
def SWC_MARGIN_MARGIN : Fld := ⟨0x20010, 0, 0, 0, 16, false⟩
def SWC_MARGIN_ERRDROP : Fld := ⟨0x20010, 0, 0, 16, 16, false⟩

/-! SWC_MRA: Multicast Residue record, first word (06_switch_core.md). -/
def SWC_MRA_BITMAP : Fld := ⟨0x20020, 0, 0, 0, 10, false⟩
def SWC_MRA_CLASS : Fld := ⟨0x20020, 0, 0, 10, 2, false⟩
def SWC_MRA_GROUP : Fld := ⟨0x20020, 0, 0, 12, 13, false⟩

/-! SWC_MRB: Multicast Residue record, second word (06_switch_core.md). -/
def SWC_MRB_SNODE : Fld := ⟨0x20024, 0, 0, 0, 16, false⟩
def SWC_MRB_SDIE : Fld := ⟨0x20024, 0, 0, 16, 3, false⟩

/-! SWC_MRCNT: multicast losses (06_switch_core.md). -/
def SWC_MRCNT_MRCNT : Fld := ⟨0x20028, 0, 0, 0, 16, false⟩
def SWC_MRCNT_NOGROUP : Fld := ⟨0x20028, 0, 0, 16, 16, false⟩

/-! SWC_SHARE: output share (06_switch_core.md). -/
def SWC_SHARE_SHARE : Fld := ⟨0x20100, 4, 0, 0, 18, false⟩

/-! SWC_INRES: input reservation (06_switch_core.md). -/
def SWC_INRES_RES : Fld := ⟨0x20200, 16, 4, 0, 16, false⟩
def SWC_INRES_USE : Fld := ⟨0x20200, 16, 4, 16, 16, false⟩

/-! SWC_OOCC: output queue occupancy (06_switch_core.md). -/
def SWC_OOCC_OCC : Fld := ⟨0x20300, 16, 4, 0, 18, false⟩

/-! SWC_OCNTA: cells sent (06_switch_core.md). -/
def SWC_OCNTA_TXCELLS : Fld := ⟨0x20400, 16, 0, 0, 32, false⟩

/-! SWC_OCNTB: cells lost (06_switch_core.md). -/
def SWC_OCNTB_EVICTED : Fld := ⟨0x20404, 16, 0, 0, 16, false⟩
def SWC_OCNTB_FLUSHED : Fld := ⟨0x20404, 16, 0, 16, 16, false⟩

/-! SWC_OCNTC: share and stage (06_switch_core.md). -/
def SWC_OCNTC_OVERSHARE : Fld := ⟨0x20408, 16, 0, 0, 16, false⟩
def SWC_OCNTC_STAGEHW : Fld := ⟨0x20408, 16, 0, 16, 4, false⟩

/-! SWC_MCGRP: multicast group (06_switch_core.md). -/
def SWC_MCGRP_OUTMASK : Fld := ⟨0x21000, 4, 0, 0, 10, false⟩
def SWC_MCGRP_LQ : Fld := ⟨0x21000, 4, 0, 10, 13, false⟩
def SWC_MCGRP_VALID : Fld := ⟨0x21000, 4, 0, 23, 1, false⟩

/-! CIS_CFG: scrub enable (07_cistern.md). -/
def CIS_CFG_SCRUBEN : Fld := ⟨0x30000, 0, 0, 0, 1, false⟩

/-! CIS_SPARE: spare minimum (07_cistern.md). -/
def CIS_SPARE_SPARE : Fld := ⟨0x30004, 0, 0, 0, 18, false⟩

/-! CIS_POOL: free cells (07_cistern.md). -/
def CIS_POOL_FREE : Fld := ⟨0x30008, 0, 0, 0, 18, false⟩

/-! CIS_RETIRE: retired cells (07_cistern.md). -/
def CIS_RETIRE_RETIRED : Fld := ⟨0x3000C, 0, 0, 0, 18, false⟩
def CIS_RETIRE_SPAREOUT : Fld := ⟨0x3000C, 0, 0, 18, 1, false⟩

/-! CIS_RESV: reserved total (07_cistern.md). -/
def CIS_RESV_RESV : Fld := ⟨0x30010, 0, 0, 0, 18, false⟩

/-! CIS_ECC: memory error counts (07_cistern.md). -/
def CIS_ECC_CECNT : Fld := ⟨0x30014, 0, 0, 0, 16, false⟩
def CIS_ECC_UECNT : Fld := ⟨0x30014, 0, 0, 16, 16, false⟩

/-! CIS_ERRADR: last memory error (07_cistern.md). -/
def CIS_ERRADR_CELL : Fld := ⟨0x30018, 0, 0, 0, 18, false⟩
def CIS_ERRADR_WORD : Fld := ⟨0x30018, 0, 0, 18, 3, false⟩
def CIS_ERRADR_UE : Fld := ⟨0x30018, 0, 0, 21, 1, false⟩
def CIS_ERRADR_SCRUB : Fld := ⟨0x30018, 0, 0, 22, 1, false⟩

/-! CIS_PTR: queue resets (07_cistern.md). -/
def CIS_PTR_QRESETS : Fld := ⟨0x3001C, 0, 0, 0, 16, false⟩
def CIS_PTR_LASTQ : Fld := ⟨0x3001C, 0, 0, 16, 13, false⟩

/-! CIS_FLIST: free-list and parity errors (07_cistern.md). -/
def CIS_FLIST_FLRESETS : Fld := ⟨0x30020, 0, 0, 0, 8, false⟩
def CIS_FLIST_LASTBANK : Fld := ⟨0x30020, 0, 0, 8, 4, false⟩
def CIS_FLIST_LPARERR : Fld := ⟨0x30020, 0, 0, 16, 16, false⟩

/-! CIS_SCRUB: scrub passes (07_cistern.md). -/
def CIS_SCRUB_CELLPASS : Fld := ⟨0x30024, 0, 0, 0, 16, false⟩
def CIS_SCRUB_DESCPASS : Fld := ⟨0x30024, 0, 0, 16, 16, false⟩

/-! CIS_CRED: uncredited arrivals (07_cistern.md). -/
def CIS_CRED_UNCRED : Fld := ⟨0x30028, 0, 0, 0, 16, false⟩
def CIS_CRED_DROPFULL : Fld := ⟨0x30028, 0, 0, 16, 16, false⟩

/-! CIS_MARGIN: coincidences and stray returns (07_cistern.md). -/
def CIS_MARGIN_MARGIN : Fld := ⟨0x3002C, 0, 0, 0, 16, false⟩
def CIS_MARGIN_NORET : Fld := ⟨0x3002C, 0, 0, 16, 16, false⟩

/-! CIS_LINKA: credit link source (07_cistern.md). -/
def CIS_LINKA_SNODE : Fld := ⟨0x38000, 8, 0, 0, 16, false⟩
def CIS_LINKA_SDIE : Fld := ⟨0x38000, 8, 0, 16, 3, false⟩
def CIS_LINKA_SQ : Fld := ⟨0x38000, 8, 0, 19, 13, false⟩

/-! CIS_LINKB: credit link target (07_cistern.md). -/
def CIS_LINKB_TQ : Fld := ⟨0x38004, 8, 0, 0, 13, false⟩
def CIS_LINKB_LCRED : Fld := ⟨0x38004, 8, 0, 16, 12, false⟩
def CIS_LINKB_LRETSH : Fld := ⟨0x38004, 8, 0, 28, 3, false⟩
def CIS_LINKB_VALID : Fld := ⟨0x38004, 8, 0, 31, 1, false⟩

/-! CIS_LINKS: credit link state (07_cistern.md). -/
def CIS_LINKS_HELD : Fld := ⟨0x39000, 4, 0, 0, 12, false⟩
def CIS_LINKS_FREEDCNT : Fld := ⟨0x39000, 4, 0, 16, 16, false⟩

/-! PMP_CTL: command and behaviour (08_pumps.md). -/
def PMP_CTL_CMD : Fld := ⟨0x40000, 1024, 0, 0, 3, false⟩
def PMP_CTL_AUTOSTART : Fld := ⟨0x40000, 1024, 0, 8, 1, false⟩
def PMP_CTL_SAFEACT : Fld := ⟨0x40000, 1024, 0, 9, 1, false⟩
def PMP_CTL_STOREMODE : Fld := ⟨0x40000, 1024, 0, 10, 1, false⟩

/-! PMP_STAT: state (08_pumps.md). -/
def PMP_STAT_STATE : Fld := ⟨0x40004, 1024, 0, 0, 2, false⟩
def PMP_STAT_IP : Fld := ⟨0x40004, 1024, 0, 2, 6, false⟩
def PMP_STAT_MIDSHIFT : Fld := ⟨0x40004, 1024, 0, 8, 1, false⟩
def PMP_STAT_PBUSY : Fld := ⟨0x40004, 1024, 0, 9, 1, false⟩
def PMP_STAT_GBUSY : Fld := ⟨0x40004, 1024, 0, 10, 1, false⟩
def PMP_STAT_STOPPEND : Fld := ⟨0x40004, 1024, 0, 11, 1, false⟩

/-! PMP_ERR: errors (08_pumps.md). -/
def PMP_ERR_PROGWR : Fld := ⟨0x40008, 1024, 0, 0, 1, false⟩
def PMP_ERR_PARITY : Fld := ⟨0x40008, 1024, 0, 1, 1, false⟩
def PMP_ERR_ILLOP : Fld := ⟨0x40008, 1024, 0, 2, 1, false⟩
def PMP_ERR_UNDR0 : Fld := ⟨0x40008, 1024, 0, 3, 1, false⟩
def PMP_ERR_UNDR1 : Fld := ⟨0x40008, 1024, 0, 4, 1, false⟩
def PMP_ERR_DROP0 : Fld := ⟨0x40008, 1024, 0, 5, 1, false⟩
def PMP_ERR_DROP1 : Fld := ⟨0x40008, 1024, 0, 6, 1, false⟩
def PMP_ERR_SIGOVR : Fld := ⟨0x40008, 1024, 0, 7, 1, false⟩
def PMP_ERR_STOPTMO : Fld := ⟨0x40008, 1024, 0, 8, 1, false⟩
def PMP_ERR_STARTREF : Fld := ⟨0x40008, 1024, 0, 9, 1, false⟩
def PMP_ERR_FIP : Fld := ⟨0x40008, 1024, 0, 16, 6, false⟩

/-! PMP_DIV: clock divider (08_pumps.md). -/
def PMP_DIV_INT : Fld := ⟨0x4000C, 1024, 0, 0, 16, false⟩
def PMP_DIV_FRAC : Fld := ⟨0x4000C, 1024, 0, 16, 8, false⟩

/-! PMP_FLOW: program flow (08_pumps.md). -/
def PMP_FLOW_STARTIP : Fld := ⟨0x40010, 1024, 0, 0, 6, false⟩
def PMP_FLOW_WRAPIP : Fld := ⟨0x40010, 1024, 0, 8, 6, false⟩
def PMP_FLOW_WRAPTO : Fld := ⟨0x40010, 1024, 0, 16, 6, false⟩

/-! PMP_PINA: IN and OUT groups (08_pumps.md). -/
def PMP_PINA_INBASE : Fld := ⟨0x40014, 1024, 0, 0, 8, false⟩
def PMP_PINA_INCNT : Fld := ⟨0x40014, 1024, 0, 8, 6, false⟩
def PMP_PINA_OUTBASE : Fld := ⟨0x40014, 1024, 0, 16, 8, false⟩
def PMP_PINA_OUTCNT : Fld := ⟨0x40014, 1024, 0, 24, 6, false⟩

/-! PMP_PINB: SIDE group (08_pumps.md). -/
def PMP_PINB_SIDEBASE : Fld := ⟨0x40018, 1024, 0, 0, 8, false⟩
def PMP_PINB_SIDECNT : Fld := ⟨0x40018, 1024, 0, 8, 3, false⟩
def PMP_PINB_SIDEIDLE : Fld := ⟨0x40018, 1024, 0, 12, 4, false⟩
def PMP_PINB_SIDEOE : Fld := ⟨0x40018, 1024, 0, 16, 4, false⟩

/-! PMP_IDLE: OUT idle levels (08_pumps.md). -/
def PMP_IDLE_IDLE : Fld := ⟨0x4001C, 1024, 0, 0, 32, false⟩

/-! PMP_SHIFT: word length and stuffing (08_pumps.md). -/
def PMP_SHIFT_GWLEN : Fld := ⟨0x40020, 1024, 0, 0, 6, false⟩
def PMP_SHIFT_STFRUN : Fld := ⟨0x40020, 1024, 0, 8, 4, false⟩
def PMP_SHIFT_STFVAL : Fld := ⟨0x40020, 1024, 0, 12, 1, false⟩

/-! PMP_CRCPOLY: polynomial (08_pumps.md). -/
def PMP_CRCPOLY_POLY : Fld := ⟨0x40024, 1024, 0, 0, 32, false⟩

/-! PMP_CRCCFG: CRC form (08_pumps.md). -/
def PMP_CRCCFG_WIDTH : Fld := ⟨0x40028, 1024, 0, 0, 6, false⟩
def PMP_CRCCFG_REFIN : Fld := ⟨0x40028, 1024, 0, 8, 1, false⟩

/-! PMP_CRCINIT: CRC constants (08_pumps.md). -/
def PMP_CRCINIT_VALUE : Fld := ⟨0x4002C, 1024, 0, 0, 32, false⟩

/-! PMP_CRCXOR: CRC constants (08_pumps.md). -/
def PMP_CRCXOR_VALUE : Fld := ⟨0x40030, 1024, 0, 0, 32, false⟩

/-! PMP_CRCRES: CRC constants (08_pumps.md). -/
def PMP_CRCRES_VALUE : Fld := ⟨0x40034, 1024, 0, 0, 32, false⟩

/-! PMP_LCCFG: line code (08_pumps.md). -/
def PMP_LCCFG_INW : Fld := ⟨0x40038, 1024, 0, 0, 3, false⟩
def PMP_LCCFG_OUTW : Fld := ⟨0x40038, 1024, 0, 3, 3, false⟩
def PMP_LCCFG_PREV : Fld := ⟨0x40038, 1024, 0, 6, 1, false⟩
def PMP_LCCFG_ENCP0 : Fld := ⟨0x40038, 1024, 0, 7, 1, false⟩
def PMP_LCCFG_DECP0 : Fld := ⟨0x40038, 1024, 0, 8, 1, false⟩

/-! PMP_SIGSUB: signal subscription (08_pumps.md). -/
def PMP_SIGSUB_SUB : Fld := ⟨0x4003C, 1024, 0, 0, 32, false⟩

/-! PMP_PEND: pending events (08_pumps.md). -/
def PMP_PEND_SIGP : Fld := ⟨0x40040, 1024, 0, 0, 32, false⟩

/-! PMP_PHPEND: pending phase channels (08_pumps.md). -/
def PMP_PHPEND_PHP : Fld := ⟨0x40044, 1024, 0, 0, 4, false⟩

/-! PMP_X: live registers (08_pumps.md). -/
def PMP_X_VALUE : Fld := ⟨0x40050, 1024, 0, 0, 32, false⟩

/-! PMP_Y: live registers (08_pumps.md). -/
def PMP_Y_VALUE : Fld := ⟨0x40054, 1024, 0, 0, 32, false⟩

/-! PMP_GS: live registers (08_pumps.md). -/
def PMP_GS_VALUE : Fld := ⟨0x40058, 1024, 0, 0, 32, false⟩

/-! PMP_PS: live registers (08_pumps.md). -/
def PMP_PS_VALUE : Fld := ⟨0x4005C, 1024, 0, 0, 32, false⟩

/-! PMP_CRCACC: live registers (08_pumps.md). -/
def PMP_CRCACC_VALUE : Fld := ⟨0x40064, 1024, 0, 0, 32, false⟩

/-! PMP_CNT: counts (08_pumps.md). -/
def PMP_CNT_LC : Fld := ⟨0x40060, 1024, 0, 0, 16, false⟩
def PMP_CNT_PCT : Fld := ⟨0x40060, 1024, 0, 16, 6, false⟩
def PMP_CNT_GCT : Fld := ⟨0x40060, 1024, 0, 24, 6, false⟩

/-! PMP_FLAGS: flags (08_pumps.md). -/
def PMP_FLAGS_FLAGS : Fld := ⟨0x40068, 1024, 0, 0, 10, false⟩

/-! PMP_CNTA: margin and stalls (08_pumps.md). -/
def PMP_CNTA_MARGIN : Fld := ⟨0x40070, 1024, 0, 0, 16, false⟩
def PMP_CNTA_STALLS : Fld := ⟨0x40070, 1024, 0, 16, 16, false⟩

/-! PMP_CNTB: losses and faults (08_pumps.md). -/
def PMP_CNTB_DROPCR : Fld := ⟨0x40074, 1024, 0, 0, 16, false⟩
def PMP_CNTB_FAULTS : Fld := ⟨0x40074, 1024, 0, 16, 8, false⟩

/-! PMP_LCT: line-code entry (08_pumps.md). -/
def PMP_LCT_OUTPAT : Fld := ⟨0x40080, 1024, 4, 0, 5, false⟩
def PMP_LCT_VALID : Fld := ⟨0x40080, 1024, 4, 5, 1, false⟩

/-! PMP_PROG: program word (08_pumps.md). -/
def PMP_PROG_INSTR : Fld := ⟨0x40100, 1024, 4, 0, 32, false⟩

/-! PMP_PPAR0: program parity (08_pumps.md). -/
def PMP_PPAR0_PAR : Fld := ⟨0x40200, 1024, 0, 0, 32, false⟩

/-! PMP_PPAR1: program parity (08_pumps.md). -/
def PMP_PPAR1_PAR : Fld := ⟨0x40204, 1024, 0, 0, 32, false⟩

/-! MIO_BANK: bank level and tick (09_mio_and_input_conditioning.md). -/
def MIO_BANK_VSEL : Fld := ⟨0x50000, 4, 0, 0, 2, false⟩
def MIO_BANK_VOK : Fld := ⟨0x50000, 4, 0, 2, 1, false⟩
def MIO_BANK_TSH : Fld := ⟨0x50000, 4, 0, 4, 4, false⟩

/-! MIO_TRIPST: trip state (09_mio_and_input_conditioning.md). -/
def MIO_TRIPST_LATCHED : Fld := ⟨0x50040, 0, 0, 0, 16, false⟩
def MIO_TRIPST_ACTIVE : Fld := ⟨0x50040, 0, 0, 16, 16, false⟩

/-! MIO_MARGIN: coincidences and readback (09_mio_and_input_conditioning.md). -/
def MIO_MARGIN_MARGIN : Fld := ⟨0x50044, 0, 0, 0, 16, false⟩
def MIO_MARGIN_RBCNT : Fld := ⟨0x50044, 0, 0, 16, 16, false⟩

/-! MIO_IN: input levels (09_mio_and_input_conditioning.md). -/
def MIO_IN_LEVEL : Fld := ⟨0x50080, 4, 0, 0, 32, false⟩

/-! MIO_OUT: discrete outputs (09_mio_and_input_conditioning.md). -/
def MIO_OUT_OUT : Fld := ⟨0x500A0, 4, 0, 0, 32, false⟩

/-! MIO_TRIPG: trip group (09_mio_and_input_conditioning.md). -/
def MIO_TRIPG_EN : Fld := ⟨0x50100, 4, 0, 0, 1, false⟩
def MIO_TRIPG_LATCH : Fld := ⟨0x50100, 4, 0, 1, 1, false⟩
def MIO_TRIPG_TRIPCNT : Fld := ⟨0x50100, 4, 0, 16, 8, false⟩

/-! MIO_PCFG: pin configuration (09_mio_and_input_conditioning.md). -/
def MIO_PCFG_FUNC : Fld := ⟨0x51000, 32, 0, 0, 3, false⟩
def MIO_PCFG_UNIT : Fld := ⟨0x51000, 32, 0, 3, 6, false⟩
def MIO_PCFG_SIG : Fld := ⟨0x51000, 32, 0, 9, 2, false⟩
def MIO_PCFG_MODE : Fld := ⟨0x51000, 32, 0, 11, 2, false⟩
def MIO_PCFG_INV : Fld := ⟨0x51000, 32, 0, 13, 1, false⟩
def MIO_PCFG_PULL : Fld := ⟨0x51000, 32, 0, 14, 2, false⟩
def MIO_PCFG_DRIVE : Fld := ⟨0x51000, 32, 0, 16, 2, false⟩
def MIO_PCFG_SAFE : Fld := ⟨0x51000, 32, 0, 18, 1, false⟩
def MIO_PCFG_SAFEOE : Fld := ⟨0x51000, 32, 0, 19, 1, false⟩
def MIO_PCFG_OUTSYNC : Fld := ⟨0x51000, 32, 0, 20, 1, false⟩
def MIO_PCFG_RBEN : Fld := ⟨0x51000, 32, 0, 21, 1, false⟩

/-! MIO_PFLT: filter and checks (09_mio_and_input_conditioning.md). -/
def MIO_PFLT_FILT : Fld := ⟨0x51004, 32, 0, 0, 16, false⟩
def MIO_PFLT_MAJ : Fld := ⟨0x51004, 32, 0, 16, 1, false⟩
def MIO_PFLT_EDGE : Fld := ⟨0x51004, 32, 0, 17, 2, false⟩
def MIO_PFLT_CHECK : Fld := ⟨0x51004, 32, 0, 19, 2, false⟩
def MIO_PFLT_RBSET : Fld := ⟨0x51004, 32, 0, 24, 8, false⟩

/-! MIO_PRNG: range limits (09_mio_and_input_conditioning.md). -/
def MIO_PRNG_MIN : Fld := ⟨0x51008, 32, 0, 0, 16, false⟩
def MIO_PRNG_MAX : Fld := ⟨0x51008, 32, 0, 16, 16, false⟩

/-! MIO_PTRIP: trip membership (09_mio_and_input_conditioning.md). -/
def MIO_PTRIP_OUTGRP : Fld := ⟨0x5100C, 32, 0, 0, 16, false⟩
def MIO_PTRIP_INGRP : Fld := ⟨0x5100C, 32, 0, 16, 4, false⟩
def MIO_PTRIP_INCOND : Fld := ⟨0x5100C, 32, 0, 20, 3, false⟩

/-! MIO_PSTAT: pin status (09_mio_and_input_conditioning.md). -/
def MIO_PSTAT_LEVEL : Fld := ⟨0x51010, 32, 0, 0, 1, false⟩
def MIO_PSTAT_DRIVEN : Fld := ⟨0x51010, 32, 0, 1, 1, false⟩
def MIO_PSTAT_RBERR : Fld := ⟨0x51010, 32, 0, 2, 1, false⟩
def MIO_PSTAT_RNGLO : Fld := ⟨0x51010, 32, 0, 3, 1, false⟩
def MIO_PSTAT_RNGHI : Fld := ⟨0x51010, 32, 0, 4, 1, false⟩
def MIO_PSTAT_TMOERR : Fld := ⟨0x51010, 32, 0, 5, 1, false⟩
def MIO_PSTAT_FORCED : Fld := ⟨0x51010, 32, 0, 6, 1, false⟩
def MIO_PSTAT_MEAS : Fld := ⟨0x51010, 32, 0, 16, 16, false⟩

/-! MIO_PTMO: timeout (09_mio_and_input_conditioning.md). -/
def MIO_PTMO_TMO : Fld := ⟨0x51014, 32, 0, 0, 16, false⟩
def MIO_PTMO_VIOL : Fld := ⟨0x51014, 32, 0, 16, 16, false⟩

/-! CAN_CFG: controller configuration (10_can_controllers.md). -/
def CAN_CFG_EN : Fld := ⟨0x60000, 2048, 0, 0, 1, false⟩
def CAN_CFG_MODE : Fld := ⟨0x60000, 2048, 0, 1, 2, false⟩
def CAN_CFG_FDEN : Fld := ⟨0x60000, 2048, 0, 3, 1, false⟩
def CAN_CFG_PXEN : Fld := ⟨0x60000, 2048, 0, 4, 1, false⟩
def CAN_CFG_NOMATCH : Fld := ⟨0x60000, 2048, 0, 5, 2, false⟩
def CAN_CFG_BOFLUSH : Fld := ⟨0x60000, 2048, 0, 7, 1, false⟩
def CAN_CFG_WAKEEN : Fld := ⟨0x60000, 2048, 0, 8, 1, false⟩
def CAN_CFG_NODEWAKE : Fld := ⟨0x60000, 2048, 0, 9, 1, false⟩
def CAN_CFG_TDCEN : Fld := ⟨0x60000, 2048, 0, 10, 1, false⟩

/-! CAN_CMD: command (10_can_controllers.md). -/
def CAN_CMD_CMD : Fld := ⟨0x60004, 2048, 0, 0, 3, false⟩

/-! CAN_STAT: state (10_can_controllers.md). -/
def CAN_STAT_STATE : Fld := ⟨0x60008, 2048, 0, 0, 3, false⟩
def CAN_STAT_CONF : Fld := ⟨0x60008, 2048, 0, 3, 2, false⟩
def CAN_STAT_EWARN : Fld := ⟨0x60008, 2048, 0, 5, 1, false⟩
def CAN_STAT_TXING : Fld := ⟨0x60008, 2048, 0, 6, 1, false⟩
def CAN_STAT_RXING : Fld := ⟨0x60008, 2048, 0, 7, 1, false⟩
def CAN_STAT_WAKECAUSE : Fld := ⟨0x60008, 2048, 0, 8, 2, false⟩

/-! CAN_ERR: error counters (10_can_controllers.md). -/
def CAN_ERR_TEC : Fld := ⟨0x6000C, 2048, 0, 0, 9, false⟩
def CAN_ERR_REC : Fld := ⟨0x6000C, 2048, 0, 16, 8, false⟩

/-! CAN_NBT: nominal bit timing (10_can_controllers.md). -/
def CAN_NBT_NBRP : Fld := ⟨0x60010, 2048, 0, 0, 8, false⟩
def CAN_NBT_NTSEG1 : Fld := ⟨0x60010, 2048, 0, 8, 8, false⟩
def CAN_NBT_NTSEG2 : Fld := ⟨0x60010, 2048, 0, 16, 7, false⟩
def CAN_NBT_NSJW : Fld := ⟨0x60010, 2048, 0, 23, 7, false⟩

/-! CAN_DBT: data bit timing (10_can_controllers.md). -/
def CAN_DBT_DBRP : Fld := ⟨0x60014, 2048, 0, 0, 5, false⟩
def CAN_DBT_DTSEG1 : Fld := ⟨0x60014, 2048, 0, 8, 5, false⟩
def CAN_DBT_DTSEG2 : Fld := ⟨0x60014, 2048, 0, 16, 4, false⟩
def CAN_DBT_DSJW : Fld := ⟨0x60014, 2048, 0, 24, 4, false⟩

/-! CAN_TDC: delay compensation (10_can_controllers.md). -/
def CAN_TDC_SSPOFF : Fld := ⟨0x60018, 2048, 0, 0, 7, false⟩
def CAN_TDC_TDCV : Fld := ⟨0x60018, 2048, 0, 8, 7, false⟩

/-! CAN_FLAGS: events (10_can_controllers.md). -/
def CAN_FLAGS_BOFF : Fld := ⟨0x6001C, 2048, 0, 0, 1, false⟩
def CAN_FLAGS_EPASS : Fld := ⟨0x6001C, 2048, 0, 1, 1, false⟩
def CAN_FLAGS_TXFMT : Fld := ⟨0x6001C, 2048, 0, 2, 1, false⟩
def CAN_FLAGS_RXOVF : Fld := ⟨0x6001C, 2048, 0, 3, 1, false⟩
def CAN_FLAGS_RELMISS : Fld := ⟨0x6001C, 2048, 0, 4, 1, false⟩
def CAN_FLAGS_PXEV : Fld := ⟨0x6001C, 2048, 0, 5, 1, false⟩
def CAN_FLAGS_WAKE : Fld := ⟨0x6001C, 2048, 0, 6, 1, false⟩
def CAN_FLAGS_PAR : Fld := ⟨0x6001C, 2048, 0, 7, 1, false⟩
def CAN_FLAGS_TDCOVR : Fld := ⟨0x6001C, 2048, 0, 8, 1, false⟩
def CAN_FLAGS_LEC : Fld := ⟨0x6001C, 2048, 0, 24, 4, false⟩

/-! CAN_CNTA: frames (10_can_controllers.md). -/
def CAN_CNTA_TXOK : Fld := ⟨0x60020, 2048, 0, 0, 16, false⟩
def CAN_CNTA_RXOK : Fld := ⟨0x60020, 2048, 0, 16, 16, false⟩

/-! CAN_CNTB: losses (10_can_controllers.md). -/
def CAN_CNTB_RXOVF : Fld := ⟨0x60024, 2048, 0, 0, 16, false⟩
def CAN_CNTB_TXFAIL : Fld := ⟨0x60024, 2048, 0, 16, 16, false⟩

/-! CAN_CNTC: events (10_can_controllers.md). -/
def CAN_CNTC_MARGIN : Fld := ⟨0x60028, 2048, 0, 0, 8, false⟩
def CAN_CNTC_BOFFCNT : Fld := ⟨0x60028, 2048, 0, 8, 8, false⟩
def CAN_CNTC_PXCNT : Fld := ⟨0x60028, 2048, 0, 16, 8, false⟩
def CAN_CNTC_RELMISS : Fld := ⟨0x60028, 2048, 0, 24, 8, false⟩

/-! CAN_WKID: wake ID (10_can_controllers.md). -/
def CAN_WKID_ID : Fld := ⟨0x60030, 2048, 0, 0, 29, false⟩
def CAN_WKID_IDE : Fld := ⟨0x60030, 2048, 0, 29, 1, false⟩

/-! CAN_WKMASK: wake ID mask (10_can_controllers.md). -/
def CAN_WKMASK_MASK : Fld := ⟨0x60034, 2048, 0, 0, 29, false⟩

/-! CAN_WKCFG: wake form (10_can_controllers.md). -/
def CAN_WKCFG_WKDLC : Fld := ⟨0x60038, 2048, 0, 0, 4, false⟩
def CAN_WKCFG_WAKEMODE : Fld := ⟨0x60038, 2048, 0, 4, 1, false⟩
def CAN_WKCFG_WKDOM : Fld := ⟨0x60038, 2048, 0, 8, 8, false⟩
def CAN_WKCFG_WKERR : Fld := ⟨0x60038, 2048, 0, 16, 6, false⟩

/-! CAN_WKDATA0: wake data mask (10_can_controllers.md). -/
def CAN_WKDATA0_DATA : Fld := ⟨0x6003C, 2048, 0, 0, 32, false⟩

/-! CAN_WKDATA1: wake data mask (10_can_controllers.md). -/
def CAN_WKDATA1_DATA : Fld := ⟨0x60040, 2048, 0, 0, 32, false⟩

/-! CAN_FLTA: filter match (10_can_controllers.md). -/
def CAN_FLTA_ID : Fld := ⟨0x60100, 2048, 16, 0, 29, false⟩
def CAN_FLTA_IDE : Fld := ⟨0x60100, 2048, 16, 29, 1, false⟩
def CAN_FLTA_RTR : Fld := ⟨0x60100, 2048, 16, 30, 1, false⟩
def CAN_FLTA_FDF : Fld := ⟨0x60100, 2048, 16, 31, 1, false⟩

/-! CAN_FLTB: filter mask (10_can_controllers.md). -/
def CAN_FLTB_MASK : Fld := ⟨0x60104, 2048, 16, 0, 32, false⟩

/-! CAN_FLTC: filter action (10_can_controllers.md). -/
def CAN_FLTC_EN : Fld := ⟨0x60108, 2048, 16, 0, 1, false⟩
def CAN_FLTC_ACTION : Fld := ⟨0x60108, 2048, 16, 1, 2, false⟩

/-! PHS_ECNT: event counts (11_phase_scheduler.md). -/
def PHS_ECNT_LATE : Fld := ⟨0x70000, 0, 0, 0, 16, false⟩
def PHS_ECNT_FIRED : Fld := ⟨0x70000, 0, 0, 16, 16, false⟩

/-! PHS_EMISC: losses and coincidences (11_phase_scheduler.md). -/
def PHS_EMISC_EVDROP : Fld := ⟨0x70004, 0, 0, 0, 8, false⟩
def PHS_EMISC_CALFAIL : Fld := ⟨0x70004, 0, 0, 8, 8, false⟩
def PHS_EMISC_MARGIN : Fld := ⟨0x70004, 0, 0, 16, 16, false⟩

/-! PHS_CAPST: capture status (11_phase_scheduler.md). -/
def PHS_CAPST_NEW : Fld := ⟨0x70008, 0, 0, 0, 16, false⟩
def PHS_CAPST_OVR : Fld := ⟨0x70008, 0, 0, 16, 16, false⟩

/-! PHS_PEND: pending list (11_phase_scheduler.md). -/
def PHS_PEND_PENDING : Fld := ⟨0x7000C, 0, 0, 0, 7, false⟩
def PHS_PEND_PENDHW : Fld := ⟨0x7000C, 0, 0, 8, 7, false⟩

/-! PHS_QTGTA: queue target (11_phase_scheduler.md). -/
def PHS_QTGTA_TGTNODE : Fld := ⟨0x70040, 8, 0, 0, 16, false⟩
def PHS_QTGTA_TGTDIE : Fld := ⟨0x70040, 8, 0, 16, 3, false⟩
def PHS_QTGTA_TGTQ : Fld := ⟨0x70040, 8, 0, 19, 13, false⟩

/-! PHS_QTGTB: queue target class (11_phase_scheduler.md). -/
def PHS_QTGTB_CLASS : Fld := ⟨0x70044, 8, 0, 0, 2, false⟩
def PHS_QTGTB_VALID : Fld := ⟨0x70044, 8, 0, 2, 1, false⟩

/-! PHS_TCFG: tracker source (11_phase_scheduler.md). -/
def PHS_TCFG_SRC : Fld := ⟨0x70100, 128, 0, 0, 3, false⟩
def PHS_TCFG_ZMODE : Fld := ⟨0x70100, 128, 0, 3, 2, false⟩
def PHS_TCFG_REV : Fld := ⟨0x70100, 128, 0, 5, 1, false⟩
def PHS_TCFG_HOLDACT : Fld := ⟨0x70100, 128, 0, 6, 1, false⟩
def PHS_TCFG_PQ : Fld := ⟨0x70100, 128, 0, 7, 1, false⟩
def PHS_TCFG_PUMP : Fld := ⟨0x70100, 128, 0, 8, 6, false⟩
def PHS_TCFG_PCH : Fld := ⟨0x70100, 128, 0, 14, 2, false⟩

/-! PHS_TSCALE: counts per turn (11_phase_scheduler.md). -/
def PHS_TSCALE_COUNTS : Fld := ⟨0x70104, 128, 0, 0, 24, false⟩
def PHS_TSCALE_ABSBITS : Fld := ⟨0x70104, 128, 0, 24, 6, false⟩

/-! PHS_TLOOP: loop timing and gains (11_phase_scheduler.md). -/
def PHS_TLOOP_UPDSH : Fld := ⟨0x70108, 128, 0, 0, 5, false⟩
def PHS_TLOOP_KPSH : Fld := ⟨0x70108, 128, 0, 8, 4, false⟩
def PHS_TLOOP_KISH : Fld := ⟨0x70108, 128, 0, 16, 5, false⟩

/-! PHS_TVMAX: plausibility limits (11_phase_scheduler.md). -/
def PHS_TVMAX_VALUE : Fld := ⟨0x7010C, 128, 0, 0, 32, false⟩

/-! PHS_TAMAX: plausibility limits (11_phase_scheduler.md). -/
def PHS_TAMAX_VALUE : Fld := ⟨0x70110, 128, 0, 0, 32, false⟩

/-! PHS_TEMAX: plausibility limits (11_phase_scheduler.md). -/
def PHS_TEMAX_VALUE : Fld := ⟨0x70114, 128, 0, 0, 32, false⟩

/-! PHS_TLOS: loss detection (11_phase_scheduler.md). -/
def PHS_TLOS_LOSTO : Fld := ⟨0x70118, 128, 0, 0, 16, false⟩
def PHS_TLOS_GAP : Fld := ⟨0x70118, 128, 0, 16, 8, false⟩
def PHS_TLOS_PLAUSN : Fld := ⟨0x70118, 128, 0, 24, 4, false⟩

/-! PHS_TPACE: holdover and pacing (11_phase_scheduler.md). -/
def PHS_TPACE_HOLDTO : Fld := ⟨0x7011C, 128, 0, 0, 16, false⟩
def PHS_TPACE_PACE : Fld := ⟨0x7011C, 128, 0, 16, 16, false⟩

/-! PHS_TDLY: source delay (11_phase_scheduler.md). -/
def PHS_TDLY_DELAY : Fld := ⟨0x70120, 128, 0, 0, 24, false⟩

/-! PHS_TOFF: phase offset (11_phase_scheduler.md). -/
def PHS_TOFF_OFFSET : Fld := ⟨0x70124, 128, 0, 0, 32, false⟩

/-! PHS_TPIO: sample record (11_phase_scheduler.md). -/
def PHS_TPIO_PIOFF : Fld := ⟨0x70128, 128, 0, 0, 16, false⟩

/-! PHS_TSTAT: tracker status (11_phase_scheduler.md). -/
def PHS_TSTAT_STATE : Fld := ⟨0x70140, 128, 0, 0, 3, false⟩
def PHS_TSTAT_VERR : Fld := ⟨0x70140, 128, 0, 3, 1, false⟩
def PHS_TSTAT_AERR : Fld := ⟨0x70140, 128, 0, 4, 1, false⟩
def PHS_TSTAT_EERR : Fld := ⟨0x70140, 128, 0, 5, 1, false⟩
def PHS_TSTAT_GAPERR : Fld := ⟨0x70140, 128, 0, 6, 1, false⟩
def PHS_TSTAT_SILENT : Fld := ⟨0x70140, 128, 0, 7, 1, false⟩
def PHS_TSTAT_ZERR : Fld := ⟨0x70140, 128, 0, 8, 1, false⟩
def PHS_TSTAT_QERR : Fld := ⟨0x70140, 128, 0, 9, 1, false⟩
def PHS_TSTAT_SLOTMISS : Fld := ⟨0x70140, 128, 0, 10, 1, false⟩
def PHS_TSTAT_PAR : Fld := ⟨0x70140, 128, 0, 11, 1, false⟩

/-! PHS_TCNT: tracker counts (11_phase_scheduler.md). -/
def PHS_TCNT_REJECT : Fld := ⟨0x70144, 128, 0, 0, 16, false⟩
def PHS_TCNT_LOSS : Fld := ⟨0x70144, 128, 0, 16, 8, false⟩
def PHS_TCNT_MARGIN : Fld := ⟨0x70144, 128, 0, 24, 8, false⟩

/-! PHS_TPHLO: live values (11_phase_scheduler.md). -/
def PHS_TPHLO_VALUE : Fld := ⟨0x70148, 128, 0, 0, 32, false⟩

/-! PHS_TPHHI: live values (11_phase_scheduler.md). -/
def PHS_TPHHI_VALUE : Fld := ⟨0x7014C, 128, 0, 0, 32, false⟩

/-! PHS_TVEL: live values (11_phase_scheduler.md). -/
def PHS_TVEL_VALUE : Fld := ⟨0x70150, 128, 0, 0, 32, false⟩

/-! PHS_TRAW: live values (11_phase_scheduler.md). -/
def PHS_TRAW_VALUE : Fld := ⟨0x70154, 128, 0, 0, 32, false⟩

/-! PHS_CAPPL: capture slot (11_phase_scheduler.md). -/
def PHS_CAPPL_VALUE : Fld := ⟨0x70600, 32, 0, 0, 32, false⟩

/-! PHS_CAPPH: capture slot (11_phase_scheduler.md). -/
def PHS_CAPPH_VALUE : Fld := ⟨0x70604, 32, 0, 0, 32, false⟩

/-! PHS_CAPT: capture slot (11_phase_scheduler.md). -/
def PHS_CAPT_VALUE : Fld := ⟨0x70608, 32, 0, 0, 32, false⟩

/-! PHS_CAPIN: capture slot (11_phase_scheduler.md). -/
def PHS_CAPIN_VALUE : Fld := ⟨0x7060C, 32, 0, 0, 32, false⟩

/-! PHS_CAPSEQ: capture sequence (11_phase_scheduler.md). -/
def PHS_CAPSEQ_SEQ : Fld := ⟨0x70610, 32, 0, 0, 16, false⟩

/-! PHS_EVTC: entry control (11_phase_scheduler.md). -/
def PHS_EVTC_TRK : Fld := ⟨0x74000, 4, 0, 0, 3, false⟩
def PHS_EVTC_ACTION : Fld := ⟨0x74000, 4, 0, 3, 3, false⟩
def PHS_EVTC_MODE : Fld := ⟨0x74000, 4, 0, 6, 2, false⟩
def PHS_EVTC_DIR : Fld := ⟨0x74000, 4, 0, 8, 1, false⟩
def PHS_EVTC_EN : Fld := ⟨0x74000, 4, 0, 9, 1, false⟩
def PHS_EVTC_ARM : Fld := ⟨0x74000, 4, 0, 10, 1, false⟩
def PHS_EVTC_LATE : Fld := ⟨0x74000, 4, 0, 11, 1, false⟩
def PHS_EVTC_N : Fld := ⟨0x74000, 4, 0, 12, 8, false⟩
def PHS_EVTC_PARAM : Fld := ⟨0x74000, 4, 0, 20, 12, false⟩

/-! PHS_EVTLO: entry trigger (11_phase_scheduler.md). -/
def PHS_EVTLO_TRIG : Fld := ⟨0x78000, 8, 0, 0, 32, false⟩

/-! PHS_EVTHI: entry trigger (11_phase_scheduler.md). -/
def PHS_EVTHI_TRIG : Fld := ⟨0x78004, 8, 0, 0, 32, false⟩

/-! FTM_CFG: time configuration (12_fabric_time.md). -/
def FTM_CFG_TMROLE : Fld := ⟨0x80000, 0, 0, 0, 1, false⟩
def FTM_CFG_PPSSRC : Fld := ⟨0x80000, 0, 0, 1, 1, false⟩
def FTM_CFG_IRPUMP : Fld := ⟨0x80000, 0, 0, 2, 6, false⟩
def FTM_CFG_IRPQ : Fld := ⟨0x80000, 0, 0, 8, 1, false⟩
def FTM_CFG_IREN : Fld := ⟨0x80000, 0, 0, 9, 1, false⟩
def FTM_CFG_SRCRING : Fld := ⟨0x80000, 0, 0, 16, 8, false⟩

/-! FTM_SERVO: servo gains (12_fabric_time.md). -/
def FTM_SERVO_KPSH : Fld := ⟨0x80004, 0, 0, 0, 4, false⟩
def FTM_SERVO_KISH : Fld := ⟨0x80004, 0, 0, 8, 5, false⟩

/-! FTM_JUMP: jump threshold (12_fabric_time.md). -/
def FTM_JUMP_JUMPTH : Fld := ⟨0x80008, 0, 0, 0, 30, false⟩

/-! FTM_CMD: accept new master (12_fabric_time.md). -/
def FTM_CMD_ACCEPT : Fld := ⟨0x8000C, 0, 0, 0, 1, true⟩

/-! FTM_STAT: time state (12_fabric_time.md). -/
def FTM_STAT_VALID : Fld := ⟨0x80010, 0, 0, 0, 1, true⟩
def FTM_STAT_STEPPED : Fld := ⟨0x80010, 0, 0, 1, 1, true⟩
def FTM_STAT_TSTATE : Fld := ⟨0x80010, 0, 0, 2, 3, true⟩
def FTM_STAT_JUMP : Fld := ⟨0x80010, 0, 0, 5, 1, true⟩
def FTM_STAT_TVALIDRX : Fld := ⟨0x80010, 0, 0, 6, 1, true⟩
def FTM_STAT_LABERR : Fld := ⟨0x80010, 0, 0, 7, 1, true⟩
def FTM_STAT_PPSLOSS : Fld := ⟨0x80010, 0, 0, 8, 1, true⟩
def FTM_STAT_TMASTER : Fld := ⟨0x80010, 0, 0, 16, 16, true⟩

/-! FTM_OFFS: servo values (12_fabric_time.md). -/
def FTM_OFFS_VALUE : Fld := ⟨0x80014, 0, 0, 0, 32, true⟩

/-! FTM_RATE: servo values (12_fabric_time.md). -/
def FTM_RATE_VALUE : Fld := ⟨0x80018, 0, 0, 0, 32, true⟩

/-! FTM_NOWLO: fabric time now (12_fabric_time.md). -/
def FTM_NOWLO_VALUE : Fld := ⟨0x80020, 0, 0, 0, 32, true⟩

/-! FTM_NOWHI: fabric time now (12_fabric_time.md). -/
def FTM_NOWHI_VALUE : Fld := ⟨0x80024, 0, 0, 0, 32, true⟩

/-! FTM_NOWFR: fabric time now (12_fabric_time.md). -/
def FTM_NOWFR_VALUE : Fld := ⟨0x80028, 0, 0, 0, 32, true⟩

/-! FTM_CNT: counts (12_fabric_time.md). -/
def FTM_CNT_REFUSE : Fld := ⟨0x8002C, 0, 0, 0, 16, true⟩
def FTM_CNT_LABERRCNT : Fld := ⟨0x8002C, 0, 0, 16, 8, true⟩
def FTM_CNT_MARGIN : Fld := ⟨0x8002C, 0, 0, 24, 8, true⟩

/-! FTM_UTC: UTC offset (12_fabric_time.md). -/
def FTM_UTC_UTCOFF : Fld := ⟨0x80030, 0, 0, 0, 16, false⟩
def FTM_UTC_INFORCE : Fld := ⟨0x80030, 0, 0, 16, 16, false⟩

/-! FTM_LEAP: scheduled offset (12_fabric_time.md). -/
def FTM_LEAP_NEXTOFF : Fld := ⟨0x80034, 0, 0, 0, 16, false⟩

/-! FTM_UTCAT: change instant (12_fabric_time.md). -/
def FTM_UTCAT_UTCAT : Fld := ⟨0x80038, 0, 0, 0, 32, false⟩

/-! FTM_REFDLY: reference delays (12_fabric_time.md). -/
def FTM_REFDLY_PPSDLY : Fld := ⟨0x8003C, 0, 0, 0, 16, false⟩
def FTM_REFDLY_IRDLY : Fld := ⟨0x8003C, 0, 0, 16, 16, false⟩

/-! FTM_PDLY: link delay (12_fabric_time.md). -/
def FTM_PDLY_LINKDLY : Fld := ⟨0x80100, 8, 0, 0, 24, false⟩
def FTM_PDLY_DLYOK : Fld := ⟨0x80100, 8, 0, 24, 1, false⟩

/-! FTM_PASYM: link asymmetry (12_fabric_time.md). -/
def FTM_PASYM_ASYM : Fld := ⟨0x80104, 8, 0, 0, 16, false⟩

/-! BRG_HSTAT: host port status (13_bridges.md). -/
def BRG_HSTAT_ENABLED : Fld := ⟨0x90000, 0, 0, 0, 1, false⟩
def BRG_HSTAT_LINKUP : Fld := ⟨0x90000, 0, 0, 1, 1, false⟩
def BRG_HSTAT_SPEED : Fld := ⟨0x90000, 0, 0, 2, 3, false⟩
def BRG_HSTAT_WIDTH : Fld := ⟨0x90000, 0, 0, 5, 3, false⟩
def BRG_HSTAT_OUTSTD : Fld := ⟨0x90000, 0, 0, 8, 7, false⟩

/-! BRG_HCNT: host counts (13_bridges.md). -/
def BRG_HCNT_CATMO : Fld := ⟨0x90004, 0, 0, 0, 8, false⟩
def BRG_HCNT_CAERR : Fld := ⟨0x90004, 0, 0, 8, 8, false⟩
def BRG_HCNT_LATECPL : Fld := ⟨0x90004, 0, 0, 16, 8, false⟩
def BRG_HCNT_BADMSG : Fld := ⟨0x90004, 0, 0, 24, 4, false⟩
def BRG_HCNT_MARGIN : Fld := ⟨0x90004, 0, 0, 28, 4, false⟩

/-! BRG_ISTAT: interrupt sources (13_bridges.md). -/
def BRG_ISTAT_SRC : Fld := ⟨0x90008, 0, 0, 0, 8, false⟩

/-! BRG_PWST: fault log state (13_bridges.md). -/
def BRG_PWST_COUNT : Fld := ⟨0x90010, 0, 0, 0, 7, false⟩
def BRG_PWST_POP : Fld := ⟨0x90010, 0, 0, 8, 1, false⟩
def BRG_PWST_OVF : Fld := ⟨0x90010, 0, 0, 16, 16, false⟩

/-! BRG_PWADRLO: oldest entry (13_bridges.md). -/
def BRG_PWADRLO_VALUE : Fld := ⟨0x90014, 0, 0, 0, 32, false⟩

/-! BRG_PWADRHI: oldest entry (13_bridges.md). -/
def BRG_PWADRHI_VALUE : Fld := ⟨0x90018, 0, 0, 0, 32, false⟩

/-! BRG_PWTLO: oldest entry (13_bridges.md). -/
def BRG_PWTLO_VALUE : Fld := ⟨0x90020, 0, 0, 0, 32, false⟩

/-! BRG_PWTHI: oldest entry (13_bridges.md). -/
def BRG_PWTHI_VALUE : Fld := ⟨0x90024, 0, 0, 0, 32, false⟩

/-! BRG_PWSRC: oldest entry source (13_bridges.md). -/
def BRG_PWSRC_PORT : Fld := ⟨0x9001C, 0, 0, 0, 4, false⟩
def BRG_PWSRC_CODE : Fld := ⟨0x9001C, 0, 0, 8, 8, false⟩
def BRG_PWSRC_REQID : Fld := ⟨0x9001C, 0, 0, 16, 16, false⟩

/-! BRG_BCFG: backplane configuration (13_bridges.md). -/
def BRG_BCFG_ENABLED : Fld := ⟨0x90040, 0, 0, 0, 1, false⟩
def BRG_BCFG_MODE : Fld := ⟨0x90040, 0, 0, 1, 1, false⟩
def BRG_BCFG_RTYMODE : Fld := ⟨0x90040, 0, 0, 2, 1, false⟩
def BRG_BCFG_RELMODE : Fld := ⟨0x90040, 0, 0, 3, 1, false⟩
def BRG_BCFG_BRLVL : Fld := ⟨0x90040, 0, 0, 4, 2, false⟩
def BRG_BCFG_ACKMODE : Fld := ⟨0x90040, 0, 0, 6, 1, false⟩
def BRG_BCFG_STRB : Fld := ⟨0x90040, 0, 0, 8, 8, false⟩

/-! BRG_BIRQ: interrupter (13_bridges.md). -/
def BRG_BIRQ_LEVEL : Fld := ⟨0x90044, 0, 0, 0, 3, false⟩
def BRG_BIRQ_STATID : Fld := ⟨0x90044, 0, 0, 8, 8, false⟩
def BRG_BIRQ_SRCMASK : Fld := ⟨0x90044, 0, 0, 16, 8, false⟩

/-! BRG_BTMO: backplane timers (13_bridges.md). -/
def BRG_BTMO_SLOTTO : Fld := ⟨0x90048, 0, 0, 0, 8, false⟩
def BRG_BTMO_HOLDMAX : Fld := ⟨0x90048, 0, 0, 8, 8, false⟩
def BRG_BTMO_FETCHTO : Fld := ⟨0x90048, 0, 0, 16, 8, false⟩
def BRG_BTMO_LOCKTO : Fld := ⟨0x90048, 0, 0, 24, 8, false⟩

/-! BRG_BSTAT: backplane state (13_bridges.md). -/
def BRG_BSTAT_SLOTS : Fld := ⟨0x9004C, 0, 0, 0, 5, false⟩
def BRG_BSTAT_BUSHELD : Fld := ⟨0x9004C, 0, 0, 5, 1, false⟩
def BRG_BSTAT_LOCKHELD : Fld := ⟨0x9004C, 0, 0, 6, 1, false⟩

/-! BRG_BCNTA: retry counts (13_bridges.md). -/
def BRG_BCNTA_SLOTFULL : Fld := ⟨0x90050, 0, 0, 0, 16, false⟩
def BRG_BCNTA_SLOTEXP : Fld := ⟨0x90050, 0, 0, 16, 16, false⟩

/-! BRG_BCNTB: bus and lock counts (13_bridges.md). -/
def BRG_BCNTB_BERRM : Fld := ⟨0x90054, 0, 0, 0, 12, false⟩
def BRG_BCNTB_LOCKRES : Fld := ⟨0x90054, 0, 0, 12, 8, false⟩
def BRG_BCNTB_LOCKTO : Fld := ⟨0x90054, 0, 0, 20, 8, false⟩

/-! BRG_QWATCH: queue watch (13_bridges.md). -/
def BRG_QWATCH_QNUM : Fld := ⟨0x90400, 4, 0, 0, 13, false⟩
def BRG_QWATCH_DIE : Fld := ⟨0x90400, 4, 0, 13, 3, false⟩
def BRG_QWATCH_VALID : Fld := ⟨0x90400, 4, 0, 16, 1, false⟩

/-! BRG_SWA: slave window form (13_bridges.md). -/
def BRG_SWA_ASP : Fld := ⟨0x90800, 16, 0, 0, 2, false⟩
def BRG_SWA_SUP : Fld := ⟨0x90800, 16, 0, 2, 1, false⟩
def BRG_SWA_USR : Fld := ⟨0x90800, 16, 0, 3, 1, false⟩
def BRG_SWA_PROG : Fld := ⟨0x90800, 16, 0, 4, 1, false⟩
def BRG_SWA_SIZESH : Fld := ⟨0x90800, 16, 0, 5, 5, false⟩
def BRG_SWA_VALID : Fld := ⟨0x90800, 16, 0, 10, 1, false⟩
def BRG_SWA_LOCKEN : Fld := ⟨0x90800, 16, 0, 11, 1, false⟩
def BRG_SWA_RDONLY : Fld := ⟨0x90800, 16, 0, 12, 1, false⟩
def BRG_SWA_POSTW : Fld := ⟨0x90800, 16, 0, 13, 1, false⟩

/-! BRG_SWB: slave window base (13_bridges.md). -/
def BRG_SWB_BASE : Fld := ⟨0x90804, 16, 0, 0, 32, false⟩

/-! BRG_SWC: slave window target (13_bridges.md). -/
def BRG_SWC_NODE : Fld := ⟨0x90808, 16, 0, 0, 16, false⟩
def BRG_SWC_DIE : Fld := ⟨0x90808, 16, 0, 16, 3, false⟩
def BRG_SWC_SPACE : Fld := ⟨0x90808, 16, 0, 19, 5, false⟩
def BRG_SWC_OFFHI : Fld := ⟨0x90808, 16, 0, 24, 8, false⟩

/-! BRG_SWD: slave window offset (13_bridges.md). -/
def BRG_SWD_OFFLO : Fld := ⟨0x9080C, 16, 0, 0, 32, false⟩

/-! BRG_MMA: master map range (13_bridges.md). -/
def BRG_MMA_START : Fld := ⟨0x90A00, 8, 0, 0, 16, false⟩
def BRG_MMA_END : Fld := ⟨0x90A00, 8, 0, 16, 16, false⟩

/-! BRG_MMB: master map form (13_bridges.md). -/
def BRG_MMB_XLATE : Fld := ⟨0x90A04, 8, 0, 0, 16, false⟩
def BRG_MMB_AM : Fld := ⟨0x90A04, 8, 0, 16, 6, false⟩
def BRG_MMB_D32EN : Fld := ⟨0x90A04, 8, 0, 22, 1, false⟩
def BRG_MMB_VALID : Fld := ⟨0x90A04, 8, 0, 23, 1, false⟩

/-! BRG_WINA: window slot target (13_bridges.md). -/
def BRG_WINA_NODE : Fld := ⟨0x91000, 8, 0, 0, 16, false⟩
def BRG_WINA_DIE : Fld := ⟨0x91000, 8, 0, 16, 3, false⟩
def BRG_WINA_SPACE : Fld := ⟨0x91000, 8, 0, 19, 5, false⟩
def BRG_WINA_VALID : Fld := ⟨0x91000, 8, 0, 24, 1, false⟩
def BRG_WINA_RDONLY : Fld := ⟨0x91000, 8, 0, 25, 1, false⟩

/-! BRG_WINB: window slot offset (13_bridges.md). -/
def BRG_WINB_OFFHI : Fld := ⟨0x91004, 8, 0, 0, 10, false⟩

/-! WLH_HUC: bank capacitance (14_wellhouse_power.md). -/
def WLH_HUC_C : Fld := ⟨0xA0000, 0, 0, 0, 24, true⟩

/-! WLH_HUV: bank limits (14_wellhouse_power.md). -/
def WLH_HUV_VMIN : Fld := ⟨0xA0004, 0, 0, 0, 16, true⟩
def WLH_HUV_HUTCHG : Fld := ⟨0xA0004, 0, 0, 16, 8, true⟩

/-! WLH_EDUSK: hold-up terms of R121 (14_wellhouse_power.md). -/
def WLH_EDUSK_VALUE : Fld := ⟨0xA0008, 0, 0, 0, 24, true⟩

/-! WLH_EENTRY: hold-up terms of R121 (14_wellhouse_power.md). -/
def WLH_EENTRY_VALUE : Fld := ⟨0xA000C, 0, 0, 0, 24, true⟩

/-! WLH_INWIN: input window (14_wellhouse_power.md). -/
def WLH_INWIN_UVON : Fld := ⟨0xA0010, 0, 0, 0, 10, true⟩
def WLH_INWIN_UVOFF : Fld := ⟨0xA0010, 0, 0, 10, 10, true⟩
def WLH_INWIN_OVON : Fld := ⟨0xA0010, 0, 0, 20, 10, true⟩

/-! WLH_INTIM: input timing (14_wellhouse_power.md). -/
def WLH_INTIM_UVDEB : Fld := ⟨0xA0014, 0, 0, 0, 8, true⟩
def WLH_INTIM_TINS : Fld := ⟨0xA0014, 0, 0, 8, 8, true⟩
def WLH_INTIM_RETRY : Fld := ⟨0xA0014, 0, 0, 16, 1, true⟩

/-! WLH_LIM: current limit (14_wellhouse_power.md). -/
def WLH_LIM_VLIM : Fld := ⟨0xA0018, 0, 0, 0, 6, true⟩
def WLH_LIM_TFLT : Fld := ⟨0xA0018, 0, 0, 6, 8, true⟩
def WLH_LIM_RHS : Fld := ⟨0xA0018, 0, 0, 14, 16, true⟩

/-! WLH_SHA: metering shunts (14_wellhouse_power.md). -/
def WLH_SHA_RSLO : Fld := ⟨0xA001C, 0, 0, 0, 16, true⟩
def WLH_SHA_RSHI : Fld := ⟨0xA001C, 0, 0, 16, 16, true⟩

/-! WLH_SHF: metering shunts (14_wellhouse_power.md). -/
def WLH_SHF_RSLO : Fld := ⟨0xA0020, 0, 0, 0, 16, true⟩
def WLH_SHF_RSHI : Fld := ⟨0xA0020, 0, 0, 16, 16, true⟩

/-! WLH_FCFG: field feeds (14_wellhouse_power.md). -/
def WLH_FCFG_FEN : Fld := ⟨0xA0024, 0, 0, 0, 1, true⟩
def WLH_FCFG_FPRI : Fld := ⟨0xA0024, 0, 0, 1, 1, true⟩
def WLH_FCFG_FRETEN : Fld := ⟨0xA0024, 0, 0, 2, 1, true⟩
def WLH_FCFG_FAUTO : Fld := ⟨0xA0024, 0, 0, 3, 1, true⟩
def WLH_FCFG_FSLEEP : Fld := ⟨0xA0024, 0, 0, 4, 1, true⟩
def WLH_FCFG_BBM : Fld := ⟨0xA0024, 0, 0, 5, 8, true⟩
def WLH_FCFG_FRET : Fld := ⟨0xA0024, 0, 0, 13, 8, true⟩

/-! WLH_FWIN: field window (14_wellhouse_power.md). -/
def WLH_FWIN_FUV : Fld := ⟨0xA0028, 0, 0, 0, 10, true⟩
def WLH_FWIN_FOV : Fld := ⟨0xA0028, 0, 0, 10, 10, true⟩
def WLH_FWIN_FDEB : Fld := ⟨0xA0028, 0, 0, 20, 8, true⟩

/-! WLH_FOC: field overcurrent (14_wellhouse_power.md). -/
def WLH_FOC_FOC : Fld := ⟨0xA002C, 0, 0, 0, 16, true⟩
def WLH_FOC_FOCT : Fld := ⟨0xA002C, 0, 0, 16, 8, true⟩

/-! WLH_MISC: power-good floor and link timeout (14_wellhouse_power.md). -/
def WLH_MISC_PGUV : Fld := ⟨0xA0030, 0, 0, 0, 10, true⟩
def WLH_MISC_WLHTO : Fld := ⟨0xA0030, 0, 0, 10, 8, true⟩

/-! WLH_STAT: Wellhouse state (14_wellhouse_power.md). -/
def WLH_STAT_HSSTATE : Fld := ⟨0xA0040, 0, 0, 0, 3, false⟩
def WLH_STAT_PG : Fld := ⟨0xA0040, 0, 0, 3, 1, false⟩
def WLH_STAT_PWREN : Fld := ⟨0xA0040, 0, 0, 4, 1, false⟩
def WLH_STAT_AOK : Fld := ⟨0xA0040, 0, 0, 5, 1, false⟩
def WLH_STAT_BOK : Fld := ⟨0xA0040, 0, 0, 6, 1, false⟩
def WLH_STAT_IDAON : Fld := ⟨0xA0040, 0, 0, 7, 1, false⟩
def WLH_STAT_IDBON : Fld := ⟨0xA0040, 0, 0, 8, 1, false⟩
def WLH_STAT_FSEL : Fld := ⟨0xA0040, 0, 0, 9, 2, false⟩
def WLH_STAT_AUTO : Fld := ⟨0xA0040, 0, 0, 11, 1, false⟩
def WLH_STAT_EVALID : Fld := ⟨0xA0040, 0, 0, 12, 1, false⟩
def WLH_STAT_RETRYN : Fld := ⟨0xA0040, 0, 0, 13, 2, false⟩
def WLH_STAT_CMDDIE : Fld := ⟨0xA0040, 0, 0, 15, 1, false⟩

/-! WLH_FLAGS: events (14_wellhouse_power.md). -/
def WLH_FLAGS_TMREXP : Fld := ⟨0xA0044, 0, 0, 0, 1, true⟩
def WLH_FLAGS_FASTTRIP : Fld := ⟨0xA0044, 0, 0, 1, 1, true⟩
def WLH_FLAGS_OVEVT : Fld := ⟨0xA0044, 0, 0, 2, 1, true⟩
def WLH_FLAGS_LOSSA : Fld := ⟨0xA0044, 0, 0, 3, 1, true⟩
def WLH_FLAGS_LOSSB : Fld := ⟨0xA0044, 0, 0, 4, 1, true⟩
def WLH_FLAGS_REVA : Fld := ⟨0xA0044, 0, 0, 5, 1, true⟩
def WLH_FLAGS_REVB : Fld := ⟨0xA0044, 0, 0, 6, 1, true⟩
def WLH_FLAGS_FLDSW : Fld := ⟨0xA0044, 0, 0, 7, 1, true⟩
def WLH_FLAGS_FLDLOSS : Fld := ⟨0xA0044, 0, 0, 8, 1, true⟩
def WLH_FLAGS_FOCLAT : Fld := ⟨0xA0044, 0, 0, 9, 1, true⟩
def WLH_FLAGS_HUFLT : Fld := ⟨0xA0044, 0, 0, 10, 1, true⟩
def WLH_FLAGS_AUTOENT : Fld := ⟨0xA0044, 0, 0, 11, 1, true⟩
def WLH_FLAGS_LINK0 : Fld := ⟨0xA0044, 0, 0, 12, 1, true⟩
def WLH_FLAGS_LINK1 : Fld := ⟨0xA0044, 0, 0, 13, 1, true⟩

/-! WLH_CNT: counts (14_wellhouse_power.md). -/
def WLH_CNT_FASTCNT : Fld := ⟨0xA0048, 0, 0, 0, 8, true⟩
def WLH_CNT_REVCNT : Fld := ⟨0xA0048, 0, 0, 8, 8, true⟩
def WLH_CNT_FLDSWCNT : Fld := ⟨0xA0048, 0, 0, 16, 8, true⟩
def WLH_CNT_MARGIN : Fld := ⟨0xA0048, 0, 0, 24, 8, true⟩

/-! WLH_FCMD: field command (14_wellhouse_power.md). -/
def WLH_FCMD_CMD : Fld := ⟨0xA004C, 0, 0, 0, 2, true⟩

/-! WLH_HUE: hold-up energy (14_wellhouse_power.md). -/
def WLH_HUE_E : Fld := ⟨0xA0050, 0, 0, 0, 24, false⟩

/-! WLH_VAB: voltages (14_wellhouse_power.md). -/
def WLH_VAB_VLO : Fld := ⟨0xA0080, 0, 0, 0, 16, false⟩
def WLH_VAB_VHI : Fld := ⟨0xA0080, 0, 0, 16, 16, false⟩

/-! WLH_VOH: voltages (14_wellhouse_power.md). -/
def WLH_VOH_VLO : Fld := ⟨0xA0084, 0, 0, 0, 16, false⟩
def WLH_VOH_VHI : Fld := ⟨0xA0084, 0, 0, 16, 16, false⟩

/-! WLH_VF: voltages (14_wellhouse_power.md). -/
def WLH_VF_VLO : Fld := ⟨0xA0088, 0, 0, 0, 16, false⟩
def WLH_VF_VHI : Fld := ⟨0xA0088, 0, 0, 16, 16, false⟩

/-! WLH_VFLD: voltages (14_wellhouse_power.md). -/
def WLH_VFLD_VLO : Fld := ⟨0xA008C, 0, 0, 0, 16, false⟩
def WLH_VFLD_VHI : Fld := ⟨0xA008C, 0, 0, 16, 16, false⟩

/-! WLH_IAB: currents (14_wellhouse_power.md). -/
def WLH_IAB_ILO : Fld := ⟨0xA0090, 0, 0, 0, 16, false⟩
def WLH_IAB_IHI : Fld := ⟨0xA0090, 0, 0, 16, 16, false⟩

/-! WLH_IF: currents (14_wellhouse_power.md). -/
def WLH_IF_ILO : Fld := ⟨0xA0094, 0, 0, 0, 16, false⟩
def WLH_IF_IHI : Fld := ⟨0xA0094, 0, 0, 16, 16, false⟩

/-! WLH_IHS: currents (14_wellhouse_power.md). -/
def WLH_IHS_ILO : Fld := ⟨0xA0098, 0, 0, 0, 16, false⟩
def WLH_IHS_IHI : Fld := ⟨0xA0098, 0, 0, 16, 16, false⟩

/-! WLH_PA: power (14_wellhouse_power.md). -/
def WLH_PA_P : Fld := ⟨0xA00A0, 0, 0, 0, 32, false⟩

/-! WLH_PB: power (14_wellhouse_power.md). -/
def WLH_PB_P : Fld := ⟨0xA00A4, 0, 0, 0, 32, false⟩

/-! WLH_PF1: power (14_wellhouse_power.md). -/
def WLH_PF1_P : Fld := ⟨0xA00A8, 0, 0, 0, 32, false⟩

/-! WLH_PF2: power (14_wellhouse_power.md). -/
def WLH_PF2_P : Fld := ⟨0xA00AC, 0, 0, 0, 32, false⟩

/-! WLH_ELO: energy (14_wellhouse_power.md). -/
def WLH_ELO_VALUE : Fld := ⟨0xA00C0, 8, 0, 0, 32, false⟩

/-! WLH_EHI: energy (14_wellhouse_power.md). -/
def WLH_EHI_VALUE : Fld := ⟨0xA00C4, 8, 0, 0, 32, false⟩

/-! LDG_CFG: ledger configuration (15_ledger_and_event_recorder.md). -/
def LDG_CFG_SEALKEY : Fld := ⟨0xB0000, 0, 0, 0, 6, true⟩
def LDG_CFG_PAGE : Fld := ⟨0xB0000, 0, 0, 7, 1, true⟩
def LDG_CFG_SIZE : Fld := ⟨0xB0000, 0, 0, 8, 3, true⟩
def LDG_CFG_LEDGSZ : Fld := ⟨0xB0000, 0, 0, 12, 8, true⟩

/-! LDG_STAT: ledger state (15_ledger_and_event_recorder.md). -/
def LDG_STAT_STAGED : Fld := ⟨0xB0004, 0, 0, 0, 5, true⟩
def LDG_STAT_READY : Fld := ⟨0xB0004, 0, 0, 5, 1, true⟩
def LDG_STAT_WRAPPED : Fld := ⟨0xB0004, 0, 0, 6, 1, true⟩
def LDG_STAT_NEARFULL : Fld := ⟨0xB0004, 0, 0, 7, 1, true⟩
def LDG_STAT_NVMERR : Fld := ⟨0xB0004, 0, 0, 8, 1, true⟩
def LDG_STAT_TORN : Fld := ⟨0xB0004, 0, 0, 9, 1, true⟩

/-! LDG_NEXTLO: sequence bounds (15_ledger_and_event_recorder.md). -/
def LDG_NEXTLO_VALUE : Fld := ⟨0xB0008, 0, 0, 0, 32, true⟩

/-! LDG_NEXTHI: sequence bounds (15_ledger_and_event_recorder.md). -/
def LDG_NEXTHI_VALUE : Fld := ⟨0xB000C, 0, 0, 0, 32, true⟩

/-! LDG_FIRSTLO: sequence bounds (15_ledger_and_event_recorder.md). -/
def LDG_FIRSTLO_VALUE : Fld := ⟨0xB0010, 0, 0, 0, 32, true⟩

/-! LDG_FIRSTHI: sequence bounds (15_ledger_and_event_recorder.md). -/
def LDG_FIRSTHI_VALUE : Fld := ⟨0xB0014, 0, 0, 0, 32, true⟩

/-! LDG_MARKLO: archive mark (15_ledger_and_event_recorder.md). -/
def LDG_MARKLO_MARK : Fld := ⟨0xB0018, 0, 0, 0, 32, true⟩

/-! LDG_MARKHI: archive mark (15_ledger_and_event_recorder.md). -/
def LDG_MARKHI_MARK : Fld := ⟨0xB001C, 0, 0, 0, 32, true⟩

/-! LDG_CNT: ledger counts (15_ledger_and_event_recorder.md). -/
def LDG_CNT_FLUSHED : Fld := ⟨0xB0020, 0, 0, 0, 16, true⟩
def LDG_CNT_REWRITE : Fld := ⟨0xB0020, 0, 0, 16, 8, true⟩
def LDG_CNT_MARGIN : Fld := ⟨0xB0020, 0, 0, 24, 8, true⟩

/-! EVR_SEQ: record bounds (15_ledger_and_event_recorder.md). -/
def EVR_SEQ_VALUE : Fld := ⟨0xC0000, 0, 0, 0, 32, false⟩

/-! EVR_OLDEST: record bounds (15_ledger_and_event_recorder.md). -/
def EVR_OLDEST_VALUE : Fld := ⟨0xC0004, 0, 0, 0, 32, false⟩

/-! EVR_COPY: record bounds (15_ledger_and_event_recorder.md). -/
def EVR_COPY_VALUE : Fld := ⟨0xC0008, 0, 0, 0, 32, false⟩

/-! EVR_CLR: clear (15_ledger_and_event_recorder.md). -/
def EVR_CLR_CLR : Fld := ⟨0xC000C, 0, 0, 0, 1, false⟩
def EVR_CLR_CLRST : Fld := ⟨0xC000C, 0, 0, 1, 2, false⟩

/-! EVR_CNT: losses (15_ledger_and_event_recorder.md). -/
def EVR_CNT_DROPPED : Fld := ⟨0xC0010, 0, 0, 0, 16, false⟩
def EVR_CNT_NOTCOPIED : Fld := ⟨0xC0010, 0, 0, 16, 16, false⟩

/-! EVR_CHCFG: channel attributes (15_ledger_and_event_recorder.md). -/
def EVR_CHCFG_PRIV : Fld := ⟨0xC0400, 4, 0, 0, 1, false⟩
def EVR_CHCFG_FREEZE : Fld := ⟨0xC0400, 4, 0, 1, 1, false⟩

/-! JRN_CFG: journal configuration (16_replay_journal.md). -/
def JRN_CFG_EN : Fld := ⟨0xD0000, 0, 0, 0, 1, false⟩
def JRN_CFG_MODE : Fld := ⟨0xD0000, 0, 0, 1, 1, false⟩
def JRN_CFG_DUSKFRZ : Fld := ⟨0xD0000, 0, 0, 2, 1, false⟩
def JRN_CFG_POST : Fld := ⟨0xD0000, 0, 0, 8, 6, false⟩
def JRN_CFG_PHSC : Fld := ⟨0xD0000, 0, 0, 16, 8, false⟩

/-! JRN_CKPT: checkpoint period (16_replay_journal.md). -/
def JRN_CKPT_PERIOD : Fld := ⟨0xD0004, 0, 0, 0, 16, false⟩

/-! JRN_CMD: freeze command (16_replay_journal.md). -/
def JRN_CMD_FREEZE : Fld := ⟨0xD0008, 0, 0, 0, 1, true⟩

/-! JRN_REARM: re-arm (16_replay_journal.md). -/
def JRN_REARM_REARM : Fld := ⟨0xD000C, 0, 0, 0, 1, true⟩

/-! JRN_STAT: journal state (16_replay_journal.md). -/
def JRN_STAT_STATE : Fld := ⟨0xD0010, 0, 0, 0, 4, false⟩
def JRN_STAT_CKOPEN : Fld := ⟨0xD0010, 0, 0, 4, 1, false⟩
def JRN_STAT_LOSS : Fld := ⟨0xD0010, 0, 0, 5, 1, false⟩
def JRN_STAT_FRZSRC : Fld := ⟨0xD0010, 0, 0, 6, 2, false⟩
def JRN_STAT_DIV : Fld := ⟨0xD0010, 0, 0, 8, 1, false⟩
def JRN_STAT_RMISM : Fld := ⟨0xD0010, 0, 0, 9, 1, false⟩
def JRN_STAT_FRZCHAN : Fld := ⟨0xD0010, 0, 0, 16, 8, false⟩

/-! JRN_NEXT: window indices (16_replay_journal.md). -/
def JRN_NEXT_INDEX : Fld := ⟨0xD0014, 0, 0, 0, 19, false⟩
def JRN_NEXT_WRAPS : Fld := ⟨0xD0014, 0, 0, 19, 13, false⟩

/-! JRN_OLDEST: window indices (16_replay_journal.md). -/
def JRN_OLDEST_INDEX : Fld := ⟨0xD0018, 0, 0, 0, 19, false⟩
def JRN_OLDEST_WRAPS : Fld := ⟨0xD0018, 0, 0, 19, 13, false⟩

/-! JRN_FRZ: window indices (16_replay_journal.md). -/
def JRN_FRZ_INDEX : Fld := ⟨0xD001C, 0, 0, 0, 19, false⟩
def JRN_FRZ_WRAPS : Fld := ⟨0xD001C, 0, 0, 19, 13, false⟩

/-! JRN_CKLAST: window indices (16_replay_journal.md). -/
def JRN_CKLAST_INDEX : Fld := ⟨0xD0020, 0, 0, 0, 19, false⟩
def JRN_CKLAST_WRAPS : Fld := ⟨0xD0020, 0, 0, 19, 13, false⟩

/-! JRN_FRZCYCLO: freeze cycle (16_replay_journal.md). -/
def JRN_FRZCYCLO_VALUE : Fld := ⟨0xD0024, 0, 0, 0, 32, false⟩

/-! JRN_FRZCYCHI: freeze cycle (16_replay_journal.md). -/
def JRN_FRZCYCHI_VALUE : Fld := ⟨0xD0028, 0, 0, 0, 32, false⟩

/-! JRN_CNT: journal counts (16_replay_journal.md). -/
def JRN_CNT_LOSSCNT : Fld := ⟨0xD002C, 0, 0, 0, 16, false⟩
def JRN_CNT_FRZIGN : Fld := ⟨0xD002C, 0, 0, 16, 8, false⟩
def JRN_CNT_MARGIN : Fld := ⟨0xD002C, 0, 0, 24, 8, false⟩

/-! JRN_RATE: journal rate (16_replay_journal.md). -/
def JRN_RATE_RATEHW : Fld := ⟨0xD0030, 0, 0, 0, 24, false⟩

/-! JRN_UNDRAIN: stream backlog (16_replay_journal.md). -/
def JRN_UNDRAIN_WORDS : Fld := ⟨0xD0034, 0, 0, 0, 20, false⟩

/-! JRN_RCTL: replay control (16_replay_journal.md). -/
def JRN_RCTL_CMD : Fld := ⟨0xD0100, 0, 0, 0, 3, false⟩
def JRN_RCTL_STOPEN : Fld := ⟨0xD0100, 0, 0, 3, 1, false⟩
def JRN_RCTL_CONT : Fld := ⟨0xD0100, 0, 0, 4, 1, false⟩

/-! JRN_RSTART: replay indices (16_replay_journal.md). -/
def JRN_RSTART_INDEX : Fld := ⟨0xD0104, 0, 0, 0, 19, false⟩

/-! JRN_RFEED: replay indices (16_replay_journal.md). -/
def JRN_RFEED_INDEX : Fld := ⟨0xD0108, 0, 0, 0, 19, false⟩

/-! JRN_RSTOPLO: replay cycles (16_replay_journal.md). -/
def JRN_RSTOPLO_VALUE : Fld := ⟨0xD010C, 0, 0, 0, 32, false⟩

/-! JRN_RSTOPHI: replay cycles (16_replay_journal.md). -/
def JRN_RSTOPHI_VALUE : Fld := ⟨0xD0110, 0, 0, 0, 32, false⟩

/-! JRN_RCYCLO: replay cycles (16_replay_journal.md). -/
def JRN_RCYCLO_VALUE : Fld := ⟨0xD0114, 0, 0, 0, 32, false⟩

/-! JRN_RCYCHI: replay cycles (16_replay_journal.md). -/
def JRN_RCYCHI_VALUE : Fld := ⟨0xD0118, 0, 0, 0, 32, false⟩

/-! JRN_DIVLO: replay cycles (16_replay_journal.md). -/
def JRN_DIVLO_VALUE : Fld := ⟨0xD011C, 0, 0, 0, 32, false⟩

/-! JRN_DIVHI: replay cycles (16_replay_journal.md). -/
def JRN_DIVHI_VALUE : Fld := ⟨0xD0120, 0, 0, 0, 32, false⟩

/-! JRN_DIVMASK: divergent components (16_replay_journal.md). -/
def JRN_DIVMASK_MASK : Fld := ⟨0xD0124, 0, 0, 0, 8, false⟩
def JRN_DIVMASK_COMPARED : Fld := ⟨0xD0124, 0, 0, 16, 16, false⟩

/-! JRN_DIVEXP: component values (16_replay_journal.md). -/
def JRN_DIVEXP_CRC : Fld := ⟨0xD0140, 4, 0, 0, 32, false⟩

/-! JRN_DIVGOT: component values (16_replay_journal.md). -/
def JRN_DIVGOT_CRC : Fld := ⟨0xD0160, 4, 0, 0, 32, false⟩

/-! VLT_STAT: vault state (17_vault_and_attestation.md). -/
def VLT_STAT_TREEOK : Fld := ⟨0xE0000, 0, 0, 0, 1, true⟩
def VLT_STAT_CACHEOK : Fld := ⟨0xE0000, 0, 0, 1, 1, true⟩
def VLT_STAT_ENTOK : Fld := ⟨0xE0000, 0, 0, 2, 1, true⟩
def VLT_STAT_TAMPNOW : Fld := ⟨0xE0000, 0, 0, 3, 1, true⟩
def VLT_STAT_VBATLOSS : Fld := ⟨0xE0000, 0, 0, 4, 1, true⟩
def VLT_STAT_TLOGN : Fld := ⟨0xE0000, 0, 0, 8, 4, true⟩

/-! VLT_ERR: vault errors (17_vault_and_attestation.md). -/
def VLT_ERR_REVOKED : Fld := ⟨0xE0004, 0, 0, 0, 1, true⟩
def VLT_ERR_PAR : Fld := ⟨0xE0004, 0, 0, 1, 1, true⟩
def VLT_ERR_ENT : Fld := ⟨0xE0004, 0, 0, 2, 1, true⟩
def VLT_ERR_ENGREF : Fld := ⟨0xE0004, 0, 0, 3, 1, true⟩
def VLT_ERR_ABORT : Fld := ⟨0xE0004, 0, 0, 4, 1, true⟩
def VLT_ERR_TAMPER : Fld := ⟨0xE0004, 0, 0, 5, 1, true⟩
def VLT_ERR_LASTSLOT : Fld := ⟨0xE0004, 0, 0, 16, 6, true⟩

/-! VLT_REVOKE: revocation (17_vault_and_attestation.md). -/
def VLT_REVOKE_SLOT : Fld := ⟨0xE0008, 0, 0, 0, 6, true⟩

/-! VLT_PCC: power-cycle count (17_vault_and_attestation.md). -/
def VLT_PCC_PCC : Fld := ⟨0xE000C, 0, 0, 0, 24, true⟩

/-! VLT_CALS: calendar (17_vault_and_attestation.md). -/
def VLT_CALS_VALUE : Fld := ⟨0xE0010, 0, 0, 0, 32, true⟩

/-! VLT_CALF: calendar (17_vault_and_attestation.md). -/
def VLT_CALF_VALUE : Fld := ⟨0xE0014, 0, 0, 0, 32, true⟩

/-! VLT_TAMPCFG: tamper sources (17_vault_and_attestation.md). -/
def VLT_TAMPCFG_LOOPEN : Fld := ⟨0xE0018, 0, 0, 0, 4, true⟩
def VLT_TAMPCFG_VEN : Fld := ⟨0xE0018, 0, 0, 4, 1, true⟩
def VLT_TAMPCFG_CKEN : Fld := ⟨0xE0018, 0, 0, 5, 1, true⟩
def VLT_TAMPCFG_TEN : Fld := ⟨0xE0018, 0, 0, 6, 1, true⟩

/-! VLT_TCLR: tamper log clear (17_vault_and_attestation.md). -/
def VLT_TCLR_CLR : Fld := ⟨0xE001C, 0, 0, 0, 1, true⟩

/-! VLT_ACMD: attestation request (17_vault_and_attestation.md). -/
def VLT_ACMD_GO : Fld := ⟨0xE0020, 0, 0, 0, 1, true⟩

/-! VLT_ASTAT: attestation status (17_vault_and_attestation.md). -/
def VLT_ASTAT_STATE : Fld := ⟨0xE0024, 0, 0, 0, 2, true⟩
def VLT_ASTAT_REASON : Fld := ⟨0xE0024, 0, 0, 4, 3, true⟩
def VLT_ASTAT_LEN : Fld := ⟨0xE0024, 0, 0, 8, 13, true⟩

/-! VLT_ANONCE: attestation nonce (17_vault_and_attestation.md). -/
def VLT_ANONCE_NONCE : Fld := ⟨0xE0040, 4, 0, 0, 32, true⟩

/-! VLT_SLOT: slot state (17_vault_and_attestation.md). -/
def VLT_SLOT_VALID : Fld := ⟨0xE0100, 4, 0, 0, 1, false⟩
def VLT_SLOT_REVOKED : Fld := ⟨0xE0100, 4, 0, 1, 1, false⟩
def VLT_SLOT_TYPE : Fld := ⟨0xE0100, 4, 0, 2, 2, false⟩
def VLT_SLOT_ENGINES : Fld := ⟨0xE0100, 4, 0, 4, 6, false⟩
def VLT_SLOT_PARENT : Fld := ⟨0xE0100, 4, 0, 10, 8, false⟩
def VLT_SLOT_DEPTH : Fld := ⟨0xE0100, 4, 0, 18, 3, false⟩
def VLT_SLOT_CACHED : Fld := ⟨0xE0100, 4, 0, 21, 1, false⟩
def VLT_SLOT_IMPORTED : Fld := ⟨0xE0100, 4, 0, 22, 1, false⟩

/-! VLT_TLOGA: tamper log entry (17_vault_and_attestation.md). -/
def VLT_TLOGA_VALUE : Fld := ⟨0xE0200, 8, 0, 0, 32, true⟩

/-! VLT_TLOGB: tamper log entry (17_vault_and_attestation.md). -/
def VLT_TLOGB_VALUE : Fld := ⟨0xE0204, 8, 0, 0, 32, true⟩

/-! VLT_ASTMT: statement buffer (17_vault_and_attestation.md). -/
def VLT_ASTMT_BYTES : Fld := ⟨0xE1000, 4, 0, 0, 32, true⟩

/-! MGT_STAT: management state (18_management_and_update.md). -/
def MGT_STAT_PAIR : Fld := ⟨0xF0000, 0, 0, 0, 2, false⟩
def MGT_STAT_MIRROR : Fld := ⟨0xF0000, 0, 0, 2, 1, false⟩
def MGT_STAT_PENDING : Fld := ⟨0xF0000, 0, 0, 3, 1, false⟩
def MGT_STAT_HOFAIL : Fld := ⟨0xF0000, 0, 0, 4, 1, false⟩

/-! MGT_VER: running versions (18_management_and_update.md). -/
def MGT_VER_FWVER : Fld := ⟨0xF0004, 0, 0, 0, 16, false⟩
def MGT_VER_PPV : Fld := ⟨0xF0004, 0, 0, 16, 8, false⟩
def MGT_VER_HOFMT : Fld := ⟨0xF0004, 0, 0, 24, 8, false⟩

/-! MGT_HBEAT: heartbeat (18_management_and_update.md). -/
def MGT_HBEAT_COUNT : Fld := ⟨0xF0008, 0, 0, 0, 32, false⟩

/-! MGT_CFG: loader configuration (18_management_and_update.md). -/
def MGT_CFG_IMGKEY : Fld := ⟨0xF000C, 0, 0, 0, 6, true⟩
def MGT_CFG_RBWB : Fld := ⟨0xF000C, 0, 0, 6, 1, true⟩

/-! MGT_UCMD: update command (18_management_and_update.md). -/
def MGT_UCMD_CMD : Fld := ⟨0xF0010, 0, 0, 0, 2, true⟩

/-! MGT_UDATA: image stream (18_management_and_update.md). -/
def MGT_UDATA_DATA : Fld := ⟨0xF0014, 0, 0, 0, 32, true⟩

/-! MGT_USTAT: update state (18_management_and_update.md). -/
def MGT_USTAT_USTATE : Fld := ⟨0xF0018, 0, 0, 0, 3, true⟩
def MGT_USTAT_HODIE : Fld := ⟨0xF0018, 0, 0, 3, 3, true⟩
def MGT_USTAT_CODE : Fld := ⟨0xF0018, 0, 0, 8, 8, true⟩
def MGT_USTAT_BLACKMAX : Fld := ⟨0xF0018, 0, 0, 16, 16, true⟩

/-! MGT_ULEN: bytes staged (18_management_and_update.md). -/
def MGT_ULEN_BYTES : Fld := ⟨0xF001C, 0, 0, 0, 26, true⟩

/-! MGT_FLOOR: firmware floor (18_management_and_update.md). -/
def MGT_FLOOR_FLOOR : Fld := ⟨0xF0020, 0, 0, 0, 16, true⟩
def MGT_FLOOR_RAISES : Fld := ⟨0xF0020, 0, 0, 16, 6, true⟩

/-! MGT_CNT: management counts (18_management_and_update.md). -/
def MGT_CNT_LOCKERR : Fld := ⟨0xF0024, 0, 0, 0, 8, false⟩
def MGT_CNT_CECNT : Fld := ⟨0xF0024, 0, 0, 8, 8, false⟩
def MGT_CNT_RESTART : Fld := ⟨0xF0024, 0, 0, 16, 4, false⟩
def MGT_CNT_MARGIN : Fld := ⟨0xF0024, 0, 0, 24, 8, false⟩

/-! FLT_COND: guarantee conditions (19_single_fault_guarantee.md). -/
def FLT_COND_COND : Fld := ⟨0x100000, 0, 0, 0, 9, true⟩
def FLT_COND_GUAR : Fld := ⟨0x100000, 0, 0, 15, 1, true⟩

/-! FLT_LASTA: last report (19_single_fault_guarantee.md). -/
def FLT_LASTA_CODE : Fld := ⟨0x100004, 0, 0, 0, 8, false⟩
def FLT_LASTA_DIE : Fld := ⟨0x100004, 0, 0, 8, 3, false⟩
def FLT_LASTA_UNIT : Fld := ⟨0x100004, 0, 0, 16, 13, false⟩

/-! FLT_LASTB: last report cycle (19_single_fault_guarantee.md). -/
def FLT_LASTB_CYCLE : Fld := ⟨0x100008, 0, 0, 0, 32, false⟩

/-! FLT_TOTAL: report count (19_single_fault_guarantee.md). -/
def FLT_TOTAL_REPORTS : Fld := ⟨0x10000C, 0, 0, 0, 16, false⟩
def FLT_TOTAL_MARGIN : Fld := ⟨0x10000C, 0, 0, 16, 16, false⟩

/-! FLT_SCLR: Safe cause clear (19_single_fault_guarantee.md). -/
def FLT_SCLR_CODE : Fld := ⟨0x100010, 0, 0, 0, 8, true⟩

/-! FLT_CODE: per-code state (19_single_fault_guarantee.md). -/
def FLT_CODE_COUNT : Fld := ⟨0x100100, 4, 0, 0, 8, false⟩
def FLT_CODE_ACTION : Fld := ⟨0x100100, 4, 0, 8, 2, false⟩
def FLT_CODE_RESTORE : Fld := ⟨0x100100, 4, 0, 10, 1, false⟩
def FLT_CODE_PRESENT : Fld := ⟨0x100100, 4, 0, 11, 1, false⟩
def FLT_CODE_SAFE : Fld := ⟨0x100100, 4, 0, 12, 1, false⟩
def FLT_CODE_RESTORES : Fld := ⟨0x100100, 4, 0, 16, 8, false⟩

end R

/-- The registers of block NOD. -/
def regsNOD : List RegDesc :=
  [⟨0x0, 1, 0, 1, 0, false, [⟨0, 8, .ro, .none, 33⟩, ⟨8, 4, .ro, .none, 0⟩, ⟨12, 4, .ro, .none, 0⟩, ⟨16, 3, .ro, .none, 0⟩]⟩,
   ⟨0x4, 1, 0, 1, 0, false, [⟨0, 16, .ro, .none, 0⟩, ⟨16, 6, .ro, .none, 0⟩]⟩,
   ⟨0x8, 1, 0, 1, 0, false, [⟨0, 4, .ro, .none, 1⟩, ⟨4, 1, .ro, .none, 0⟩, ⟨5, 1, .ro, .none, 0⟩, ⟨6, 1, .w1c, .opr, 0⟩, ⟨8, 8, .rw, .img, 3⟩, ⟨16, 4, .ro, .none, 0⟩]⟩,
   ⟨0xC, 1, 0, 1, 0, true, [⟨0, 4, .rw, .opr, 0⟩]⟩,
   ⟨0x10, 1, 0, 1, 0, true, [⟨0, 2, .ro, .none, 0⟩, ⟨2, 1, .ro, .none, 0⟩, ⟨3, 1, .ro, .none, 0⟩, ⟨4, 1, .ro, .none, 0⟩, ⟨5, 1, .ro, .none, 0⟩, ⟨6, 1, .ro, .none, 0⟩, ⟨7, 1, .ro, .none, 0⟩, ⟨8, 1, .ro, .none, 0⟩]⟩,
   ⟨0x14, 1, 0, 1, 0, true, [⟨0, 4, .ro, .none, 1⟩, ⟨4, 2, .ro, .none, 0⟩, ⟨6, 1, .ro, .none, 0⟩, ⟨7, 1, .ro, .none, 0⟩, ⟨16, 16, .ro, .none, 0⟩]⟩,
   ⟨0x18, 1, 0, 1, 0, true, [⟨0, 8, .ro, .none, 0⟩, ⟨8, 16, .ro, .none, 0⟩]⟩,
   ⟨0x1C, 1, 0, 1, 0, true, [⟨0, 8, .ro, .none, 0⟩, ⟨8, 8, .ro, .none, 0⟩, ⟨16, 16, .ro, .none, 0⟩]⟩,
   ⟨0x20, 1, 0, 1, 0, false, [⟨0, 8, .ro, .none, 0⟩, ⟨8, 1, .ro, .none, 0⟩]⟩,
   ⟨0x24, 1, 0, 1, 0, true, [⟨0, 16, .rc, .none, 0⟩, ⟨16, 16, .rc, .none, 0⟩]⟩,
   ⟨0x100, 16, 8, 1, 0, true, [⟨0, 16, .ro, .none, 0⟩, ⟨16, 3, .ro, .none, 0⟩, ⟨24, 8, .ro, .none, 255⟩]⟩,
   ⟨0x104, 16, 8, 1, 0, true, [⟨0, 32, .ro, .none, 0⟩]⟩]

/-- The registers of block RNG, part 0. -/
def regsRNG0 : List RegDesc :=
  [⟨0x10000, 1, 0, 1, 0, false, [⟨0, 8, .rw, .img, 0⟩, ⟨8, 1, .rw, .img, 0⟩, ⟨9, 2, .rw, .img, 0⟩, ⟨11, 1, .rw, .img, 0⟩, ⟨16, 6, .rw, .img, 0⟩]⟩,
   ⟨0x10004, 1, 0, 1, 0, false, [⟨0, 26, .rw, .img, 250000⟩]⟩,
   ⟨0x10008, 1, 0, 1, 0, false, [⟨0, 1, .rw, .img, 0⟩, ⟨1, 3, .rw, .img, 0⟩, ⟨16, 16, .rw, .img, 1⟩]⟩,
   ⟨0x1000C, 1, 0, 1, 0, false, [⟨0, 16, .rw, .img, 1⟩, ⟨16, 16, .rw, .img, 65535⟩]⟩,
   ⟨0x10010, 1, 0, 1, 0, false, [⟨0, 12, .rw, .img, 0⟩, ⟨16, 16, .rw, .img, 1000⟩]⟩,
   ⟨0x10014, 1, 0, 1, 0, false, [⟨0, 10, .rw, .img, 96⟩, ⟨10, 10, .rw, .img, 256⟩, ⟨20, 4, .rw, .img, 8⟩, ⟨24, 4, .rw, .img, 4⟩]⟩,
   ⟨0x10018, 1, 0, 1, 0, false, [⟨0, 16, .rw, .img, 100⟩, ⟨16, 16, .rw, .img, 2000⟩]⟩,
   ⟨0x1001C, 1, 0, 1, 0, false, [⟨0, 32, .ro, .none, 0⟩]⟩,
   ⟨0x10020, 1, 0, 1, 0, false, [⟨0, 8, .ro, .none, 0⟩, ⟨16, 16, .rc, .none, 0⟩]⟩,
   ⟨0x10024, 1, 0, 1, 0, false, [⟨0, 1, .w1c, .opr, 0⟩, ⟨1, 1, .w1c, .opr, 0⟩, ⟨2, 1, .w1c, .opr, 0⟩, ⟨3, 1, .w1c, .opr, 0⟩, ⟨4, 1, .w1c, .opr, 0⟩, ⟨5, 1, .w1c, .opr, 0⟩]⟩,
   ⟨0x10028, 1, 0, 1, 0, false, [⟨0, 16, .rc, .none, 0⟩, ⟨16, 16, .rc, .none, 0⟩]⟩,
   ⟨0x10100, 4, 64, 1, 0, false, [⟨0, 3, .ro, .none, 0⟩, ⟨4, 10, .ro, .none, 0⟩, ⟨16, 4, .ro, .none, 0⟩, ⟨20, 4, .ro, .none, 0⟩, ⟨24, 1, .ro, .none, 0⟩]⟩,
   ⟨0x10104, 4, 64, 1, 0, false, [⟨0, 16, .ro, .none, 0⟩, ⟨16, 2, .ro, .none, 0⟩, ⟨18, 8, .ro, .none, 0⟩]⟩,
   ⟨0x10108, 4, 64, 1, 0, false, [⟨0, 2, .rw, .amd, 0⟩]⟩,
   ⟨0x1010C, 4, 64, 1, 0, false, [⟨0, 16, .rc, .none, 0⟩, ⟨16, 16, .rc, .none, 0⟩]⟩,
   ⟨0x10110, 4, 64, 1, 0, false, [⟨0, 16, .rc, .none, 0⟩, ⟨16, 16, .rc, .none, 0⟩]⟩,
   ⟨0x10114, 4, 64, 1, 0, false, [⟨0, 16, .rc, .none, 0⟩, ⟨16, 16, .rc, .none, 0⟩]⟩,
   ⟨0x10118, 4, 64, 1, 0, false, [⟨0, 16, .rc, .none, 0⟩, ⟨16, 8, .rc, .none, 0⟩, ⟨24, 8, .rc, .none, 0⟩]⟩,
   ⟨0x10120, 4, 64, 4, 4, false, [⟨0, 16, .ro, .none, 0⟩, ⟨16, 16, .ro, .none, 0⟩]⟩,
   ⟨0x10200, 1, 0, 1, 0, false, [⟨0, 2, .rw, .img, 0⟩]⟩,
   ⟨0x10204, 1, 0, 1, 0, false, [⟨0, 16, .ro, .none, 0⟩, ⟨16, 1, .ro, .none, 0⟩, ⟨17, 1, .w1c, .opr, 0⟩, ⟨18, 1, .w1c, .opr, 0⟩]⟩,
   ⟨0x10208, 1, 0, 1, 0, false, [⟨0, 24, .ro, .none, 0⟩, ⟨24, 1, .w1c, .opr, 0⟩]⟩,
   ⟨0x1020C, 1, 0, 1, 0, false, [⟨0, 2, .ro, .none, 0⟩, ⟨2, 2, .ro, .none, 0⟩, ⟨24, 8, .rc, .none, 0⟩]⟩,
   ⟨0x10210, 1, 0, 1, 0, false, [⟨0, 8, .ro, .none, 0⟩, ⟨8, 8, .ro, .none, 0⟩, ⟨16, 1, .ro, .none, 0⟩, ⟨17, 1, .w1c, .opr, 0⟩, ⟨18, 1, .w1c, .opr, 0⟩, ⟨24, 8, .rc, .none, 0⟩]⟩]

/-- The registers of block RNG, part 1. -/
def regsRNG1 : List RegDesc :=
  [⟨0x10400, 254, 4, 1, 0, false, [⟨0, 16, .ro, .none, 0⟩, ⟨16, 1, .ro, .none, 0⟩, ⟨17, 1, .ro, .none, 0⟩, ⟨18, 1, .ro, .none, 0⟩, ⟨19, 3, .ro, .none, 0⟩]⟩,
   ⟨0x10800, 64, 8, 1, 0, false, [⟨0, 16, .rw, .img, 0⟩, ⟨16, 16, .rw, .img, 0⟩]⟩,
   ⟨0x10804, 64, 8, 1, 0, false, [⟨0, 16, .rw, .img, 0⟩, ⟨16, 3, .rw, .img, 0⟩, ⟨19, 1, .rw, .img, 0⟩]⟩]

/-- The registers of block SWC. -/
def regsSWC : List RegDesc :=
  [⟨0x20000, 1, 0, 1, 0, false, [⟨1, 3, .rw, .img, 4⟩]⟩,
   ⟨0x20004, 1, 0, 1, 0, false, [⟨0, 8, .rw, .img, 0⟩, ⟨8, 8, .rw, .img, 0⟩, ⟨16, 8, .rw, .img, 15⟩]⟩,
   ⟨0x20008, 1, 0, 1, 0, false, [⟨0, 18, .rw, .img, 512⟩]⟩,
   ⟨0x2000C, 1, 0, 1, 0, false, [⟨0, 18, .ro, .none, 0⟩, ⟨18, 10, .ro, .none, 0⟩]⟩,
   ⟨0x20010, 1, 0, 1, 0, false, [⟨0, 16, .rc, .none, 0⟩, ⟨16, 16, .rc, .none, 0⟩]⟩,
   ⟨0x20020, 1, 0, 1, 0, false, [⟨0, 10, .ro, .none, 0⟩, ⟨10, 2, .ro, .none, 0⟩, ⟨12, 13, .ro, .none, 0⟩]⟩,
   ⟨0x20024, 1, 0, 1, 0, false, [⟨0, 16, .ro, .none, 0⟩, ⟨16, 3, .ro, .none, 0⟩]⟩,
   ⟨0x20028, 1, 0, 1, 0, false, [⟨0, 16, .rc, .none, 0⟩, ⟨16, 16, .rc, .none, 0⟩]⟩,
   ⟨0x20100, 10, 4, 1, 0, false, [⟨0, 18, .rw, .img, 0⟩]⟩,
   ⟨0x20200, 10, 16, 4, 4, false, [⟨0, 16, .rw, .img, 0⟩, ⟨16, 16, .ro, .none, 0⟩]⟩,
   ⟨0x20300, 10, 16, 4, 4, false, [⟨0, 18, .ro, .none, 0⟩]⟩,
   ⟨0x20400, 10, 16, 1, 0, false, [⟨0, 32, .rc, .none, 0⟩]⟩,
   ⟨0x20404, 10, 16, 1, 0, false, [⟨0, 16, .rc, .none, 0⟩, ⟨16, 16, .rc, .none, 0⟩]⟩,
   ⟨0x20408, 10, 16, 1, 0, false, [⟨0, 16, .rc, .none, 0⟩, ⟨16, 4, .rc, .none, 0⟩]⟩,
   ⟨0x21000, 1024, 4, 1, 0, false, [⟨0, 10, .rw, .img, 0⟩, ⟨10, 13, .rw, .img, 0⟩, ⟨23, 1, .rw, .img, 0⟩]⟩]

/-- The registers of block CIS. -/
def regsCIS : List RegDesc :=
  [⟨0x30000, 1, 0, 1, 0, false, [⟨0, 1, .rw, .img, 1⟩]⟩,
   ⟨0x30004, 1, 0, 1, 0, false, [⟨0, 18, .rw, .img, 256⟩]⟩,
   ⟨0x30008, 1, 0, 1, 0, false, [⟨0, 18, .ro, .none, 196608⟩]⟩,
   ⟨0x3000C, 1, 0, 1, 0, false, [⟨0, 18, .ro, .none, 0⟩, ⟨18, 1, .w1c, .opr, 0⟩]⟩,
   ⟨0x30010, 1, 0, 1, 0, false, [⟨0, 18, .ro, .none, 0⟩]⟩,
   ⟨0x30014, 1, 0, 1, 0, false, [⟨0, 16, .rc, .none, 0⟩, ⟨16, 16, .rc, .none, 0⟩]⟩,
   ⟨0x30018, 1, 0, 1, 0, false, [⟨0, 18, .ro, .none, 0⟩, ⟨18, 3, .ro, .none, 0⟩, ⟨21, 1, .ro, .none, 0⟩, ⟨22, 1, .ro, .none, 0⟩]⟩,
   ⟨0x3001C, 1, 0, 1, 0, false, [⟨0, 16, .rc, .none, 0⟩, ⟨16, 13, .ro, .none, 0⟩]⟩,
   ⟨0x30020, 1, 0, 1, 0, false, [⟨0, 8, .rc, .none, 0⟩, ⟨8, 4, .ro, .none, 0⟩, ⟨16, 16, .rc, .none, 0⟩]⟩,
   ⟨0x30024, 1, 0, 1, 0, false, [⟨0, 16, .rc, .none, 0⟩, ⟨16, 16, .rc, .none, 0⟩]⟩,
   ⟨0x30028, 1, 0, 1, 0, false, [⟨0, 16, .rc, .none, 0⟩, ⟨16, 16, .rc, .none, 0⟩]⟩,
   ⟨0x3002C, 1, 0, 1, 0, false, [⟨0, 16, .rc, .none, 0⟩, ⟨16, 16, .rc, .none, 0⟩]⟩,
   ⟨0x38000, 512, 8, 1, 0, false, [⟨0, 16, .rw, .img, 0⟩, ⟨16, 3, .rw, .img, 0⟩, ⟨19, 13, .rw, .img, 0⟩]⟩,
   ⟨0x38004, 512, 8, 1, 0, false, [⟨0, 13, .rw, .img, 0⟩, ⟨16, 12, .rw, .img, 0⟩, ⟨28, 3, .rw, .img, 4⟩, ⟨31, 1, .rw, .img, 0⟩]⟩,
   ⟨0x39000, 512, 4, 1, 0, false, [⟨0, 12, .ro, .none, 0⟩, ⟨16, 16, .ro, .none, 0⟩]⟩]

/-- The registers of block PMP, part 0. -/
def regsPMP0 : List RegDesc :=
  [⟨0x40000, 64, 1024, 1, 0, false, [⟨0, 3, .rw, .opr, 0⟩, ⟨8, 1, .rw, .img, 0⟩, ⟨9, 1, .rw, .img, 0⟩, ⟨10, 1, .rw, .img, 0⟩]⟩,
   ⟨0x40004, 64, 1024, 1, 0, false, [⟨0, 2, .ro, .none, 0⟩, ⟨2, 6, .ro, .none, 0⟩, ⟨8, 1, .ro, .none, 0⟩, ⟨9, 1, .ro, .none, 0⟩, ⟨10, 1, .ro, .none, 0⟩, ⟨11, 1, .ro, .none, 0⟩]⟩,
   ⟨0x40008, 64, 1024, 1, 0, false, [⟨0, 1, .w1c, .opr, 0⟩, ⟨1, 1, .w1c, .opr, 0⟩, ⟨2, 1, .w1c, .opr, 0⟩, ⟨3, 1, .w1c, .opr, 0⟩, ⟨4, 1, .w1c, .opr, 0⟩, ⟨5, 1, .w1c, .opr, 0⟩, ⟨6, 1, .w1c, .opr, 0⟩, ⟨7, 1, .w1c, .opr, 0⟩, ⟨8, 1, .w1c, .opr, 0⟩, ⟨9, 1, .w1c, .opr, 0⟩, ⟨16, 6, .ro, .none, 0⟩]⟩,
   ⟨0x4000C, 64, 1024, 1, 0, false, [⟨0, 16, .rw, .amd, 500⟩, ⟨16, 8, .rw, .amd, 0⟩]⟩,
   ⟨0x40010, 64, 1024, 1, 0, false, [⟨0, 6, .rw, .amd, 0⟩, ⟨8, 6, .rw, .amd, 63⟩, ⟨16, 6, .rw, .amd, 0⟩]⟩,
   ⟨0x40014, 64, 1024, 1, 0, false, [⟨0, 8, .rw, .img, 0⟩, ⟨8, 6, .rw, .img, 0⟩, ⟨16, 8, .rw, .img, 0⟩, ⟨24, 6, .rw, .img, 0⟩]⟩,
   ⟨0x40018, 64, 1024, 1, 0, false, [⟨0, 8, .rw, .img, 0⟩, ⟨8, 3, .rw, .img, 0⟩, ⟨12, 4, .rw, .img, 0⟩, ⟨16, 4, .rw, .img, 0⟩]⟩,
   ⟨0x4001C, 64, 1024, 1, 0, false, [⟨0, 32, .rw, .img, 0⟩]⟩,
   ⟨0x40020, 64, 1024, 1, 0, false, [⟨0, 6, .rw, .img, 0⟩, ⟨8, 4, .rw, .img, 5⟩, ⟨12, 1, .rw, .img, 1⟩]⟩,
   ⟨0x40024, 64, 1024, 1, 0, false, [⟨0, 32, .rw, .img, 4129⟩]⟩,
   ⟨0x40028, 64, 1024, 1, 0, false, [⟨0, 6, .rw, .img, 16⟩, ⟨8, 1, .rw, .img, 0⟩]⟩,
   ⟨0x4002C, 64, 1024, 1, 0, false, [⟨0, 32, .rw, .img, 65535⟩]⟩,
   ⟨0x40030, 64, 1024, 1, 0, false, [⟨0, 32, .rw, .img, 0⟩]⟩,
   ⟨0x40034, 64, 1024, 1, 0, false, [⟨0, 32, .rw, .img, 0⟩]⟩,
   ⟨0x40038, 64, 1024, 1, 0, false, [⟨0, 3, .rw, .amd, 1⟩, ⟨3, 3, .rw, .amd, 2⟩, ⟨6, 1, .rw, .amd, 0⟩, ⟨7, 1, .rw, .amd, 0⟩, ⟨8, 1, .rw, .amd, 0⟩]⟩,
   ⟨0x4003C, 64, 1024, 1, 0, false, [⟨0, 32, .rw, .img, 0⟩]⟩,
   ⟨0x40040, 64, 1024, 1, 0, false, [⟨0, 32, .ro, .none, 0⟩]⟩,
   ⟨0x40044, 64, 1024, 1, 0, false, [⟨0, 4, .ro, .none, 0⟩]⟩,
   ⟨0x40050, 64, 1024, 1, 0, false, [⟨0, 32, .ro, .none, 0⟩]⟩,
   ⟨0x40054, 64, 1024, 1, 0, false, [⟨0, 32, .ro, .none, 0⟩]⟩,
   ⟨0x40058, 64, 1024, 1, 0, false, [⟨0, 32, .ro, .none, 0⟩]⟩,
   ⟨0x4005C, 64, 1024, 1, 0, false, [⟨0, 32, .ro, .none, 0⟩]⟩,
   ⟨0x40064, 64, 1024, 1, 0, false, [⟨0, 32, .ro, .none, 0⟩]⟩,
   ⟨0x40060, 64, 1024, 1, 0, false, [⟨0, 16, .ro, .none, 0⟩, ⟨16, 6, .ro, .none, 0⟩, ⟨24, 6, .ro, .none, 0⟩]⟩]

/-- The registers of block PMP, part 1. -/
def regsPMP1 : List RegDesc :=
  [⟨0x40068, 64, 1024, 1, 0, false, [⟨0, 10, .ro, .none, 16⟩]⟩,
   ⟨0x40070, 64, 1024, 1, 0, false, [⟨0, 16, .rc, .none, 0⟩, ⟨16, 16, .rc, .none, 0⟩]⟩,
   ⟨0x40074, 64, 1024, 1, 0, false, [⟨0, 16, .rc, .none, 0⟩, ⟨16, 8, .rc, .none, 0⟩]⟩,
   ⟨0x40080, 64, 1024, 16, 4, false, [⟨0, 5, .rw, .amd, 0⟩, ⟨5, 1, .rw, .amd, 0⟩]⟩,
   ⟨0x40100, 64, 1024, 64, 4, false, [⟨0, 32, .rw, .amd, 0⟩]⟩,
   ⟨0x40200, 64, 1024, 1, 0, false, [⟨0, 32, .ro, .none, 0⟩]⟩,
   ⟨0x40204, 64, 1024, 1, 0, false, [⟨0, 32, .ro, .none, 0⟩]⟩]

/-- The registers of block MIO. -/
def regsMIO : List RegDesc :=
  [⟨0x50000, 12, 4, 1, 0, false, [⟨0, 2, .rw, .img, 0⟩, ⟨2, 1, .ro, .none, 0⟩, ⟨4, 4, .rw, .img, 0⟩]⟩,
   ⟨0x50040, 1, 0, 1, 0, false, [⟨0, 16, .w1c, .amd, 0⟩, ⟨16, 16, .ro, .none, 0⟩]⟩,
   ⟨0x50044, 1, 0, 1, 0, false, [⟨0, 16, .rc, .none, 0⟩, ⟨16, 16, .rc, .none, 0⟩]⟩,
   ⟨0x50080, 6, 4, 1, 0, false, [⟨0, 32, .ro, .none, 0⟩]⟩,
   ⟨0x500A0, 6, 4, 1, 0, false, [⟨0, 32, .rw, .opr, 0⟩]⟩,
   ⟨0x50100, 16, 4, 1, 0, false, [⟨0, 1, .rw, .img, 0⟩, ⟨1, 1, .rw, .img, 1⟩, ⟨16, 8, .rc, .none, 0⟩]⟩,
   ⟨0x51000, 192, 32, 1, 0, false, [⟨0, 3, .rw, .img, 0⟩, ⟨3, 6, .rw, .img, 0⟩, ⟨9, 2, .rw, .img, 0⟩, ⟨11, 2, .rw, .img, 0⟩, ⟨13, 1, .rw, .img, 0⟩, ⟨14, 2, .rw, .img, 0⟩, ⟨16, 2, .rw, .img, 1⟩, ⟨18, 1, .rw, .img, 0⟩, ⟨19, 1, .rw, .img, 0⟩, ⟨20, 1, .rw, .img, 0⟩, ⟨21, 1, .rw, .img, 1⟩]⟩,
   ⟨0x51004, 192, 32, 1, 0, false, [⟨0, 16, .rw, .amd, 0⟩, ⟨16, 1, .rw, .amd, 0⟩, ⟨17, 2, .rw, .amd, 0⟩, ⟨19, 2, .rw, .amd, 0⟩, ⟨24, 8, .rw, .img, 2⟩]⟩,
   ⟨0x51008, 192, 32, 1, 0, false, [⟨0, 16, .rw, .amd, 0⟩, ⟨16, 16, .rw, .amd, 65535⟩]⟩,
   ⟨0x5100C, 192, 32, 1, 0, false, [⟨0, 16, .rw, .img, 0⟩, ⟨16, 4, .rw, .img, 0⟩, ⟨20, 3, .rw, .img, 0⟩]⟩,
   ⟨0x51010, 192, 32, 1, 0, false, [⟨0, 1, .ro, .none, 0⟩, ⟨1, 1, .ro, .none, 0⟩, ⟨2, 1, .w1c, .opr, 0⟩, ⟨3, 1, .w1c, .opr, 0⟩, ⟨4, 1, .w1c, .opr, 0⟩, ⟨5, 1, .w1c, .opr, 0⟩, ⟨6, 1, .ro, .none, 0⟩, ⟨16, 16, .ro, .none, 0⟩]⟩,
   ⟨0x51014, 192, 32, 1, 0, false, [⟨0, 16, .rw, .amd, 0⟩, ⟨16, 16, .rc, .none, 0⟩]⟩]

/-- The registers of block CAN. -/
def regsCAN : List RegDesc :=
  [⟨0x60000, 16, 2048, 1, 0, false, [⟨0, 1, .rw, .img, 0⟩, ⟨1, 2, .rw, .img, 0⟩, ⟨3, 1, .rw, .img, 0⟩, ⟨4, 1, .rw, .img, 1⟩, ⟨5, 2, .rw, .amd, 0⟩, ⟨7, 1, .rw, .img, 0⟩, ⟨8, 1, .rw, .img, 0⟩, ⟨9, 1, .rw, .img, 0⟩, ⟨10, 1, .rw, .img, 1⟩]⟩,
   ⟨0x60004, 16, 2048, 1, 0, false, [⟨0, 3, .rw, .opr, 0⟩]⟩,
   ⟨0x60008, 16, 2048, 1, 0, false, [⟨0, 3, .ro, .none, 0⟩, ⟨3, 2, .ro, .none, 0⟩, ⟨5, 1, .ro, .none, 0⟩, ⟨6, 1, .ro, .none, 0⟩, ⟨7, 1, .ro, .none, 0⟩, ⟨8, 2, .ro, .none, 0⟩]⟩,
   ⟨0x6000C, 16, 2048, 1, 0, false, [⟨0, 9, .ro, .none, 0⟩, ⟨16, 8, .ro, .none, 0⟩]⟩,
   ⟨0x60010, 16, 2048, 1, 0, false, [⟨0, 8, .rw, .amd, 1⟩, ⟨8, 8, .rw, .amd, 62⟩, ⟨16, 7, .rw, .amd, 15⟩, ⟨23, 7, .rw, .amd, 15⟩]⟩,
   ⟨0x60014, 16, 2048, 1, 0, false, [⟨0, 5, .rw, .amd, 0⟩, ⟨8, 5, .rw, .amd, 13⟩, ⟨16, 4, .rw, .amd, 4⟩, ⟨24, 4, .rw, .amd, 4⟩]⟩,
   ⟨0x60018, 16, 2048, 1, 0, false, [⟨0, 7, .rw, .amd, 15⟩, ⟨8, 7, .ro, .none, 0⟩]⟩,
   ⟨0x6001C, 16, 2048, 1, 0, false, [⟨0, 1, .w1c, .opr, 0⟩, ⟨1, 1, .w1c, .opr, 0⟩, ⟨2, 1, .w1c, .opr, 0⟩, ⟨3, 1, .w1c, .opr, 0⟩, ⟨4, 1, .w1c, .opr, 0⟩, ⟨5, 1, .w1c, .opr, 0⟩, ⟨6, 1, .w1c, .opr, 0⟩, ⟨7, 1, .w1c, .opr, 0⟩, ⟨8, 1, .w1c, .opr, 0⟩, ⟨24, 4, .ro, .none, 0⟩]⟩,
   ⟨0x60020, 16, 2048, 1, 0, false, [⟨0, 16, .rc, .none, 0⟩, ⟨16, 16, .rc, .none, 0⟩]⟩,
   ⟨0x60024, 16, 2048, 1, 0, false, [⟨0, 16, .rc, .none, 0⟩, ⟨16, 16, .rc, .none, 0⟩]⟩,
   ⟨0x60028, 16, 2048, 1, 0, false, [⟨0, 8, .rc, .none, 0⟩, ⟨8, 8, .rc, .none, 0⟩, ⟨16, 8, .rc, .none, 0⟩, ⟨24, 8, .rc, .none, 0⟩]⟩,
   ⟨0x60030, 16, 2048, 1, 0, false, [⟨0, 29, .rw, .img, 0⟩, ⟨29, 1, .rw, .img, 0⟩]⟩,
   ⟨0x60034, 16, 2048, 1, 0, false, [⟨0, 29, .rw, .img, 536870911⟩]⟩,
   ⟨0x60038, 16, 2048, 1, 0, false, [⟨0, 4, .rw, .img, 0⟩, ⟨4, 1, .rw, .img, 0⟩, ⟨8, 8, .rw, .img, 10⟩, ⟨16, 6, .ro, .none, 0⟩]⟩,
   ⟨0x6003C, 16, 2048, 1, 0, false, [⟨0, 32, .rw, .img, 0⟩]⟩,
   ⟨0x60040, 16, 2048, 1, 0, false, [⟨0, 32, .rw, .img, 0⟩]⟩,
   ⟨0x60100, 16, 2048, 64, 16, false, [⟨0, 29, .rw, .amd, 0⟩, ⟨29, 1, .rw, .amd, 0⟩, ⟨30, 1, .rw, .amd, 0⟩, ⟨31, 1, .rw, .amd, 0⟩]⟩,
   ⟨0x60104, 16, 2048, 64, 16, false, [⟨0, 32, .rw, .amd, 4294967295⟩]⟩,
   ⟨0x60108, 16, 2048, 64, 16, false, [⟨0, 1, .rw, .amd, 0⟩, ⟨1, 2, .rw, .amd, 0⟩]⟩]

/-- The registers of block PHS, part 0. -/
def regsPHS0 : List RegDesc :=
  [⟨0x70000, 1, 0, 1, 0, false, [⟨0, 16, .rc, .none, 0⟩, ⟨16, 16, .rc, .none, 0⟩]⟩,
   ⟨0x70004, 1, 0, 1, 0, false, [⟨0, 8, .rc, .none, 0⟩, ⟨8, 8, .rc, .none, 0⟩, ⟨16, 16, .rc, .none, 0⟩]⟩,
   ⟨0x70008, 1, 0, 1, 0, false, [⟨0, 16, .w1c, .opr, 0⟩, ⟨16, 16, .w1c, .opr, 0⟩]⟩,
   ⟨0x7000C, 1, 0, 1, 0, false, [⟨0, 7, .ro, .none, 0⟩, ⟨8, 7, .rc, .none, 0⟩]⟩,
   ⟨0x70040, 16, 8, 1, 0, false, [⟨0, 16, .rw, .img, 0⟩, ⟨16, 3, .rw, .img, 0⟩, ⟨19, 13, .rw, .img, 0⟩]⟩,
   ⟨0x70044, 16, 8, 1, 0, false, [⟨0, 2, .rw, .img, 2⟩, ⟨2, 1, .rw, .img, 0⟩]⟩,
   ⟨0x70100, 8, 128, 1, 0, false, [⟨0, 3, .rw, .img, 0⟩, ⟨3, 2, .rw, .img, 0⟩, ⟨5, 1, .rw, .img, 0⟩, ⟨6, 1, .rw, .img, 0⟩, ⟨7, 1, .rw, .img, 0⟩, ⟨8, 6, .rw, .img, 0⟩, ⟨14, 2, .rw, .img, 0⟩]⟩,
   ⟨0x70104, 8, 128, 1, 0, false, [⟨0, 24, .rw, .img, 4⟩, ⟨24, 6, .rw, .img, 13⟩]⟩,
   ⟨0x70108, 8, 128, 1, 0, false, [⟨0, 5, .rw, .img, 16⟩, ⟨8, 4, .rw, .amd, 4⟩, ⟨16, 5, .rw, .amd, 9⟩]⟩,
   ⟨0x7010C, 8, 128, 1, 0, false, [⟨0, 32, .rw, .amd, 2147483647⟩]⟩,
   ⟨0x70110, 8, 128, 1, 0, false, [⟨0, 32, .rw, .amd, 0⟩]⟩,
   ⟨0x70114, 8, 128, 1, 0, false, [⟨0, 32, .rw, .amd, 0⟩]⟩,
   ⟨0x70118, 8, 128, 1, 0, false, [⟨0, 16, .rw, .amd, 0⟩, ⟨16, 8, .rw, .amd, 0⟩, ⟨24, 4, .rw, .amd, 4⟩]⟩,
   ⟨0x7011C, 8, 128, 1, 0, false, [⟨0, 16, .rw, .amd, 0⟩, ⟨16, 16, .rw, .amd, 0⟩]⟩,
   ⟨0x70120, 8, 128, 1, 0, false, [⟨0, 24, .rw, .amd, 0⟩]⟩,
   ⟨0x70124, 8, 128, 1, 0, false, [⟨0, 32, .rw, .amd, 0⟩]⟩,
   ⟨0x70128, 8, 128, 1, 0, false, [⟨0, 16, .rw, .img, 0⟩]⟩,
   ⟨0x70140, 8, 128, 1, 0, false, [⟨0, 3, .ro, .none, 0⟩, ⟨3, 1, .w1c, .opr, 0⟩, ⟨4, 1, .w1c, .opr, 0⟩, ⟨5, 1, .w1c, .opr, 0⟩, ⟨6, 1, .w1c, .opr, 0⟩, ⟨7, 1, .w1c, .opr, 0⟩, ⟨8, 1, .w1c, .opr, 0⟩, ⟨9, 1, .w1c, .opr, 0⟩, ⟨10, 1, .w1c, .opr, 0⟩, ⟨11, 1, .w1c, .opr, 0⟩]⟩,
   ⟨0x70144, 8, 128, 1, 0, false, [⟨0, 16, .rc, .none, 0⟩, ⟨16, 8, .rc, .none, 0⟩, ⟨24, 8, .rc, .none, 0⟩]⟩,
   ⟨0x70148, 8, 128, 1, 0, false, [⟨0, 32, .ro, .none, 0⟩]⟩,
   ⟨0x7014C, 8, 128, 1, 0, false, [⟨0, 32, .ro, .none, 0⟩]⟩,
   ⟨0x70150, 8, 128, 1, 0, false, [⟨0, 32, .ro, .none, 0⟩]⟩,
   ⟨0x70154, 8, 128, 1, 0, false, [⟨0, 32, .ro, .none, 0⟩]⟩,
   ⟨0x70600, 16, 32, 1, 0, false, [⟨0, 32, .ro, .none, 0⟩]⟩]

/-- The registers of block PHS, part 1. -/
def regsPHS1 : List RegDesc :=
  [⟨0x70604, 16, 32, 1, 0, false, [⟨0, 32, .ro, .none, 0⟩]⟩,
   ⟨0x70608, 16, 32, 1, 0, false, [⟨0, 32, .ro, .none, 0⟩]⟩,
   ⟨0x7060C, 16, 32, 1, 0, false, [⟨0, 32, .ro, .none, 0⟩]⟩,
   ⟨0x70610, 16, 32, 1, 0, false, [⟨0, 16, .ro, .none, 0⟩]⟩,
   ⟨0x74000, 4096, 4, 1, 0, false, [⟨0, 3, .rw, .amd, 0⟩, ⟨3, 3, .rw, .amd, 0⟩, ⟨6, 2, .rw, .amd, 0⟩, ⟨8, 1, .rw, .amd, 0⟩, ⟨9, 1, .rw, .amd, 0⟩, ⟨10, 1, .rw, .opr, 0⟩, ⟨11, 1, .ro, .none, 0⟩, ⟨12, 8, .rw, .amd, 1⟩, ⟨20, 12, .rw, .amd, 0⟩]⟩,
   ⟨0x78000, 4096, 8, 1, 0, false, [⟨0, 32, .rw, .amd, 0⟩]⟩,
   ⟨0x78004, 4096, 8, 1, 0, false, [⟨0, 32, .rw, .amd, 0⟩]⟩]

/-- The registers of block FTM. -/
def regsFTM : List RegDesc :=
  [⟨0x80000, 1, 0, 1, 0, false, [⟨0, 1, .rw, .img, 0⟩, ⟨1, 1, .rw, .img, 0⟩, ⟨2, 6, .rw, .img, 0⟩, ⟨8, 1, .rw, .img, 0⟩, ⟨9, 1, .rw, .img, 0⟩, ⟨16, 8, .rw, .img, 0⟩]⟩,
   ⟨0x80004, 1, 0, 1, 0, false, [⟨0, 4, .rw, .amd, 2⟩, ⟨8, 5, .rw, .amd, 6⟩]⟩,
   ⟨0x80008, 1, 0, 1, 0, false, [⟨0, 30, .rw, .amd, 1000⟩]⟩,
   ⟨0x8000C, 1, 0, 1, 0, true, [⟨0, 1, .rw, .amd, 0⟩]⟩,
   ⟨0x80010, 1, 0, 1, 0, true, [⟨0, 1, .ro, .none, 0⟩, ⟨1, 1, .ro, .none, 0⟩, ⟨2, 3, .ro, .none, 0⟩, ⟨5, 1, .w1c, .opr, 0⟩, ⟨6, 1, .ro, .none, 0⟩, ⟨7, 1, .w1c, .opr, 0⟩, ⟨8, 1, .w1c, .opr, 0⟩, ⟨16, 16, .ro, .none, 0⟩]⟩,
   ⟨0x80014, 1, 0, 1, 0, true, [⟨0, 32, .ro, .none, 0⟩]⟩,
   ⟨0x80018, 1, 0, 1, 0, true, [⟨0, 32, .ro, .none, 0⟩]⟩,
   ⟨0x80020, 1, 0, 1, 0, true, [⟨0, 32, .ro, .none, 0⟩]⟩,
   ⟨0x80024, 1, 0, 1, 0, true, [⟨0, 32, .ro, .none, 0⟩]⟩,
   ⟨0x80028, 1, 0, 1, 0, true, [⟨0, 32, .ro, .none, 0⟩]⟩,
   ⟨0x8002C, 1, 0, 1, 0, true, [⟨0, 16, .rc, .none, 0⟩, ⟨16, 8, .rc, .none, 0⟩, ⟨24, 8, .rc, .none, 0⟩]⟩,
   ⟨0x80030, 1, 0, 1, 0, false, [⟨0, 16, .rw, .amd, 37⟩, ⟨16, 16, .ro, .none, 0⟩]⟩,
   ⟨0x80034, 1, 0, 1, 0, false, [⟨0, 16, .rw, .amd, 0⟩]⟩,
   ⟨0x80038, 1, 0, 1, 0, false, [⟨0, 32, .rw, .amd, 0⟩]⟩,
   ⟨0x8003C, 1, 0, 1, 0, false, [⟨0, 16, .rw, .amd, 0⟩, ⟨16, 16, .rw, .amd, 0⟩]⟩,
   ⟨0x80100, 4, 8, 1, 0, false, [⟨0, 24, .ro, .none, 0⟩, ⟨24, 1, .ro, .none, 0⟩]⟩,
   ⟨0x80104, 4, 8, 1, 0, false, [⟨0, 16, .rw, .img, 0⟩]⟩]

/-- The registers of block BRG. -/
def regsBRG : List RegDesc :=
  [⟨0x90000, 1, 0, 1, 0, false, [⟨0, 1, .ro, .none, 0⟩, ⟨1, 1, .ro, .none, 0⟩, ⟨2, 3, .ro, .none, 0⟩, ⟨5, 3, .ro, .none, 0⟩, ⟨8, 7, .ro, .none, 0⟩]⟩,
   ⟨0x90004, 1, 0, 1, 0, false, [⟨0, 8, .rc, .none, 0⟩, ⟨8, 8, .rc, .none, 0⟩, ⟨16, 8, .rc, .none, 0⟩, ⟨24, 4, .rc, .none, 0⟩, ⟨28, 4, .rc, .none, 0⟩]⟩,
   ⟨0x90008, 1, 0, 1, 0, false, [⟨0, 8, .w1c, .opr, 0⟩]⟩,
   ⟨0x90010, 1, 0, 1, 0, false, [⟨0, 7, .ro, .none, 0⟩, ⟨8, 1, .rw, .opr, 0⟩, ⟨16, 16, .rc, .none, 0⟩]⟩,
   ⟨0x90014, 1, 0, 1, 0, false, [⟨0, 32, .ro, .none, 0⟩]⟩,
   ⟨0x90018, 1, 0, 1, 0, false, [⟨0, 32, .ro, .none, 0⟩]⟩,
   ⟨0x90020, 1, 0, 1, 0, false, [⟨0, 32, .ro, .none, 0⟩]⟩,
   ⟨0x90024, 1, 0, 1, 0, false, [⟨0, 32, .ro, .none, 0⟩]⟩,
   ⟨0x9001C, 1, 0, 1, 0, false, [⟨0, 4, .ro, .none, 0⟩, ⟨8, 8, .ro, .none, 0⟩, ⟨16, 16, .ro, .none, 0⟩]⟩,
   ⟨0x90040, 1, 0, 1, 0, false, [⟨0, 1, .ro, .none, 0⟩, ⟨1, 1, .rw, .img, 0⟩, ⟨2, 1, .rw, .img, 0⟩, ⟨3, 1, .rw, .img, 0⟩, ⟨4, 2, .rw, .img, 3⟩, ⟨6, 1, .rw, .img, 0⟩, ⟨8, 8, .rw, .img, 10⟩]⟩,
   ⟨0x90044, 1, 0, 1, 0, false, [⟨0, 3, .rw, .img, 0⟩, ⟨8, 8, .rw, .img, 0⟩, ⟨16, 8, .rw, .img, 0⟩]⟩,
   ⟨0x90048, 1, 0, 1, 0, false, [⟨0, 8, .rw, .img, 100⟩, ⟨8, 8, .rw, .img, 20⟩, ⟨16, 8, .rw, .img, 50⟩, ⟨24, 8, .rw, .img, 100⟩]⟩,
   ⟨0x9004C, 1, 0, 1, 0, false, [⟨0, 5, .ro, .none, 0⟩, ⟨5, 1, .ro, .none, 0⟩, ⟨6, 1, .ro, .none, 0⟩]⟩,
   ⟨0x90050, 1, 0, 1, 0, false, [⟨0, 16, .rc, .none, 0⟩, ⟨16, 16, .rc, .none, 0⟩]⟩,
   ⟨0x90054, 1, 0, 1, 0, false, [⟨0, 12, .rc, .none, 0⟩, ⟨12, 8, .rc, .none, 0⟩, ⟨20, 8, .rc, .none, 0⟩]⟩,
   ⟨0x90400, 48, 4, 1, 0, false, [⟨0, 13, .rw, .amd, 0⟩, ⟨13, 3, .rw, .amd, 0⟩, ⟨16, 1, .rw, .amd, 0⟩]⟩,
   ⟨0x90800, 8, 16, 1, 0, false, [⟨0, 2, .rw, .img, 0⟩, ⟨2, 1, .rw, .img, 0⟩, ⟨3, 1, .rw, .img, 0⟩, ⟨4, 1, .rw, .img, 0⟩, ⟨5, 5, .rw, .img, 8⟩, ⟨10, 1, .rw, .img, 0⟩, ⟨11, 1, .rw, .img, 0⟩, ⟨12, 1, .rw, .img, 0⟩, ⟨13, 1, .rw, .img, 1⟩]⟩,
   ⟨0x90804, 8, 16, 1, 0, false, [⟨0, 32, .rw, .img, 0⟩]⟩,
   ⟨0x90808, 8, 16, 1, 0, false, [⟨0, 16, .rw, .img, 0⟩, ⟨16, 3, .rw, .img, 0⟩, ⟨19, 5, .rw, .img, 0⟩, ⟨24, 8, .rw, .img, 0⟩]⟩,
   ⟨0x9080C, 8, 16, 1, 0, false, [⟨0, 32, .rw, .img, 0⟩]⟩,
   ⟨0x90A00, 8, 8, 1, 0, false, [⟨0, 16, .rw, .img, 0⟩, ⟨16, 16, .rw, .img, 0⟩]⟩,
   ⟨0x90A04, 8, 8, 1, 0, false, [⟨0, 16, .rw, .img, 0⟩, ⟨16, 6, .rw, .img, 13⟩, ⟨22, 1, .rw, .img, 1⟩, ⟨23, 1, .rw, .img, 0⟩]⟩,
   ⟨0x91000, 256, 8, 1, 0, false, [⟨0, 16, .rw, .amd, 0⟩, ⟨16, 3, .rw, .amd, 0⟩, ⟨19, 5, .rw, .amd, 0⟩, ⟨24, 1, .rw, .amd, 0⟩, ⟨25, 1, .rw, .amd, 0⟩]⟩,
   ⟨0x91004, 256, 8, 1, 0, false, [⟨0, 10, .rw, .amd, 0⟩]⟩]

/-- The registers of block WLH, part 0. -/
def regsWLH0 : List RegDesc :=
  [⟨0xA0000, 1, 0, 1, 0, true, [⟨0, 24, .rw, .img, 0⟩]⟩,
   ⟨0xA0004, 1, 0, 1, 0, true, [⟨0, 16, .rw, .img, 3600⟩, ⟨16, 8, .rw, .img, 100⟩]⟩,
   ⟨0xA0008, 1, 0, 1, 0, true, [⟨0, 24, .rw, .img, 0⟩]⟩,
   ⟨0xA000C, 1, 0, 1, 0, true, [⟨0, 24, .rw, .img, 1⟩]⟩,
   ⟨0xA0010, 1, 0, 1, 0, true, [⟨0, 10, .rw, .img, 400⟩, ⟨10, 10, .rw, .img, 360⟩, ⟨20, 10, .rw, .img, 600⟩]⟩,
   ⟨0xA0014, 1, 0, 1, 0, true, [⟨0, 8, .rw, .img, 10⟩, ⟨8, 8, .rw, .img, 10⟩, ⟨16, 1, .rw, .img, 0⟩]⟩,
   ⟨0xA0018, 1, 0, 1, 0, true, [⟨0, 6, .rw, .img, 25⟩, ⟨6, 8, .rw, .img, 20⟩, ⟨14, 16, .rw, .img, 5000⟩]⟩,
   ⟨0xA001C, 1, 0, 1, 0, true, [⟨0, 16, .rw, .img, 2000⟩, ⟨16, 16, .rw, .img, 2000⟩]⟩,
   ⟨0xA0020, 1, 0, 1, 0, true, [⟨0, 16, .rw, .img, 2000⟩, ⟨16, 16, .rw, .img, 2000⟩]⟩,
   ⟨0xA0024, 1, 0, 1, 0, true, [⟨0, 1, .rw, .img, 0⟩, ⟨1, 1, .rw, .img, 0⟩, ⟨2, 1, .rw, .img, 1⟩, ⟨3, 1, .rw, .img, 0⟩, ⟨4, 1, .rw, .img, 1⟩, ⟨5, 8, .rw, .img, 2⟩, ⟨13, 8, .rw, .img, 10⟩]⟩,
   ⟨0xA0028, 1, 0, 1, 0, true, [⟨0, 10, .rw, .img, 192⟩, ⟨10, 10, .rw, .img, 300⟩, ⟨20, 8, .rw, .img, 10⟩]⟩,
   ⟨0xA002C, 1, 0, 1, 0, true, [⟨0, 16, .rw, .img, 10000⟩, ⟨16, 8, .rw, .img, 10⟩]⟩,
   ⟨0xA0030, 1, 0, 1, 0, true, [⟨0, 10, .rw, .img, 340⟩, ⟨10, 8, .rw, .img, 20⟩]⟩,
   ⟨0xA0040, 1, 0, 1, 0, false, [⟨0, 3, .ro, .none, 0⟩, ⟨3, 1, .ro, .none, 0⟩, ⟨4, 1, .ro, .none, 0⟩, ⟨5, 1, .ro, .none, 0⟩, ⟨6, 1, .ro, .none, 0⟩, ⟨7, 1, .ro, .none, 0⟩, ⟨8, 1, .ro, .none, 0⟩, ⟨9, 2, .ro, .none, 0⟩, ⟨11, 1, .ro, .none, 0⟩, ⟨12, 1, .ro, .none, 0⟩, ⟨13, 2, .ro, .none, 0⟩, ⟨15, 1, .ro, .none, 0⟩]⟩,
   ⟨0xA0044, 1, 0, 1, 0, true, [⟨0, 1, .w1c, .opr, 0⟩, ⟨1, 1, .w1c, .opr, 0⟩, ⟨2, 1, .w1c, .opr, 0⟩, ⟨3, 1, .w1c, .opr, 0⟩, ⟨4, 1, .w1c, .opr, 0⟩, ⟨5, 1, .w1c, .opr, 0⟩, ⟨6, 1, .w1c, .opr, 0⟩, ⟨7, 1, .w1c, .opr, 0⟩, ⟨8, 1, .w1c, .opr, 0⟩, ⟨9, 1, .w1c, .opr, 0⟩, ⟨10, 1, .w1c, .opr, 0⟩, ⟨11, 1, .w1c, .opr, 0⟩, ⟨12, 1, .w1c, .opr, 0⟩, ⟨13, 1, .w1c, .opr, 0⟩]⟩,
   ⟨0xA0048, 1, 0, 1, 0, true, [⟨0, 8, .rc, .none, 0⟩, ⟨8, 8, .rc, .none, 0⟩, ⟨16, 8, .rc, .none, 0⟩, ⟨24, 8, .rc, .none, 0⟩]⟩,
   ⟨0xA004C, 1, 0, 1, 0, true, [⟨0, 2, .rw, .amd, 0⟩]⟩,
   ⟨0xA0050, 1, 0, 1, 0, false, [⟨0, 24, .ro, .none, 0⟩]⟩,
   ⟨0xA0080, 1, 0, 1, 0, false, [⟨0, 16, .ro, .none, 0⟩, ⟨16, 16, .ro, .none, 0⟩]⟩,
   ⟨0xA0084, 1, 0, 1, 0, false, [⟨0, 16, .ro, .none, 0⟩, ⟨16, 16, .ro, .none, 0⟩]⟩,
   ⟨0xA0088, 1, 0, 1, 0, false, [⟨0, 16, .ro, .none, 0⟩, ⟨16, 16, .ro, .none, 0⟩]⟩,
   ⟨0xA008C, 1, 0, 1, 0, false, [⟨0, 16, .ro, .none, 0⟩, ⟨16, 16, .ro, .none, 0⟩]⟩,
   ⟨0xA0090, 1, 0, 1, 0, false, [⟨0, 16, .ro, .none, 0⟩, ⟨16, 16, .ro, .none, 0⟩]⟩,
   ⟨0xA0094, 1, 0, 1, 0, false, [⟨0, 16, .ro, .none, 0⟩, ⟨16, 16, .ro, .none, 0⟩]⟩]

/-- The registers of block WLH, part 1. -/
def regsWLH1 : List RegDesc :=
  [⟨0xA0098, 1, 0, 1, 0, false, [⟨0, 16, .ro, .none, 0⟩, ⟨16, 16, .ro, .none, 0⟩]⟩,
   ⟨0xA00A0, 1, 0, 1, 0, false, [⟨0, 32, .ro, .none, 0⟩]⟩,
   ⟨0xA00A4, 1, 0, 1, 0, false, [⟨0, 32, .ro, .none, 0⟩]⟩,
   ⟨0xA00A8, 1, 0, 1, 0, false, [⟨0, 32, .ro, .none, 0⟩]⟩,
   ⟨0xA00AC, 1, 0, 1, 0, false, [⟨0, 32, .ro, .none, 0⟩]⟩,
   ⟨0xA00C0, 4, 8, 1, 0, false, [⟨0, 32, .ro, .none, 0⟩]⟩,
   ⟨0xA00C4, 4, 8, 1, 0, false, [⟨0, 32, .ro, .none, 0⟩]⟩]

/-- The registers of block LDG. -/
def regsLDG : List RegDesc :=
  [⟨0xB0000, 1, 0, 1, 0, true, [⟨0, 6, .rw, .img, 0⟩, ⟨7, 1, .rw, .img, 0⟩, ⟨8, 3, .rw, .img, 0⟩, ⟨12, 8, .rw, .img, 1⟩]⟩,
   ⟨0xB0004, 1, 0, 1, 0, true, [⟨0, 5, .ro, .none, 0⟩, ⟨5, 1, .ro, .none, 0⟩, ⟨6, 1, .ro, .none, 0⟩, ⟨7, 1, .w1c, .opr, 0⟩, ⟨8, 1, .w1c, .opr, 0⟩, ⟨9, 1, .w1c, .opr, 0⟩]⟩,
   ⟨0xB0008, 1, 0, 1, 0, true, [⟨0, 32, .ro, .none, 0⟩]⟩,
   ⟨0xB000C, 1, 0, 1, 0, true, [⟨0, 32, .ro, .none, 0⟩]⟩,
   ⟨0xB0010, 1, 0, 1, 0, true, [⟨0, 32, .ro, .none, 0⟩]⟩,
   ⟨0xB0014, 1, 0, 1, 0, true, [⟨0, 32, .ro, .none, 0⟩]⟩,
   ⟨0xB0018, 1, 0, 1, 0, true, [⟨0, 32, .rw, .opr, 0⟩]⟩,
   ⟨0xB001C, 1, 0, 1, 0, true, [⟨0, 32, .rw, .opr, 0⟩]⟩,
   ⟨0xB0020, 1, 0, 1, 0, true, [⟨0, 16, .rc, .none, 0⟩, ⟨16, 8, .rc, .none, 0⟩, ⟨24, 8, .rc, .none, 0⟩]⟩]

/-- The registers of block EVR. -/
def regsEVR : List RegDesc :=
  [⟨0xC0000, 1, 0, 1, 0, false, [⟨0, 32, .ro, .none, 0⟩]⟩,
   ⟨0xC0004, 1, 0, 1, 0, false, [⟨0, 32, .ro, .none, 1⟩]⟩,
   ⟨0xC0008, 1, 0, 1, 0, false, [⟨0, 32, .ro, .none, 0⟩]⟩,
   ⟨0xC000C, 1, 0, 1, 0, false, [⟨0, 1, .rw, .opr, 0⟩, ⟨1, 2, .ro, .none, 0⟩]⟩,
   ⟨0xC0010, 1, 0, 1, 0, false, [⟨0, 16, .rc, .none, 0⟩, ⟨16, 16, .rc, .none, 0⟩]⟩,
   ⟨0xC0400, 256, 4, 1, 0, false, [⟨0, 1, .rw, .img, 0⟩, ⟨1, 1, .rw, .img, 0⟩]⟩]

/-- The registers of block JRN, part 0. -/
def regsJRN0 : List RegDesc :=
  [⟨0xD0000, 1, 0, 1, 0, false, [⟨0, 1, .rw, .img, 0⟩, ⟨1, 1, .rw, .img, 0⟩, ⟨2, 1, .rw, .img, 1⟩, ⟨8, 6, .rw, .img, 16⟩, ⟨16, 8, .rw, .img, 0⟩]⟩,
   ⟨0xD0004, 1, 0, 1, 0, false, [⟨0, 16, .rw, .img, 100⟩]⟩,
   ⟨0xD0008, 1, 0, 1, 0, true, [⟨0, 1, .rw, .opr, 0⟩]⟩,
   ⟨0xD000C, 1, 0, 1, 0, true, [⟨0, 1, .rw, .amd, 0⟩]⟩,
   ⟨0xD0010, 1, 0, 1, 0, false, [⟨0, 4, .ro, .none, 0⟩, ⟨4, 1, .ro, .none, 0⟩, ⟨5, 1, .w1c, .opr, 0⟩, ⟨6, 2, .ro, .none, 0⟩, ⟨8, 1, .ro, .none, 0⟩, ⟨9, 1, .w1c, .opr, 0⟩, ⟨16, 8, .ro, .none, 0⟩]⟩,
   ⟨0xD0014, 1, 0, 1, 0, false, [⟨0, 19, .ro, .none, 0⟩, ⟨19, 13, .ro, .none, 0⟩]⟩,
   ⟨0xD0018, 1, 0, 1, 0, false, [⟨0, 19, .ro, .none, 0⟩, ⟨19, 13, .ro, .none, 0⟩]⟩,
   ⟨0xD001C, 1, 0, 1, 0, false, [⟨0, 19, .ro, .none, 0⟩, ⟨19, 13, .ro, .none, 0⟩]⟩,
   ⟨0xD0020, 1, 0, 1, 0, false, [⟨0, 19, .ro, .none, 0⟩, ⟨19, 13, .ro, .none, 0⟩]⟩,
   ⟨0xD0024, 1, 0, 1, 0, false, [⟨0, 32, .ro, .none, 0⟩]⟩,
   ⟨0xD0028, 1, 0, 1, 0, false, [⟨0, 32, .ro, .none, 0⟩]⟩,
   ⟨0xD002C, 1, 0, 1, 0, false, [⟨0, 16, .rc, .none, 0⟩, ⟨16, 8, .rc, .none, 0⟩, ⟨24, 8, .rc, .none, 0⟩]⟩,
   ⟨0xD0030, 1, 0, 1, 0, false, [⟨0, 24, .rc, .none, 0⟩]⟩,
   ⟨0xD0034, 1, 0, 1, 0, false, [⟨0, 20, .ro, .none, 0⟩]⟩,
   ⟨0xD0100, 1, 0, 1, 0, false, [⟨0, 3, .rw, .opr, 0⟩, ⟨3, 1, .rw, .opr, 0⟩, ⟨4, 1, .rw, .opr, 0⟩]⟩,
   ⟨0xD0104, 1, 0, 1, 0, false, [⟨0, 19, .rw, .opr, 0⟩]⟩,
   ⟨0xD0108, 1, 0, 1, 0, false, [⟨0, 19, .rw, .opr, 0⟩]⟩,
   ⟨0xD010C, 1, 0, 1, 0, false, [⟨0, 32, .rw, .opr, 0⟩]⟩,
   ⟨0xD0110, 1, 0, 1, 0, false, [⟨0, 32, .rw, .opr, 0⟩]⟩,
   ⟨0xD0114, 1, 0, 1, 0, false, [⟨0, 32, .ro, .none, 0⟩]⟩,
   ⟨0xD0118, 1, 0, 1, 0, false, [⟨0, 32, .ro, .none, 0⟩]⟩,
   ⟨0xD011C, 1, 0, 1, 0, false, [⟨0, 32, .ro, .none, 0⟩]⟩,
   ⟨0xD0120, 1, 0, 1, 0, false, [⟨0, 32, .ro, .none, 0⟩]⟩,
   ⟨0xD0124, 1, 0, 1, 0, false, [⟨0, 8, .ro, .none, 0⟩, ⟨16, 16, .ro, .none, 0⟩]⟩]

/-- The registers of block JRN, part 1. -/
def regsJRN1 : List RegDesc :=
  [⟨0xD0140, 8, 4, 1, 0, false, [⟨0, 32, .ro, .none, 0⟩]⟩,
   ⟨0xD0160, 8, 4, 1, 0, false, [⟨0, 32, .ro, .none, 0⟩]⟩]

/-- The registers of block VLT. -/
def regsVLT : List RegDesc :=
  [⟨0xE0000, 1, 0, 1, 0, true, [⟨0, 1, .ro, .none, 0⟩, ⟨1, 1, .ro, .none, 0⟩, ⟨2, 1, .ro, .none, 0⟩, ⟨3, 1, .ro, .none, 0⟩, ⟨4, 1, .ro, .none, 0⟩, ⟨8, 4, .ro, .none, 0⟩]⟩,
   ⟨0xE0004, 1, 0, 1, 0, true, [⟨0, 1, .w1c, .opr, 0⟩, ⟨1, 1, .w1c, .opr, 0⟩, ⟨2, 1, .w1c, .opr, 0⟩, ⟨3, 1, .w1c, .opr, 0⟩, ⟨4, 1, .w1c, .opr, 0⟩, ⟨5, 1, .w1c, .opr, 0⟩, ⟨16, 6, .ro, .none, 0⟩]⟩,
   ⟨0xE0008, 1, 0, 1, 0, true, [⟨0, 6, .rw, .amd, 0⟩]⟩,
   ⟨0xE000C, 1, 0, 1, 0, true, [⟨0, 24, .ro, .none, 0⟩]⟩,
   ⟨0xE0010, 1, 0, 1, 0, true, [⟨0, 32, .ro, .none, 0⟩]⟩,
   ⟨0xE0014, 1, 0, 1, 0, true, [⟨0, 32, .ro, .none, 0⟩]⟩,
   ⟨0xE0018, 1, 0, 1, 0, true, [⟨0, 4, .rw, .img, 15⟩, ⟨4, 1, .rw, .img, 1⟩, ⟨5, 1, .rw, .img, 1⟩, ⟨6, 1, .rw, .img, 1⟩]⟩,
   ⟨0xE001C, 1, 0, 1, 0, true, [⟨0, 1, .rw, .amd, 0⟩]⟩,
   ⟨0xE0020, 1, 0, 1, 0, true, [⟨0, 1, .rw, .opr, 0⟩]⟩,
   ⟨0xE0024, 1, 0, 1, 0, true, [⟨0, 2, .ro, .none, 0⟩, ⟨4, 3, .ro, .none, 0⟩, ⟨8, 13, .ro, .none, 0⟩]⟩,
   ⟨0xE0040, 12, 4, 1, 0, true, [⟨0, 32, .rw, .opr, 0⟩]⟩,
   ⟨0xE0100, 64, 4, 1, 0, false, [⟨0, 1, .ro, .none, 0⟩, ⟨1, 1, .ro, .none, 0⟩, ⟨2, 2, .ro, .none, 0⟩, ⟨4, 6, .ro, .none, 0⟩, ⟨10, 8, .ro, .none, 0⟩, ⟨18, 3, .ro, .none, 0⟩, ⟨21, 1, .ro, .none, 0⟩, ⟨22, 1, .ro, .none, 0⟩]⟩,
   ⟨0xE0200, 8, 8, 1, 0, true, [⟨0, 32, .ro, .none, 0⟩]⟩,
   ⟨0xE0204, 8, 8, 1, 0, true, [⟨0, 32, .ro, .none, 0⟩]⟩,
   ⟨0xE1000, 1024, 4, 1, 0, true, [⟨0, 32, .ro, .none, 0⟩]⟩]

/-- The registers of block MGT. -/
def regsMGT : List RegDesc :=
  [⟨0xF0000, 1, 0, 1, 0, false, [⟨0, 2, .ro, .none, 0⟩, ⟨2, 1, .ro, .none, 0⟩, ⟨3, 1, .ro, .none, 0⟩, ⟨4, 1, .w1c, .opr, 0⟩]⟩,
   ⟨0xF0004, 1, 0, 1, 0, false, [⟨0, 16, .ro, .none, 0⟩, ⟨16, 8, .ro, .none, 0⟩, ⟨24, 8, .ro, .none, 0⟩]⟩,
   ⟨0xF0008, 1, 0, 1, 0, false, [⟨0, 32, .rw, .opr, 0⟩]⟩,
   ⟨0xF000C, 1, 0, 1, 0, true, [⟨0, 6, .rw, .img, 0⟩, ⟨6, 1, .rw, .img, 0⟩]⟩,
   ⟨0xF0010, 1, 0, 1, 0, true, [⟨0, 2, .rw, .amd, 0⟩]⟩,
   ⟨0xF0014, 1, 0, 1, 0, true, [⟨0, 32, .rw, .opr, 0⟩]⟩,
   ⟨0xF0018, 1, 0, 1, 0, true, [⟨0, 3, .ro, .none, 0⟩, ⟨3, 3, .ro, .none, 0⟩, ⟨8, 8, .ro, .none, 0⟩, ⟨16, 16, .rc, .none, 0⟩]⟩,
   ⟨0xF001C, 1, 0, 1, 0, true, [⟨0, 26, .ro, .none, 0⟩]⟩,
   ⟨0xF0020, 1, 0, 1, 0, true, [⟨0, 16, .ro, .none, 0⟩, ⟨16, 6, .ro, .none, 0⟩]⟩,
   ⟨0xF0024, 1, 0, 1, 0, false, [⟨0, 8, .rc, .none, 0⟩, ⟨8, 8, .rc, .none, 0⟩, ⟨16, 4, .rc, .none, 0⟩, ⟨24, 8, .rc, .none, 0⟩]⟩]

/-- The registers of block FLT. -/
def regsFLT : List RegDesc :=
  [⟨0x100000, 1, 0, 1, 0, true, [⟨0, 9, .ro, .none, 0⟩, ⟨15, 1, .ro, .none, 0⟩]⟩,
   ⟨0x100004, 1, 0, 1, 0, false, [⟨0, 8, .ro, .none, 0⟩, ⟨8, 3, .ro, .none, 0⟩, ⟨16, 13, .ro, .none, 0⟩]⟩,
   ⟨0x100008, 1, 0, 1, 0, false, [⟨0, 32, .ro, .none, 0⟩]⟩,
   ⟨0x10000C, 1, 0, 1, 0, false, [⟨0, 16, .rc, .none, 0⟩, ⟨16, 16, .rc, .none, 0⟩]⟩,
   ⟨0x100010, 1, 0, 1, 0, true, [⟨0, 8, .rw, .amd, 0⟩]⟩,
   ⟨0x100100, 256, 4, 1, 0, false, [⟨0, 8, .rc, .none, 0⟩, ⟨8, 2, .rw, .img, 0⟩, ⟨10, 1, .rw, .img, 0⟩, ⟨11, 1, .ro, .none, 0⟩, ⟨12, 1, .ro, .none, 0⟩, ⟨16, 8, .ro, .none, 0⟩]⟩]

/-- The registers of a block by its number in R33. -/
def blockRegs (b : Nat) : List RegDesc :=
  match b with
  | 0 => regsNOD
  | 1 => regsRNG0 ++ regsRNG1
  | 2 => regsSWC
  | 3 => regsCIS
  | 4 => regsPMP0 ++ regsPMP1
  | 5 => regsMIO
  | 6 => regsCAN
  | 7 => regsPHS0 ++ regsPHS1
  | 8 => regsFTM
  | 9 => regsBRG
  | 10 => regsWLH0 ++ regsWLH1
  | 11 => regsLDG
  | 12 => regsEVR
  | 13 => regsJRN0 ++ regsJRN1
  | 14 => regsVLT
  | 15 => regsMGT
  | 16 => regsFLT
  | _ => []

/-- Does an offset name an instance of the register? -/
def RegDesc.covers (r : RegDesc) (off : Nat) : Bool :=
  if off < r.addr then false
  else
    let rel := off - r.addr
    let i := if r.s1 = 0 then 0 else if r.s2 < r.s1 then rel / r.s1 else (rel % r.s2) / r.s1
    let rem := rel - i * r.s1
    let j := if r.s2 = 0 then 0 else rem / r.s2
    i < r.n1 && j < r.n2 && rel == i * r.s1 + j * r.s2

/-- The register at an offset of space 0x00. -/
def findReg (off : Nat) : Option RegDesc := (blockRegs (off / 0x10000)).find? (·.covers off)

end Sys2Proof.Machine
end

