-- ==== Sys2Proof/Machine/State.lean ====
section
/-!
DEFINITION. The state of the node as plain data: what survives power loss, the Night domain, the register file, the
state of each block that no register shows, and the queue of waiting commands; the reasons a step can stop; the machine
right after power-on reset release.
-/

namespace Sys2Proof.Machine

/-- The node states of R35. -/
inductive NodeState where
  | night | dawn | quarantine | run | degraded | safe | sleep | dusk
deriving DecidableEq, Repr

/-- The events that the blocks report to the recorder (R41, R501 and the chapters' own sentences). The chapters give
no EVT numbers (LOG 12), so an event is held by its name. -/
inductive EventKind where
  | stateChange | cmdRefused | safeCause | duskRecord | awaitingTrain | dawnFailure | accessViolation | amendResult
  | takeover | pairRestarted | updateEvent | faultReport | guarChange
  | portState | portAuthFail | portTraining | trainTrunc | ringMis
  | originationStart | originationYield | wrapStart | wrapStop | ringMap | nodeAbsent | rtOver
  | multicastResidue | queueReset | cellRetired | spareOut | freeList
  | pumpFault | pumpStopTimeout | pumpStartRefused | tripLatch | tripRelease | pinRange | pinTimeout | pinReadback
  | bankVoltage | canEvent | canWake | canBusOff | trackerState | trackerLoss | trackerError | eventLate | placerCal
  | timeStep | timeJump | timeHoldover | timeLabel | ppsLoss | utcChange
  | wlhLink | ledgerFull | ledgerError | journalLoss
  | vaultError | tamperAlarm | statementSigned
deriving DecidableEq, Repr

/-- The number by which `Config.evtCode` names an event's EVT byte. -/
def EventKind.index (k : EventKind) : Nat := k.ctorIdx

/-- A report waiting for the recorder, with the stamps of the cycle it was made in (R500, R502). -/
structure Report where
  chan : Nat
  kind : EventKind
  cycle : Nat
  flags : Nat
  origin : Nat
  t0 : Nat
  t1 : Nat
  utcoff : Nat
  data : Nat
deriving DecidableEq, Repr

/-- A record in the recorder's SRAM (R500). -/
structure EvRec where
  seq : Nat
  rep : Report
deriving DecidableEq, Repr

/-- The recorder of one die (R500 to R508). -/
structure Rcd where
  slots : SMap (Option EvRec)
  pending : List Report
  input : List Report
  lossNext : Bool
  uncopied : List Nat
  clrOrigin : Option Origin
deriving DecidableEq, Repr

def Rcd.init : Rcd := ⟨.empty, [], [], false, [], none⟩

/-- A ledger entry of R486 less its SEAL. -/
structure LedgerBody where
  kind : Nat
  origin : Nat
  onode : Nat
  odie : Nat
  keyid : Nat
  tag : Nat
  arg0 : Nat
  arg1 : Nat
  arg2 : Nat
  arg3 : Nat
  arg4 : Nat
deriving DecidableEq, Repr

/-- A staged ledger entry: sequence number, stamps, body, seal and the slot of the area it goes to (R490). -/
structure LedgerEntry where
  lseq : Nat
  time : Nat
  pcc : Nat
  tsrc : Bool
  body : LedgerBody
  sealMac : BitVec 64
  slot : Nat
deriving DecidableEq, Repr

/-- A page write in progress on the log NVM (R492, R506): its page, the LSEQs of ledger entries in it, the recorder
records in it (area slot, die, SEQ), how often it has been written. -/
structure PageOp where
  page : Nat
  lseqs : List Nat
  recs : List (Nat × Nat × Nat)
  writes : Nat
deriving DecidableEq, Repr

/-- The Change Ledger of the owner (R481 to R499). -/
structure Ldg where
  staging : List LedgerEntry
  forced : List LedgerBody
  waiting : List LedgerBody
  nextLseq : Nat
  firstLseq : Nat
  mark : Nat
  headSlot : Nat
  lastSeal : BitVec 64
  op : Option PageOp
  retry : Option PageOp
  blankTo : Option (Nat × Nat)
  lastSeq : SMap (Option Nat)
  wpHigh : Bool
  copyPos : Nat
deriving DecidableEq, Repr

/-- The journal of one die (R516 to R538). -/
structure Jrn where
  words : SMap Nat
  cycle : List (Nat × Nat × List Nat)
  buffer : List Nat
  lastCycle : Nat
  next : Nat
  wraps : Nat
  filled : Nat
  undrained : Nat
  sseq : Nat
  inLoss : Bool
  dropAt : Nat
  bytesMs : Nat
  ckptAt : Nat
  ckptIndex : Nat
  ckptDue : Bool
  ckptWords : List Nat
  pirWrites : List Nat
  replayPos : Nat
deriving DecidableEq, Repr

def Jrn.init : Jrn :=
  { words := .empty, cycle := [], buffer := [], lastCycle := 0, next := 0, wraps := 0, filled := 0, undrained := 0, sseq := 0,
    inLoss := false, dropAt := 0, bytesMs := 0, ckptAt := 0, ckptIndex := 0, ckptDue := false,
    ckptWords := [], pirWrites := [], replayPos := 0 }

/-- A freeze on its way to every die (R529): kind 0 record, 1 command, 2 Dusk; SEQ and channel of the record; the core
cycle of the trigger. -/
structure Freeze where
  kind : Nat
  seq : Nat
  chan : Nat
  cycle : Nat
deriving DecidableEq, Repr

/-- A key slot of a die's vault (R543, VLT_SLOT). -/
structure KeySlot where
  valid : Bool
  revoked : Bool
  typ : Nat
  engines : Nat
  parent : Nat
  depth : Nat
  cached : Bool
  imported : Bool
  key : Nat
deriving DecidableEq, Repr

def KeySlot.init : KeySlot := ⟨false, false, 0, 0, 0, 0, false, false, 0⟩

/-- A slot entry of a KEYTREE record (R543). -/
structure KeyDef where
  slot : Nat
  parent : Nat
  typ : Nat
  engines : Nat
  cache : Bool
  label : List Byte
deriving DecidableEq, Repr

/-- An entry of the Night key cache (R550). -/
structure CacheEntry where
  slot : Nat
  typ : Nat
  sealed : List Byte
  pcc : Nat
deriving DecidableEq, Repr

/-- An entry of the tamper log (R558). -/
structure TamperEntry where
  sec : Nat
  pcc : Nat
  source : Nat
deriving DecidableEq, Repr

/-- The Night domain (R558): the calendar in units of 2⁻¹⁵ s as it stood at core cycle `calAt`; the tamper sources
enabled, and for how many samples on end each source's condition has held. -/
structure Night where
  cal : Nat
  calAt : Nat
  pcc : Nat
  cache : List CacheEntry
  nightKey : Nat
  log : List TamperEntry
  void : Bool
  tampCfg : Nat
  tampRun : List Nat
deriving DecidableEq, Repr

/-- One-time-programmable memory (R97 to R99, R539, R572). -/
structure Otp where
  ownerHash : Option (BitVec 384)
  genFloor : Nat
  fwFloors : List Nat
  identityBlank : Bool
  rootSecret : Nat
deriving DecidableEq, Repr

/-- The vault beside its slots (R540 to R561). -/
structure Vlt where
  slots : SMap KeySlot
  inUse : List (Nat × Nat)
  producing : Bool
  lastSigned : Option Nat
  statement : List Byte
  entFail : Bool
  cacheUsed : Bool
deriving DecidableEq, Repr

/-- The update engine and the pairs (R564 to R583). -/
structure Mgt where
  staged : SMap Byte
  stagedLen : Nat
  isOpen : Bool
  oldFw : Nat
  handed : List Nat
  norDone : Bool
  readbackFails : Nat
  restarts : SMap Nat
  fwOf : SMap (Nat × Nat × Nat × Nat × Nat)
  detectAt : Option Nat
  takeoverDue : Bool
  headless : Bool
deriving DecidableEq, Repr

/-- A fault report on its way to its fault manager (R598); whether its masked fault has ended already. -/
structure FaultRep where
  die : Nat
  code : Nat
  unit : Nat
  cycle : Nat
  ended : Bool
deriving DecidableEq, Repr

/-- The fault managers (R584 to R600). -/
structure Flt where
  reports : List FaultRep
  deferred : List FaultRep
  present : List (Nat × Nat × Nat)
  safeCodes : List Nat
  lastRec : SMap Nat
  restores : List (Nat × Nat × Nat × Nat)
  restoreDue : List (Nat × Nat × Nat)
  supplyOk : SMap Bool
  tempOk : SMap Bool
  guar : Bool
deriving DecidableEq, Repr

/-- The image header of R96 as committed or held. -/
structure Header where
  imgLen : Nat
  gen : Nat
  partMask : Nat
  bind : Bool
  recOff : Nat
  fwOff : Nat
  fwLen : Nat
  fwVer : Nat
  hoFmt : Nat
  peerMin : Nat
  peerMax : Nat
  imgHash : List Byte
  signer : List Byte
deriving DecidableEq, Repr

def Header.init : Header := ⟨0, 0, 0, false, 0, 0, 0, 0, 0, 0, 0, [], []⟩

/-- A record of the image, checked and held (R100, R109): type, die mask, sequence number, payload words. -/
structure HeldRec where
  typ : Nat
  dieMask : Nat
  seq : Nat
  payload : List Word
deriving DecidableEq, Repr

/-- An entry of AMEND_POLICY (R115). -/
structure Policy where
  dieMask : Nat
  origins : Nat
  macReq : Bool
  start : Nat
  last : Nat
  ringMin : Nat
  ringMax : Nat
deriving DecidableEq, Repr

/-- An entry of IMGSERVE (R106). -/
structure Serve where
  off : Nat
  len : Nat
  partMask : Nat
deriving DecidableEq, Repr

/-- Dawn in progress (R83 to R110): held header and records, where the image comes from, whether it follows a power-on reset
(R74). -/
structure Dawn where
  header : Option Header
  held : List HeldRec
  bytes : List Byte
  ringBoot : Bool
  ringTried : Bool
  server : Option (Nat × Nat)
  streamed : SMap Byte
  streamLen : Nat
  replaySel : Bool
  powerOn : Bool
deriving DecidableEq, Repr

def Dawn.init : Dawn :=
  { header := none, held := [], bytes := [], ringBoot := false, ringTried := false,
    server := none, streamed := .empty, streamLen := 0, replaySel := false,
    powerOn := true }

/-- The way the hub reads the configuration NOR since Dawn step 3 (R89 to R92): read mode, clock in MHz, dummy cycles, quad-enable
method, address bytes, capacity in bytes (0 while step 3 has not read it). -/
structure NorIf where
  mode : NorMode
  mhz : Nat
  dummy : Nat
  quadEnable : Nat
  addrBytes : Nat
  capacity : Nat
deriving DecidableEq, Repr

def NorIf.init : NorIf := ⟨.m111, 25, 0, 0, 3, 0⟩

/-- The test access port of one die (R72 to R78): its instruction, the bypass bit, boundary cells as preloaded and as captured, the
data register of MDBG. -/
structure Tap where
  ir : Nat
  bypass : Bool
  boundary : SMap Bool
  captured : SMap Bool
  inForce : Bool
  mdbg : Bool
  mdbgData : Nat
deriving DecidableEq, Repr

/-- Test-Logic-Reset (R78). The instruction that a die then holds is IDCODE, which R78 leaves open (LOG 175). -/
def Tap.init : Tap := ⟨0x02, false, .empty, .empty, false, false, 0⟩

/-- Fabric time of the node (R400 to R420). `time` and the instants count units of 1/(5 × 2⁴⁸) ns, in which the
advance of one core cycle, 0.8 ns × (1 + r), is a whole number. -/
structure Ftm where
  time : Nat
  r : Int
  ri : Int
  good : Nat
  missed : Nat
  lastInput : Nat
  onTime : Option Nat
  toy : Option Nat
  year : Option Nat
  label : Option (Nat × Nat)
  lastEdge : Option Nat
  ppsUntil : Nat
  utcDone : Nat
  delays : SMap (List Int)
  kseq : SMap Nat
deriving DecidableEq, Repr

/-- The MSI-X state of a host port (R436): whether messages may be sent, mask bits, pending bits and messages sent by
vector, the words of the table. -/
structure Msix where
  enabled : Bool
  unmasked : SMap Bool
  pba : SMap Bool
  sent : SMap Nat
  table : SMap Word
deriving DecidableEq, Repr

def Msix.init : Msix := ⟨false, .empty, .empty, .empty, .empty⟩

/-- An error packet that waits for MP (R236, R425): code, the failed request's source, its 64 bytes, the fabric time. -/
structure ErrPkt where
  code : Nat
  node : Nat
  die : Nat
  failed : List Byte
  ftime : Nat
deriving DecidableEq, Repr

/-- What the node holds of its own state (R35 to R41, R624 to R626); `cmdAt` and `cmdFrom`: the core cycle in which NOD_CMD last
accepted a command, and the state before it. -/
structure Node where
  state : NodeState
  owner : Nat
  fenced : Bool
  scause : Nat
  safeTrains : Bool
  safeCmd : Bool
  stepTen : Bool
  replay : Bool
  duskAt : Nat
  woken : Bool
  wakeTrain : Bool
  cmdAt : Option Nat
  cmdFrom : NodeState
deriving DecidableEq, Repr

/-- The committed configuration that no register holds (R104 to R118, R543). -/
structure Committed where
  committed : Bool
  header : Header
  policies : List Policy
  cmdPolicy : List Nat
  serves : List Serve
  serving : Option (Nat × Nat × Nat)
  keyDefs : List KeyDef
  imports : List (List Byte)
  keyBytes : List Byte
  fwHash : List Byte
deriving DecidableEq, Repr

def Committed.init : Committed := ⟨false, .init, [], [], [], none, [], [], [], []⟩

/-! ## Cells, queues and the switch -/

/-- A cell as it travels: 64 bytes, word fill (0 means 16, R628), class, destination, source and hop count (R161). -/
structure Cell where
  data : List Byte
  fill : Nat
  klass : Nat
  mcast : Bool
  dnode : Nat
  ddie : Nat
  dq : Nat
  snode : Nat
  sdie : Nat
  hops : Nat
deriving DecidableEq, Repr

/-- A cell in the Cistern: its cell index, the switch input it is charged to (10: MCRES, 11: its queue), the origin of a
window write, the link RAM entry's tag and epoch (R246), the words held and read of a word queue's cell, closed or open. -/
structure CCell where
  cell : Cell
  index : Nat
  src : Nat
  org : Option Origin
  link : Option Nat
  epoch : Nat
  words : Nat
  read : Nat
  closed : Bool
deriving DecidableEq, Repr

/-- A queue of the Cistern beside its window words (R250 to R260); the core cycle in which an arrival last ended its emptiness (R277). -/
structure CQueue where
  cells : List CCell
  last : List Byte
  old : List CCell
  sweeping : Bool
  grantMax : Nat
  lcred : Nat
  packTo : Nat
  session : Option Nat
  lastFreed : Nat
  given : Bool
  filledAt : Option Nat
deriving DecidableEq, Repr

def CQueue.init : CQueue := ⟨[], [], [], false, 0, 0, 0, none, 0, false, none⟩

/-- The free list of a bank (R247, R268): rows in list order are `pre`, then `fresh` to 12,287, then `post`. While a rebuild runs, which
began in core cycle `rebuildAt`, `late` holds the rows freed behind it (R277). -/
structure Bank where
  pre : List Nat
  fresh : Nat
  post : List Nat
  rebuilding : Bool
  rebuildAt : Nat
  late : List Nat
deriving DecidableEq, Repr

def Bank.init : Bank := ⟨[], 0, [], false, 0, []⟩

/-- A write held in the Cistern's write buffer (R247): its queue, its cell, whether the cell has its place already, and whether the next
held write is linked in the same core cycle (R349). -/
structure HeldWrite where
  queue : Nat
  cell : CCell
  placed : Bool
  more : Bool
deriving DecidableEq, Repr

/-- What the check logic of a memory finds in the accessed word, entry or copy: a matter of the silicon (R266 to R272). -/
structure Scrub where
  cellLine : SMap Nat
  cellPasses : SMap Nat
  linkRow : SMap Nat
  descQueue : Nat
  corrected : List (Nat × Nat)
  pirWord : Nat
deriving DecidableEq, Repr

def Scrub.init : Scrub := ⟨.empty, .empty, .empty, 0, [], 0⟩

/-- A multicast cell in the replicator's pending list (R224, R238): destinations owed and given up, its input. -/
structure McCell where
  cell : Cell
  input : Nat
  owed : List Nat
  gaveUp : List Nat
  since : Nat
deriving DecidableEq, Repr

/-- A cell in an input stage, with its place in the Cistern where it is relinked and not copied (R222, R257). -/
structure Staged where
  cell : Cell
  place : Option Nat
deriving DecidableEq, Repr

/-- The switch core of a die (R220 to R244): pointers of R223, slots waited (R228), pending multicast cells, the core cycle of the last
matching, what each output last read (core cycle, class), and by die link and class (4 × DP + class) the credit granted at its
training and the cells sent that the far die has not freed (R230). -/
structure Swc where
  stages : SMap (List Staged)
  outbox : SMap (List Cell)
  gptr1 : SMap Nat
  gptr2 : SMap Nat
  aptr : SMap Nat
  waits : SMap Nat
  mcs : List McCell
  residueAt : Option Nat
  matchedAt : Option Nat
  lastRead : SMap (Option (Nat × Nat))
  dieGrant : SMap Nat
  dieUsed : SMap Nat
deriving DecidableEq, Repr

def Swc.init : Swc :=
  { stages := .empty, outbox := .empty, gptr1 := .empty, gptr2 := .empty, aptr := .empty, waits := .empty, mcs := [], residueAt := none,
    matchedAt := none, lastRead := .empty, dieGrant := .empty, dieUsed := .empty }

/-- The Cistern of a die beside its queues: `busy` lists the banks read, written or scrubbed in core cycle `busyAt` (R247), `retired` the
cells with RET = 1 (R271). The first 16 entries of `wbuf` stand in the write buffer, the others at their requesters. -/
structure Cis where
  banks : SMap Bank
  wbuf : List HeldWrite
  lastFwdLp : Nat
  lastFwdMp : Nat
  linkRet : SMap Nat
  scrub : Scrub
  busyAt : Nat
  busy : List Nat
  retired : List Nat
deriving DecidableEq, Repr

def Cis.init : Cis := ⟨.empty, [], 8191, 8191, .empty, .init, 0, [], []⟩

/-! ## Ring ports, trains and rings -/

/-- A cell frame in a replay buffer (R164). -/
structure OutFrame where
  lseq : Nat
  cell : Cell
deriving DecidableEq, Repr

/-- A ring port beside its registers (R130 to R173): training, transmitter, receiver; whether the last frame ended in an Abort block
(R170), the freed counts last sent (R168), and whether a presence cell must leave before anything else is linked here (R197). -/
structure Port where
  deskewed : Bool
  leavingOff : Bool
  retryWait : Bool
  forcedOff : Bool
  trainCnt : Nat
  lastFailure : Option Nat
  peerDie : Nat
  peerPow : Nat
  peerCnt : Nat
  sessionTx : Option Nat
  sessionRx : Option Nat
  txNext : Nat
  outstanding : List OutFrame
  used : SMap Nat
  lastCredit : SMap Nat
  txCnt : Nat
  txEpoch : Nat
  retries : Nat
  nakDue : Bool
  csreqDue : Bool
  syncDue : Bool
  rxNext : Nat
  ignoring : Bool
  rxLast : Option Nat
  rxEpoch : Nat
  freed : SMap Nat
  grants : SMap Nat
  scored : Bool
  heardPeer : Bool
  activeFrom : Nat
  lastTx : List Byte
  txAborted : Bool
  sentFreed : SMap Nat
  presenceFirst : Bool
deriving DecidableEq, Repr

def Port.init : Port :=
  { deskewed := false, leavingOff := false, retryWait := false, forcedOff := false, trainCnt := 0, lastFailure := none,
    peerDie := 0, peerPow := 0, peerCnt := 0, sessionTx := none, sessionRx := none, txNext := 0, outstanding := [],
    used := .empty, lastCredit := .empty, txCnt := 0, txEpoch := 0, retries := 0, nakDue := false, csreqDue := false,
    syncDue := false, rxNext := 0, ignoring := false, rxLast := none, rxEpoch := 0, freed := .empty, grants := .empty,
    scored := false, heardPeer := false, activeFrom := 0, lastTx := [], txAborted := false, sentFreed := .empty,
    presenceFirst := false }

/-- The header segment of a train (R143). -/
structure TrainHdr where
  ver : Nat
  flags : Nat
  ring : Nat
  dirn : Nat
  master : Nat
  segCnt : Nat
  cycle : Nat
  period : Nat
  hopCnt : Nat
  ftimeNs : Nat
  ftimeFr : Nat
  tmaster : Nat
  utcOff : Nat
  corr : Nat
  tstat : Nat
deriving DecidableEq, Repr

/-- A train in passage at an express receiver (R141, R191): where it goes on (none: absorbed), whether it passes
unchanged (R145), segments seen, its header as received. `residence` is the node's own
in 2⁻¹⁶ ns, `dirn` the ring it arrived on (0 A, 1 B). -/
structure Passage where
  startTime : Nat
  startCycle : Nat
  residence : Nat
  dirn : Nat
  onward : Option Nat
  unchanged : Bool
  next : Nat
  hdr : Option TrainHdr
  lastOut : List Byte
deriving DecidableEq, Repr

/-- An entry of a BUCKET record (R151). -/
structure Bucket where
  kind : Nat
  unit : Nat
  len : Nat
  pioff : Nat
deriving DecidableEq, Repr

/-- The train logic of a die (R141 to R160, R187 to R203). `latchSeen` are the receivers that the train of the
publish latch has passed; `taken` lists the segments committed of the accepted train with the core cycle and the ring of the copy,
`halves` its units of 8-byte words that lie in two segments; `phaseAt` is the boundary of R158 at the last start, `passedReverse` the
CYCLE last passed on a reverse lane. -/
structure Trn where
  buckets : List Bucket
  latch : SMap Word
  latchCycle : Option Nat
  latchSeen : List Nat
  accepted : Option Nat
  acceptedAt : Nat
  segCnt : Nat
  everRun : Bool
  windowOpen : Bool
  taken : List (Nat × Nat × Nat)
  halves : List (Nat × List Byte)
  beginWritten : Bool
  carry : SMap Byte
  captured : List Nat
  capturedCycle : Nat
  cycle : Nat
  lastStart : Nat
  phaseAt : Nat
  passedReverse : SMap Nat
  wrapped : SMap Bool
  passages : SMap (Option Passage)
  expressOut : SMap (List Byte)
deriving DecidableEq, Repr

def Trn.init : Trn :=
  { buckets := [], latch := .empty, latchCycle := none, latchSeen := [], accepted := none, acceptedAt := 0, segCnt := 0,
    everRun := false, windowOpen := false, taken := [], halves := [], beginWritten := false, carry := .empty, captured := [],
    capturedCycle := 0, cycle := 0, lastStart := 0, phaseAt := 0, passedReverse := .empty, wrapped := .empty, passages := .empty,
    expressOut := .empty }

/-- What a die last heard from a sender of presence cells (R183, R184). -/
structure Presence where
  node : Nat
  die : Nat
  pstate : Nat
  aePeer : Nat
  bePeer : Nat
  role : Nat
  pseq : Nat
  heard : Nat
deriving DecidableEq, Repr

/-- A position of the ring map (R185, RNG_MAP). -/
structure MapEntry where
  node : Nat
  present : Bool
  aLost : Bool
  bLost : Bool
  die : Nat
deriving DecidableEq, Repr

/-- The ring membership of a die (R182 to R186). -/
structure Rng where
  heard : List Presence
  pseq : Nat
  map : List MapEntry
  closed : Bool
deriving DecidableEq, Repr

def Rng.init : Rng := ⟨[], 0, [], false⟩

/-! ## Pins and phase -/

/-- A pin beside its registers (R319 to R327): synchronised level; the glitch filter's output, the sample cycles for which the other
level has held, and its last five outputs; the qualified level; the core cycle of the last sample; the open measure and window, edges
since Dawn step 6; the sample cycles since the last active edge, and the core cycle of the last momentary trip condition; the function's
level and output enable; the level last commanded and when, the settle count, the readback. -/
structure Pin where
  sync : Bool
  filt : Bool
  run : Nat
  hist : List Bool
  qual : Bool
  sampledAt : Option Nat
  openAt : Option Nat
  count : Nat
  windowOpen : Bool
  edges : Nat
  lastViol : Option Nat
  tmo : Option Nat
  tmoFired : Bool
  tripAt : Option Nat
  fn : Bool
  oe : Bool
  drv : Option Bool
  drvAt : Option Nat
  settle : Nat
  rbArmed : Bool
  rbBad : Bool
deriving DecidableEq, Repr

def Pin.init : Pin :=
  { sync := false, filt := false, run := 0, hist := [], qual := false, sampledAt := none, openAt := none, count := 0,
    windowOpen := false, edges := 0, lastViol := none, tmo := none, tmoFired := false, tripAt := none, fn := false, oe := false,
    drv := none, drvAt := none, settle := 0, rbArmed := false, rbBad := false }

/-- A phase tracker beside its registers (R364 to R379): θ in units of 2⁻⁶⁴ turn as it stood at core cycle `thetaAt`, its
velocity, count or n, the last two measurements (z, tz), and what the loss and pacing rules watch. -/
structure Trk where
  theta : Nat
  thetaAt : Nat
  w : Int
  count : Int
  last : Option (Nat × Int)
  prior : Option (Nat × Int)
  fresh : Bool
  locks : Nat
  aligned : Bool
  rejects : Nat
  frac : Option Nat
  turns : Int
  slotSeen : Bool
  slotTaken : Bool
  edgeAt : Nat
  edgesTick : Nat
  illegalTick : Nat
  zTick : Bool
deriving DecidableEq, Repr

def Trk.init : Trk :=
  { theta := 0, thetaAt := 0, w := 0, count := 0, last := none, prior := none, fresh := false, locks := 0,
    aligned := false, rejects := 0, frac := none, turns := 0, slotSeen := false, slotTaken := false, edgeAt := 0, edgesTick := 0,
    illegalTick := 0, zTick := false }

/-- A committed event (R384): its entry, the NEXT that fires, Tc in ns of core time, lateness, velocity at commit. -/
structure Commit where
  entry : Nat
  next : Nat
  tc : Nat
  late : Bool
  vel : Int
deriving DecidableEq, Repr

/-- The event engine of a die (R382 to R397): crossings, pending entries, committed events, edges placed by bank, event
cells waiting for LP, entries with a parity error. -/
structure Evt where
  next : SMap (Option Nat)
  pending : List Nat
  committed : List Commit
  edges : List (Nat × Nat)
  cells : List Cell
  bad : List Nat
  lastLate : Option Nat
  placer : Nat
deriving DecidableEq, Repr

def Evt.init : Evt := ⟨.empty, [], [], [], [], [], none, 0⟩

/-- A CAN controller beside its registers and queues (R340 to R355): the queue whose head is in transmission (0 TX,
1 TXH), the release of a gated head, RXSEQ, a pending STOP, the last recorded format error, loss and missed release. -/
structure Can where
  tx : Option Nat
  released : Bool
  rxseq : Nat
  stopping : Bool
  lastFmt : Option Nat
  lastOvf : Option Nat
  lastMiss : Option Nat
deriving DecidableEq, Repr

def Can.init : Can := ⟨none, false, 0, false, none, none, none⟩

/-! ## Pumps -/

/-- A collection in progress of the gather stage (R289): bits wanted, bits taken, their value, DIR, CRCF, ACC, DST. -/
structure Gather where
  n : Nat
  got : Nat
  value : Nat
  dir : Bool
  crcf : Bool
  acc : Bool
  dst : Bool
deriving DecidableEq, Repr

/-- The pour stage (R288): data bits still to leave in their order, DIR, CRCF, STF, a stuff bit that is due. -/
structure Pour where
  left : List Bool
  dir : Bool
  crcf : Bool
  stf : Bool
  stuffDue : Bool
deriving DecidableEq, Repr

/-- What an Awaiting Pump waits for (R300). -/
inductive PumpWait where
  | await
  | pour
  | gather
  | store (queue : Nat) (word : BitVec 32)
deriving DecidableEq, Repr

/-- A Pump beside its registers (R278): stages, stuff run counters, line-code states, stored flags, the sample of the
last boundary, what it waits for, a START under way, a stop made by Safe, the entries with a parity error (64 to 79 are
line-code entries), the accumulator A and the time to the next cycle boundary in steps of 0.4 ns (R281). -/
structure Pump where
  pour : Option Pour
  gather : Option Gather
  pourRun : Nat
  gathRun : Nat
  enc : Bool
  dec : Bool
  grdy : Bool
  flag : Bool
  abort : Bool
  codeErr : Bool
  prevIn : Nat
  wait : Option PumpWait
  starting : Bool
  safeStopped : Bool
  bad : List Nat
  acc : Nat
  clk : Nat
deriving DecidableEq, Repr

def Pump.init : Pump :=
  { pour := none, gather := none, pourRun := 0, gathRun := 0, enc := false, dec := false, grdy := false, flag := false,
    abort := false, codeErr := false, prevIn := 0, wait := none, starting := false, safeStopped := false, bad := [], acc := 0, clk := 0 }

/-! ## The Wellhouse -/

/-- A 48 V feed at the Wellhouse (R467, R468): ever present, present, its ideal diode conducting. -/
structure Feed where
  ever : Bool
  ok : Bool
  diode : Bool
deriving DecidableEq, Repr

/-- A 24 V field feed (R469): good, and the conversions it has been outside its window. -/
structure FieldFeed where
  good : Bool
  out : Nat
deriving DecidableEq, Repr

/-- The results of the last conversion as the measurement frame carries them (R473, R474): VA, VB, VOUT, HU, F1, F2, FLD;
the currents of A, B, 1, 2 and the hot-swap channel; the powers of A, B, 1 and 2; E and EVALID. -/
structure WlhSample where
  volts : List Nat
  currents : List Nat
  powers : List Nat
  energy : Nat
  evalid : Bool
deriving DecidableEq, Repr

/-- The Wellhouse (R452 to R478), which keeps its state while the hub dies reset. `totals` are the energy accumulators in
units of 10 nJ, remainder and all. -/
structure Wlh where
  refclk : Bool
  inWindow : Bool
  hs : Nat
  gate : Bool
  limit : Bool
  timer : Bool
  hold : Bool
  pg : Bool
  off : Bool
  retry : Nat
  a : Feed
  b : Feed
  f1 : FieldFeed
  f2 : FieldFeed
  fsel : Nat
  flast : Nat
  fbreak : Bool
  ftarget : Option Nat
  fon : Bool
  foff : Bool
  foclat : Bool
  noFeed : Bool
  auto : Bool
  store : Bool
  flags : Nat
  fastCnt : Nat
  revCnt : Nat
  swCnt : Nat
  margin : Nat
  conf : SMap Word
  totals : List Int
  sample : WlhSample
  frameAt : SMap (Option Nat)
deriving DecidableEq, Repr

/-- The Wellhouse of a card in service as power-on reset is released: power-good asserted (R36), both feeds present and
conducting (LOG 30), no frame sent yet, every count 0. -/
def Wlh.init : Wlh :=
  { refclk := false, inWindow := true, hs := 3, gate := true, limit := false, timer := false, hold := false, pg := true,
    off := false, retry := 0, a := ⟨true, true, true⟩, b := ⟨true, true, true⟩, f1 := ⟨false, 0⟩,
    f2 := ⟨false, 0⟩, fsel := 0, flast := 0, fbreak := false, ftarget := none, fon := false, foff := false, foclat := false,
    noFeed := false, auto := false, store := false, flags := 0, fastCnt := 0, revCnt := 0, swCnt := 0, margin := 0,
    conf := .empty, totals := [0, 0, 0, 0], sample := ⟨[], [], [], 0, false⟩, frameAt := .empty }

/-! ## Accesses and bridges -/

/-- The answer of the last access that a command made: its code (0 success, the codes of R425, 0x82 where the node state
refuses it under R35) and what it read. -/
structure Reply where
  code : Nat
  data : List Byte
deriving DecidableEq, Repr

def Reply.init : Reply := ⟨0, []⟩

/-- A request to an access engine or a backplane master (R424): message, flags, length, originating port, address,
requester, source, origin (R114), data. `msg` below 0x80 came in a cell; 0x80 and 0x81 are a read and a write of this node's
own host port, 0x90 and 0x91 of its own backplane bridge, 0x94 to 0x96 a lock read, lock write and unlock of it, 0xA0 and 0xA1 of
a row that names the access itself. -/
structure Req where
  msg : Nat
  tag : Nat
  posted : Bool
  second : Bool
  len : Nat
  port : Nat
  addr : Nat
  reqid : Nat
  rnode : Nat
  snode : Nat
  sdie : Nat
  org : Origin
  data : List Byte
deriving DecidableEq, Repr

/-- A lock (R445): the global address of its lock read, whose 64-byte unit or bus is held; the holder's node, die and tag. -/
structure UnitLock where
  addr : Nat
  node : Nat
  holder : Nat
  tag : Nat
deriving DecidableEq, Repr

/-- The access engine of a die (R426): the first halves of bursts that wait for their second, the units it holds, the
requests that wait for a held unit. -/
structure Eng where
  halves : List Req
  units : List UnitLock
  parked : List Req
deriving DecidableEq, Repr

def Eng.init : Eng := ⟨[], [], []⟩

/-- A piece of a host read (R430): its tag, address and length, and its bytes once they are fetched. -/
structure Piece where
  tag : Nat
  addr : Nat
  len : Nat
  data : Option (List Byte)
deriving DecidableEq, Repr

/-- A host read with remote pieces outstanding (R431). -/
structure HostRead where
  tag : Nat
  reqid : Nat
  pieces : List Piece
deriving DecidableEq, Repr

/-- A completion to the host: tag, status (0 successful, 1 Unsupported Request, 4 Completer Abort), data. -/
structure HostCpl where
  tag : Nat
  status : Nat
  data : List Byte
deriving DecidableEq, Repr

/-- An entry of the Posted Write Fault Log (R434). -/
structure PwFault where
  addr : Nat
  port : Nat
  reqid : Nat
  code : Nat
  ftime : Nat
  tag : Nat
  cycle : Nat
deriving DecidableEq, Repr

/-- A host port (R427 to R435): reads outstanding, the log, the last completion, the next tag, its configuration space. -/
structure HostPort where
  reads : List HostRead
  log : List PwFault
  last : Option HostCpl
  tagNext : Nat
  config : SMap Word
deriving DecidableEq, Repr

def HostPort.init : HostPort := ⟨[], [], none, 0, .empty⟩

/-- How the bridge ended the last slave cycle: not answered, DTACK with data, RETRY, BERR. -/
inductive BpAnswer where
  | silent
  | dtack (data : List Byte)
  | retry
  | berr
deriving DecidableEq, Repr

/-- A prefetch slot (R441, R442): a read's or a non-posted write's; address, modifier, width, its request's tag, and code and data once they came. -/
structure Slot where
  wr : Bool
  addr : Nat
  am : Nat
  width : Nat
  tag : Nat
  got : Option (Nat × List Byte)
deriving DecidableEq, Repr

/-- A slave cycle that waits for its answer (R441, R442, R445): 0 a held read, 1 a held write, 2 a lock read, 3 a lock write;
with the tag of its request. -/
structure HeldCycle where
  kind : Nat
  addr : Nat
  am : Nat
  width : Nat
  tag : Nat
deriving DecidableEq, Repr

/-- A locked sequence of the local master (R445, R447): its target address, width and tag; whether its window answers no
writes; whether the target answered lock busy. -/
structure LockOut where
  addr : Nat
  width : Nat
  tag : Nat
  rdonly : Bool
  busy : Bool
deriving DecidableEq, Repr

/-- An access to space 0x08 at its bridge (R443): the request, the bytes done. -/
structure MasterReq where
  req : Req
  done : List Byte
deriving DecidableEq, Repr

/-- A backplane bridge (R437 to R449): the last slave answer, prefetch slots, the waiting slave cycle, the locked sequence of
its local master; the accesses waiting for the bus, whether it requests and holds the bus, BP_BCLR_N; the far holder of
its bus; the incoming lock read that waits for BP_AS_N to rise; sources whose interrupt is acknowledged. -/
structure Bp where
  last : BpAnswer
  slots : SMap (Option Slot)
  held : Option HeldCycle
  lock : Option LockOut
  masters : List MasterReq
  bus : Bool
  clear : Bool
  lockBy : Option UnitLock
  waitAs : Option Req
  asLow : Bool
  acked : Nat
  tagNext : Nat
deriving DecidableEq, Repr

def Bp.init : Bp :=
  { last := .silent, slots := .empty, held := none, lock := none, masters := [], bus := false, clear := false,
    lockBy := none, waitAs := none, asLow := false, acked := 0, tagNext := 0 }

/-- The hub package: everything but the Process Image RAM and the queue of commands. -/
structure Hw where
  part : Part
  grade : Grade
  straps : Nat
  slotNo : Nat
  otp : Otp
  nightDom : Night
  logNvm : SMap Byte
  nor : SMap Byte
  regs : SMap Word
  qregs : SMap Word
  node : Node
  dawn : Dawn
  norIf : NorIf
  cfg : Committed
  taps : SMap Tap
  rcds : SMap Rcd
  ldg : Ldg
  jrns : SMap Jrn
  freeze : Option Freeze
  vlt : Vlt
  mgt : Mgt
  flt : Flt
  ftm : Ftm
  msix : SMap Msix
  errs : SMap (List ErrPkt)
  queues : SMap CQueue
  cis : SMap Cis
  swc : SMap Swc
  ports : SMap Port
  trn : SMap Trn
  rings : SMap Rng
  dieLinkDown : SMap Bool
  sysRst : SMap Bool
  pins : SMap Pin
  trks : SMap Trk
  evts : SMap Evt
  cans : SMap Can
  pumps : SMap Pump
  wlh : Wlh
  ehi : SMap Nat
  reply : Reply
  engs : SMap Eng
  hosts : SMap HostPort
  bps : SMap Bp
  now : Nat
  freeCtr : Nat
deriving DecidableEq, Repr

/-- The machine: the package, the Process Image RAM of its dies (key die × 2²⁰ + offset, R27), the waiting commands,
first in, first out. -/
structure State where
  hw : Hw
  pir : SMap Byte
  pending : List Instr
deriving DecidableEq, Repr

/-- Why the model stops: never. The manual gives every command an effect, and none of its errors stops the hub. Safe. -/
inductive Fault where
deriving DecidableEq, Repr

/-- Why a command has no meaning. -/
inductive Refusal where
  /-- A command not yet modelled; raised by the arms of Dispatch only. Safe. -/
  | notModelled (mnemonic : String)
deriving DecidableEq, Repr

def Ftm.init : Ftm :=
  { time := 0, r := 0, ri := 0, good := 0, missed := 0, lastInput := 0, onTime := none, toy := none,
    year := none, label := none, lastEdge := none, ppsUntil := 0, utcDone := 0, delays := .empty,
    kseq := .empty }

/-- The node right after power-on reset release (R36, R68), in Dawn, owner D0 (R23). -/
def Node.init : Node :=
  { state := .dawn, owner := 0, fenced := false, scause := 0, safeTrains := false, safeCmd := false,
    stepTen := false, replay := false, duskAt := 0, woken := false, wakeTrain := false, cmdAt := none, cmdFrom := .dawn }

def Ldg.init : Ldg :=
  { staging := [], forced := [], waiting := [], nextLseq := 1, firstLseq := 1, mark := 0, headSlot := 0, lastSeal := 0, op := none,
    retry := none, blankTo := none, lastSeq := .empty, wpHigh := false, copyPos := 0 }

def Vlt.init : Vlt :=
  { slots := .empty, inUse := [], producing := false, lastSigned := none, statement := [], entFail := false,
    cacheUsed := false }

def Mgt.init : Mgt :=
  { staged := .empty, stagedLen := 0, isOpen := false, oldFw := 0, handed := [], norDone := false, readbackFails := 0,
    restarts := .empty, fwOf := .empty, detectAt := none, takeoverDue := false, headless := false }

def Flt.init : Flt :=
  { reports := [], deferred := [], present := [], safeCodes := [], lastRec := .empty, restores := [], restoreDue := [],
    supplyOk := .empty, tempOk := .empty, guar := false }

/-- The Night domain of a card in service whose first power-up this is: calendar 0, power-cycle count 1 (LOG 2). -/
def Night.init : Night :=
  { cal := 0, calAt := 0, pcc := 1, cache := [], nightKey := 0, log := [], void := false, tampCfg := 0x7F, tampRun := [] }

/-- The one-time-programmable memory of a part from final test (R539): identity present, no owner, floors 0 (LOG 2). -/
def Otp.init : Otp :=
  { ownerHash := none, genFloor := 0, fwFloors := [], identityBlank := false, rootSecret := 0 }

/-- The package right after power-on reset release, as the reset columns and R68 say. -/
def Hw.init (part : Part) (grade : Grade) : Hw :=
  { part := part, grade := grade, straps := 0, slotNo := 0, otp := .init, nightDom := .init, logNvm := .empty,
    nor := .empty, regs := .empty, qregs := .empty, node := .init, dawn := .init, norIf := .init, cfg := .init, taps := .empty,
    rcds := .empty, ldg := .init, jrns := .empty, freeze := none, vlt := .init, mgt := .init, flt := .init,
    ftm := .init, msix := .empty, errs := .empty,
    queues := .empty, cis := .empty, swc := .empty, ports := .empty, trn := .empty, rings := .empty,
    dieLinkDown := .empty, sysRst := .empty,
    pins := .empty, trks := .empty, evts := .empty,
    cans := .empty,
    pumps := .empty,
    wlh := .init,
    ehi := .empty, reply := .init, engs := .empty, hosts := .empty, bps := .empty,
    now := 0, freeCtr := 0 }

/-- The machine right after reset: an OPR102-I (LOG 2) at power-on reset release with every strap 0. -/
def State.reset : State := { hw := Hw.init .opr102 .industrial, pir := .empty, pending := [] }

end Sys2Proof.Machine
end

