-- ==== Sys2Proof/Machine/Ops.lean ====
section
/-!
DEFINITION. The operations that every block shares: the register file, free values, event reports, fault reports,
access violations, error packets, MSI-X, journal records and the staging of ledger entries.
-/

namespace Sys2Proof.Machine

/-! ## Dies and the register file -/

/-- The hub dies of the package (R1). -/
def Hw.dies (h : Hw) : Nat := h.part.dies

/-- The die masks of DIEMASK fields: is this mask within the dies present? -/
def Hw.maskPresent (h : Hw) (m : Nat) : Bool := decide (m < 2 ^ h.dies)

/-- Apply a function for each die present, D0 first. -/
def Hw.eachDie (h : Hw) (f : Nat → Hw → Hw) : Hw := iter h.dies f h

/-- The codes of R588 that are masked, the default ACTION of each code and the codes restored by default. -/
def maskedCodes : List Nat := [0x01, 0x02, 0x03, 0x60, 0x61, 0x90, 0x91]

/-- The codes of R588. -/
def faultCodes : List Nat :=
  [0x01, 0x02, 0x03, 0x04, 0x05, 0x10, 0x11, 0x12, 0x13, 0x14, 0x15, 0x20, 0x21, 0x30, 0x31, 0x32, 0x40, 0x41, 0x50,
   0x51, 0x52, 0x60, 0x61, 0x62, 0x63, 0x70, 0x80, 0x81, 0x82, 0x90, 0x91]

/-- The default reaction of a code (R588): 2 Safe, 1 report, 0 for reserved codes. -/
def defaultAction (c : Nat) : Nat :=
  if c = 0x05 ∨ c = 0x30 then 2 else if c ∈ faultCodes then 1 else 0

/-- Reset values that vary by instance, strap or grade (the Reset columns of SWC_SHARE, SWC_INRES, FLT_CODE,
RNG_CFG, MIO_PCFG, FTM_CFG, BRG_HSTAT and BRG_BCFG). -/
def specialReset (straps : Nat) (grade : Grade) (off : Nat) : Nat :=
  if 0x20100 ≤ off ∧ off < 0x20128 then
    let p := (off - 0x20100) / 4
    if p < 4 then 384 else if p = 4 then 512 else if p = 5 then 128 else 1024
  else if 0x20200 ≤ off ∧ off < 0x202A0 then
    let p := (off - 0x20200) / 16
    let c := (off - 0x20200) % 16 / 4
    if c = 0 then 16 else if p < 4 ∨ p = 8 ∨ p = 9 then 96 else 64
  else if 0x100100 ≤ off ∧ off < 0x100500 then
    let c := (off - 0x100100) / 4
    defaultAction c * 2 ^ 8 + (if c = 0x20 ∨ c = 0x40 ∨ c = 0x50 then 2 ^ 10 else 0)
  else if off = 0x10000 then
    (if grade = .extended then 2 ^ 8 else 0) + (if bit straps 3 then 3 * 2 ^ 9 else 0)
  else if 0x51000 ≤ off ∧ off < 0x52800 ∧ off % 32 = 0 then (if bit straps 2 then 2 else 1) * 2 ^ 14
  else if off = 0x80000 then b2n (bit straps 4)
  else if off = 0x90000 then b2n (bit straps 5)
  else if off = 0x90040 then b2n (bit straps 6)
  else 0

/-- The reset value of the register at an offset of space 0x00 (R15). -/
def resetWord (straps : Nat) (grade : Grade) (off : Nat) : Word :=
  let base := match findReg off with
    | some r => r.fields.foldl (fun a f => a + f.reset * 2 ^ f.lo) 0
    | none => 0
  BitVec.ofNat 32 (base + specialReset straps grade off)

/-- The register at a key of the register file (die × 2²¹ + offset). -/
def Hw.regAt (h : Hw) (key : Nat) : Word := h.regs.get (resetWord h.straps h.grade (key % 0x200000)) key

/-- Write the register at a key of the register file. -/
def Hw.setRegAt (h : Hw) (key : Nat) (v : Word) : Hw :=
  { h with regs := h.regs.put (resetWord h.straps h.grade (key % 0x200000)) key v }

/-- The key of a field's register: the node's one register lies with die 0. -/
def Fld.key (F : Fld) (d i j : Nat) : Nat := (if F.node then 0 else d) * 0x200000 + F.addr + i * F.s1 + j * F.s2

/-- Read a field of die `d`, instance `i`, sub-instance `j`. -/
def Hw.rd (h : Hw) (d : Nat) (F : Fld) (i : Nat := 0) (j : Nat := 0) : Nat :=
  bits (h.regAt (F.key d i j)).toNat F.lo F.w

/-- Write a field of die `d`. -/
def Hw.wr (h : Hw) (d : Nat) (F : Fld) (v : Nat) (i : Nat := 0) (j : Nat := 0) : Hw :=
  let k := F.key d i j
  h.setRegAt k (setBits (h.regAt k) F.lo F.w v)

/-- Add to a count of die `d`, stopping at the field's largest value. -/
def Hw.bump (h : Hw) (d : Nat) (F : Fld) (n : Nat := 1) (i : Nat := 0) (j : Nat := 0) : Hw :=
  h.wr d F (satAdd F.w (h.rd d F i j) n) i j

/-- Set a flag of die `d`. -/
def Hw.flag (h : Hw) (d : Nat) (F : Fld) (i : Nat := 0) (j : Nat := 0) : Hw := h.wr d F 1 i j

/-- Is a one-bit field set? -/
def Hw.on (h : Hw) (d : Nat) (F : Fld) (i : Nat := 0) (j : Nat := 0) : Bool := h.rd d F i j == 1

/-- A signed field. -/
def Hw.rdInt (h : Hw) (d : Nat) (F : Fld) (i : Nat := 0) (j : Nat := 0) : Int := signed F.w (h.rd d F i j)

/-- Draw a value the manual leaves open (LOG 3). -/
def Hw.draw (h : Hw) : Dword × Hw := (Config.freeValue h.freeCtr, { h with freeCtr := h.freeCtr + 1 })

/-! ## Die links (R21, R22) -/

/-- Is a die link up (R21, R588)? A die without the link has none. -/
def Hw.dieLinkUp (h : Hw) (d dp : Nat) : Bool := decide (1 < h.dies) && !h.dieLinkDown.get false (d * 2 + dp)

/-- The far end of a die link (R21). -/
def Hw.dieLinkPeer (h : Hw) (d dp : Nat) : Nat × Nat :=
  if h.dies = 2 then (1 - d, 1 - dp)
  else if dp = 1 then ((d + 1) % h.dies, 0) else ((d + h.dies - 1) % h.dies, 1)

/-- The die link towards another die of the package (R21, R22). -/
def Hw.towardsDie (h : Hw) (d e : Nat) : Option Nat :=
  let n := h.dies
  if n ≤ e ∨ n = 1 then none
  else if n = 2 then (if h.dieLinkUp d 0 then some 8 else if h.dieLinkUp d 1 then some 9 else none)
  else
    let c := (e + n - d) % n
    let up := (List.range c).all fun k => h.dieLinkUp ((d + k) % n) 1
    let down := (List.range (n - c)).all fun k => h.dieLinkUp ((d + n - k) % n) 0
    if up && (!down || decide (c ≤ n - c)) then some 9 else if down then some 8 else none

/-! ## Time -/

/-- Units of fabric time in a nanosecond. -/
def unitsPerNs : Nat := 5 * 2 ^ 48

/-- Fabric time in ns (R400). -/
def Hw.fabricNs (h : Hw) : Nat := h.ftm.time / unitsPerNs

/-- The fraction of fabric time in units of 2⁻³² ns (R400). -/
def Hw.fabricFr (h : Hw) : Nat := h.ftm.time % unitsPerNs * 2 ^ 32 / unitsPerNs

/-- Is fabric time valid (R401)? -/
def Hw.timeValid (h : Hw) : Bool := h.on 0 R.FTM_STAT_VALID

/-- Operating time in ms since power-on reset release (R487). -/
def Hw.operatingMs (h : Hw) : Nat := h.now / 1250000

/-- Core cycles in a number of 2⁻¹⁵ s periods: 0.8 ns each. -/
def calTicks (cycles : Nat) : Nat := cycles * 4 * 2 ^ 15 / 5000000000

/-- The calendar now, in units of 2⁻¹⁵ s (R558). -/
def Hw.calendar (h : Hw) : Nat := h.nightDom.cal + calTicks (h.now - h.nightDom.calAt)

/-! ## MSI-X (R436) -/

/-- Raise a vector at one host port: a masked vector sets its pending bit; sources 48 to 55 also set BRG_ISTAT,
whose interrupt an earlier acknowledge no longer releases (R448). -/
def Hw.raiseMsix (h : Hw) (d v : Nat) : Hw :=
  if d < 2 ∧ d < h.dies then
    let h : Hw :=
      if 48 ≤ v ∧ v ≤ 55 then
        let b := h.bps.get .init d
        { (h.wr d R.BRG_ISTAT_SRC (h.rd d R.BRG_ISTAT_SRC ||| 2 ^ (v - 48))) with
            bps := h.bps.put .init d { b with acked := if bit b.acked (v - 48) then b.acked - 2 ^ (v - 48) else b.acked } }
      else h
    let m := h.msix.get .init d
    let m := if m.enabled && m.unmasked.get false v then { m with sent := m.sent.upd 0 v (· + 1) }
      else { m with pba := m.pba.put false v true }
    { h with msix := h.msix.put .init d m }
  else h

/-- Raise a vector at every host port of the node. -/
def Hw.raiseMsixNode (h : Hw) (v : Nat) : Hw := (h.raiseMsix 0 v).raiseMsix 1 v

/-! ## Event reports (R500 to R503) -/

/-- The recorder of a die. -/
def Hw.rcd (h : Hw) (d : Nat) : Rcd := h.rcds.get .init d

def Hw.setRcd (h : Hw) (d : Nat) (r : Rcd) : Hw := { h with rcds := h.rcds.put .init d r }

/-- The stamps of a report made now (R419, R487, R500): TAI on a privileged channel, operating time on the others. -/
def Hw.stampReport (h : Hw) (d chan : Nat) (kind : EventKind) (data origin : Nat) : Report :=
  let priv := h.on d R.EVR_CHCFG_PRIV chan
  let frz := h.on d R.EVR_CHCFG_FREEZE chan
  let flags := b2n priv + (if frz then 4 else 0)
  if priv then
    if h.timeValid then
      ⟨chan, kind, h.now, flags, origin, h.fabricNs / 1000000000, h.fabricNs % 1000000000, h.rd 0 R.FTM_UTC_INFORCE, data⟩
    else
      let c := h.calendar
      ⟨chan, kind, h.now, flags + 2, origin, c / 2 ^ 15, c % 2 ^ 15 * 1000000000 / 2 ^ 15, h.rd 0 R.FTM_UTC_INFORCE, data⟩
  else ⟨chan, kind, h.now, flags, origin, low 48 h.operatingMs, h.nightDom.pcc, 0, data⟩

/-- A block reports an event: each channel holds up to 8 pending reports, a report beyond them is dropped (R502). -/
def Hw.report (h : Hw) (d chan : Nat) (kind : EventKind) (data : Nat := 0) (origin : Nat := 0) : Hw :=
  let r := h.rcd d
  if (r.pending.filter (·.chan == chan)).length < 8 then
    h.setRcd d { r with pending := r.pending ++ [h.stampReport d chan kind data origin] }
  else (h.setRcd d { r with lossNext := true }).bump d R.EVR_CNT_DROPPED

/-- An access violation, recorded on the die that decoded the access (R14, R29, R45). -/
def Hw.violation (h : Hw) (d : Nat) (o : Origin) (addr : Nat := 0) : Hw :=
  h.report d 0x02 .accessViolation addr o.code

/-- The die that a request of this node entered by: its port's, or the owner's. -/
def Hw.entryOf (h : Hw) (o : Origin) : Nat := if o.die < h.dies then o.die else h.node.owner

/-- An access of this node that names a die not present is answered ADR, and the die it entered by records it (R29, LOG 433). -/
def Hw.noSuchDie (h : Hw) (o : Origin) (addr : Nat) : Hw := { h.violation (h.entryOf o) o addr with reply := ⟨1, []⟩ }

/-! ## Fault reports (R598) -/

/-- A block raises a fault report, which waits for FAULT_REPORT. -/
def Hw.raiseFault (h : Hw) (d code unit : Nat) : Hw :=
  { h with flt.reports := h.flt.reports ++ [⟨d, code, unit, h.now, false⟩] }

/-! ## Node state and the guarantee (R36, R41, R585, R586) -/

/-- The encoding of NOD_STATE.STATE; Night is never reported. -/
def NodeState.code : NodeState → Nat
  | .night => 0
  | .dawn => 1
  | .quarantine => 2
  | .run => 3
  | .degraded => 4
  | .safe => 5
  | .sleep => 6
  | .dusk => 7

/-- A state transition: entry to any state but Night is recorded on channel 0x00 with the old state, the new state and
the cause, and raises MSI-X source 50 (R41, R436). -/
def Hw.moveTo (h : Hw) (s : NodeState) (cause : Nat) : Hw :=
  let old := h.node.state
  let h := { h with node.state := s }
  if s = .night then h
  else (h.report h.node.owner 0x00 .stateChange (old.code + s.code * 2 ^ 8 + cause * 2 ^ 16)).raiseMsixNode 50

/-- The ring ports that a die attaches by RNG_ATTACH.MODE (R212, R214). -/
def Hw.attached (h : Hw) (d : Nat) : List Nat :=
  match h.rd d R.RNG_ATTACH_MODE with
  | 0 => [0, 1, 2, 3]
  | 1 => [0, 1]
  | 2 => [2, 3]
  | _ => []

/-- Is a ring port in Active or Passive? -/
def Hw.portUp (h : Hw) (d p : Nat) : Bool :=
  h.rd d R.RNG_PSTAT_STATE p == 2 || h.rd d R.RNG_PSTAT_STATE p == 3

/-- The offset of MIO_PCFG of pin p, and the pins of a die whose configuration is not at its reset value. -/
def Hw.configuredPins (h : Hw) (d : Nat) : List Nat :=
  h.regs.entries.filterMap fun (k, _) =>
    let off := k % 0x200000
    if k / 0x200000 = d ∧ 0x51000 ≤ off ∧ off < 0x52800 ∧ off % 32 = 0 then some ((off - 0x51000) / 32) else none

/-- The codes whose ACTION is 0 (R585, RESP). -/
def Hw.respOk (h : Hw) : Bool :=
  faultCodes.all fun c => h.rd 0 R.FLT_CODE_ACTION c != 0

/-- The nine conditions of R585, in the order of FLT_COND from bit 0. -/
def Hw.conditions (h : Hw) : List Bool :=
  let ds := List.range h.dies
  let pins := fun (f : Nat → Nat → Bool) => ds.all fun d => (h.configuredPins d).all (f d)
  [ ds.all fun d => h.flt.supplyOk.get true d,
    ds.all fun d => h.flt.tempOk.get true d,
    ds.all fun d => (h.attached d).all (h.portUp d),
    h.on h.node.owner R.WLH_STAT_AOK && h.on h.node.owner R.WLH_STAT_BOK,
    ds.all fun d => h.on d R.CIS_CFG_SCRUBEN,
    pins fun d p => h.rd d R.MIO_PCFG_MODE p == 0 || h.on d R.MIO_PCFG_RBEN p,
    h.respOk,
    (ds.all fun d => decide (h.rd d R.RNG_LINKTM_RTTO * h.rd d R.RNG_LES_RETRYMAX ≤ 10000)) &&
      pins fun d p => h.rd d R.MIO_PCFG_MODE p == 0 || !h.on d R.MIO_PCFG_RBEN p ||
        decide ((h.rd d R.MIO_PFLT_RBSET p + 1) * 8 * 2 ^ h.rd d R.MIO_BANK_TSH (p / 16) ≤ 100000),
    h.flt.present.isEmpty && h.flt.safeCodes.isEmpty && !h.node.safeTrains && !h.node.safeCmd ]

/-- FLT_COND.GUAR (R586). -/
def Hw.guarNow (h : Hw) : Bool := h.conditions.all id

/-- A change of GUAR is recorded on channel 0x04 (R586). -/
def Hw.checkGuar (h : Hw) : Hw :=
  if h.guarNow = h.flt.guar then h
  else { (h.report h.node.owner 0x04 .guarChange (b2n h.guarNow)) with flt.guar := h.guarNow }

/-- Mark the waiting reports of a fault that has ended. -/
def markEnded (d code unit : Nat) (l : List FaultRep) : List FaultRep :=
  l.map fun r => if r.die = d ∧ r.code = code ∧ r.unit = unit then { r with ended := true } else r

/-- A masked fault of a unit ends; when the last one ends a Degraded node returns to Run (R36). -/
def Hw.endFault (h : Hw) (d code unit : Nat) : Hw :=
  let h := { h with flt.reports := markEnded d code unit h.flt.reports, flt.deferred := markEnded d code unit h.flt.deferred }
  if h.flt.present.contains (code, d, unit) then
    let h := { h with flt.present := h.flt.present.filter (· != (code, d, unit)) }
    (if h.flt.present = [] ∧ h.node.state = .degraded then h.moveTo .run code else h).checkGuar
  else h

/-! ## Error packets (R236) -/

/-- An error packet waits for MP; one that finds 256 pending is not sent and counts. -/
def Hw.errPacket (h : Hw) (d : Nat) (p : ErrPkt) : Hw :=
  let l := h.errs.get [] d
  if l.length < 256 then { h with errs := h.errs.put [] d (l ++ [p]) } else h.bump d R.SWC_MARGIN_ERRDROP

/-! ## The journal's input (R516, R517, R526, R528) -/

def Hw.jrn (h : Hw) (d : Nat) : Jrn := h.jrns.get .init d

def Hw.setJrn (h : Hw) (d : Nat) (j : Jrn) : Hw := { h with jrns := h.jrns.put .init d j }

/-- The first word of a record (R516). -/
def jrnWord (typ len dcyc payload : Nat) : Nat :=
  low 4 typ * 2 ^ 60 + low 6 len * 2 ^ 54 + low 16 dcyc * 2 ^ 38 + low 38 payload

/-- The words of a record, led by a TIME record where the gap exceeds 65,535 cycles. -/
def jrnWords (h : Hw) (j : Jrn) (typ payload : Nat) (ext : List Nat) : List Nat :=
  if h.now - j.lastCycle > 65535 then
    jrnWord 0 1 0 0 :: h.now :: jrnWord typ ext.length 0 payload :: ext
  else jrnWord typ ext.length (h.now - j.lastCycle) payload :: ext

/-- Is the journal of a die writing records (R526, R529)? -/
def Hw.journaling (h : Hw) (d : Nat) : Bool := h.rd d R.JRN_STAT_STATE == 1 || h.rd d R.JRN_STAT_STATE == 2

/-- Put words into the input buffer without a check. -/
def Hw.jrnPush (h : Hw) (d : Nat) (ws : List Nat) : Hw :=
  let j := h.jrn d
  h.setJrn d { j with buffer := j.buffer ++ ws, lastCycle := h.now, bytesMs := j.bytesMs + 8 * ws.length }

/-- Records are dropped from here on (R528): counted and recorded, and MARK kind 3 written; an open checkpoint is cut off
(R523). -/
def Hw.beginLoss (h : Hw) (d : Nat) : Hw :=
  let h := (h.bump d R.JRN_CNT_LOSSCNT).flag d R.JRN_STAT_LOSS
  let h := h.report d 0xB8 .journalLoss
  let h := h.jrnPush d (jrnWords h (h.jrn d) 9 3 [])
  (h.setJrn d { h.jrn d with inLoss := true, dropAt := h.now, ckptWords := [] }).wr d R.JRN_STAT_CKOPEN 0

/-- The place of a record among those of its core cycle (R515): ascending TYPE, then ascending bank, port, tracker or unit number. -/
def recKey (r : Nat × Nat × List Nat) : Nat :=
  r.1 * 2 ^ 40 + match r.1 with
    | 1 => low 4 r.2.1
    | 2 => low 2 r.2.1
    | 3 => low 2 r.2.1
    | 5 => low 3 r.2.1
    | 0xB => bits r.2.1 4 30
    | _ => 0

/-- Insert a record behind those of its key. -/
def insertRec (r : Nat × Nat × List Nat) : List (Nat × Nat × List Nat) → List (Nat × Nat × List Nat)
  | [] => [r]
  | a :: l => if recKey r < recKey a then r :: a :: l else a :: insertRec r l

/-- Journal a record: it waits for the end of its core cycle, in the order of R515. -/
def Hw.journal (h : Hw) (d typ payload : Nat) (ext : List Nat := []) : Hw :=
  if h.journaling d then h.setJrn d { h.jrn d with cycle := insertRec (typ, payload, ext) (h.jrn d).cycle } else h

/-- The words that records take: one each and their extensions, and a TIME record where the gap asks for one. -/
def Hw.cycleWords (h : Hw) (d : Nat) (rs : List (Nat × Nat × List Nat)) : Nat :=
  (if h.now - (h.jrn d).lastCycle > 65535 then 2 else 0) + (rs.map fun r => 1 + r.2.2.length).sum

/-- A record enters the input buffer. JRN_FRZ names the freeze mark's index, and a checkpoint keeps the index of its MARK kind 5. -/
def Hw.writeRec (d : Nat) (r : Nat × Nat × List Nat) (h : Hw) : Hw :=
  let j := h.jrn d
  let i := (j.next + j.buffer.length + (if h.now - j.lastCycle > 65535 then 2 else 0)) % 524288
  let h := h.jrnPush d (jrnWords h j r.1 r.2.1 r.2.2)
  if r.1 = 9 ∧ low 4 r.2.1 = 5 then h.setJrn d { h.jrn d with ckptIndex := i }
  else if r.1 = 9 ∧ low 4 r.2.1 < 3 then h.wr d R.JRN_FRZ_INDEX i
  else h

/-- A core cycle's records enter the buffer whole or are dropped whole; the first dropped cycle writes MARK kind 3 (R526, R528). -/
def Hw.jrnClose (h : Hw) (d : Nat) : Hw :=
  let j := h.jrn d
  let rs := j.cycle
  let n := h.cycleWords d rs
  let fits := j.buffer.length + n ≤ 2048 ∧ ¬(h.on d R.JRN_CFG_MODE ∧ 524288 ≤ j.undrained + j.buffer.length + n)
  let g := h.setJrn d { j with cycle := [] }
  if rs.isEmpty || !h.journaling d then g
  else if j.inLoss then (if j.dropAt = h.now then g else (g.setJrn d { j with cycle := [], dropAt := h.now }).bump d R.JRN_CNT_LOSSCNT)
  else if fits then each rs (Hw.writeRec d) g
  else g.beginLoss d

/-- A memory or parity error detected inside the domain, or a calibration failure (R514, R517): the memory by its code of
R522, 15 for a placer; outcome 0 corrected, 1 uncorrectable, 2 parity, 3 calibration failed. -/
def Hw.journalErr (h : Hw) (d memory unit outcome : Nat) : Hw :=
  h.journal d 0xB (low 4 memory + low 30 unit * 2 ^ 4 + low 2 outcome * 2 ^ 34)

/-- A freeze that freezes nothing counts on every die whose journal runs or is frozen (R530, R538). -/
def Hw.ignoreFreeze (h : Hw) : Hw :=
  h.eachDie fun d h => if h.rd d R.JRN_STAT_STATE ∈ [1, 2, 3] then h.bump d R.JRN_CNT_FRZIGN else h

/-- Trigger a freeze (R529): it takes effect 4 core cycles later, with FREEZE_EFFECT. A second trigger before then
counts in FRZIGN; of two in one core cycle the record freezes (R538). -/
def Hw.triggerFreeze (h : Hw) (f : Freeze) : Hw :=
  let f := { f with cycle := h.now }
  match h.freeze with
  | some g => if g.kind ≠ 0 ∧ f.kind = 0 ∧ g.cycle = h.now then { h.ignoreFreeze with freeze := some f } else h.ignoreFreeze
  | none => { h with freeze := some f }

/-! ## The Change Ledger (R486 to R491) -/

/-- The eight leading bytes of a MAC as a number, first byte most significant. -/
def leading64 (m : BitVec 384) : BitVec 64 := (m >>> 320).setWidth 64

/-- The bytes of a 64-bit seal, in the order of the MAC. -/
def sealBytes (s : BitVec 64) : List Byte := (leBytes 8 s.toNat).reverse

/-- SRC of R486: power-cycle count, origin, time source. -/
def ledgerSrc (pcc origin : Nat) (tsrc : Bool) : Nat := low 24 pcc + low 3 origin * 2 ^ 24 + (if tsrc then 2 ^ 27 else 0)

/-- Bytes 0x00 to 0x37 of an entry (R486). -/
def ledgerHead (lseq time pcc : Nat) (tsrc : Bool) (b : LedgerBody) : List Byte :=
  leBytes 8 lseq ++ leBytes 8 time ++ leBytes 4 (ledgerSrc pcc b.origin tsrc) ++ leBytes 2 b.onode ++ leBytes 1 b.odie ++
  leBytes 1 b.kind ++ leBytes 2 b.keyid ++ leBytes 2 b.tag ++ leBytes 4 0 ++ leBytes 8 b.arg0 ++ leBytes 4 b.arg1 ++
  leBytes 4 b.arg2 ++ leBytes 4 b.arg3 ++ leBytes 4 b.arg4

/-- The 64 bytes of an entry. -/
def LedgerEntry.bytes (e : LedgerEntry) : List Byte :=
  ledgerHead e.lseq e.time e.pcc e.tsrc e.body ++ sealBytes e.sealMac

/-- Slots of the ledger area (R483). -/
def Hw.ledgerSlots (h : Hw) : Nat := h.rd 0 R.LDG_CFG_LEDGSZ * 1024

/-- The key slot of a die's vault. -/
def Hw.keySlot (h : Hw) (d s : Nat) : KeySlot := h.vlt.slots.get .init (d * 64 + s)

/-- A key request of an engine (R547): the key where the slot is valid, not revoked and lists the engine; a refusal sets
ENGREF and is recorded. In Dusk only the ledger's MAC has its key (R35). Engines in the order of VLT_SLOT.ENGINES: LINK, IMAGE,
SEAL, ATTEST, HOST, STORE. -/
def Hw.deliver (h : Hw) (d slot engine : Nat) : Option Nat × Hw :=
  let k := h.keySlot d slot
  if h.node.state = .dusk ∧ engine ≠ 2 then (none, h)
  else if k.valid && !k.revoked && bit k.engines engine then (some k.key, h)
  else (none, ((h.flag 0 R.VLT_ERR_ENGREF).wr 0 R.VLT_ERR_LASTSLOT slot).report d 0xC0 .vaultError slot)

/-- A statement in production is abandoned, and ASTAT reads idle (R557). -/
def Hw.abandonStatement (h : Hw) : Hw :=
  if h.vlt.producing then { h with vlt.producing := false }.wr 0 R.VLT_ASTAT_STATE 0 else h

/-- NEARFULL of R499: NEXT − MARK above seven eighths of the area's entries. -/
def Hw.nearFull (h : Hw) : Bool := decide (h.ledgerSlots * 7 < (h.ldg.nextLseq - h.ldg.mark) * 8)

/-- Set NEARFULL and record it where the threshold has just been crossed (R499). -/
def Hw.checkNearFull (before : Bool) (h : Hw) : Hw :=
  if !before && h.nearFull then (h.flag 0 R.LDG_STAT_NEARFULL).report h.node.owner 0xB0 .ledgerFull else h

/-- The checkpoint set of R497: one kind 0x0A entry for each (origin, KEYID) pair that has a last_seq. -/
def checkpointSet (l : Ldg) : List LedgerBody :=
  let pairs := l.lastSeq.entries.filterMap fun (k, v) => v.map fun n => (k, n)
  let c := pairs.length
  if c = 0 then [⟨0x0A, 4, 0, 0, 0xFFFF, 0, 0, 0, 0, 0, 0⟩]
  else (List.range c).map fun i =>
    let (k, n) := pairs.getD i (0, 0)
    ⟨0x0A, 4, 0, 0, 0xFFFF, 0, n, k / 64 + k % 64 * 2 ^ 16, i, c, 0⟩

/-- Does the body belong to a set whose later entries are still to come (R497)? -/
def LedgerBody.midSet (b : LedgerBody) : Bool := b.kind == 0x0A && decide (b.arg2 + 1 < b.arg3)

/-- Stage one entry (R490): the next LSEQ, the stamps, the seal over the entry before it, the next slot. Where the next LSEQ
to be assigned is then a multiple of 1,024 a checkpoint set falls due before every waiting entry (R497). In Replay mode no
ledger entry is staged (R534). -/
def Hw.stageOne (h : Hw) (b : LedgerBody) : Hw :=
  if h.node.replay then h else
  let l := h.ldg
  let tsrc := !h.timeValid
  let time := if tsrc then low 48 h.operatingMs else h.fabricNs
  let key := (h.keySlot h.node.owner (h.rd 0 R.LDG_CFG_SEALKEY)).key
  let prev := if l.nextLseq = 1 then 0 else l.lastSeal
  let s := leading64 (Config.hmac384 key (ledgerHead l.nextLseq time h.nightDom.pcc tsrc b ++ sealBytes prev))
  let e : LedgerEntry := ⟨l.nextLseq, time, h.nightDom.pcc, tsrc, b, s, l.headSlot⟩
  let due := (l.nextLseq + 1) % 1024 == 0 && !b.midSet
  Hw.checkNearFull h.nearFull
    { h with ldg := { l with staging := l.staging ++ [e], nextLseq := l.nextLseq + 1, lastSeal := s,
                             forced := if due then checkpointSet l ++ l.forced else l.forced,
                             headSlot := if h.ledgerSlots = 0 then 0 else (l.headSlot + 1) % h.ledgerSlots } }

/-- Stage waiting forced entries in order while a slot of the 24 is free; a checkpoint set goes first where the next
LSEQ is a multiple of 1,024 (R491, R497). -/
def drainForced : Nat → Hw → Hw
  | 0, h => h
  | n + 1, h =>
    if 24 ≤ h.ldg.staging.length ∨ h.mgt.headless then h
    else
      match h.ldg.forced with
      | [] => h
      | b :: rest =>
        if h.ldg.nextLseq % 1024 = 0 ∧ b.kind ≠ 0x0A ∧ b.kind ≠ 0x09 then
          drainForced n { h with ldg.forced := checkpointSet h.ldg ++ b :: rest }
        else drainForced n ({ h with ldg.forced := rest }.stageOne b)

/-- Stage an entry whose turn it is, and the checkpoint set that may fall due behind it. -/
def Hw.stageNow (h : Hw) (b : LedgerBody) : Hw := drainForced 256 (h.stageOne b)

/-- A forced entry (R491). A node whose owner's pair has failed past masking stages nothing (R567). -/
def Hw.stageForced (h : Hw) (b : LedgerBody) : Hw :=
  drainForced 64 { h with ldg.forced := h.ldg.forced ++ [b] }

/-- Is a die's last measurement frame less than 1 ms old (R474)? -/
def Hw.frameFresh (h : Hw) (d : Nat) : Bool :=
  match h.wlh.frameAt.get none d with
  | none => false
  | some t => decide (h.now - t < 1250000)

/-- The hold-up check of R121 for `n` staged entries: E ≥ E_DUSK + (n + 1) × E_ENTRY, on a valid measurement. -/
def Hw.holdupOk (h : Hw) (n : Nat) : Bool :=
  h.on h.node.owner R.WLH_STAT_EVALID && h.frameFresh h.node.owner &&
  decide (h.rd 0 R.WLH_EDUSK_VALUE + (n + 1) * h.rd 0 R.WLH_EENTRY_VALUE ≤ h.rd h.node.owner R.WLH_HUE_E)

/-- Must a requested entry wait (R491): 20 staged, or forced entries before it? -/
def Hw.requestedWaits (h : Hw) : Bool := decide (20 ≤ h.ldg.staging.length) || !h.ldg.forced.isEmpty

/-- Before a requested entry is tried: a checkpoint set that is due is staged (R497). -/
def Hw.checkpointIfDue (h : Hw) : Hw :=
  if h.ldg.nextLseq % 1024 = 0 ∧ h.ldg.forced.isEmpty then drainForced 64 { h with ldg.forced := checkpointSet h.ldg } else h

/-- Stage waiting requested entries in order while fewer than 20 are staged and the hold-up check passes (R491). -/
def drainWaiting : Nat → Hw → Hw
  | 0, h => h
  | n + 1, h =>
    match h.ldg.waiting with
    | [] => h
    | b :: rest =>
      let g := h.checkpointIfDue
      if g.mgt.headless || g.requestedWaits || !g.holdupOk g.ldg.staging.length then g
      else drainWaiting n ({ g with ldg.waiting := rest }.stageNow b)

/-- A requested entry of kind 0x05 or 0x06, which waits where it cannot be staged now (R491). -/
def Hw.stageRequested (h : Hw) (b : LedgerBody) : Hw :=
  drainWaiting 64 { h with ldg.waiting := h.ldg.waiting ++ [b] }

/-- A body of a ledger entry by its kind and origin, with no key and no tag. -/
def ledgerBody (kind : Nat) (o : Origin) (arg0 arg1 arg2 arg3 arg4 : Nat) (die : Option Nat := none) : LedgerBody :=
  ⟨kind, o.code, o.node, die.getD o.die, 0xFFFF, 0, arg0, arg1, arg2, arg3, arg4⟩

/-! ## Outcomes -/

/-- A command whose effect is on the package alone. In Night the dies are unpowered and it finds nothing (R35). -/
def State.on (s : State) (f : Hw → Hw) : Host.Outcome State Fault Refusal :=
  if s.hw.node.state = .night then .next s else .next { s with hw := f s.hw }

/-- A command that acts in Night as well: power, the Wellhouse and the Night domain. -/
def State.onAny (s : State) (f : Hw → Hw) : Host.Outcome State Fault Refusal := .next { s with hw := f s.hw }

/-- An event at a die: a package without that die (R1) has no such event, and nothing changes (LOG 14). -/
def State.onDie (s : State) (d : Die) (f : Hw → Hw) : Host.Outcome State Fault Refusal :=
  if d.val < s.hw.dies then s.on f else .next s

/-- A write to a register that has a row of its own: one that names a die not present is answered ADR and recorded on the die that
it entered by (R29). -/
def State.onReg (s : State) (d : Die) (o : Origin) (addr : Nat) (f : Hw → Hw) : Host.Outcome State Fault Refusal :=
  s.on fun h => if d.val < h.dies then f h else h.noSuchDie o addr

/-- A command that also acts on the Process Image RAM. -/
def State.onMem (s : State) (f : Hw × SMap Byte → Hw × SMap Byte) : Host.Outcome State Fault Refusal :=
  if s.hw.node.state = .night then .next s
  else .next { s with hw := (f (s.hw, s.pir)).1, pir := (f (s.hw, s.pir)).2 }

/-- An event at a die that also acts on the Process Image RAM. -/
def State.onDieMem (s : State) (d : Die) (f : Hw × SMap Byte → Hw × SMap Byte) : Host.Outcome State Fault Refusal :=
  if d.val < s.hw.dies then s.onMem f else .next s

end Sys2Proof.Machine
end

