-- ==== Sys2Proof/Machine/Pads.lean ====
section
/-!
DEFINITION. Global addresses, and what a backplane bridge puts on its signals (R11, R58, R437, R438, R443, R448): the access that it
masters, its address and modifier, its answers, its interrupt.
-/

namespace Sys2Proof.Machine

/-! ## Global addresses (R11) -/

/-- The fields of a global address. -/
def addrNode (a : Nat) : Nat := bits a 48 16

def addrDie (a : Nat) : Nat := bits a 45 3

def addrSpace (a : Nat) : Nat := bits a 40 5

def addrOff (a : Nat) : Nat := low 40 a

/-- Does the request come from the holder of a lock? -/
def Req.holds (r : Req) (l : UnitLock) : Bool := l.node == r.snode && l.holder == r.sdie && l.tag == r.tag

/-- The lock that a lock read takes. -/
def Req.lock (r : Req) : UnitLock := ⟨r.addr, r.snode, r.sdie, r.tag⟩

def Req.isWrite (r : Req) : Bool := [0x41, 0x45, 0x81, 0x91, 0x95, 0xA1].contains r.msg

def Req.isLockRead (r : Req) : Bool := r.msg == 0x44 || r.msg == 0x94

def Req.isLockWrite (r : Req) : Bool := r.msg == 0x45 || r.msg == 0x95

/-! ## The backplane of a bridge (R437, R438, R443, R448) -/

def Hw.bp (h : Hw) (d : Nat) : Bp := h.bps.get .init d

def Hw.setBp (h : Hw) (d : Nat) (x : Bp) : Hw := { h with bps := h.bps.put .init d x }

/-- Does the bridge take part in backplane cycles? -/
def Hw.busOn (h : Hw) (d : Nat) : Bool := decide (d < 2) && h.on d R.BRG_BCFG_ENABLED && !h.sysRst.get false d

/-- The address space of an accepted modifier (R437): 0 A16, 1 A24, 2 A32. -/
def amSpace (am : Nat) : Option Nat :=
  if am = 0x29 ∨ am = 0x2D then some 0
  else if am = 0x39 ∨ am = 0x3A ∨ am = 0x3D ∨ am = 0x3E then some 1
  else if am = 0x09 ∨ am = 0x0A ∨ am = 0x0D ∨ am = 0x0E then some 2
  else none

/-- The address bits that a space uses. -/
def busAddr (sp a : Nat) : Nat := low (16 + 8 * sp) a

/-- The lowest-numbered valid master map entry of an offset of space 0x08 (R443). -/
def Hw.masterEntry (h : Hw) (d off : Nat) : Option Nat :=
  (List.range 8).find? fun m => h.on d R.BRG_MMB_VALID m && decide (h.rd d R.BRG_MMA_START m ≤ bits off 16 16) &&
    decide (bits off 16 16 ≤ h.rd d R.BRG_MMA_END m)

/-- The access that runs on a bridge's bus: the first, unless a lock keeps the bus for another's lock write. -/
def Hw.running (h : Hw) (e : Nat) : Option MasterReq :=
  let b := h.bp e
  match b.masters with
  | [] => none
  | m :: _ =>
    match b.lockBy with
    | none => some m
    | some l => if m.req.isLockWrite && m.req.holds l then some m else none

/-- The width of the next cycle of an access (R443): the widest of D32, D16 and D08 that is aligned, left to do, and allowed
by D32EN. -/
def Hw.cycleWidth (h : Hw) (e : Nat) (m : MasterReq) : Nat :=
  let o := addrOff m.req.addr + m.done.length
  let n := m.req.len - m.done.length
  let wide : Bool := match h.masterEntry e (addrOff m.req.addr) with
    | some k => h.on e R.BRG_MMB_D32EN k
    | none => true
  if o % 4 = 0 ∧ 4 ≤ n ∧ wide then 4 else if o % 2 = 0 ∧ 2 ≤ n then 2 else 1

/-- What the running access drives on the bus (R443): the address, offset plus XLATE × 2¹⁶ modulo 2³² in the bits that the
modifier's space uses, and the modifier. -/
def Hw.busDrive (h : Hw) (e : Nat) : Option (Nat × Nat) :=
  match h.running e with
  | none => none
  | some m =>
    match h.masterEntry e (addrOff m.req.addr) with
    | none => none
    | some k =>
      let am := h.rd e R.BRG_MMB_AM k
      some (busAddr ((amSpace am).getD 2) (low 32 (addrOff m.req.addr + m.done.length + h.rd e R.BRG_MMB_XLATE k * 2 ^ 16)), am)

/-- The sources that hold BP_IRQ_N low. -/
def Hw.irqSources (h : Hw) (d : Nat) : Nat :=
  let s := h.rd d R.BRG_ISTAT_SRC &&& h.rd d R.BRG_BIRQ_SRCMASK
  s - (s &&& (h.bp d).acked)

/-- Is BP_IRQ_N asserted (R448)? -/
def Hw.irqLow (h : Hw) (d : Nat) : Bool :=
  h.busOn d && !h.on d R.BRG_BCFG_MODE && h.rd d R.BRG_BIRQ_LEVEL != 0 && h.irqSources d != 0

/-! ## The bridge's pads (R58, R317) -/

/-- The strobes of a mastered cycle: BP_DS0_N takes part in a D08 cycle at an odd address, BP_DS1_N at an even one, both in a wider one. -/
def strobeLow (two : Bool) (width addr : Nat) : Bool := width != 1 || (addr % 2 == 0) == two

/-- What a bridge that masters a cycle drives on signal `k` of R58: address, modifier, address and data strobes, BP_WRITE_N, BP_LWORD_N,
and the transceiver controls (R438). -/
def Hw.masterPad (h : Hw) (d k addr am width : Nat) (write : Bool) : Option Bool :=
  if k < 32 then some (k != 0 && bit addr k)
  else if k < 38 then some (bit am (k - 32))
  else match k with
    | 38 => some false
    | 39 => some (!strobeLow false width addr)
    | 40 => some (!strobeLow true width addr)
    | 41 => some (!write)
    | 42 => some (width != 4)
    | 46 => some true
    | 53 => some (h.bp d).bus
    | 54 => some Config.towardsBackplane
    | 55 => some false
    | 56 => some (Config.towardsBackplane == write)
    | 57 => some false
    | _ => none

/-- What a bridge that has answered a slave cycle drives on signal `k`: the data and BP_DTACK_N, BP_RETRY_N or BP_BERR_N (R441). -/
def answerPad (b : BpAnswer) (k : Nat) : Option Bool :=
  match b with
  | .silent => none
  | .dtack bs =>
    if k < 8 * bs.length then some (bit (leNat bs) k)
    else match k with
      | 43 => some false
      | 56 => some Config.towardsBackplane
      | 57 => some false
      | _ => none
  | .retry => if k = 45 then some false else none
  | .berr => if k = 44 then some false else none

/-- The level that a bridge drives on signal `k` of R58, numbered from MIO128; none where it leaves the signal alone (R438, LOG 38). -/
def Hw.bridgePad (h : Hw) (d k : Nat) : Option Bool :=
  let b := h.bp d
  if !h.busOn d then none
  else if k = 58 then some (!h.irqLow d)
  else if k = 47 then (if b.bus then some false else none)
  else if k = 49 then some (!(!b.bus && (h.running d).isSome))
  else
    match (if b.bus then h.running d else none), h.busDrive d with
    | some m, some (a, am) => h.masterPad d k a am (h.cycleWidth d m) m.req.isWrite
    | _, _ => answerPad b.last k

end Sys2Proof.Machine
end

