-- ==== Sys2Proof/Machine/Ledger.lean ====
section
/-!
DEFINITION. The Change Ledger (chapter "Change Ledger and event recorder", R481 to R499): page writes to the log NVM and
their readback, waiting entries, the head search and torn-entry recovery of Dawn step 10, the rebuild of last_seq, the
archive mark and reads of space 0x11.
-/

namespace Sys2Proof.Machine

/-- Bytes of a page (LDG_CFG.PAGE). -/
def Hw.pageBytes (h : Hw) : Nat := if h.on 0 R.LDG_CFG_PAGE then 512 else 256

/-- Capacity of the log NVM in bytes (LDG_CFG.SIZE). -/
def Hw.logCapacity (h : Hw) : Nat := 0x40000 * 2 ^ h.rd 0 R.LDG_CFG_SIZE

/-- `n` bytes of the log NVM; a blank location reads 0xFF (R483). -/
def Hw.logRead (h : Hw) (o n : Nat) : List Byte := (List.range n).map fun k => h.logNvm.get 0xFF (o + k)

/-- Write bytes to the log NVM. -/
def Hw.logWrite (h : Hw) (o : Nat) (bs : List Byte) : Hw :=
  { h with logNvm := iter bs.length (fun k m => m.put 0xFF (o + k) (bs.getD k 0xFF)) h.logNvm }

/-- The entries of a page among the staged ones, in LSEQ order (R492). -/
def pageEntries (h : Hw) : Nat × List LedgerEntry :=
  match h.ldg.staging with
  | [] => (0, [])
  | e :: _ =>
    let p := e.slot * 64 / h.pageBytes
    (p, h.ldg.staging.takeWhile fun x => x.slot * 64 / h.pageBytes == p)

/-- The entries that a page write puts over the oldest ones: at offset 0 the area wraps, and FIRST rises (R499). -/
def wrapEntries (es : List LedgerEntry) (h : Hw) : Hw :=
  let h := if es.any fun e => e.slot == 0 && e.lseq != 1 then h.flag 0 R.LDG_STAT_WRAPPED else h
  each es (fun e h => { h with ldg.firstLseq := max h.ldg.firstLseq (e.lseq + 1 - h.ledgerSlots) }) h

/-- LEDGER_PAGE_WRITE (R492): with no operation on the log NVM, the owner raises LOG_WP_N and writes the slots of the
staged entries of one page. A node without node-level functions flushes nothing (R567). -/
def ledgerPageWrite (h : Hw) : Hw :=
  let (p, es) := pageEntries h
  if h.ldg.op.isNone && h.ldg.retry.isNone && !es.isEmpty && !h.mgt.headless then
    let h := wrapEntries es h
    { h with ldg.op := some ⟨p, es.map (·.lseq), [], 1⟩, ldg.wpHigh := true }
  else h

def execLedgerPageWrite (s : State) : Host.Outcome State Fault Refusal := s.on ledgerPageWrite

/-- The bytes that a page operation puts on the device: offset and bytes of each slot. -/
def opSlots (h : Hw) (op : PageOp) : List (Nat × List Byte) :=
  (h.ldg.staging.filter fun e => op.lseqs.contains e.lseq).map fun e => (e.slot * 64, e.bytes)

/-- The device's answer to the write: the bytes that the page reads back with, or the bytes written. -/
def storeBack (h : Hw) (page : Nat) (slots : List (Nat × List Byte)) (rb : Option (List Byte)) : Hw :=
  match rb with
  | none => each slots (fun x h => h.logWrite x.1 x.2) h
  | some bs => each slots (fun x h => h.logWrite x.1 (slice bs (x.1 - page * h.pageBytes) x.2.length)) h

/-- Blank the slots that R496 step 3 names, in the same flush. -/
def blankSlots (h : Hw) : Hw :=
  match h.ldg.blankTo with
  | none => h
  | some (a, n) =>
    let h := iter n (fun k h => h.logWrite ((a + k) % max 1 h.ledgerSlots * 64) (List.replicate 64 0xFF)) h
    { h with ldg.blankTo := none }

/-- Entries whose slots read back equal are flushed and leave the staging buffer (R492). -/
def flushEqual (h : Hw) (op : PageOp) : Hw :=
  let good := h.ldg.staging.filter fun e => op.lseqs.contains e.lseq && h.logRead (e.slot * 64) 64 == e.bytes
  let h := { h with ldg.staging := h.ldg.staging.filter fun e => !(good.any fun g => g.lseq == e.lseq) }
  h.bump 0 R.LDG_CNT_FLUSHED good.length

/-- The readback of a ledger page is judged: flushed, written again up to three more times, or failed (R492). -/
def ledgerReadback (h : Hw) (op : PageOp) (rb : Option (List Byte)) : Hw :=
  let h := storeBack h op.page (opSlots h op) rb
  let h := flushEqual h op
  let left := op.lseqs.filter fun l => h.ldg.staging.any fun e => e.lseq == l
  let h :=
    if left.isEmpty then blankSlots { h with ldg.op := none, ldg.retry := none, ldg.wpHigh := false }
    else if op.writes < 4 then
      { (h.bump 0 R.LDG_CNT_REWRITE) with ldg.op := some { op with lseqs := left, writes := op.writes + 1 } }
    else
      let h := (h.flag 0 R.LDG_STAT_NVMERR).raiseFault h.node.owner 0x70 0
      let h := h.report h.node.owner 0xB0 .ledgerError
      { h with ldg.op := none, ldg.retry := some { op with lseqs := left, writes := 0 }, ldg.wpHigh := false }
  drainForced 64 h

/-- LEDGER_PAGE_RETRY (R492): every 100 ms the owner writes a failed page again. -/
def ledgerPageRetry (h : Hw) : Hw :=
  match h.ldg.retry, h.ldg.op with
  | some op, none => { h with ldg.op := some { op with writes := 1 }, ldg.retry := none, ldg.wpHigh := true }
  | _, _ => h

def execLedgerPageRetry (s : State) : Host.Outcome State Fault Refusal := s.on ledgerPageRetry

/-- REQUESTED_ENTRY_WAIT_END (R491): waiting requested entries are staged when fewer than 20 are staged and the hold-up
check passes. -/
def execRequestedEntryWaitEnd (s : State) : Host.Outcome State Fault Refusal := s.on (drainWaiting 64)

/-- FORCED_ENTRY_WAIT_END (R491): a waiting forced entry is staged as a slot frees. -/
def execForcedEntryWaitEnd (s : State) : Host.Outcome State Fault Refusal := s.on (drainForced 64)

/-- ARCHIVE_MARK (R499): the write of LDG_MARKHI applies both halves of the mark and NEARFULL is judged anew; in the
cycle in which the threshold is crossed the mark applies first and MARGIN counts (R509). -/
def archiveMark (hi : Nat) (sameCycle : Bool) (h : Hw) : Hw :=
  let h := h.wr 0 R.LDG_MARKHI_MARK hi
  let h := { h with ldg.mark := h.rd 0 R.LDG_MARKLO_MARK + hi * 2 ^ 32 }
  let h := if h.nearFull then (if h.on 0 R.LDG_STAT_NEARFULL then h else (h.flag 0 R.LDG_STAT_NEARFULL).report h.node.owner 0xB0 .ledgerFull) else h
  if sameCycle then h.bump 0 R.LDG_CNT_MARGIN else h

def execArchiveMark (hi : Word) (sameCycle : Bool) (s : State) : Host.Outcome State Fault Refusal :=
  s.on (archiveMark hi.toNat sameCycle)

/-- Bytes of space 0x11 from an offset: the log NVM, and a staged entry where its slot is read (R484). -/
def ledgerBytes (h : Hw) (o n : Nat) : List Byte :=
  (List.range n).map fun k =>
    match h.ldg.staging.find? fun e => e.slot == (o + k) / 64 with
    | some e => e.bytes.getD ((o + k) % 64) 0
    | none => h.logNvm.get 0xFF (o + k)

/-! ## The head search (R495, R496) -/

/-- The slots of the ledger area that are not blank, with their 64 bytes, in slot order. -/
def usedSlots (h : Hw) : List (Nat × List Byte) :=
  let ks := (h.logNvm.entries.map (·.1 / 64)).filter (· < h.ledgerSlots)
  let ds := ks.foldl (fun acc k => if acc.getLast? == some k then acc else acc ++ [k]) []
  ds.map fun k => (k, h.logRead (k * 64) 64)

/-- LSEQ of a slot's bytes. -/
def slotLseq (b : List Byte) : Nat := leAt b 0 8

/-- Does a slot hold a valid entry: LSEQ not all ones, LSEQ 1 or a predecessor one lower, SEAL over that predecessor's
SEAL (R495)? -/
def slotValid (h : Hw) (k : Nat) : Bool :=
  let n := h.ledgerSlots
  let b := h.logRead (k * 64) 64
  let p := h.logRead ((k + n - 1) % max 1 n * 64) 64
  let l := slotLseq b
  let key := (h.keySlot h.node.owner (h.rd 0 R.LDG_CFG_SEALKEY)).key
  let prev := if l = 1 then List.replicate 8 0 else slice p 56 8
  decide (l ≠ 2 ^ 64 - 1) && (l == 1 || (slotLseq p + 1 == l && p != List.replicate 64 0xFF)) &&
  sealBytes (leading64 (Config.hmac384 key (slice b 0 56 ++ prev))) == slice b 56 8

/-- Step back from a slot to the last valid entry, at most `n` slots. -/
def stepBack (h : Hw) : Nat → Nat → Option Nat
  | 0, _ => none
  | n + 1, k => if slotValid h k then some k else stepBack h n ((k + h.ledgerSlots - 1) % max 1 h.ledgerSlots)

/-- LEDGER_HEAD_SEARCH with TORN_ENTRY_RECOVERY (R495, R496): the head is the slot after the entry of highest LSEQ;
slots after the last valid entry that are not blank hold a torn entry, which a kind 0x09 entry replaces. -/
def headSearch (h : Hw) : Hw :=
  let us := usedSlots h
  match us.foldl (fun (a : Option (Nat × Nat)) (k, b) =>
      match a with
      | none => some (k, slotLseq b)
      | some (k0, l0) => if l0 < slotLseq b then some (k, slotLseq b) else some (k0, l0)) none with
  | none => { h with ldg := { h.ldg with nextLseq := 1, firstLseq := 1, headSlot := 0, lastSeal := 0 } }
  | some (top, topL) =>
    let n := h.ledgerSlots
    let head := (top + 1) % max 1 n
    let torn := fun v k => decide (0 < (k + n - v) % max 1 n ∧ (k + n - v) % max 1 n < (head + n - v) % max 1 n)
    let first := fun v => ((us.filter fun x => !torn v x.1).map fun x => slotLseq x.2).foldl min topL
    let h := if us.any fun x => x.1 == head then h.flag 0 R.LDG_STAT_WRAPPED else h
    match stepBack h 24 top with
    | some v =>
      let b := h.logRead (v * 64) 64
      let h := { h with ldg := { h.ldg with
        nextLseq := slotLseq b + 1, firstLseq := first v, headSlot := (v + 1)
            % max 1 n, lastSeal := BitVec.ofNat 64 (leNat (slice b 56 8).reverse) } }
      if v = top then h
      else
        let gap := (head + n - (v + 1) % max 1 n) % max 1 n
        let h := h.flag 0 R.LDG_STAT_TORN
        let h := { h with ldg.blankTo := some ((v + 2) % max 1 n, gap - 1) }
        h.stageForced (ledgerBody 0x09 (.management h.node.owner) (slotLseq b) ((v + 1) % max 1 n) 0 0 0)
    | none =>
      let h := ((h.flag 0 R.LDG_STAT_NVMERR).flag 0 R.LDG_STAT_TORN).raiseFault h.node.owner 0x70 0
      let h := { h with ldg := { h.ldg with nextLseq := topL + 1, firstLseq := first top, headSlot := head, lastSeal := 0 } }
      h.stageForced (ledgerBody 0x09 (.management h.node.owner) 0 head 0 0 0)

/-! ## last_seq (R498) -/

/-- A slot's fields that the rebuild reads: LSEQ, kind, origin, KEYID, ARG0, ARG1, ARG2, ARG3. -/
structure SlotView where
  lseq : Nat
  kind : Nat
  origin : Nat
  keyid : Nat
  arg0 : Nat
  arg1 : Nat
  arg2 : Nat
  arg3 : Nat
deriving DecidableEq, Repr

/-- Read those fields from the 64 bytes of a slot (R486). -/
def slotView (b : List Byte) : SlotView :=
  ⟨leAt b 0 8, leAt b 0x17 1, bits (leAt b 0x10 4) 24 3, leAt b 0x18 2, leAt b 0x20 8, leAt b 0x28 4, leAt b 0x2C 4, leAt b 0x30 4⟩

/-- Insert by rising LSEQ. -/
def insertView (v : SlotView) : List SlotView → List SlotView
  | [] => [v]
  | a :: rest => if v.lseq ≤ a.lseq then v :: a :: rest else a :: insertView v rest

/-- The entries of the area by rising LSEQ, the staged ones included. -/
def ledgerViews (h : Hw) : List SlotView :=
  ((usedSlots h).map (fun x => slotView x.2) ++ h.ldg.staging.map fun e => slotView e.bytes).foldl (fun a v => insertView v a) []

/-- One entry's contribution to last_seq: a checkpoint entry gives its pair, an amend entry with a key its SEQNO. -/
def noteSeq (m : SMap (Option Nat)) (v : SlotView) : SMap (Option Nat) :=
  if v.kind = 0x0A ∧ v.arg3 ≠ 0 then m.put none (bits v.arg1 0 3 * 64 + bits v.arg1 16 6) (some v.arg0)
  else if v.kind = 0x01 ∧ v.keyid ≠ 0xFFFF then m.put none (v.origin * 64 + v.keyid) (some v.arg0)
  else m

/-- Does a complete checkpoint set end with this entry? -/
def setEnds (vs : List SlotView) (v : SlotView) : Bool :=
  v.kind == 0x0A && (v.arg3 == 0 ||
    (v.arg2 + 1 == v.arg3 && (List.range v.arg3).all fun i =>
      vs.any fun w => w.kind == 0x0A && w.lseq == v.lseq - i && w.arg2 == v.arg2 - i && w.arg3 == v.arg3))

/-- The LSEQs of the first and the last entry of the latest complete set. -/
def latestSet (vs : List SlotView) : Option (Nat × Nat) :=
  (vs.reverse.find? (setEnds vs)).map fun v => (v.lseq + 1 - max 1 v.arg3, v.lseq)

/-- Does the rebuild read an entry: a checkpoint entry of the set, or an amend entry after it (R498)? -/
def afterSet (a b : Nat) (v : SlotView) : Bool :=
  if v.kind = 0x0A then decide (a ≤ v.lseq) && decide (v.lseq ≤ b) else decide (b < v.lseq)

/-- last_seq from the latest complete set and the amend entries after it, or from every such entry (R498). -/
def rebuildSeq (h : Hw) : Hw :=
  let vs := ledgerViews h
  let use := match latestSet vs with
    | some (a, b) => vs.filter (afterSet a b)
    | none => vs
  { h with ldg.lastSeq := use.foldl noteSeq .empty }

/-- LAST_SEQ_REBUILD (R498): the rebuild ends, and READY is set. -/
def lastSeqRebuild (h : Hw) : Hw := (rebuildSeq h).flag 0 R.LDG_STAT_READY

def execLastSeqRebuild (s : State) : Host.Outcome State Fault Refusal := s.on lastSeqRebuild

end Sys2Proof.Machine
end

