-- ==== Sys2Proof/Machine/Recorder.lean ====
section
/-!
DEFINITION. The event recorder (chapter "Change Ledger and event recorder", R500 to R509): the intake of reports, the
records in SRAM, their copy to the log NVM and their clearing.
-/

namespace Sys2Proof.Machine

/-- The order of R502: earlier cycle, then ascending CHAN, then ascending EVT. -/
def Report.before (a b : Report) : Bool :=
  a.cycle < b.cycle || (a.cycle == b.cycle && (a.chan < b.chan ||
    (a.chan == b.chan && decide ((Config.evtCode a.kind.index).toNat < (Config.evtCode b.kind.index).toNat))))

/-- The first report of a list in the order of R502, and the rest in their places. -/
def firstReport : List Report → Option (Report × List Report)
  | [] => none
  | r :: rest =>
    match firstReport rest with
    | none => some (r, [])
    | some (m, others) => if m.before r then some (m, r :: others) else some (r, rest)

/-- Take one report into the 64-record buffer; one taken when it is full is dropped, and the first taken after a drop
carries LOSS (R502). -/
def takeReport (d : Nat) (h : Hw) : Hw :=
  let r := h.rcd d
  match firstReport r.pending with
  | none => h
  | some (x, rest) =>
    if 64 ≤ r.input.length then
      (h.setRcd d { r with pending := rest, lossNext := true }).bump d R.EVR_CNT_DROPPED
    else
      let x := if r.lossNext then { x with flags := x.flags + 8 } else x
      h.setRcd d { r with pending := rest, input := r.input ++ [x], lossNext := false }

/-- EVENT_REPORT (R502): up to four reports in one core cycle. -/
def eventReport (d : Nat) (h : Hw) : Hw := takeReport d (takeReport d (takeReport d (takeReport d h)))

def execEventReport (die : Die) (s : State) : Host.Outcome State Fault Refusal := s.onDie die (eventReport die.val)

/-- The record sequence number after `s`: rising by 1, skipping 0 on wrap (R500). -/
def nextSeq (s : Nat) : Nat := s % 0xFFFFFFFF + 1

/-- Put a report into the SRAM under the next SEQ: the slot's old record is overwritten (and counted where it was not
copied), OLDEST follows, a privileged channel raises source 55, a FREEZE channel triggers a freeze (R500, R503, R506). -/
def writeRecord (d : Nat) (x : Report) (h : Hw) : Hw :=
  let sq := nextSeq (h.rd d R.EVR_SEQ_VALUE)
  let slot := (sq - 1) % 4096
  let r := h.rcd d
  let old := r.slots.get none slot
  let lost := match old with
    | some e => r.uncopied.contains e.seq
    | none => false
  let unc := match old with
    | some e => r.uncopied.filter (· != e.seq)
    | none => r.uncopied
  let h := h.setRcd d { r with slots := r.slots.put none slot (some ⟨sq, x⟩), uncopied := unc ++ [sq] }
  let h := if lost then h.bump d R.EVR_CNT_NOTCOPIED else h
  let h := h.wr d R.EVR_SEQ_VALUE sq
  let h := match old with
    | some e => if e.seq = h.rd d R.EVR_OLDEST_VALUE then h.wr d R.EVR_OLDEST_VALUE (nextSeq e.seq) else h
    | none => h
  let h := if bit x.flags 0 then h.raiseMsixNode 55 else h
  if bit x.flags 2 then h.triggerFreeze ⟨0, sq, x.chan, 0⟩ else h

/-- RECORD_WRITE (R502): one record every 3 core cycles, oldest buffered report first. -/
def recordWrite (d : Nat) (h : Hw) : Hw :=
  let r := h.rcd d
  match r.input with
  | [] => h
  | x :: rest => writeRecord d x (h.setRcd d { r with input := rest })

def execRecordWrite (die : Die) (s : State) : Host.Outcome State Fault Refusal := s.onDie die (recordWrite die.val)

/-- The 32 bytes of a record (R500), with the die in [7:5] of FLAGS where it is an NVM copy (R506). -/
def EvRec.bytes (e : EvRec) (dieBits : Nat) : List Byte :=
  leBytes 4 e.seq ++ [BitVec.ofNat 8 e.rep.chan, Config.evtCode e.rep.kind.index, BitVec.ofNat 8 (low 5 e.rep.flags + dieBits * 32),
    BitVec.ofNat 8 e.rep.origin] ++ leBytes 8 e.rep.t0 ++ leBytes 4 e.rep.t1 ++ leBytes 2 e.rep.utcoff ++ leBytes 2 0 ++
  leBytes 8 e.rep.data

/-- Bytes of space 0x10 (R500, R505): slot k at 0x20 × k; a slot that holds no record reads zeros. -/
def recorderBytes (h : Hw) (d o n : Nat) : List Byte :=
  (List.range n).map fun k =>
    match (h.rcd d).slots.get none ((o + k) / 32) with
    | some e => (e.bytes 0).getD ((o + k) % 32) 0
    | none => 0

/-! ## The copy to the log NVM (R506, R507) -/

/-- First byte of the recorder area, and its 32-byte slots (R483). -/
def recArea (h : Hw) : Nat := h.rd 0 R.LDG_CFG_LEDGSZ * 0x10000

def recAreaSlots (h : Hw) : Nat := (h.logCapacity - recArea h) / 32

/-- Uncopied records of the node, oldest first by die. -/
def uncopiedAll (h : Hw) : List (Nat × Nat) :=
  (List.range h.dies).flatMap fun d => (h.rcd d).uncopied.map fun q => (d, q)

/-- The bytes of a record on the device. -/
def recordBytes (h : Hw) (d q : Nat) : List Byte :=
  match (h.rcd d).slots.get none ((q - 1) % 4096) with
  | some e => e.bytes d
  | none => List.replicate 32 0

/-- A record is copied: it leaves the die's copy queue and EVR_COPY names it. -/
def markCopied (d q : Nat) (h : Hw) : Hw :=
  (h.setRcd d { h.rcd d with uncopied := (h.rcd d).uncopied.filter (· != q) }).wr d R.EVR_COPY_VALUE q

/-- RECORDER_COPY (R506): a page write of uncopied records starts when a full page is uncopied or the oldest is 1 s old,
while the hold-up check passes with the present number of staged entries and no other operation runs. In Dusk the ledger is flushed
first (R494). -/
def recorderCopy (aged : Bool) (h : Hw) : Hw :=
  let u := uncopiedAll h
  let per := h.pageBytes / 32
  if h.ldg.op.isNone && (h.node.state != .dusk || h.ldg.staging.isEmpty) && !u.isEmpty && (aged || per ≤ u.length) &&
      h.holdupOk h.ldg.staging.length && !h.mgt.headless && !h.node.replay then
    let n := min u.length (per - h.ldg.copyPos % per)
    let recs := (List.range n).map fun i => (h.ldg.copyPos + i, u.getD i (0, 0))
    { h with ldg.op := some ⟨(recArea h + h.ldg.copyPos * 32) / h.pageBytes, [], recs, 1⟩, ldg.wpHigh := true }
  else h

def execRecorderCopy (aged : Bool) (s : State) : Host.Outcome State Fault Refusal := s.on (recorderCopy aged)

/-- The end of a recorder page write: the bytes stand in the recorder area and the records are copied (R506). -/
def recorderReadback (h : Hw) (op : PageOp) : Hw :=
  let h := each op.recs (fun x h => h.logWrite (recArea h + x.1 * 32) (recordBytes h x.2.1 x.2.2)) h
  let h := each op.recs (fun x h => markCopied x.2.1 x.2.2 h) h
  { h with ldg.op := none, ldg.wpHigh := false,
           ldg.copyPos := (h.ldg.copyPos + op.recs.length) % max 1 (recAreaSlots h) }

/-- The uncopied records in the order of Dusk: newest first, taking the dies in turn from D0 (R507). -/
def duskOrder (h : Hw) : List (Nat × Nat) :=
  let longest := (List.range h.dies).foldl (fun a d => max a (h.rcd d).uncopied.length) 0
  (List.range longest).flatMap fun i =>
    (List.range h.dies).filterMap fun d => ((h.rcd d).uncopied.reverse[i]?).map fun q => (d, q)

/-- Put one record into the recorder area at once. -/
def copyNow (x : Nat × Nat) (h : Hw) : Hw :=
  let h := h.logWrite (recArea h + h.ldg.copyPos * 32) (recordBytes h x.1 x.2)
  markCopied x.1 x.2 { h with ldg.copyPos := (h.ldg.copyPos + 1) % max 1 (recAreaSlots h) }

/-- DUSK_RECORD (R507): after the ledger flush, and after the page write that was running, the owner writes the Dusk record,
whose DATA counts the uncopied records, copies it first and then uncopied records, newest first, as many as `count` before the limit of 25 ms. -/
def duskRecord (count : Nat) (h : Hw) : Hw :=
  if h.node.state = .dusk ∧ h.ldg.staging = [] ∧ h.ldg.op = none ∧ h.mgt.headless = false then
    let d := h.node.owner
    let h := writeRecord d (h.stampReport d 0x00 .duskRecord (uncopiedAll h).length 0) h
    let h := copyNow (d, h.rd d R.EVR_SEQ_VALUE) h
    each ((duskOrder h).take count) copyNow h
  else h

/-- Has everything been copied that Dusk copies: the staged entries, the Dusk record and every uncopied record (R507)? -/
def Hw.duskCopied (h : Hw) : Bool :=
  h.node.state == .dusk && h.ldg.staging.isEmpty && h.ldg.op.isNone && (uncopiedAll h).isEmpty &&
  (h.rcd h.node.owner).slots.entries.any fun x => x.2.any fun e => e.rep.kind == .duskRecord && decide (h.node.duskAt ≤ e.rep.cycle)

/-! ## The end of a log NVM operation -/

/-- LOG_NVM_WRITE_DONE (R492, R506): an RDSR poll shows the write ended, and the page is read back. -/
def logNvmWriteDone (rb : Option (List Byte)) (h : Hw) : Hw :=
  match h.ldg.op with
  | none => h
  | some op => if op.recs = [] then ledgerReadback h op rb else recorderReadback h op

/-! ## Clearing (R508) -/

/-- The clear of a die's recorder is staged: records up to the present SEQ leave SRAM and the copy queue. -/
def applyClear (d : Nat) (o : Origin) (h : Hw) : Hw :=
  let last := h.rd d R.EVR_SEQ_VALUE
  let body := ledgerBody 0x07 o (h.rd d R.EVR_OLDEST_VALUE + last * 2 ^ 32) d 0 0 0
  let h := h.stageNow body
  let h := h.setRcd d { h.rcd d with slots := .empty, uncopied := [], clrOrigin := none }
  (h.wr d R.EVR_OLDEST_VALUE (nextSeq last)).wr d R.EVR_CLR_CLRST 0

/-- One try of a pending clear: it waits while 20 entries are staged, is refused where the hold-up check fails, else
takes effect with its ledger entry. -/
def tryClear (d : Nat) (h : Hw) : Hw :=
  match (h.rcd d).clrOrigin with
  | none => h
  | some o =>
    if h.mgt.headless then h
    else
      let h := h.checkpointIfDue
      if h.requestedWaits then h
      else if h.holdupOk h.ldg.staging.length then applyClear d o h
      else (h.setRcd d { h.rcd d with clrOrigin := none }).wr d R.EVR_CLR_CLRST 2

/-- EVR_CLR (R508): a write of 1 to CLR requests a clear; one that finds a clear pending joins it. -/
def evrClr (d : Nat) (o : Origin) (h : Hw) : Hw :=
  match (h.rcd d).clrOrigin with
  | some _ => h
  | none => tryClear d ((h.setRcd d { h.rcd d with clrOrigin := some o }).wr d R.EVR_CLR_CLRST 1)

def execEvrClr (die : Die) (origin : Origin) (s : State) : Host.Outcome State Fault Refusal :=
  s.onReg die origin 0xC000C (evrClr die.val origin)

/-- CLEAR_RETRY (R508): a waiting clear is tried again when fewer than 20 entries are staged. -/
def execClearRetry (die : Die) (s : State) : Host.Outcome State Fault Refusal := s.onDie die (tryClear die.val)

end Sys2Proof.Machine
end

