-- ==== Sys2Proof/Machine/Cistern.lean ====
section
/-!
DEFINITION. The Cistern (chapter "Cistern: shared cells and linked queues", R245 to R277): the allocator, queues and
their credit, arrivals and consumers, queue reset, retirement and scrub.
-/

namespace Sys2Proof.Machine

/-! ## Window words (R275) -/

namespace Q

def QSTAT_OCC : Fld := ⟨0x40, 0, 0, 0, 18, false⟩
def QSTAT_EMPTY : Fld := ⟨0x40, 0, 0, 18, 1, false⟩
def QSTAT_UNDER : Fld := ⟨0x40, 0, 0, 19, 1, false⟩
def QSTAT_QRESET : Fld := ⟨0x40, 0, 0, 20, 1, false⟩
def QSTAT_EPOCH : Fld := ⟨0x40, 0, 0, 21, 1, false⟩
def QGRANT_GRANT : Fld := ⟨0x44, 0, 0, 0, 16, false⟩
def QCFGA_FWD : Fld := ⟨0x48, 0, 0, 0, 1, false⟩
def QCFGA_WORD : Fld := ⟨0x48, 0, 0, 1, 1, false⟩
def QCFGA_CLASS : Fld := ⟨0x48, 0, 0, 2, 2, false⟩
def QCFGA_WINW : Fld := ⟨0x48, 0, 0, 4, 1, false⟩
def QCFGA_WINR : Fld := ⟨0x48, 0, 0, 5, 1, false⟩
def QCFGA_QRES : Fld := ⟨0x48, 0, 0, 6, 18, false⟩
def QCFGB_TGTNODE : Fld := ⟨0x4C, 0, 0, 0, 16, false⟩
def QCFGB_TGTDIE : Fld := ⟨0x4C, 0, 0, 16, 3, false⟩
def QCFGB_TGTQ : Fld := ⟨0x4C, 0, 0, 19, 13, false⟩
def QCRED_GRANTED : Fld := ⟨0x50, 0, 0, 0, 16, false⟩
def QCRED_ECRED : Fld := ⟨0x50, 0, 0, 16, 12, false⟩
def QCRED_SESSOK : Fld := ⟨0x50, 0, 0, 28, 1, false⟩
def QCNT_UNDERCNT : Fld := ⟨0x54, 0, 0, 0, 16, false⟩
def QCNT_DROPS : Fld := ⟨0x54, 0, 0, 16, 16, false⟩

end Q

/-- Reset values of the window words: WORD = 1 for Q0 to Q255, QRES = 64 for Q552 to Q575 (R251, QCFGA). -/
def windowReset (q off : Nat) : Word :=
  if off = 0x48 then (if q < 256 then 2 else if 552 ≤ q ∧ q < 576 then 0x1000 else 0) else 0

/-- The key of a window word. -/
def windowKey (d q off : Nat) : Nat := d * 0x200000 + q * 256 + off

/-- Read a field of a queue's window words. -/
def Hw.qrd (h : Hw) (d q : Nat) (F : Fld) : Nat :=
  bits (h.qregs.get (windowReset q F.addr) (windowKey d q F.addr)).toNat F.lo F.w

/-- Write a field of a queue's window words. -/
def Hw.qwr (h : Hw) (d q : Nat) (F : Fld) (v : Nat) : Hw :=
  { h with qregs := h.qregs.upd (windowReset q F.addr) (windowKey d q F.addr) fun w => setBits w F.lo F.w v }

/-- Add to a count of a queue, stopping at its largest value. -/
def Hw.qbump (h : Hw) (d q : Nat) (F : Fld) : Hw := h.qwr d q F (satAdd F.w (h.qrd d q F) 1)

/-! ## Queues and banks -/

def Hw.cq (h : Hw) (d q : Nat) : CQueue := h.queues.get .init (d * 8192 + q)

def Hw.setCq (h : Hw) (d q : Nat) (c : CQueue) : Hw := { h with queues := h.queues.put .init (d * 8192 + q) c }

def Hw.cistern (h : Hw) (d : Nat) : Cis := h.cis.get .init d

def Hw.setCistern (h : Hw) (d : Nat) (c : Cis) : Hw := { h with cis := h.cis.put .init d c }

def Hw.bank (h : Hw) (d b : Nat) : Bank := (h.cistern d).banks.get .init b

def Hw.setBank (h : Hw) (d b : Nat) (k : Bank) : Hw :=
  let c := h.cistern d
  h.setCistern d { c with banks := c.banks.put .init b k }

/-- Cells on a bank's free list: 12,288 rows a bank (R245). -/
def Bank.length (k : Bank) : Nat := k.pre.length + (12288 - k.fresh) + k.post.length + k.late.length

/-- Take the head of a bank's free list. -/
def Bank.pop (k : Bank) : Option (Nat × Bank) :=
  match k.pre with
  | r :: rest => some (r, { k with pre := rest })
  | [] =>
    if k.fresh < 12288 then some (k.fresh, { k with fresh := k.fresh + 1 })
    else match k.post with
      | r :: rest => some (r, { k with post := rest })
      | [] => none

/-- Insert by rising row. -/
def insertRow (r : Nat) : List Nat → List Nat
  | [] => [r]
  | a :: rest => if r ≤ a then r :: a :: rest else a :: insertRow r rest

/-- The free list as the rebuild of R268 leaves it: rows in rising order, then those freed behind it (R277). -/
def Bank.rebuilt (k : Bank) : Bank :=
  { pre := (k.pre ++ k.post).foldl (fun a r => insertRow r a) [], fresh := k.fresh, post := k.late, rebuilding := false,
    rebuildAt := k.rebuildAt, late := [] }

/-- A row comes back to its bank's free list in core cycle `t` (R264). A rebuild takes in the rows that it has still to reach, one row a
core cycle, and leaves the others for the tail (R277). -/
def Bank.push (k : Bank) (t r : Nat) : Bank :=
  if k.rebuilding ∧ r < t - k.rebuildAt then { k with late := k.late ++ [r] } else { k with post := k.post ++ [r] }

/-- The rows of a bank's free list, in its order. -/
def Bank.rows (k : Bank) : List Nat := k.pre ++ (List.range (12288 - k.fresh)).map (k.fresh + ·) ++ k.post ++ k.late

/-- CIS_POOL.FREE: cells on all free lists, less the carry image of a cycle-master candidate (R187). -/
def Hw.poolFree (h : Hw) (d : Nat) : Nat :=
  ((List.range 16).map fun b => (h.bank d b).length).sum - (if h.rd d R.RNG_CFG_CMROLE = 0 then 0 else 16384) -
    (if d = h.node.owner then (h.mgt.stagedLen + 63) / 64 else 0)

/-- The banks that are busy in this core cycle (R247). -/
def Hw.busyBanks (h : Hw) (d : Nat) : List Nat := if (h.cistern d).busyAt = h.now then (h.cistern d).busy else []

/-- A bank is read, written or scrubbed in this core cycle (R246, R247). -/
def Hw.noteBank (h : Hw) (d b : Nat) : Hw :=
  h.setCistern d { h.cistern d with busyAt := h.now, busy := b % 16 :: h.busyBanks d }

/-- The first bank at or after `b`, of `n` tried, that is in allocation, not busy in this core cycle and has a free cell (R247). -/
def findBank (h : Hw) (d : Nat) : Nat → Nat → Option Nat
  | 0, _ => none
  | n + 1, b =>
    if (h.bank d (b % 16)).rebuilding ∨ (h.bank d (b % 16)).length = 0 ∨ (h.busyBanks d).contains (b % 16) then
      findBank h d n (b + 1)
    else some (b % 16)

/-- The allocator's choice for a write (R247): from wptr, which stands at the core cycle count modulo 16. -/
def Hw.allocate (h : Hw) (d : Nat) : Option Nat × Hw :=
  match findBank h d 16 (h.now % 16) with
  | none => (none, h)
  | some b =>
    match (h.bank d b).pop with
    | none => (none, h)
    | some (r, k) => (some (r * 16 + b), (h.setBank d b k).noteBank d b)

/-! ## Credit links (R255, R259) -/

/-- The valid credit links of a die whose TQ is `q`. -/
def Hw.linksTo (h : Hw) (d q : Nat) : List Nat :=
  (h.regs.entries.filterMap fun (k, _) =>
    let off := k % 0x200000
    if k / 0x200000 = d ∧ 0x38000 ≤ off ∧ off < 0x39000 ∧ off % 8 = 4 then some ((off - 0x38004) / 8) else none).filter
      fun l => h.on d R.CIS_LINKB_VALID l && h.rd d R.CIS_LINKB_TQ l == q

/-- Free credit of a queue (R255): 0 while its sweep runs. A cell in the write buffer counts in OCC. -/
def Hw.freeCredit (h : Hw) (d q : Nat) : Nat :=
  let c := h.cq d q
  if c.sweeping then 0
  else
    let ls := h.linksTo d q
    let lcred := (ls.map fun l => h.rd d R.CIS_LINKB_LCRED l).sum
    let held := (ls.map fun l => h.rd d R.CIS_LINKS_HELD l).sum
    let waiting := ((h.cistern d).wbuf.filter (·.queue == q)).length
    (h.qrd d q Q.QCFGA_QRES - lcred) - (c.cells.length + waiting - held) - h.qrd d q Q.QCRED_GRANTED

/-- Is this a word queue (R252, R253)? -/
def Hw.isWord (h : Hw) (d q : Nat) : Bool := h.qrd d q Q.QCFGA_WORD == 1

/-- QSTAT.EMPTY (R265). -/
def Hw.queueEmpty (h : Hw) (d q : Nat) : Bool :=
  if h.isWord d q then (h.cq d q).cells.all fun c => c.read == c.words else (h.cq d q).cells.isEmpty

/-- A cell with nothing in it, of a class, to a node, die and queue. -/
def blankCell (klass dnode ddie dq snode sdie : Nat) (data : List Byte) : Cell :=
  ⟨data ++ List.replicate (64 - data.length) 0, 0, klass, false, dnode, ddie, dq, snode, sdie, 0⟩

/-- The node ID (R20). -/
def Hw.nodeId (h : Hw) : Nat := h.rd 0 R.NOD_NODEID_NODEID

def Hw.switch (h : Hw) (d : Nat) : Swc := h.swc.get .init d

def Hw.setSwitch (h : Hw) (d : Nat) (s : Swc) : Hw := { h with swc := h.swc.put .init d s }

/-- A block hands a cell to a switch input: it waits there until the input presents it (R222, R230). -/
def Hw.offer (h : Hw) (d i : Nat) (c : Cell) : Hw :=
  let s := h.switch d
  h.setSwitch d { s with outbox := s.outbox.upd [] i (· ++ [c]) }

/-- A credit return cell (R259), offered at MP. -/
def Hw.sendReturn (h : Hw) (d l : Nat) : Hw :=
  let freed := h.rd d R.CIS_LINKS_FREEDCNT l
  let data := [0x20, 0x01] ++ leBytes 2 (h.rd d R.CIS_LINKA_SQ l) ++ leBytes 2 (h.rd d R.CIS_LINKB_TQ l) ++
    leBytes 2 freed ++ leBytes 2 (h.rd d R.CIS_LINKS_HELD l) ++ leBytes 2 (low 16 h.nightDom.pcc)
  let c := h.cistern d
  let h := h.setCistern d { c with linkRet := c.linkRet.put 0 l freed }
  h.offer d 7 (blankCell 0 (h.rd d R.CIS_LINKA_SNODE l) (h.rd d R.CIS_LINKA_SDIE l) 554 h.nodeId d data)

/-- A cell that arrived over link `l` leaves its queue: HELD falls, FREEDCNT rises, and a return goes out when FREEDCNT
has advanced by 2^LRETSH (R259, R264). -/
def Hw.releaseLink (h : Hw) (d : Nat) (l : Option Nat) : Hw :=
  match l with
  | none => h
  | some l =>
    let h := h.wr d R.CIS_LINKS_HELD (h.rd d R.CIS_LINKS_HELD l - 1) l
    let h := h.wr d R.CIS_LINKS_FREEDCNT (low 16 (h.rd d R.CIS_LINKS_FREEDCNT l + 1)) l
    let adv := (h.rd d R.CIS_LINKS_FREEDCNT l + 65536 - (h.cistern d).linkRet.get 0 l) % 65536
    if 2 ^ h.rd d R.CIS_LINKB_LRETSH l ≤ adv then h.sendReturn d l else h

/-- A cell goes back to its bank's free list (R264); a retired one never does (R271). -/
def Hw.freeIndex (h : Hw) (d i : Nat) : Hw :=
  if (h.cistern d).retired.contains i then h else h.setBank d (i % 16) ((h.bank d (i % 16)).push h.now (i / 16))

def Hw.port (h : Hw) (d p : Nat) : Port := h.ports.get .init (d * 4 + p)

def Hw.setPort (h : Hw) (d p : Nat) (x : Port) : Hw := { h with ports := h.ports.put .init (d * 4 + p) x }

/-- The charge on a switch input ends (R229, R230): USE falls; at a ring input the freed count of the class rises, and at a die link
the sending die has its credit back. -/
def Hw.releaseCharge (h : Hw) (d src c : Nat) : Hw :=
  if src < 10 then
    let h := h.wr d R.SWC_INRES_USE (h.rd d R.SWC_INRES_USE src c - 1) src c
    if src < 4 then
      let x := h.port d src
      h.setPort d src { x with freed := x.freed.upd 0 c fun n => (n + 1) % 2 ^ 32 }
    else if 8 ≤ src then
      let (e, ep) := h.dieLinkPeer d (src - 8)
      h.setSwitch e { h.switch e with dieUsed := (h.switch e).dieUsed.upd 0 (ep * 4 + c) (· - 1) }
    else h
  else if src = 10 then h.wr d R.SWC_MCUSE_MCUSE (h.rd d R.SWC_MCUSE_MCUSE - 1)
  else h

/-- A stored cell leaves the Cistern: its charge, its link tag and its place. -/
def Hw.freeCell (h : Hw) (d : Nat) (c : CCell) : Hw :=
  ((h.releaseCharge d c.src c.cell.klass).releaseLink d c.link).freeIndex d c.index

/-! ## Linking and queue watches -/

/-- A queue that held nothing holds something: its watches raise their vectors (R436). -/
def Hw.watchRaise (h : Hw) (d q : Nat) : Hw :=
  [0, 1].foldl (fun h e =>
    (h.regs.entries.filterMap fun (k, _) =>
      let off := k % 0x200000
      if k / 0x200000 = e ∧ 0x90400 ≤ off ∧ off < 0x904C0 ∧ off % 4 = 0 then some ((off - 0x90400) / 4) else none).foldl
        (fun h v =>
          if h.on e R.BRG_QWATCH_VALID v && h.rd e R.BRG_QWATCH_QNUM v == q && h.rd e R.BRG_QWATCH_DIE v == d
          then h.raiseMsix e v else h) h) h

/-- Run an effect on a queue: where it ends the queue's emptiness, its watches are raised and the core cycle is kept (R277, R436). -/
def Hw.watching (h : Hw) (d q : Nat) (f : Hw → Hw) : Hw :=
  let was := h.queueEmpty d q
  let h := f h
  if was && !h.queueEmpty d q then (h.setCq d q { h.cq d q with filledAt := some h.now }).watchRaise d q else h

/-- Link a cell that has its place at the tail of its queue, under the queue's epoch (R246). -/
def Hw.linkTail (h : Hw) (d q : Nat) (c : CCell) : Hw :=
  h.watching d q fun h =>
    h.setCq d q { h.cq d q with cells := (h.cq d q).cells ++ [{ c with epoch := h.qrd d q Q.QSTAT_EPOCH }] }

/-- The held writes that are linked in one core cycle: the oldest and, where it is the first cell of a frame, those up to its last
(R349). -/
def headGroup : List HeldWrite → List HeldWrite
  | [] => []
  | w :: rest => if w.more then w :: headGroup rest else [w]

/-- Give the first held write without a place the cell `i`. -/
def placeFirst (i : Nat) : List HeldWrite → List HeldWrite
  | [] => []
  | w :: rest => if w.placed then w :: placeFirst i rest else { w with cell := { w.cell with index := i }, placed := true } :: rest

/-- The oldest held writes are linked once each has its place. -/
def linkHeld (d : Nat) (h : Hw) : Hw :=
  let x := h.cistern d
  let g := headGroup x.wbuf
  if g.all (·.placed) then
    each g (fun w h => h.linkTail d w.queue w.cell) (h.setCistern d { x with wbuf := x.wbuf.drop g.length })
  else h

/-- WRITE_BUFFER_RELEASE (R247): the oldest held write is placed once a bank with a free cell is available. -/
def writeBufferRelease (d : Nat) (h : Hw) : Hw :=
  if (h.cistern d).wbuf.isEmpty then h
  else if (headGroup (h.cistern d).wbuf).all (·.placed) then linkHeld d h
  else
    match h.allocate d with
    | (some i, h) => linkHeld d (h.setCistern d { h.cistern d with wbuf := placeFirst i (h.cistern d).wbuf })
    | (none, h) => h

/-- Cells are written to the tail of a queue, to be linked together: each takes a free cell, and waits in the write buffer where there
is none or where others wait (R247). -/
def Hw.placeAll (h : Hw) (d q : Nat) (cs : List CCell) : Hw :=
  let x := h.cistern d
  let ws := cs.dropLast.map (⟨q, ·, false, true⟩) ++ (cs.getLast?.map fun c => (⟨q, c, false, false⟩ : HeldWrite)).toList
  let h := h.setCistern d { x with wbuf := x.wbuf ++ ws }
  if x.wbuf.isEmpty then iter cs.length (fun _ h => writeBufferRelease d h) h else h

/-- Put a cell at the tail of its queue. -/
def Hw.place (h : Hw) (d q : Nat) (c : CCell) : Hw := h.placeAll d q [c]

/-- A cell that is relinked in its place goes to the tail of its queue, behind the writes that the queue has in the write buffer. -/
def Hw.relink (h : Hw) (d q : Nat) (c : CCell) : Hw :=
  let x := h.cistern d
  if x.wbuf.any (·.queue == q) then h.setCistern d { x with wbuf := x.wbuf ++ [⟨q, c, true, false⟩] } else h.linkTail d q c

/-- The held writes of a core cycle are placed before any new one (R247). -/
def releaseHeld (d : Nat) (h : Hw) : Hw := iter (h.cistern d).wbuf.length (fun _ h => writeBufferRelease d h) h

def execWriteBufferRelease (die : Die) (s : State) : Host.Outcome State Fault Refusal :=
  s.onDie die (writeBufferRelease die.val)

/-! ## Consumers (R264, R265) -/

/-- Remove the head cell of a queue and free it. -/
def Hw.freeHead (h : Hw) (d q : Nat) : Hw :=
  match (h.cq d q).cells with
  | [] => h
  | c :: rest => (h.setCq d q { h.cq d q with cells := rest, given := false }).freeCell d c

/-- The bank of a queue's head cell is read in this core cycle (R247). -/
def Hw.readHead (h : Hw) (d q : Nat) : Hw :=
  match (h.cq d q).cells with
  | [] => h
  | c :: _ => h.noteBank d c.index

/-- A consumer reads the head cell of a queue, which leaves it. -/
def Hw.dropHead (h : Hw) (d q : Nat) : Hw := (h.readHead d q).freeHead d q

/-- A read that meets what has arrived at the empty queue in the same core cycle returns it, and MARGIN counts (R277). -/
def Hw.countArrival (h : Hw) (d q : Nat) (arrived : Bool) : Hw :=
  if arrived && !h.queueEmpty d q then h.bump d R.CIS_MARGIN_MARGIN else h

/-- Did an arrival end the emptiness of a queue in this core cycle (R277)? -/
def Hw.justFilled (h : Hw) (d q : Nat) : Bool := (h.cq d q).filledAt == some h.now

/-- A word queue whose head cell is closed and read to its end dequeues it (R264). -/
def Hw.retireRead (h : Hw) (d q : Nat) : Hw :=
  match (h.cq d q).cells with
  | [] => h
  | c :: _ => if c.closed && c.read == c.words then h.freeHead d q else h

/-- A read of an empty queue: UNDER, UNDERCNT, the last value (R265). -/
def Hw.underrun (h : Hw) (d q : Nat) : Hw := (h.qwr d q Q.QSTAT_UNDER 1).qbump d q Q.QCNT_UNDERCNT

/-- A consumer takes the head cell of a cell queue, or the last value of an empty one. -/
def Hw.takeCell (h : Hw) (d q : Nat) : List Byte × Hw :=
  match (h.cq d q).cells with
  | [] =>
    let l := (h.cq d q).last
    (l ++ List.replicate (64 - l.length) 0, h.underrun d q)
  | c :: _ =>
    let h := h.dropHead d q
    (c.cell.data, h.setCq d q { h.cq d q with last := c.cell.data })

/-- A consumer takes the oldest unread word of a word queue, or the last value of an empty one. -/
def Hw.takeWord (h : Hw) (d q : Nat) : Word × Hw :=
  match (h.cq d q).cells with
  | c :: rest =>
    if c.read < c.words then
      let w := slice c.cell.data (4 * c.read) 4
      let h := (h.readHead d q).setCq d q { h.cq d q with cells := { c with read := c.read + 1 } :: rest, last := w }
      (BitVec.ofNat 32 (leNat w), h.retireRead d q)
    else (BitVec.ofNat 32 (leAt (h.cq d q).last 0 4), h.underrun d q)
  | [] => (BitVec.ofNat 32 (leAt (h.cq d q).last 0 4), h.underrun d q)

/-! ## Word queues (R258, R628) -/

/-- Close the open tail cell of a word queue, which may still be in the write buffer. -/
def Hw.closeTail (h : Hw) (d q : Nat) : Hw :=
  let y := h.cistern d
  let h := h.setCistern d { y with wbuf := y.wbuf.map fun w => if w.queue = q then { w with cell := { w.cell with closed := true } } else w }
  let x := h.cq d q
  (h.setCq d q { x with cells := x.cells.map fun c => { c with closed := true } }).retireRead d q

/-- The newest write that a queue has in the write buffer. -/
def Hw.heldTail (h : Hw) (d q : Nat) : Option CCell := (((h.cistern d).wbuf.filter (·.queue == q)).getLast?).map (·.cell)

/-- The open cell of a word queue, if it has one. -/
def Hw.openTail (h : Hw) (d q : Nat) : Option CCell :=
  match (h.heldTail d q).or (h.cq d q).cells.getLast? with
  | some c => if c.closed then none else some c
  | none => none

/-- Put another state of the tail cell in its place. A queue has one open cell, so all its held writes but the last are closed. -/
def Hw.setTail (h : Hw) (d q : Nat) (c : CCell) : Hw :=
  let y := h.cistern d
  if (h.heldTail d q).isSome then
    h.setCistern d { y with wbuf := y.wbuf.map fun w =>
      if w.queue = q ∧ w.cell.closed = false then { w with cell := { c with index := w.cell.index } } else w }
  else h.setCq d q { h.cq d q with cells := (h.cq d q).cells.dropLast ++ [c] }

/-- Write a word into the open tail cell; the sixteenth closes it (R258). -/
def Hw.fillTail (h : Hw) (d q : Nat) (c : CCell) (w : Word) : Hw :=
  h.watching d q fun h =>
    let c := { c with cell := { c.cell with data := spliceAt c.cell.data (4 * c.words) (leBytes 4 w.toNat) }, words := c.words + 1 }
    let h := h.setTail d q c
    if c.words = 16 then h.closeTail d q else h

/-- A new open cell of a class with one word, for the tail of a word queue. -/
def Hw.openCell (h : Hw) (d q klass : Nat) (w : Word) (link : Option Nat) : CCell :=
  ⟨blankCell klass 0 0 q h.nodeId d (leBytes 4 w.toNat), 0, 11, none, link, h.qrd d q Q.QSTAT_EPOCH, 1, 0, false⟩

/-! ## Arrivals (R262) -/

/-- The accounting of an arrival at queue `q`: the link it is tagged with, or none where it is discarded. -/
def Hw.account (h : Hw) (d q : Nat) (relink : Option (Nat × Nat)) : Option (Option Nat) × Hw :=
  let link := match relink with
    | none => none
    | some (n, e) => (h.linksTo d q).find? fun l =>
        h.rd d R.CIS_LINKA_SNODE l == n && h.rd d R.CIS_LINKA_SDIE l == e &&
          decide (h.rd d R.CIS_LINKS_HELD l < h.rd d R.CIS_LINKB_LCRED l)
  match link with
  | some l => (some (some l), h.wr d R.CIS_LINKS_HELD (h.rd d R.CIS_LINKS_HELD l + 1) l)
  | none =>
    if relink.isNone ∧ 1 ≤ h.qrd d q Q.QCRED_GRANTED then
      (some none, h.qwr d q Q.QCRED_GRANTED (h.qrd d q Q.QCRED_GRANTED - 1))
    else if 1 ≤ h.freeCredit d q then (some none, h.bump d R.CIS_CRED_UNCRED)
    else (none, (h.bump d R.CIS_CRED_DROPFULL).qbump d q Q.QCNT_DROPS)

/-- An error packet to a cell's source, where its class is 1 or 2 (R235, R262, R270). -/
def Hw.errorTo (h : Hw) (d : Nat) (c : Cell) (code : Nat) : Hw :=
  if c.klass = 1 ∨ c.klass = 2 then h.errPacket d ⟨code, c.snode, c.sdie, c.data, h.fabricNs⟩ else h

/-- A cell arrives whole at its queue by relink, in its own place of the Cistern or, where it came from another die, in a
new one (R262, R628). -/
def Hw.arriveCell (h : Hw) (d q : Nat) (c : Cell) (place : Option Nat) : Hw :=
  match h.account d q (some (c.snode, c.sdie)) with
  | (none, h) =>
    let h := h.errorTo d c 0x23
    match place with
    | some i => h.freeIndex d i
    | none => h
  | (some l, h) =>
    let h := if h.isWord d q then h.closeTail d q else h
    let n := if c.fill = 0 then 16 else c.fill
    let x : CCell := ⟨c, place.getD 0, 11, none, l, h.qrd d q Q.QSTAT_EPOCH, n, 0, true⟩
    match place with
    | some _ => h.relink d q x
    | none => h.place d q x

/-! ## Queue reset, rebuild and retirement (R267 to R271) -/

/-- Queue `q` is reset (R267): emptied under a new epoch, its old cells left to the sweep. -/
def Hw.resetQueue (h : Hw) (d q code : Nat) : Hw :=
  let x := h.cq d q
  let h := h.setCq d q { x with cells := [], old := x.old ++ x.cells, sweeping := true }
  let h := h.qwr d q Q.QSTAT_EPOCH (1 - h.qrd d q Q.QSTAT_EPOCH)
  let h := h.qwr d q Q.QSTAT_QRESET 1
  let h := (h.bump d R.CIS_PTR_QRESETS).wr d R.CIS_PTR_LASTQ q
  (h.raiseFault d code q).report d 0x11 .queueReset q

/-- QUEUE_SWEEP_END (R267): 12,288 core cycles after the reset the old cells are free. -/
def queueSweepEnd (d q : Nat) (h : Hw) : Hw :=
  let x := h.cq d q
  let h := h.setCq d q { x with old := [], sweeping := false, given := false }
  each x.old (fun c h => h.freeCell d c) h

def execQueueSweepEnd (die : Die) (queue : Fin 8192) (s : State) : Host.Outcome State Fault Refusal :=
  s.onDie die (queueSweepEnd die.val queue.val)

/-- A bank's free-list copies differ (R268): it leaves allocation and its rebuild begins. -/
def Hw.rebuildBank (h : Hw) (d b : Nat) : Hw :=
  let h := h.setBank d b { h.bank d b with rebuilding := true, rebuildAt := h.now, late := [] }
  let h := (h.bump d R.CIS_FLIST_FLRESETS).wr d R.CIS_FLIST_LASTBANK b
  (h.raiseFault d 0x12 b).report d 0x11 .freeList b

/-- FREE_LIST_REBUILD_END (R268): the bank returns to allocation with its list in row order. -/
def freeListRebuildEnd (d b : Nat) (h : Hw) : Hw :=
  if (h.bank d b).rebuilding then h.setBank d b (h.bank d b).rebuilt else h

def execFreeListRebuildEnd (die : Die) (bank : Fin 16) (s : State) : Host.Outcome State Fault Refusal :=
  s.onDie die (freeListRebuildEnd die.val bank.val)

/-- The spare of R250: cells left over after all reservations, less those retired. -/
def Hw.spareCells (h : Hw) (d : Nat) : Nat :=
  196608 - (h.rd d R.CIS_RESV_RESV - h.rd d R.CIS_SPARE_SPARE) - h.rd d R.CIS_RETIRE_RETIRED

/-- SPAREOUT with CIS_SPARE while the spare holds fewer cells than SPARE (R271). -/
def Hw.checkSpare (h : Hw) (d : Nat) : Hw :=
  if h.spareCells d < h.rd d R.CIS_SPARE_SPARE then
    ((h.flag d R.CIS_RETIRE_SPAREOUT).raiseFault d 0x14 0).report d 0x11 .spareOut 0
  else h

/-- A cell that is out of every list is retired, once (R271); with no spare left a free cell of its bank is withdrawn. -/
def Hw.retireOut (h : Hw) (d i : Nat) : Hw :=
  if (h.cistern d).retired.contains i then h
  else
    let h :=
      if h.spareCells d = 0 then
        match (h.bank d (i % 16)).pop with
        | some (_, k) => h.setBank d (i % 16) k
        | none => h
      else h
    let h := h.setCistern d { h.cistern d with retired := i :: (h.cistern d).retired }
    ((h.bump d R.CIS_RETIRE_RETIRED).report d 0x11 .cellRetired i).checkSpare d

/-- The last memory error (CIS_ERRADR). -/
def Hw.memError (h : Hw) (d cell word : Nat) (ue scrub : Bool) : Hw :=
  let h := (h.wr d R.CIS_ERRADR_CELL cell).wr d R.CIS_ERRADR_WORD word
  let h := (h.wr d R.CIS_ERRADR_UE (b2n ue)).wr d R.CIS_ERRADR_SCRUB (b2n scrub)
  h.bump d (if ue then R.CIS_ECC_UECNT else R.CIS_ECC_CECNT)

/-- A cell that stands in no queue any more is uncorrectable (R270): its source is told, its charge and its link tag end, it is
retired. -/
def Hw.loseCell (h : Hw) (d word : Nat) (c : CCell) : Hw :=
  let h := (h.memError d c.index word true false).raiseFault d 0x10 c.index
  let h := h.journalErr d 0 c.index 1
  let h := h.errorTo d c.cell 0x24
  ((h.releaseCharge d c.src c.cell.klass).releaseLink d c.link).retireOut d c.index

/-- The head cell of a queue is uncorrectable (R270): it is unlinked and not delivered. -/
def Hw.loseHead (h : Hw) (d q word : Nat) : Hw :=
  match (h.cq d q).cells with
  | [] => h
  | c :: rest => (h.setCq d q { h.cq d q with cells := rest, given := false }).loseCell d word c

/-- The entry of cell `c` of queue `q` fails its parity on use (R269); a cell whose owner field cannot be trusted is retired. -/
def Hw.linkParityAt (h : Hw) (d q : Nat) (trusted : Bool) (c : Option CCell) : Hw :=
  let h := (h.bump d R.CIS_FLIST_LPARERR).raiseFault d 0x13 q
  let h := h.journalErr d 0 ((c.map (·.index)).getD 0) 2
  match c with
  | some c =>
    if trusted then h.resetQueue d q 0x11
    else
      let h := h.setCq d q { h.cq d q with cells := (h.cq d q).cells.filter (·.index != c.index) }
      (((h.releaseCharge d c.src c.cell.klass).releaseLink d c.link).retireOut d c.index).resetQueue d q 0x11
  | none => h.resetQueue d q 0x11

/-- The link RAM entry of queue `q`'s head fails its parity on use (R269). -/
def Hw.linkParity (h : Hw) (d q : Nat) (trusted : Bool) : Hw := h.linkParityAt d q trusted (h.cq d q).cells.head?

/-- What an access to queue `q` meets in the memories before it acts: true where the queue was reset by it. -/
def Hw.meet (h : Hw) (d q : Nat) (u : Upset) : Bool × Hw :=
  match u with
  | .clean => (false, h)
  | .corrected w => (false, match (h.cq d q).cells with
      | [] => h
      | c :: _ => (h.memError d c.index w.val false false).journalErr d 0 c.index 0)
  | .uncorrectable w => (false, h.loseHead d q w.val)
  | .pointers => (true, (h.journalErr d 1 q 2).resetQueue d q 0x11)
  | .freeList b => (false, h.rebuildBank d b.val)
  | .linkParity t => (true, h.linkParity d q t)

/-- What an enqueue at queue `q` meets before it acts (R266 to R270): the tail's entry, the queue's copies, a free list, or a corrected
word of the open cell that it writes into. A cell then arrives under the queue's epoch (R277). -/
def Hw.meetTail (h : Hw) (d q : Nat) (u : Upset) : Hw :=
  match u with
  | .corrected w => match h.openTail d q with
    | some c => (h.memError d c.index w.val false false).journalErr d 0 c.index 0
    | none => h
  | .pointers => (h.journalErr d 1 q 2).resetQueue d q 0x11
  | .freeList b => h.rebuildBank d b.val
  | .linkParity t => h.linkParityAt d q t (h.cq d q).cells.getLast?
  | _ => h

/-- The word at which a bus that carries an arriving cell fails its parity (R246, R270). -/
def busWord (u : Upset) : Option Nat :=
  match u with
  | .uncorrectable w => some w.val
  | _ => none

/-- A cell is written to the tail of a queue, or is lost on the bus that carries it (R270): the cell allocated for it is retired. -/
def Hw.bring (h : Hw) (d q : Nat) (c : CCell) (u : Upset) : Hw :=
  match busWord u with
  | none => h.place d q c
  | some w =>
    match h.allocate d with
    | (some i, h) => h.loseCell d w { c with index := i }
    | (none, h) => h

/-- A word is written into the open tail cell, or is lost on its bus together with that cell (R270). -/
def Hw.bringWord (h : Hw) (d q : Nat) (c : CCell) (w : Word) (u : Upset) : Hw :=
  match busWord u with
  | none => h.fillTail d q c w
  | some n =>
    let y := h.cistern d
    if (h.heldTail d q).isSome then
      let h := h.setCistern d { y with wbuf := y.wbuf.filter fun x => !(x.queue == q && !x.cell.closed) }
      h.bring d q c (.uncorrectable (Fin.ofNat 8 n))
    else (h.setCq d q { h.cq d q with cells := (h.cq d q).cells.dropLast }).loseCell d n c

/-! ## Writers (R255, R262, R630) -/

/-- A window write of a cell or a word, which takes class 1 (R262, R630): false where it is discarded. -/
def Hw.windowCell (h : Hw) (d q : Nat) (o : Origin) (data : List Byte) (u : Upset) : Bool × Hw :=
  match (h.meetTail d q u).account d q none with
  | (none, h) => (false, h)
  | (some l, h) =>
    (true, h.bring d q ⟨blankCell 1 h.nodeId d q h.nodeId d data, 0, 11, some o, l, h.qrd d q Q.QSTAT_EPOCH, 16, 0, true⟩ u)

def Hw.windowWord (h : Hw) (d q : Nat) (w : Word) (u : Upset) : Bool × Hw :=
  let h := h.meetTail d q u
  match h.openTail d q with
  | some c => (true, h.bringWord d q c w u)
  | none =>
    match h.account d q none with
    | (none, h) => (false, h)
    | (some l, h) => (true, h.bring d q (h.openCell d q 1 w l) u)

/-- A local producer writes a word with its own credit (R255): false without credit. -/
def Hw.localWord (h : Hw) (d q : Nat) (w : Word) (u : Upset) : Bool × Hw :=
  let h := h.meetTail d q u
  match h.openTail d q with
  | some c => (true, h.bringWord d q c w u)
  | none =>
    if 1 ≤ h.freeCredit d q then (true, h.bring d q (h.openCell d q (h.qrd d q Q.QCFGA_CLASS) w none) u) else (false, h)

/-- A cell that a local producer writes. -/
def Hw.producedCell (h : Hw) (d q : Nat) (data : List Byte) : CCell :=
  ⟨blankCell (h.qrd d q Q.QCFGA_CLASS) 0 0 q h.nodeId d data, 0, 11, none, none, h.qrd d q Q.QSTAT_EPOCH, 16, 0, true⟩

/-- A local producer writes a cell with its own credit (R255): false without credit. -/
def Hw.localCell (h : Hw) (d q : Nat) (data : List Byte) : Bool × Hw :=
  if 1 ≤ h.freeCredit d q then (true, h.place d q (h.producedCell d q data)) else (false, h)

/-! ## Forwarding and returns (R257 to R260) -/

/-- The LP or MP input that a forwarding queue is presented to (R257). -/
def fwdInput (q : Nat) : Nat := if 832 ≤ q ∧ q ≤ 847 then 7 else 6

/-- May a switch input present a cell of class `c` (R222, R230)? -/
def Hw.mayPresent (h : Hw) (d i c : Nat) : Bool :=
  decide (((h.switch d).stages.get [] i).length < 8) && decide (h.rd d R.SWC_INRES_USE i c < h.rd d R.SWC_INRES_RES i c)

/-- Is a forwarding queue ready (R257)? -/
def Hw.fwdReady (h : Hw) (d q : Nat) : Bool :=
  h.qrd d q Q.QCFGA_FWD == 1 && decide (1 ≤ h.qrd d q Q.QCRED_ECRED) &&
  h.mayPresent d (fwdInput q) (h.qrd d q Q.QCFGA_CLASS) &&
  (match (h.cq d q).cells with
   | [] => false
   | c :: _ => !h.isWord d q || c.closed)

/-- The queues of a die that hold cells. -/
def Hw.filledQueues (h : Hw) (d : Nat) : List Nat :=
  h.queues.entries.filterMap fun (k, x) => if k / 8192 = d ∧ x.cells ≠ [] then some (k % 8192) else none

/-- The ready queue of an input that follows `last`, wrapping from Q8191 to Q0 (R257). -/
def Hw.nextForward (h : Hw) (d i last : Nat) : Option Nat :=
  let rs := (h.filledQueues d).filter fun q => fwdInput q == i && h.fwdReady d q
  match rs.find? fun q => decide (last < q) with
  | some q => some q
  | none => rs.head?

/-- CREDIT_RETURN_TIMER (R259): 1 ms after a link's last return the sink sends one. -/
def creditReturnTimer (d l : Nat) (h : Hw) : Hw := if h.on d R.CIS_LINKB_VALID l then h.sendReturn d l else h

def execCreditReturnTimer (die : Die) (link : Fin 512) (s : State) : Host.Outcome State Fault Refusal :=
  s.onDie die (creditReturnTimer die.val link.val)

/-- The forwarding queue that a return cell matches (R260). -/
def Hw.returnTarget (h : Hw) (d : Nat) (c : Cell) : Option Nat :=
  let q := bits (leAt c.data 2 2) 0 13
  if h.qrd d q Q.QCFGA_FWD = 1 ∧ (h.qrd d q Q.QCFGB_TGTNODE = c.snode ∨ (h.qrd d q Q.QCFGB_TGTNODE = 0 ∧ c.snode = h.nodeId)) ∧
      h.qrd d q Q.QCFGB_TGTDIE = c.sdie ∧ h.qrd d q Q.QCFGB_TGTQ = bits (leAt c.data 4 2) 0 13 then some q else none

/-- A return of a new session sets ECRED to LCRED − HELD; another adds what has been freed since the last (R260). -/
def Hw.applyReturn (h : Hw) (d q : Nat) (c : Cell) : Hw :=
  let x := h.cq d q
  let freed := leAt c.data 6 2
  let session := leAt c.data 10 2
  let h :=
    if x.session = some session then
      h.qwr d q Q.QCRED_ECRED (satAdd 12 (h.qrd d q Q.QCRED_ECRED) ((freed + 65536 - x.lastFreed) % 65536))
    else h.qwr d q Q.QCRED_ECRED (x.lcred - bits (leAt c.data 8 2) 0 12)
  (h.setCq d q { h.cq d q with session := some session, lastFreed := freed }).qwr d q Q.QCRED_SESSOK 1

/-- CREDIT_RETURN_CELL (R260): the credit agent takes the head of Q554, after what its memories answer. -/
def creditReturnCell (d : Nat) (u : Upset) (h : Hw) : Hw :=
  let h := (h.meet d 554 u).2
  match (h.cq d 554).cells with
  | [] => h
  | c :: _ =>
    let h := h.dropHead d 554
    if leAt c.cell.data 0 2 = 0x0120 then
      match h.returnTarget d c.cell with
      | some q => h.applyReturn d q c.cell
      | none => h.bump d R.CIS_MARGIN_NORET
    else h

def execCreditReturnCell (die : Die) (upset : Upset) (s : State) : Host.Outcome State Fault Refusal :=
  s.onDie die (creditReturnCell die.val upset)

/-- WORD_CELL_CLOSE (R258): PACKTO after a word cell's first word the open cell closes. Where a word is written in the
same cycle it joins the cell, the close follows in the next cycle, and MARGIN counts (R277). -/
def wordCellClose (d q : Nat) (joined : Option Word) (h : Hw) : Hw :=
  match h.openTail d q with
  | none => h
  | some c =>
    match joined with
    | none => h.closeTail d q
    | some w =>
      let h := (h.fillTail d q c w).bump d R.CIS_MARGIN_MARGIN
      if (h.openTail d q).isSome then h.closeTail d q else h

def execWordCellClose (die : Die) (queue : Fin 8192) (joined : Option Word) (s : State) : Host.Outcome State Fault Refusal :=
  s.onDie die (wordCellClose die.val queue.val joined)

/-- What QGRANT reads: min(FREE, GRANTMAX); 0 when WINW = 0, and from a read until cells are next freed (R261). -/
def Hw.grantValue (h : Hw) (d q : Nat) : Nat :=
  if h.qrd d q Q.QCFGA_WINW = 1 ∧ (h.cq d q).given = false then min (h.freeCredit d q) (h.cq d q).grantMax else 0

/-- QGRANT_READ (R261): the read grants what it returns. -/
def qgrantRead (d q : Nat) (h : Hw) : Nat × Hw :=
  let g := h.grantValue d q
  (g, (h.qwr d q Q.QCRED_GRANTED (h.qrd d q Q.QCRED_GRANTED + g)).setCq d q { h.cq d q with given := true })

/-! ## The link RAM (R246) -/

/-- The link RAM entry of a cell: NEXT in its list, the queue that holds it, its epoch there, FREE, FILL, the credit link of its arrival
(LINK, LINKV) and RET. -/
structure LinkEntry where
  next : Option Nat
  owner : Option Nat
  epoch : Nat
  free : Bool
  fill : Nat
  link : Option Nat
  ret : Bool
deriving DecidableEq, Repr

/-- The element after the first one that satisfies `p`. -/
def nextAfter (p : Nat → Bool) : List Nat → Option Nat
  | a :: b :: rest => if p a then some b else nextAfter p (b :: rest)
  | _ => none

/-- The link RAM entry of cell `i` (R246): in a queue or in the sweep of one (R267), on a free list, or retired (R271). -/
def Hw.linkEntry (h : Hw) (d i : Nat) : LinkEntry :=
  let ret := (h.cistern d).retired.contains i
  let lists := h.queues.entries.filterMap fun (k, x) => if k / 8192 = d then some (k % 8192, x.cells ++ x.old) else none
  match lists.find? fun l => l.2.any (·.index == i) with
  | some (q, cs) =>
    match cs.find? (·.index == i) with
    | some c => ⟨nextAfter (· == i) (cs.map (·.index)), some q, c.epoch, false, c.words % 16, c.link, ret⟩
    | none => ⟨none, none, 0, false, 0, none, ret⟩
  | none =>
    let rows := (h.bank d (i % 16)).rows
    ⟨(nextAfter (· == i / 16) rows).map fun r => r * 16 + i % 16, none, 0, rows.contains (i / 16), 0, none, ret⟩

/-- Bits [47:0] of an entry; NEXT and OWNER are 0 where there is none. -/
def LinkEntry.word (e : LinkEntry) : Nat :=
  e.next.getD 0 + 2 ^ 18 * e.owner.getD 0 + 2 ^ 31 * e.epoch + 2 ^ 32 * b2n e.free + 2 ^ 33 * e.fill + 2 ^ 37 * e.link.getD 0 +
    2 ^ 46 * b2n e.link.isSome + 2 ^ 47 * b2n e.ret

/-- PAR of an entry: bit `k` covers bits [8k + 7 : 8k] of its word (R246), as even parity (LOG 35). -/
def LinkEntry.parity (e : LinkEntry) : Nat :=
  (List.range 6).foldl (fun a k => a + 2 ^ k * ((List.range 8).foldl (fun n j => n + b2n (bit e.word (8 * k + j))) 0 % 2)) 0

/-! ## Scrub (R272 to R274) -/

def Hw.setScrub (h : Hw) (d : Nat) (x : Scrub) : Hw := h.setCistern d { h.cistern d with scrub := x }

/-- Where a cell index lies: in a queue of the die. -/
def Hw.holder (h : Hw) (d i : Nat) : Option Nat :=
  (h.filledQueues d).find? fun q => (h.cq d q).cells.any (·.index == i)

/-- Take the cell of an index out of its queue: its charge and its link tag end. -/
def Hw.unlink (h : Hw) (d q i : Nat) : Hw :=
  let x := h.cq d q
  match x.cells.find? (·.index == i) with
  | none => h
  | some c =>
    let h := h.setCq d q { x with cells := x.cells.filter (·.index != i), given := false }
    (h.releaseCharge d c.src c.cell.klass).releaseLink d c.link

/-- The input stage at which a cell that keeps its place in the Cistern waits (R257). -/
def Hw.stageOf (h : Hw) (d i : Nat) : Option Nat :=
  (List.range 10).find? fun k => ((h.switch d).stages.get [] k).any (·.place == some i)

/-- Take the cell of an index out of an input stage: its charge ends. -/
def Hw.unstage (h : Hw) (d k i : Nat) : Hw :=
  let s := h.switch d
  match (s.stages.get [] k).find? (·.place == some i) with
  | none => h
  | some x =>
    (h.setSwitch d { s with stages := s.stages.upd [] k fun l => l.filter (·.place != some i) }).releaseCharge d k x.cell.klass

/-- Does a cell index belong to the old epoch of a queue whose sweep runs (R267)? -/
def Hw.inSweep (h : Hw) (d i : Nat) : Bool := h.queues.entries.any fun (k, x) => k / 8192 == d && x.old.any (·.index == i)

/-- The contents that stand in a cell: of a queue, of an input stage, or none that will be delivered. -/
def Hw.contents (h : Hw) (d i : Nat) : Option Cell :=
  match h.holder d i with
  | some q => ((h.cq d q).cells.find? (·.index == i)).map (·.cell)
  | none => (h.stageOf d i).bind fun k => (((h.switch d).stages.get [] k).find? (·.place == some i)).map (·.cell)

/-- Take the cell of an index off its free list. -/
def Hw.offFree (h : Hw) (d i : Nat) : Hw :=
  let k := h.bank d (i % 16)
  let r := i / 16
  if k.fresh ≤ r then
    h.setBank d (i % 16) { k with pre := k.pre ++ (List.range (r - k.fresh)).map (k.fresh + ·), fresh := r + 1 }
  else h.setBank d (i % 16) { k with pre := k.pre.filter (· != r), post := k.post.filter (· != r), late := k.late.filter (· != r) }

/-- Cell `i` leaves the queue, the input stage or the free list that it stands in; a cell that a sweep has still to free stays with it. -/
def Hw.takeOut (h : Hw) (d i : Nat) : Hw :=
  match h.holder d i, h.stageOf d i with
  | some q, _ => h.unlink d q i
  | none, some k => h.unstage d k i
  | none, none => if h.inSweep d i then h else h.offFree d i

/-- Scrub finds a cell uncorrectable (R270, R271). -/
def Hw.scrubUe (h : Hw) (d i word : Nat) : Hw :=
  let h := ((h.memError d i word true true).raiseFault d 0x10 i).journalErr d 0 i 1
  let h := match h.contents d i with
    | some c => h.errorTo d c 0x24
    | none => h
  (h.takeOut d i).retireOut d i

/-- The contents of cell `i` move to cell `j`. -/
def Hw.moveCell (h : Hw) (d i j : Nat) : Hw :=
  match h.holder d i, h.stageOf d i with
  | some q, _ =>
    let x := h.cq d q
    h.setCq d q { x with cells := x.cells.map fun e => if e.index = i then { e with index := j } else e }
  | none, some k =>
    let s := h.switch d
    h.setSwitch d { s with stages := s.stages.upd [] k fun l => l.map fun e => if e.place = some i then { e with place := some j } else e }
  | none, none => h

/-- Cell `i` is retired (R271): contents that stand in it move to a free cell first. -/
def Hw.remap (h : Hw) (d i : Nat) : Hw :=
  if (h.contents d i).isNone then (h.takeOut d i).retireOut d i
  else
    match h.allocate d with
    | (none, h) => h
    | (some j, h) => (h.moveCell d i j).retireOut d i

/-- Scrub corrects a word; a word corrected on two consecutive passes retires its cell unless no spare is left. A cell
that stands in a queue leaves it for a free one with its contents. -/
def Hw.scrubCe (h : Hw) (d i word : Nat) : Hw :=
  let h := (h.memError d i word false true).journalErr d 0 i 0
  let x := (h.cistern d).scrub
  if x.corrected.contains (i, word) ∧ h.spareCells d ≠ 0 then
    (h.setScrub d { x with corrected := x.corrected.filter (·.1 != i) }).remap d i
  else h.setScrub d { x with corrected := (i, word) :: x.corrected }

/-- The cell index of a finding on a word line of a bank. -/
def lineCell (b line : Nat) (f : Fin 4 × Fin 8 × Bool) : Nat := (line * 4 + f.1.val) * 16 + b

/-- One finding of the cell scrubber. -/
def Hw.scrubFind (h : Hw) (d b line : Nat) (f : Fin 4 × Fin 8 × Bool) : Hw :=
  if f.2.2 then h.scrubUe d (lineCell b line f) f.2.1.val else h.scrubCe d (lineCell b line f) f.2.1.val

/-- Corrected words of a line that stay marked: those found again. -/
def keepMarks (x : Scrub) (b line : Nat) (finds : List (Fin 4 × Fin 8 × Bool)) : List (Nat × Nat) :=
  x.corrected.filter fun e =>
    !(e.1 % 16 == b && e.1 / 64 == line) || finds.any fun f => e == (lineCell b line f, f.2.1.val)

/-- Passes that every bank has completed. -/
def Scrub.allPasses (x : Scrub) : Nat :=
  (List.range 16).foldl (fun a k => min a (x.cellPasses.get 0 k)) (x.cellPasses.get 0 0)

/-- The scrubber moves to the next word line of a bank; a pass ends when the last bank wraps. -/
def Hw.nextLine (h : Hw) (d b line : Nat) : Hw :=
  let x := (h.cistern d).scrub
  let x1 := { x with cellLine := x.cellLine.put 0 b ((line + 1) % 3072) }
  if line = 3071 then
    let x2 := { x1 with cellPasses := x1.cellPasses.upd 0 b (· + 1) }
    let h := h.setScrub d x2
    if x1.allPasses < x2.allPasses then h.bump d R.CIS_SCRUB_CELLPASS else h
  else h.setScrub d x1

/-- CELL_SCRUB (R272): one word line of a bank: four cells are read, corrected and written back. Each finding names the
cell of the line, the word, and whether it is a double-bit error. -/
def cellScrub (d b : Nat) (finds : List (Fin 4 × Fin 8 × Bool)) (h : Hw) : Hw :=
  if h.on d R.CIS_CFG_SCRUBEN then
    let x := (h.cistern d).scrub
    let line := x.cellLine.get 0 b
    let h := (h.noteBank d b).setScrub d { x with corrected := keepMarks x b line finds }
    (each finds (fun f h => h.scrubFind d b line f) h).nextLine d b line
  else h

def execCellScrub (die : Die) (bank : Fin 16) (finds : List (Fin 4 × Fin 8 × Bool)) (s : State) : Host.Outcome State Fault Refusal :=
  s.onDie die (cellScrub die.val bank.val finds)

/-- LINK_RAM_SCRUB (R269, R272): the parity of one entry of a link bank; a failing entry resets the queue that owns the
cell, or retires the cell where it lies on no queue or its owner field cannot be trusted. -/
def linkRamScrub (d b : Nat) (bad trusted : Bool) (h : Hw) : Hw :=
  if h.on d R.CIS_CFG_SCRUBEN then
    let x := (h.cistern d).scrub
    let row := x.linkRow.get 0 b
    let i := row * 16 + b
    let h := h.setScrub d { x with linkRow := x.linkRow.put 0 b ((row + 1) % 12288) }
    if bad then
      let q := h.holder d i
      let h := ((h.bump d R.CIS_FLIST_LPARERR).raiseFault d 0x13 (q.getD 0)).journalErr d 0 i 2
      match q with
      | none => (h.takeOut d i).retireOut d i
      | some q =>
        if trusted then h.resetQueue d q 0x11
        else ((h.takeOut d i).retireOut d i).resetQueue d q 0x11
    else h
  else h

def execLinkRamScrub (die : Die) (bank : Fin 16) (bad trusted : Bool) (s : State) : Host.Outcome State Fault Refusal :=
  s.onDie die (linkRamScrub die.val bank.val bad trusted)

/-- DESCRIPTOR_SCRUB (R272): copies A and B of one queue are compared; a difference resets the queue. -/
def descriptorScrub (d : Nat) (differ : Bool) (h : Hw) : Hw :=
  if h.on d R.CIS_CFG_SCRUBEN then
    let x := (h.cistern d).scrub
    let q := x.descQueue
    let h := h.setScrub d { x with descQueue := (q + 1) % 8192 }
    let h := if differ then (h.journalErr d 1 q 2).resetQueue d q 0x11 else h
    if q + 1 = 8192 then h.bump d R.CIS_SCRUB_DESCPASS else h
  else h

def execDescriptorScrub (die : Die) (differ : Bool) (s : State) : Host.Outcome State Fault Refusal :=
  s.onDie die (descriptorScrub die.val differ)

end Sys2Proof.Machine
end

