-- ==== Sys2Proof/Machine/Switch.lean ====
section
/-!
DEFINITION. The switch core (chapter "Switch core and traffic classes", R220 to R244) and the routes of R21, R22, R196 and
R215: routing, matching, push-out, replication, relinking and flushing.
-/

namespace Sys2Proof.Machine

/-! ## Ports and die links -/

/-- Is the link of port `o` up (R220, R241)? -/
def Hw.portLive (h : Hw) (d o : Nat) : Bool :=
  if o < 4 then h.portUp d o
  else if o = 4 then decide (d < 2) && h.on d R.BRG_HSTAT_LINKUP
  else if o = 5 then decide (d < 2) && h.on d R.BRG_BCFG_ENABLED && !h.sysRst.get false d
  else if o < 8 then true
  else h.dieLinkUp d (o - 8)

/-! ## Routes -/

def Hw.ring (h : Hw) (d : Nat) : Rng := h.rings.get .init d

def Hw.setRing (h : Hw) (d : Nat) (r : Rng) : Hw := { h with rings := h.rings.put .init d r }

/-- The lowest position of a node in a die's ring map (R186). -/
def Hw.posOf (h : Hw) (d node : Nat) : Option Nat := firstIdx (fun e => e.node == node) (h.ring d).map

/-- Is every link of a path not marked lost: `k` links from a position, eastward? -/
def clearEast (m : List MapEntry) (a k : Nat) : Bool :=
  (List.range k).all fun i =>
    match m[(a + i) % max 1 m.length]? with
    | some e => !(e.aLost && e.bLost)
    | none => true

/-- The port of a direction and cable that R196 takes: the other cable where the chosen port is Passive and the other
Active, or where the chosen port is lost. -/
def Hw.cablePort (h : Hw) (d dnode : Nat) (east : Bool) : Nat :=
  let a := if east then 0 else 1
  let b := if east then 2 else 3
  let (p, o) := if dnode % 2 = 0 then (a, b) else (b, a)
  if (h.rd d R.RNG_PSTAT_STATE p = 3 ∧ h.rd d R.RNG_PSTAT_STATE o = 2) ∨ (!h.portUp d p ∧ h.portUp d o) then o else p

/-- The ring route towards a node (R196) for a cell with this DNODE, whose low bit picks the cable. A node that the map does not hold
is sought eastward. -/
def Hw.ringRoute (h : Hw) (d towards dnode : Nat) : Nat :=
  let m := (h.ring d).map
  let n := m.length
  match h.posOf d h.nodeId, h.posOf d towards with
  | some a, some b =>
    let e := (b + n - a) % n
    let w := n - e
    let eOk := clearEast m a e
    let wOk := clearEast m b w
    let east := if eOk then (!wOk || decide (e ≤ w)) else if wOk then false else decide (e ≤ w)
    h.cablePort d dnode east
  | _, _ => h.cablePort d dnode true

/-- The lowest valid route entry that covers a node (R215). -/
def Hw.routeEntry (h : Hw) (d node : Nat) : Option Nat :=
  (h.regs.entries.filterMap fun (k, _) =>
    let off := k % 0x200000
    if k / 0x200000 = d ∧ 0x10800 ≤ off ∧ off < 0x10A00 ∧ off % 8 = 4 then some ((off - 0x10804) / 8) else none).find? fun e =>
      h.on d R.RNG_ROUTEB_VALID e && decide (h.rd d R.RNG_ROUTEA_NODELO e ≤ node) && decide (node ≤ h.rd d R.RNG_ROUTEA_NODEHI e)

/-- The port that consumes a queue of this die (R221, R251): MP for Q552 to Q576, LP for the others. -/
def consumerPort (q : Nat) : Nat := if 552 ≤ q ∧ q ≤ 576 then 7 else 6

/-- The die link by which another die of the package is nearest, up or down. -/
def Hw.dieExit (h : Hw) (d e : Nat) : Nat :=
  let n := h.dies
  if 2 < n ∧ (e + n - d) % n ≤ n - (e + n - d) % n then 9 else 8

/-- The output port of a cell (R215, R221); none where there is no route. An access request that names a die not present is taken here,
where the access engine turns it away (R29). -/
def Hw.route (h : Hw) (d : Nat) (c : Cell) : Option Nat :=
  if c.dnode = 0 ∨ c.dnode = h.nodeId then
    if c.ddie = d ∨ (h.dies ≤ c.ddie ∧ c.dq = 576) then some (consumerPort c.dq) else h.towardsDie d c.ddie
  else if (h.posOf d c.dnode).isSome then some (h.ringRoute d c.dnode c.dnode)
  else
    match h.routeEntry d c.dnode with
    | none => none
    | some e =>
      let die := h.rd d R.RNG_ROUTEB_DIE e
      if die ≠ d then h.towardsDie d die
      else
        let via := h.rd d R.RNG_ROUTEB_VIA e
        some (h.ringRoute d (if via = 0 then c.dnode else via) c.dnode)

/-- Does a cell without a route lack only a die link that is up (R215, R242)? A cell that no route entry covers has no route at all. -/
def Hw.cutOff (h : Hw) (d : Nat) (c : Cell) : Option Nat :=
  if c.dnode = 0 ∨ c.dnode = h.nodeId then some (h.dieExit d c.ddie)
  else (h.routeEntry d c.dnode).map fun e => h.dieExit d (h.rd d R.RNG_ROUTEB_DIE e)

/-! ## Output queues -/

/-- The output queue of port `o` and class `c` (R221). -/
def outQueue (o c : Nat) : Nat := 512 + 4 * o + c

/-- Cells that an output holds over its four queues (R233). -/
def Hw.outputCells (h : Hw) (d o : Nat) : Nat :=
  ((List.range 4).map fun c => (h.cq d (outQueue o c)).cells.length).sum

/-- A cell that is flushed or cannot be sent (R235, R241, R242). -/
def Hw.flushed (h : Hw) (d o : Nat) (c : Cell) : Hw := (h.errorTo d c 0x22).bump d R.SWC_OCNTB_FLUSHED 1 o

/-- Evict the head of an output queue (R233, R235). -/
def Hw.evict (h : Hw) (d o c : Nat) : Hw :=
  match (h.cq d (outQueue o c)).cells with
  | [] => h
  | x :: _ => ((h.freeHead d (outQueue o c)).errorTo d x.cell 0x21).bump d R.SWC_OCNTB_EVICTED 1 o

/-- The class that gives way to an arrival of class `c` at output `o` (R233, R234). -/
def Hw.victim (h : Hw) (d o c : Nat) : Option Nat :=
  [3, 2, 1].find? fun k =>
    decide (c < k) && bit (h.rd d R.SWC_CFG_EVICT) (k - 1) && !(h.cq d (outQueue o k)).cells.isEmpty

/-- An output reads its head of class `c` in this core cycle. -/
def Hw.noteRead (h : Hw) (d o c : Nat) : Hw :=
  let s := h.switch d
  h.setSwitch d { s with lastRead := s.lastRead.put none o (some (h.now, c)) }

/-- Is an evictable head being read at output `o` in this core cycle, which an arrival of class `c` still finds there (R244)? -/
def Hw.readingHead (h : Hw) (d o c : Nat) : Bool :=
  match (h.switch d).lastRead.get none o with
  | some (t, k) => t == h.now && decide (c < k) && bit (h.rd d R.SWC_CFG_EVICT) (k - 1)
  | none => false

/-- Push-out before a cell of class `c` is linked to output `o` (R233). A head that is being read in the same core cycle counts in the
share and is sent (R244). -/
def Hw.pushOut (h : Hw) (d o c : Nat) : Hw :=
  if h.rd d R.SWC_SHARE_SHARE o ≤ h.outputCells d o + b2n (h.readingHead d o c) then
    match h.victim d o c with
    | some k => h.evict d o k
    | none => h.bump d R.SWC_OCNTC_OVERSHARE 1 o
  else h

/-- The charge on a switch input, or on MCRES for a copy (R229, R238). -/
def Hw.charge (h : Hw) (d src c : Nat) : Hw :=
  if src < 10 then h.wr d R.SWC_INRES_USE (satAdd 16 (h.rd d R.SWC_INRES_USE src c) 1) src c
  else h.bump d R.SWC_MCUSE_MCUSE

/-- The charge of a cell as its input moves it: one relinked from a forwarding queue was charged as it was presented
(R229, R257). -/
def Hw.chargeMoved (h : Hw) (d src : Nat) (s : Staged) : Hw := if s.place.isSome then h else h.charge d src s.cell.klass

/-- A cell that its input gives up leaves the Cistern at once: its charge ends, so its credit returns (R229, R230). -/
def Hw.giveBack (h : Hw) (d src : Nat) (s : Staged) : Hw :=
  let h := (h.chargeMoved d src s).releaseCharge d src s.cell.klass
  match s.place with
  | some i => h.freeIndex d i
  | none => h

/-- A moved cell is written to the Cistern and linked to its output queue (R223, R233, R242). -/
def Hw.linkOut (h : Hw) (d o src : Nat) (s : Staged) : Hw :=
  let c := s.cell
  if h.portLive d o then
    let h := (h.pushOut d o c.klass).chargeMoved d src s
    let q := outQueue o c.klass
    let x : CCell := ⟨c, s.place.getD 0, src, none, none, h.qrd d q Q.QSTAT_EPOCH, 16, 0, true⟩
    match s.place with
    | some _ => h.relink d q x
    | none => h.place d q x
  else (h.flushed d o c).giveBack d src s

/-! ## Multicast (R237 to R240) -/

/-- The node through which a multicast cell entered this ring (R240). -/
def Hw.entryNode (h : Hw) (d snode : Nat) : Nat :=
  if (h.posOf d snode).isSome then snode
  else match h.routeEntry d snode with
    | some e => h.rd d R.RNG_ROUTEB_VIA e
    | none => snode

/-- The neighbour beyond a ring port: position + 1 to the east, − 1 to the west. -/
def Hw.neighbour (h : Hw) (d p : Nat) : Option Nat :=
  let m := (h.ring d).map
  match h.posOf d h.nodeId with
  | none => none
  | some a => (m[(if p % 2 = 0 then a + 1 else a + m.length - 1) % max 1 m.length]?).map (·.node)

/-- The onward port of the same cable: A-West and A-East, B-West and B-East (R240). -/
def onwardPort (p : Nat) : Nat := if p % 2 = 0 then p + 1 else p - 1

/-- Destinations on the ring of a multicast cell received on ring port `i` (R240). -/
def Hw.ringForward (h : Hw) (d i snode : Nat) : List Nat :=
  if h.neighbour d (onwardPort i) = some (h.entryNode d snode) then [] else [onwardPort i]

/-- The die by whose ring this node takes the broadcast writes of a node: the first whose ring map holds it, else the first with a route
entry that leads to it on its own ring (R32, LOG 63). -/
def Hw.broadcastDie (h : Hw) (snode : Nat) : Option Nat :=
  let ds := List.range h.dies
  (ds.find? fun e => (h.posOf e snode).isSome).or (ds.find? fun e => (h.routeEntry e snode).any fun x => h.rd e R.RNG_ROUTEB_DIE x == e)

/-- The ring ports by which a broadcast write starts round a ring so that every node meets it once: one cable eastward while no link of it
is lost, else both directions of A (R32, LOG 63). -/
def Hw.broadcastPorts (h : Hw) (d : Nat) : List Nat :=
  let m := (h.ring d).map
  if m.all fun e => !e.aLost then [0] else if m.all fun e => !e.bLost then [2] else [0, 1]

/-- The destinations owed to a multicast cell from input `i`; none where it names no group in use (R237, R240). The ring-local group
carries presence cells and, of class 1, broadcast writes (R32). -/
def Hw.owedTo (h : Hw) (d i : Nat) (c : Cell) : Option (List Nat) :=
  if c.dq = 0x1FFF then
    some (if i < 4 then (if c.klass ≠ 1 ∨ h.broadcastDie c.snode = some d then [7] else []) ++ h.ringForward d i c.snode
      else if c.klass = 1 then (h.broadcastPorts d).filter (h.portUp d)
      else [0, 1, 2, 3].filter (h.portUp d))
  else if c.dq < 0x400 ∧ h.on d R.SWC_MCGRP_VALID c.dq then
    let m := h.rd d R.SWC_MCGRP_OUTMASK c.dq
    let ports := fun (l : List Nat) => l.filter fun p => bit m p
    some (if i < 4 then h.ringForward d i c.snode ++ ports [4, 5, 6, 7, 8, 9]
      else if i < 8 then ports (List.range 10) else ports [0, 1, 2, 3, 4, 5, 6, 7])
  else none

/-- The copy of a multicast cell for one destination: a copy to LP or MP names its queue; the ring-local group's goes to the
presence queue, or to the access inbox where it carries a broadcast write (R32, LOG 63). -/
def Hw.copyFor (h : Hw) (d o : Nat) (c : Cell) : Cell :=
  if o = 6 ∨ o = 7 then
    { c with mcast := false, dnode := h.nodeId, ddie := d, 
             dq := if c.dq = 0x1FFF then (if c.klass = 1 then 576 else 552) else h.rd d R.SWC_MCGRP_LQ c.dq }
  else c

/-- The Multicast Residue record of a finished cell (R239): the record, MRCNT, MSI-X source 54 and an event for the first
residue in each 1 ms. -/
def Hw.residue (h : Hw) (d : Nat) (m : McCell) : Hw :=
  let bm := m.gaveUp.foldl (fun a p => a ||| 2 ^ p) 0
  let h := ((h.wr d R.SWC_MRA_BITMAP bm).wr d R.SWC_MRA_CLASS m.cell.klass).wr d R.SWC_MRA_GROUP m.cell.dq
  let h := ((h.wr d R.SWC_MRB_SNODE m.cell.snode).wr d R.SWC_MRB_SDIE m.cell.sdie).bump d R.SWC_MRCNT_MRCNT
  let h := h.raiseMsixNode 54
  let first := match (h.switch d).residueAt with
    | none => true
    | some t => decide (1250000 ≤ h.now - t)
  if first then (h.setSwitch d { h.switch d with residueAt := some h.now }).report d 0x10 .multicastResidue bm else h

/-- Destinations of a pending cell are given up: at once its Multicast Residue record is written (R239). -/
def Hw.giveUp (h : Hw) (d : Nat) (m : McCell) (ports : List Nat) : McCell × Hw :=
  if ports.isEmpty then (m, h)
  else
    let m := { m with owed := m.owed.filter fun o => !ports.contains o, gaveUp := m.gaveUp ++ ports }
    (m, h.residue d m)

/-- Every pending cell to which nothing more is owed is freed, and its input's charge ends (R229, R238). -/
def Hw.finishMulticast (h : Hw) (d : Nat) : Hw :=
  let s := h.switch d
  each (s.mcs.filter (·.owed.isEmpty)) (fun m h => h.releaseCharge d m.input m.cell.klass)
    (h.setSwitch d { s with mcs := s.mcs.filter fun m => !m.owed.isEmpty })

/-- Give up a destination of every pending cell that it is owed to (R239). -/
def Hw.giveUpPort (h : Hw) (d o : Nat) : Hw :=
  let s := h.switch d
  let y := s.mcs.foldl (fun (x : List McCell × Hw) m =>
    let z := x.2.giveUp d m (m.owed.filter (· == o))
    (x.1 ++ [z.1], z.2)) ([], h)
  (y.2.setSwitch d { y.2.switch d with mcs := y.1 }).finishMulticast d

/-- A multicast cell at the head of input `i` moves to the pending list (R224); a destination whose port is lost is given
up at once (R239). -/
def Hw.pendMulticast (h : Hw) (d i : Nat) (c : Cell) : Hw :=
  match h.owedTo d i c with
  | none => (h.bump d R.SWC_MRCNT_NOGROUP).giveBack d i ⟨c, none⟩
  | some ports =>
    let y := (h.charge d i c.klass).giveUp d ⟨c, i, ports, [], h.now⟩ (ports.filter fun p => !h.portLive d p)
    let s := y.2.switch d
    (y.2.setSwitch d { s with mcs := s.mcs ++ [y.1] }).finishMulticast d

/-! ## Request, grant, accept (R223) -/

/-- Drop the head of an input stage. -/
def Hw.popStage (h : Hw) (d i : Nat) : Hw :=
  let s := h.switch d
  h.setSwitch d { s with stages := s.stages.upd [] i List.tail }

/-- Before the requests: a head without a route is discarded, with NOROUTE where no entry covers it (R215), and as if flushed where no
die link towards its die is up (R242). -/
def clearHead (d i : Nat) (h : Hw) : Hw :=
  match (h.switch d).stages.get [] i with
  | [] => h
  | x :: _ =>
    if x.cell.mcast ∨ (h.route d x.cell).isSome then h
    else
      match h.cutOff d x.cell with
      | some o => ((h.popStage d i).flushed d o x.cell).giveBack d i x
      | none => ((h.popStage d i).bump d R.RNG_RINGINFO_NOROUTE).giveBack d i x

/-- A multicast cell that has reached the head of an input stage goes to the replicator's list without a matching (R224). -/
def listHead (d i : Nat) (h : Hw) : Hw :=
  match (h.switch d).stages.get [] i with
  | [] => h
  | x :: _ => if x.cell.mcast then (h.popStage d i).pendMulticast d i x.cell else h

/-- The output that input `i` wants; a multicast cell at its head wants none. -/
def Hw.want (h : Hw) (d i : Nat) : Option Nat :=
  match (h.switch d).stages.get [] i with
  | [] => none
  | x :: _ => if x.cell.mcast then none else h.route d x.cell

/-- The outputs that the replicator wants: those still owed, as far as MCRES reaches (R238). -/
def Hw.wantCopies (h : Hw) (d : Nat) : List Nat :=
  match (h.switch d).mcs with
  | [] => []
  | m :: _ => m.owed.take (h.rd d R.SWC_MCRES_MCRES - h.rd d R.SWC_MCUSE_MCUSE)

/-- The second tier of requesters, in order: HP, BP, LP, MP, DP0, DP1, the replicator. -/
def secondTier : List Nat := [4, 5, 6, 7, 8, 9, 10]

/-- Does requester `r` want output `o`? A ring port that owes its peer a presence cell takes no other cell before that one has left
(R197). -/
def Hw.wants (h : Hw) (d r o : Nat) : Bool :=
  if r = 10 then (h.wantCopies d).contains o else h.want d r == some o && !(decide (o < 4) && (h.port d o).presenceFirst)

/-- The requester that output `o` grants. -/
def Hw.grant (h : Hw) (d o : Nat) : Option Nat :=
  let s := h.switch d
  match (List.range 4).map (fun k => (s.gptr1.get 0 o + k) % 4) |>.find? fun r => h.wants d r o with
  | some r => some r
  | none => (List.range 7).map (fun k => secondTier.getD ((s.gptr2.get 0 o + k) % 7) 4) |>.find? fun r => h.wants d r o

/-- Pointers move on an accepted grant. -/
def movePointers (r o : Nat) (s : Swc) : Swc :=
  let s := { s with aptr := s.aptr.put 0 r ((o + 1) % 10) }
  if r < 4 then { s with gptr1 := s.gptr1.put 0 o ((r + 1) % 4) } else { s with gptr2 := s.gptr2.put 0 o ((r - 4 + 1) % 7) }

/-- An accepted pair: the cell moves to its output queue. An input wants one output, so it accepts any grant. With the write buffer full
the write is not taken, and its cell stays where it is (R247, R248). -/
def acceptPair (d : Nat) (p : Nat × Nat) (h : Hw) : Hw :=
  let (r, o) := p
  if 16 ≤ (h.cistern d).wbuf.length then h
  else
  let h := h.setSwitch d (movePointers r o (h.switch d))
  if r = 10 then
    match (h.switch d).mcs with
    | [] => h
    | m :: rest =>
      let h := h.setSwitch d { h.switch d with mcs := { m with owed := m.owed.filter (· != o) } :: rest }
      h.linkOut d o 10 ⟨h.copyFor d o m.cell, none⟩
  else
    match (h.switch d).stages.get [] r with
    | [] => h
    | x :: _ => (h.popStage d r).linkOut d o r x

/-- The request-grant-accept matching of a die (R223), of which a core cycle has one, once the writes held from before are placed (R247).
Multicast cells then at the head of a stage are listed for the next cycle (R224). -/
def matchCycle (d : Nat) (h : Hw) : Hw :=
  if (h.switch d).matchedAt = some h.now then h
  else
    let h := h.setSwitch d { h.switch d with matchedAt := some h.now }
    let h := iter 10 (clearHead d) (releaseHeld d h)
    let pairs := (List.range 10).filterMap fun o => (h.grant d o).map fun r => (r, o)
    iter 10 (listHead d) ((each pairs (acceptPair d) h).finishMulticast d)

/-- A cell enters an input stage, to take part in the matching of the core cycle (R222, R223). -/
def Hw.present (h : Hw) (d i : Nat) (x : Staged) : Hw :=
  let s := h.switch d
  let l := s.stages.get [] i ++ [x]
  let h := h.setSwitch d { s with stages := s.stages.put [] i l }
  if h.rd d R.SWC_OCNTC_STAGEHW i < l.length then h.wr d R.SWC_OCNTC_STAGEHW l.length i else h

/-- The first cell waiting at an input is presented where the stage and its reservation allow (R222, R230). -/
def presentWaiting (d i : Nat) (h : Hw) : Hw :=
  match (h.switch d).outbox.get [] i with
  | [] => h
  | c :: rest =>
    if h.mayPresent d i c.klass then
      (h.setSwitch d { h.switch d with outbox := (h.switch d).outbox.put [] i rest }).present d i ⟨c, none⟩
    else h

/-- The switch of every die in one core cycle: waiting cells are presented, then a matching is made. -/
def switchCycle (h : Hw) : Hw :=
  h.eachDie fun d h => matchCycle d (each [4, 5, 6, 7] (presentWaiting d) h)

/-- MULTICAST_COPY (R238): the replicator requests and copies what MCRES and the matching of this core cycle allow. -/
def execMulticastCopy (die : Die) (s : State) : Host.Outcome State Fault Refusal := s.onDie die (matchCycle die.val)

/-- MULTICAST_GIVE_UP (R239): 10 µs after the oldest pending cell reached its input stage its destinations not yet
copied are given up. A grant accepted for a destination in that cycle still makes its copy, and MARGIN counts (R244). -/
def multicastGiveUp (d : Nat) (granted : Option (Fin 10)) (h : Hw) : Hw :=
  let h := match granted with
    | some o =>
      match (h.switch d).mcs with
      | m :: _ => if m.owed.contains o.val then (acceptPair d (10, o.val) h).bump d R.SWC_MARGIN_MARGIN else h
      | [] => h
    | none => h
  match (h.switch d).mcs with
  | [] => h
  | m :: rest =>
    let y := h.giveUp d m m.owed
    (y.2.setSwitch d { y.2.switch d with mcs := y.1 :: rest }).finishMulticast d

def execMulticastGiveUp (die : Die) (granted : Option (Fin 10)) (s : State) : Host.Outcome State Fault Refusal :=
  s.onDie die (multicastGiveUp die.val granted)

/-! ## Forwarding, relinking, error packets -/

/-- FORWARD_PRESENT (R257): the next ready forwarding queue of LP or MP hands its head cell to the input, and ECRED falls. What the
memories answer of that queue comes first (R266 to R270). -/
def forwardPresent (d : Nat) (mp : Bool) (u : Upset) (h : Hw) : Hw :=
  let i := if mp then 7 else 6
  let x := h.cistern d
  match h.nextForward d i (if mp then x.lastFwdMp else x.lastFwdLp) with
  | none => h
  | some q =>
    let h := (h.meet d q u).2
    match (h.cq d q).cells with
    | [] => h
    | c :: rest =>
      let h := h.setCistern d (if mp then { h.cistern d with lastFwdMp := q } else { h.cistern d with lastFwdLp := q })
      let h := (h.setCq d q { h.cq d q with cells := rest, given := false }).releaseLink d c.link
      let h := h.qwr d q Q.QCRED_ECRED (h.qrd d q Q.QCRED_ECRED - 1)
      let n := h.qrd d q Q.QCFGB_TGTNODE
      let cell : Cell :=
        { c.cell with fill := if h.isWord d q then c.words % 16 else 0, klass := h.qrd d q Q.QCFGA_CLASS, mcast := false,
                      dnode := if n = 0 then h.nodeId else n, ddie := h.qrd d q Q.QCFGB_TGTDIE,
                      dq := h.qrd d q Q.QCFGB_TGTQ, snode := h.nodeId, sdie := d, hops := 0 }
      (h.charge d i cell.klass).present d i ⟨cell, some c.index⟩

def execForwardPresent (die : Die) (mp : Bool) (upset : Upset) (s : State) : Host.Outcome State Fault Refusal :=
  s.onDie die (forwardPresent die.val mp upset)

/-- The guaranteed-gap register of a class (R228). -/
def Hw.gap (h : Hw) (d c : Nat) : Nat :=
  if c = 1 then h.rd d R.SWC_GAP_GAP1 else if c = 2 then h.rd d R.SWC_GAP_GAP2 else if c = 3 then h.rd d R.SWC_GAP_GAP3 else 0

/-- The credit of a class that a die link holds (R230): what the far die granted at the link's training, less the cells sent that it has
not freed. Before its first training the link has the reset values of SWC_INRES. -/
def Hw.dieCredit (h : Hw) (d dp c : Nat) : Nat :=
  let s := h.switch d
  s.dieGrant.get (if c = 0 then 16 else 96) (dp * 4 + c) - s.dieUsed.get 0 (dp * 4 + c)

/-- May output `o` send class `c` in this slot (R228)? A hold of the far die's stage holds a die link (R222). -/
def Hw.eligible (h : Hw) (d o c : Nat) : Bool :=
  !(h.cq d (outQueue o c)).cells.isEmpty && h.portLive d o &&
  (if o < 4 then decide (1 ≤ h.rd d R.RNG_PCRED_AVAIL o c) && decide ((h.port d o).outstanding.length < 128)
   else if 8 ≤ o then
     let (e, dp) := h.dieLinkPeer d (o - 8)
     decide (((h.switch e).stages.get [] (8 + dp)).length < 8) && decide (1 ≤ h.dieCredit d (o - 8) c)
   else true)

/-- The class that an output sends: a guarantee that is due, else the lowest-numbered eligible class (R228). -/
def Hw.chooseClass (h : Hw) (d o : Nat) : Option Nat :=
  let w := (h.switch d).waits
  match [1, 2, 3].find? fun c => h.gap d c != 0 && h.eligible d o c && decide (h.gap d c ≤ w.get 0 (o * 4 + c)) with
  | some c => some c
  | none => [0, 1, 2, 3].find? fun c => h.eligible d o c

/-- Slots waited: one more for each eligible class that is not sent, none for the class sent (R228). -/
def Hw.countWaits (h : Hw) (d o sent : Nat) : Hw :=
  let el := (List.range 4).filter fun c => h.eligible d o c && c != sent
  let s := h.switch d
  let w := el.foldl (fun w c => w.upd 0 (o * 4 + c) (· + 1)) s.waits
  h.setSwitch d { s with waits := w.put 0 (o * 4 + sent) 0 }

/-- LP or MP relinks the head cell of its output queue onto its destination queue (R221), after what the memories answer of that
queue. -/
def Hw.relinkHead (h : Hw) (d o c : Nat) (dest : Upset) : Hw :=
  match (h.cq d (outQueue o c)).cells with
  | [] => h
  | x :: rest =>
    let h := (h.noteRead d o c).setCq d (outQueue o c) { h.cq d (outQueue o c) with cells := rest }
    let h := (h.releaseCharge d x.src x.cell.klass).bump d R.SWC_OCNTA_TXCELLS 1 o
    (h.meetTail d x.cell.dq dest).arriveCell d x.cell.dq x.cell (some x.index)

/-- The slot of LP or MP: class by R228, what the memories answer, then the relink. -/
def lpMpSlot (d o : Nat) (u dest : Upset) (h : Hw) : Hw :=
  match h.chooseClass d o with
  | none => h
  | some c =>
    let h := h.countWaits d o c
    let (reset, h) := h.meet d (outQueue o c) u
    if reset then h else h.relinkHead d o c dest

/-- LP_MP_RELINK (R221). -/
def execLpMpRelink (die : Die) (mp : Bool) (upset dest : Upset) (s : State) : Host.Outcome State Fault Refusal :=
  s.onDie die (lpMpSlot die.val (if mp then 7 else 6) upset dest)

/-- The 64 bytes of an access cell (R424). -/
def accessBytes (msg tag flags len code port addr reqid rnode : Nat) (data : List Byte) : List Byte :=
  leBytes 1 msg ++ [0x01] ++ leBytes 2 tag ++ leBytes 1 flags ++ leBytes 1 len ++ leBytes 1 code ++ leBytes 1 port ++
    leBytes 8 addr ++ leBytes 2 reqid ++ leBytes 2 rnode ++ List.replicate 12 0 ++ slice data 0 32

/-- A lock that its target ends is told to its holder with code 0x05 (R445, R451). -/
def Hw.lockEnded (h : Hw) (d : Nat) (l : UnitLock) : Hw :=
  h.errPacket d ⟨5, l.node, l.holder, accessBytes 0x44 l.tag 0 4 0 (low 3 l.holder + 8) l.addr 0 l.node [], h.fabricNs⟩

/-- Every lock held in the node ends (R451): Dusk is entered. -/
def Hw.endLocks (h : Hw) : Hw :=
  h.eachDie fun d h =>
    let e := h.engs.get .init d
    let b := h.bps.get .init d
    let h := each (e.units ++ b.lockBy.toList) (fun l h => h.lockEnded d l) h
    { h with engs := h.engs.put .init d { e with units := [] }, bps := h.bps.put .init d { b with lockBy := none } }

/-- The 64 bytes of an error packet (R424, R425): the failed access's tag, port, address and requester. -/
def errorBytes (p : ErrPkt) : List Byte :=
  let f := fun o n => if 0x40 ≤ leAt p.failed 0 1 ∧ leAt p.failed 0 1 ≤ 0x48 then slice p.failed o n else List.replicate n 0
  [0x48, 0x01] ++ f 2 2 ++ f 4 2 ++ [BitVec.ofNat 8 p.code] ++ f 7 1 ++ f 8 8 ++ f 0x10 4 ++ List.replicate 4 0 ++
    leBytes 8 p.ftime ++ List.replicate 32 0

/-- ERROR_PACKET_SEND (R236): a pending error packet is generated through MP, for Q553 of the failed cell's source. -/
def errorPacketSend (d : Nat) (h : Hw) : Hw :=
  match h.errs.get [] d with
  | [] => h
  | p :: rest =>
    ({ h with errs := h.errs.put [] d rest }).offer d 7 (blankCell 0 p.node p.die 553 h.nodeId d (errorBytes p))

def execErrorPacketSend (die : Die) (s : State) : Host.Outcome State Fault Refusal := s.onDie die (errorPacketSend die.val)

/-! ## Ports that go down (R241) -/

/-- Flush one output queue: every cell is freed, its credit returned, its source told. -/
def Hw.flushQueue (h : Hw) (d o c : Nat) : Hw :=
  let xs := (h.cq d (outQueue o c)).cells
  let h := h.setCq d (outQueue o c) { h.cq d (outQueue o c) with cells := [] }
  each xs (fun x h => (h.freeCell d x).flushed d o x.cell) h

/-- Flush the four output queues of a port and give up the copies owed to it (R239, R241). -/
def Hw.flushPort (h : Hw) (d o : Nat) : Hw :=
  let h := iter 4 (fun c h => h.flushQueue d o c) h
  h.giveUpPort d o

/-- DIE_LINK_SILENCE (R22, R241, R588): 2 µs without keepalive take a die link down at both ends and raise DIE_LINK. -/
def dieLinkSilence (d dp : Nat) (h : Hw) : Hw :=
  if h.dieLinkUp d dp then
    let (e, ep) := h.dieLinkPeer d dp
    let h := { h with dieLinkDown := (h.dieLinkDown.put false (d * 2 + dp) true).put false (e * 2 + ep) true }
    let h := (h.flushPort d (8 + dp)).flushPort e (8 + ep)
    (h.raiseFault d 0x03 dp).raiseFault e 0x03 ep
  else h

def execDieLinkSilence (die : Die) (dp : Fin 2) (s : State) : Host.Outcome State Fault Refusal :=
  s.onDie die (dieLinkSilence die.val dp.val)

/-- Training of a die link: the far end `e` grants `d` the reservations that it then has (R230, R231, R244). -/
def Hw.grantDie (h : Hw) (d dp e ep : Nat) : Hw :=
  let s := h.switch d
  h.setSwitch d { s with
    dieGrant := iter 4 (fun c m => m.put (if c = 0 then 16 else 96) (dp * 4 + c) (h.rd e R.SWC_INRES_RES (8 + ep) c)) s.dieGrant
    dieUsed := iter 4 (fun c m => m.put 0 (dp * 4 + c) 0) s.dieUsed }

/-- DIE_LINK_TRAINED (R588, R231): the link carries traffic again under new credit and its masked fault ends. -/
def dieLinkTrained (d dp : Nat) (h : Hw) : Hw :=
  let (e, ep) := h.dieLinkPeer d dp
  let h := { h with dieLinkDown := (h.dieLinkDown.put false (d * 2 + dp) false).put false (e * 2 + ep) false }
  let h := (h.grantDie d dp e ep).grantDie e ep d dp
  (h.endFault d 0x03 dp).endFault e 0x03 ep

def execDieLinkTrained (die : Die) (dp : Fin 2) (s : State) : Host.Outcome State Fault Refusal :=
  s.onDie die (dieLinkTrained die.val dp.val)

end Sys2Proof.Machine
end

