-- ==== Sys2Proof/Machine/Ring.lean ====
section
/-!
DEFINITION. Presence and the ring map (chapter "Dual rings, healing and junction nodes", R177 to R186, R197, R198), and the
states of the ring ports (R132, R138, R139) with what a change of state brings.
-/

namespace Sys2Proof.Machine

/-! ## Presence cells (R182, R183) -/

/-- RNG_PSTAT.STATE of the four ports as the PSTATE of a presence cell. -/
def Hw.pstateWord (h : Hw) (d : Nat) : Nat :=
  h.rd d R.RNG_PSTAT_STATE 0 + h.rd d R.RNG_PSTAT_STATE 1 * 2 ^ 4 + h.rd d R.RNG_PSTAT_STATE 2 * 2 ^ 8 +
    h.rd d R.RNG_PSTAT_STATE 3 * 2 ^ 12

/-- The peer of a port while it is Active or Passive, else 0x0000. -/
def Hw.livePeer (h : Hw) (d p : Nat) : Nat := if h.portUp d p then h.rd d R.RNG_PPEER_NODE p else 0

/-- The presence cell of a die (R183). -/
def Hw.presenceCell (h : Hw) (d : Nat) : Cell :=
  let data := [0x10, 0x01] ++ leBytes 2 h.nodeId ++ leBytes 1 d ++ leBytes 1 (h.rd d R.RNG_CFG_RINGNO) ++
    leBytes 2 (h.pstateWord d) ++ leBytes 2 (h.livePeer d 0) ++ leBytes 2 (h.livePeer d 2) ++
    leBytes 1 (h.rd d R.RNG_CFG_CMROLE + 4 * h.rd d R.RNG_CMSTAT_ORIG) ++ [0] ++ leBytes 2 (h.ring d).pseq
  { blankCell 0 0xFFFF 0 0x1FFF h.nodeId d data with mcast := true }

/-- Send a presence cell on every port in Active or Passive (R182). A node with no ID yet has nothing to send. -/
def Hw.sendPresence (h : Hw) (d : Nat) : Hw :=
  if h.nodeId ≠ 0 ∧ h.attached d ≠ [] ∧ h.node.state ≠ .sleep then
    let h := h.setRing d { h.ring d with pseq := ((h.ring d).pseq + 1) % 65536 }
    h.offer d 7 (h.presenceCell d)
  else h

/-- PRESENCE_SEND (R182): the cell of every 1.000 ms. -/
def execPresenceSend (die : Die) (s : State) : Host.Outcome State Fault Refusal :=
  s.onDie die fun h => h.sendPresence die.val

/-! ## The ring map (R184, R185) -/

/-- The dies that share a ring position: both in split attachment (R212). -/
def Hw.ringDies (h : Hw) (d : Nat) : List Nat :=
  let m := h.rd d R.RNG_ATTACH_MODE
  if m = 1 ∨ m = 2 then [0, 1] else [d]

/-- What this node would send of itself. -/
def Hw.ownPresence (h : Hw) (d : Nat) : Presence :=
  let a := if h.rd d R.RNG_ATTACH_MODE = 2 then 0 else d
  let b := if h.rd d R.RNG_ATTACH_MODE = 1 then 1 else d
  ⟨h.nodeId, d, h.pstateWord a % 2 ^ 8 + h.pstateWord b / 2 ^ 8 * 2 ^ 8, h.livePeer a 0, h.livePeer b 2, h.rd d R.RNG_CFG_CMROLE, 0, h.now⟩

/-- Two senders of one node of which one tells of the A cables and the other of the B cables: the dies of a split attachment, which
share a position (R212). -/
def sharePosition (a b : Presence) : Bool :=
  a.node == b.node && a.die != b.die && (low 8 a.pstate == 0 || low 8 b.pstate == 0) && (a.pstate / 2 ^ 8 == 0 || b.pstate / 2 ^ 8 == 0)

/-- Their position's record. -/
def joinSenders (a b : Presence) : Presence :=
  let x := if low 8 a.pstate = 0 then b else a
  let y := if a.pstate / 2 ^ 8 = 0 then b else a
  { a with pstate := low 8 x.pstate + y.pstate / 2 ^ 8 * 2 ^ 8, aePeer := x.aePeer, bePeer := y.bePeer }

/-- One record for each position. -/
def positions (ps : List Presence) : List Presence :=
  ps.foldl (fun acc x =>
    if acc.any (sharePosition · x) then acc.map fun y => if sharePosition y x then joinSenders y x else y else acc ++ [x]) []

/-- The longest of these lists. -/
def longest (l : List (List Presence)) : Option (List Presence) :=
  l.foldl (fun a x => match a with | none => some x | some y => if y.length < x.length then some x else some y) none

/-- Follow AEPEER from a sender back to the starting node: the positions met in order, none while the chain is open (R184, R185). Where
one node ID is heard from two positions each is tried, and the chain through more positions is the ring (R186). -/
def chain (heard : List Presence) (start : Nat) : Nat → Presence → List Presence → Option (List Presence)
  | 0, _, _ => none
  | n + 1, cur, acc =>
    if cur.aePeer = 0 then none
    else
      let next := heard.filter fun x => x.node == cur.aePeer && !acc.contains x
      longest ((next.filterMap fun x => chain heard start n x (acc ++ [x])) ++ (if cur.aePeer = start then [acc] else []))

/-- Is a state nibble of PSTATE Active or Passive? -/
def nibbleUp (pstate i : Nat) : Bool := bits pstate (4 * i) 4 == 2 || bits pstate (4 * i) 4 == 3

/-- Is the link from a sender to the next reported lost, by a PSTATE or a 0x0000 peer (R185): A cable, B cable? A sender that is not heard
reports nothing. -/
def linkLost (a : Option Presence) (b : Option Presence) : Bool × Bool :=
  (a.any (fun x => !nibbleUp x.pstate 0 || x.aePeer == 0) || b.any fun x => !nibbleUp x.pstate 1,
   a.any (fun x => !nibbleUp x.pstate 2 || x.bePeer == 0) || b.any fun x => !nibbleUp x.pstate 3)

/-- The positions of a closed chain: position 0 is the lowest node ID (R180). -/
def renumber (ps : List Presence) : List MapEntry :=
  let lowest := ps.foldl (fun a p => min a p.node) 0xFFFF
  let k := (firstIdx (fun p => p.node == lowest) ps).getD 0
  let r := ps.drop k ++ ps.take k
  (List.range r.length).map fun i =>
    let x := linkLost r[i]? r[(i + 1) % r.length]?
    ⟨(r[i]?.map (·.node)).getD 0, true, x.1, x.2, (r[i]?.map (·.die)).getD 0⟩

/-- While the chain is open positions keep their values and the links reported lost are marked (R185). A mark stands until both ends are
heard again without such a report. -/
def remark (ps : List Presence) (m : List MapEntry) : List MapEntry :=
  let find := fun (e : Option MapEntry) => e.bind fun e => ps.find? fun p => p.node == e.node
  (List.range m.length).map fun i =>
    let e := m.getD i ⟨0, false, true, true, 0⟩
    let a := find m[i]?
    let b := find m[(i + 1) % m.length]?
    let x := linkLost a b
    let stays := !(a.isSome && b.isSome)
    { e with present := a.isSome, aLost := x.1 || (stays && e.aLost), bLost := x.2 || (stays && e.bLost) }

/-- Does a list of senders name one node twice? -/
def hasDup : List Nat → Bool
  | [] => false
  | a :: rest => rest.contains a || hasDup rest

/-- Build the ring map of a die from what it has heard (R184 to R186). -/
def Hw.buildMap (h : Hw) (d : Nat) : Hw :=
  let own := h.ownPresence d
  let heard := positions ((h.ringDies d).flatMap fun e => (h.ring e).heard)
  let ps := chain heard own.node 255 own [own]
  let r := h.ring d
  let dup := ps.any fun l => hasDup (l.map (·.node))
  let h := h.setRing d { r with map := match ps with | some l => renumber l | none => remark (own :: heard) r.map, closed := ps.isSome }
  if dup && !h.on d R.RNG_RINGINFO_DUPID then (h.flag d R.RNG_RINGINFO_DUPID).report d 0x0C .ringMap 1 else h

/-- A presence cell as heard. -/
def presenceOf (c : List Byte) (now : Nat) : Presence :=
  ⟨leAt c 2 2, bits (leAt c 4 1) 0 3, leAt c 6 2, leAt c 8 2, leAt c 10 2, leAt c 12 1, leAt c 14 2, now⟩

/-- Is a heard record of the same sender as a new cell: the next few counts, or the same peer? Two senders of one node ID
keep two records (R186). -/
def sameSender (old new : Presence) : Bool :=
  old.node == new.node && old.die == new.die &&
    (old.aePeer == new.aePeer || decide ((new.pseq + 65536 - old.pseq) % 65536 ≤ 8))

/-- Did this node send the cell itself (R182)? Its counts are of the last eight that one of the dies at the position sent; another node
of the same ID is at some other count (R186, LOG 18). -/
def Hw.ownCell (h : Hw) (d : Nat) (c : List Byte) : Bool :=
  let x := presenceOf c h.now
  x.node == h.nodeId && (h.ringDies d).contains x.die && decide (((h.ring x.die).pseq + 65536 - x.pseq) % 65536 < 8)

/-- Is the cell older than what its sender is heard to say already? -/
def staleCell (heard : List Presence) (x : Presence) : Bool :=
  heard.any fun o => o.node == x.node && o.die == x.die && decide (0 < (o.pseq + 65536 - x.pseq) % 65536) &&
    decide ((o.pseq + 65536 - x.pseq) % 65536 ≤ 8)

/-- The nodes that a die's map holds or would hold: this node, those of the map, those heard (R181). -/
def Hw.mapNodes (h : Hw) (d : Nat) : List Nat :=
  ((h.ring d).map.map (·.node) ++ (h.ring d).heard.map (·.node)).foldl (fun a n => if a.contains n then a else a ++ [n]) [h.nodeId]

/-- A presence cell is applied (R181, R183 to R186): one of its own is discarded, one of a node beyond 254 is ignored. The first cell from a
port's new peer ends its wait for unwrapping (R194). -/
def Hw.applyPresence (h : Hw) (d : Nat) (c : List Byte) : Hw :=
  let x := presenceOf c h.now
  if leAt c 0 2 ≠ 0x0110 ∨ h.ownCell d c ∨ staleCell (h.ring d).heard x then h
  else if 254 ≤ (h.mapNodes d).length ∧ ¬(h.mapNodes d).contains x.node then
    if h.on d R.RNG_RINGINFO_FULL then h else (h.flag d R.RNG_RINGINFO_FULL).report d 0x0C .ringMap 2
  else
    let r := h.ring d
    let h := h.setRing d { r with heard := r.heard.filter (fun o => !sameSender o x) ++ [x] }
    let h := iter 4 (fun p h =>
      if h.rd d R.RNG_PPEER_NODE p = x.node then h.setPort d p { h.port d p with heardPeer := true } else h) h
    h.buildMap d

/-- PRESENCE_CELL (R184): management takes the head of Q552 and applies it. A cell that a ring port brought was applied as it came (R198) and
may be stale by now. -/
def presenceTake (d : Nat) (u : Upset) (h : Hw) : Hw :=
  let h := (h.meet d 552 u).2
  match (h.cq d 552).cells with
  | [] => h
  | c :: _ => (h.dropHead d 552).applyPresence d c.cell.data

def execPresenceCell (die : Die) (inbox : Upset) (s : State) : Host.Outcome State Fault Refusal :=
  s.onDie die (presenceTake die.val inbox)

/-- NODE_ABSENT (R184): no presence cell has come from a node for 3.000 ms. It keeps its position until the chain closes
without it (R211). -/
def nodeAbsent (d node : Nat) (h : Hw) : Hw :=
  let r := h.ring d
  if r.heard.any fun x => x.node == node then
    let h := h.setRing d { r with heard := r.heard.filter fun x => x.node != node }
    (h.buildMap d).report d 0x0C .nodeAbsent node
  else h

def execNodeAbsent (die : Die) (node : BitVec 16) (s : State) : Host.Outcome State Fault Refusal :=
  s.onDie die (nodeAbsent die.val node.toNat)

/-! ## Port states (R132 to R139) -/

def Hw.train (h : Hw) (d : Nat) : Trn := h.trn.get .init d

def Hw.setTrain (h : Hw) (d : Nat) (t : Trn) : Hw := { h with trn := h.trn.put .init d t }

/-- A segment of zero data and all-ones POISON (R149). -/
def poisonedSegment : List Byte :=
  List.replicate 248 0 ++ leBytes 4 (crc32c (List.replicate 248 0)).toNat ++ List.replicate 4 0xFF

/-- A train is truncated in passage at receiver `q` (R149): its current outgoing segment ends poisoned, and TRUNC is recorded. -/
def Hw.endPassage (h : Hw) (d q : Nat) (keep : Bool) (x : Passage) : Hw :=
  let t := h.train d
  let t := { t with passages := t.passages.put none q (if keep then some { x with onward := none } else none) }
  let t := match x.onward with
    | some o => { t with expressOut := t.expressOut.put [] o poisonedSegment }
    | none => t
  ((h.setTrain d t).flag d R.RNG_EXSTAT_TRUNC).report d 0x0C .trainTrunc q

/-- Port `p` is lost with trains in passage (R149, R194): the one that it receives ends; one that leaves by it goes nowhere from here on. -/
def Hw.truncateTrain (h : Hw) (d p : Nat) : Hw :=
  iter 4 (fun q h =>
    match (h.train d).passages.get none q with
    | none => h
    | some x =>
      if q = p then h.endPassage d q false x
      else if x.onward = some p then h.endPassage d q true x
      else h) h

/-- Set a port's state; a move of R138 is recorded on the port's channel. -/
def Hw.setPortState (h : Hw) (d p st : Nat) : Hw :=
  let old := h.rd d R.RNG_PSTAT_STATE p
  let h := h.wr d R.RNG_PSTAT_STATE st p
  if (old = 2 ∨ old = 3) ∧ (st = 2 ∨ st = 3 ∨ st = 4) then h.report d (8 + p) .portState (old + st * 16) else h

/-- A port changes its state, and a presence cell tells of it (R138, R182). -/
def Hw.movePort (h : Hw) (d p st : Nat) : Hw :=
  if h.rd d R.RNG_PSTAT_STATE p = st then h else (h.setPortState d p st).sendPresence d

/-- The presence cell of a loss goes straight to every remaining port, before any cell that is turned back (R197). -/
def Hw.presenceAtOnce (h : Hw) (d : Nat) : Hw :=
  if h.nodeId ≠ 0 ∧ h.node.state ≠ .sleep then
    let h := h.setRing d { h.ring d with pseq := ((h.ring d).pseq + 1) % 65536 }
    each ([0, 1, 2, 3].filter (h.portUp d)) (fun o h =>
      let h := h.linkOut d o 7 ⟨h.presenceCell d, none⟩
      h.setPort d o { h.port d o with presenceFirst := true }) h
  else h

/-- A port leaves Active or Passive: presence goes out on the remaining ports first (R197), then trains are truncated
(R149), its output queues are flushed (R241), its frames dropped and its link delay forgotten (R411). -/
def Hw.leaveUp (h : Hw) (d p st : Nat) : Hw :=
  let h := (h.setPortState d p st).presenceAtOnce d
  let h := h.buildMap d
  let h := (h.truncateTrain d p).flushPort d p
  let h := { (h.wr d R.FTM_PDLY_DLYOK 0 p) with ftm.delays := h.ftm.delays.put [] (d * 4 + p) [] }
  (h.setPort d p { h.port d p with outstanding := [], heardPeer := false, retries := 0, presenceFirst := false }).checkGuar

/-- Entry to Training: idle on all lanes, locks to be found again (R133). -/
def Hw.enterTraining (h : Hw) (d p : Nat) : Hw :=
  let x := h.port d p
  let h := h.setPort d p { x with
    deskewed := false, retryWait := false, forcedOff := false, trainCnt := (x.trainCnt + 1) % 65536
    sessionTx := none, sessionRx := none, nakDue := false, csreqDue := false, syncDue := false }
  ((h.wr d R.RNG_PSTAT_LOCK 0 p).wr d R.RNG_PSTAT_AUTHOK 0 p).movePort d p 1

/-- A link of an Active or Passive port is lost: Down, LINKLOSS, the RNG_LINK report, and at once Training (R132, R135). -/
def Hw.linkLoss (h : Hw) (d p : Nat) : Hw :=
  if h.portUp d p then
    let h := (h.leaveUp d p 0).bump d R.RNG_PERRD_LINKLOSS 1 p
    (h.raiseFault d 0x01 p).enterTraining d p
  else h

/-- A failed training attempt returns the port to Down, to start again 10 ms later (R134). -/
def Hw.trainingFailed (h : Hw) (d p : Nat) : Hw :=
  let h := h.setPort d p { h.port d p with retryWait := true, deskewed := false }
  (h.wr d R.RNG_PSTAT_LOCK 0 p).movePort d p 0

/-- A port goes Off for its score (R138, R139). -/
def Hw.scoreOff (h : Hw) (d p : Nat) : Hw :=
  let h := (h.leaveUp d p 4).wr d R.RNG_PSTAT_OFFCNT (satAdd 4 (h.rd d R.RNG_PSTAT_OFFCNT p) 1) p
  h.raiseFault d 0x01 p

/-- The moves that the score brings (R138). -/
def Hw.judgeScore (h : Hw) (d p : Nat) : Hw :=
  let les := h.rd d R.RNG_PSTAT_LES p
  let st := h.rd d R.RNG_PSTAT_STATE p
  if (st = 2 ∨ st = 3) ∧ h.rd d R.RNG_LES_OFFTH ≤ les then h.scoreOff d p
  else if st = 2 ∧ h.rd d R.RNG_LES_PASSTH ≤ les then h.movePort d p 3
  else if st = 3 ∧ les < h.rd d R.RNG_LES_PASSTH / 2 then
    (h.movePort d p 2).setPort d p { h.port d p with activeFrom := h.now }
  else h

/-- A scored event on a port's receive side (R136). -/
def Hw.score (h : Hw) (d p w : Nat) : Hw :=
  if w = 0 then h
  else
    let h := h.wr d R.RNG_PSTAT_LES (min 1023 (h.rd d R.RNG_PSTAT_LES p + w)) p
    (h.setPort d p { h.port d p with scored := true }).judgeScore d p

/-- LES_DECAY (R137): the end of a 1 ms; without a scored event the score falls by 1. -/
def lesDecay (d p : Nat) (h : Hw) : Hw :=
  let x := h.port d p
  if x.scored then h.setPort d p { x with scored := false }
  else (h.wr d R.RNG_PSTAT_LES (h.rd d R.RNG_PSTAT_LES p - 1) p).judgeScore d p

def execLesDecay (die : Die) (port : Fin 4) (s : State) : Host.Outcome State Fault Refusal :=
  s.onDie die (lesDecay die.val port.val)

/-- OFF_HOLD_EXPIRY (R139): a port that its score put Off trains again with LES = PASSTH, unless OFFCNT has reached REARM. -/
def offHoldExpiry (d p : Nat) (h : Hw) : Hw :=
  let rearm := h.rd d R.RNG_LES_REARM
  if h.rd d R.RNG_PSTAT_STATE p = 4 ∧ (h.port d p).forcedOff = false ∧ (rearm = 0 ∨ h.rd d R.RNG_PSTAT_OFFCNT p < rearm) then
    let h := h.wr d R.RNG_PSTAT_LES (h.rd d R.RNG_LES_PASSTH) p
    (h.setPort d p { h.port d p with leavingOff := true }).enterTraining d p
  else h

def execOffHoldExpiry (die : Die) (port : Fin 4) (s : State) : Host.Outcome State Fault Refusal :=
  s.onDie die (offHoldExpiry die.val port.val)

/-- OFFCNT_CLEAR (R139): 60 s in Active without a break. -/
def offcntClear (d p : Nat) (h : Hw) : Hw :=
  if h.rd d R.RNG_PSTAT_STATE p = 2 then h.wr d R.RNG_PSTAT_OFFCNT 0 p else h

def execOffcntClear (die : Die) (port : Fin 4) (s : State) : Host.Outcome State Fault Refusal :=
  s.onDie die (offcntClear die.val port.val)

/-- RETRAIN (R132): RNG_PCMD 0b01 takes an attached port to Training; one in Off only where neither force-off nor REARM keeps it there
(R139, R176). -/
def retrain (d p : Nat) (h : Hw) : Hw :=
  let h := h.wr d R.RNG_PCMD_CMD 1 p
  let rearm := h.rd d R.RNG_LES_REARM
  if !(h.attached d).contains p then h
  else if h.rd d R.RNG_PSTAT_STATE p = 4 then
    if (h.port d p).forcedOff ∨ (rearm ≠ 0 ∧ rearm ≤ h.rd d R.RNG_PSTAT_OFFCNT p) then h
    else (h.setPort d p { h.port d p with leavingOff := true }).enterTraining d p
  else
    let h := if h.portUp d p then h.leaveUp d p 1 else h
    h.enterTraining d p

def execRetrain (die : Die) (port : Fin 4) (s : State) : Host.Outcome State Fault Refusal := s.onDie die (retrain die.val port.val)

/-- FORCE_OFF (R132, R176): RNG_PCMD 0b10; training is abandoned; the port stays Off until release. -/
def forceOff (d p : Nat) (h : Hw) : Hw :=
  let h := h.wr d R.RNG_PCMD_CMD 2 p
  let h := if h.portUp d p then h.leaveUp d p 4 else h.movePort d p 4
  h.setPort d p { h.port d p with forcedOff := true, retryWait := false }

def execForceOff (die : Die) (port : Fin 4) (s : State) : Host.Outcome State Fault Refusal := s.onDie die (forceOff die.val port.val)

/-- PORT_RELEASE (R139): RNG_PCMD 0b11 clears OFFCNT and sends an Off port to Training; one that its die does not attach goes Down (R212). -/
def portRelease (d p : Nat) (h : Hw) : Hw :=
  let h := (h.wr d R.RNG_PCMD_CMD 3 p).wr d R.RNG_PSTAT_OFFCNT 0 p
  if h.rd d R.RNG_PSTAT_STATE p ≠ 4 then h
  else if (h.attached d).contains p then (h.setPort d p { h.port d p with leavingOff := true }).enterTraining d p
  else (h.setPort d p { h.port d p with forcedOff := false }).movePort d p 0

def execPortRelease (die : Die) (port : Fin 4) (s : State) : Host.Outcome State Fault Refusal :=
  s.onDie die (portRelease die.val port.val)

/-- BLOCK_LOCK_LOSS (R135, R136). A loss that takes LES to OFFTH on a port that is up sends it Down by R135, and R138 is not judged of it
(LOG 19). A port in Training has its lanes to deskew anew (R133). -/
def blockLockLoss (d p lane : Nat) (h : Hw) : Hw :=
  if h.portUp d p then
    let les := min 1023 (h.rd d R.RNG_PSTAT_LES p + 64)
    let h := (h.wr d R.RNG_PSTAT_LES les p).setPort d p { h.port d p with scored := true }
    h.linkLoss d p
  else if h.rd d R.RNG_PSTAT_STATE p = 1 ∧ bit (h.rd d R.RNG_PSTAT_LOCK p) lane then
    ((h.wr d R.RNG_PSTAT_LOCK (h.rd d R.RNG_PSTAT_LOCK p &&& (15 - 2 ^ lane)) p).setPort d p { h.port d p with deskewed := false }).score d p 64
  else h

def execBlockLockLoss (die : Die) (port : Fin 4) (lane : Fin 4) (s : State) : Host.Outcome State Fault Refusal :=
  s.onDie die (blockLockLoss die.val port.val lane.val)

/-- DESKEW_LOSS (R135). -/
def execDeskewLoss (die : Die) (port : Fin 4) (s : State) : Host.Outcome State Fault Refusal :=
  s.onDie die fun h => h.linkLoss die.val port.val

/-- FRAME_SILENCE_TIMEOUT (R135): 2 µs without a frame. A frame that arrives in the same cycle is accepted, and MARGIN
counts (R176). -/
def frameSilence (d p : Nat) (frameSame : Bool) (h : Hw) : Hw :=
  if frameSame then h.bump d R.RNG_EXCNT_MARGIN else h.linkLoss d p

def execFrameSilenceTimeout (die : Die) (port : Fin 4) (frameSame : Bool) (s : State) : Host.Outcome State Fault Refusal :=
  s.onDie die (frameSilence die.val port.val frameSame)

/-- BLOCK_LOCK (R133): block lock on a lane; a Down port that is attached and waits for no retry is in Training by then. -/
def blockLock (d p lane : Nat) (h : Hw) : Hw :=
  let h := if h.rd d R.RNG_PSTAT_STATE p = 0 ∧ (h.attached d).contains p ∧ (h.port d p).retryWait = false
    then h.enterTraining d p else h
  if h.rd d R.RNG_PSTAT_STATE p = 1 then h.wr d R.RNG_PSTAT_LOCK (h.rd d R.RNG_PSTAT_LOCK p ||| 2 ^ lane) p else h

def execBlockLock (die : Die) (port : Fin 4) (lane : Fin 4) (s : State) : Host.Outcome State Fault Refusal :=
  s.onDie die (blockLock die.val port.val lane.val)

/-- TRAINING_TIMEOUT (R134): training not complete within 10 ms. -/
def trainingTimeout (d p : Nat) (h : Hw) : Hw := if h.rd d R.RNG_PSTAT_STATE p = 1 then h.trainingFailed d p else h

def execTrainingTimeout (die : Die) (port : Fin 4) (s : State) : Host.Outcome State Fault Refusal :=
  s.onDie die (trainingTimeout die.val port.val)

/-- TRAINING_RETRY (R134): 10 ms after the failed attempt. -/
def trainingRetry (d p : Nat) (h : Hw) : Hw :=
  if h.rd d R.RNG_PSTAT_STATE p = 0 ∧ (h.port d p).retryWait ∧ (h.attached d).contains p then h.enterTraining d p else h

def execTrainingRetry (die : Die) (port : Fin 4) (s : State) : Host.Outcome State Fault Refusal :=
  s.onDie die (trainingRetry die.val port.val)

end Sys2Proof.Machine
end

