-- ==== Sys2Proof/Machine/Link.lean ====
section
/-!
DEFINITION. Bulk frames on a ring link (chapter "Ring links, the cycle train and bulk cells", R133, R134, R161 to R175):
the frame as laid out, training, sequence and replay, per-hop credit, LINK tags, and the output slots that send frames.
-/

namespace Sys2Proof.Machine

/-! ## The frame (R161) -/

/-- The fields of a frame. -/
structure Frame where
  ftype : Nat
  klass : Nat
  mcast : Bool
  auth : Bool
  lseq : Nat
  ackseq : Nat
  nak : Bool
  csreq : Bool
  fill : Nat
  credits : List Nat
  txcnt : Nat
  dnode : Nat
  dq : Nat
  ddie : Nat
  snode : Nat
  sdie : Nat
  hops : Nat
  cell : List Byte
deriving DecidableEq, Repr

/-- The fields from the 103 bytes of a frame: S1 to S7, then bytes 0 to 95. -/
def parseFrame (f : List Byte) : Frame :=
  let s1 := leAt f 0 1
  let s4 := leAt f 3 1
  { ftype := bits s1 0 4, klass := bits s1 4 2, mcast := bit s1 6, auth := bit s1 7, lseq := leAt f 1 1,
    ackseq := leAt f 2 1, nak := bit s4 0, csreq := bit s4 1, fill := bits (leAt f 4 1) 0 4,
    credits := (List.range 4).map fun c => leAt f (7 + c) 1, txcnt := leAt f 11 4, dnode := leAt f 15 2,
    dq := bits (leAt f 17 2) 0 13, ddie := bits (leAt f 17 2) 13 3, snode := leAt f 19 2,
    sdie := bits (leAt f 21 2) 0 3, hops := bits (leAt f 21 2) 3 10, cell := slice f 23 64 }

/-- S1 to S7 and bytes 0 to 79 of a frame from its fields. -/
def frameHead (f : Frame) : List Byte :=
  leBytes 1 (f.ftype + f.klass * 16 + b2n f.mcast * 64 + b2n f.auth * 128) ++ leBytes 1 f.lseq ++ leBytes 1 f.ackseq ++
  leBytes 1 (b2n f.nak + 2 * b2n f.csreq) ++ leBytes 1 f.fill ++ [0, 0] ++ f.credits.flatMap (leBytes 1) ++
  leBytes 4 f.txcnt ++ leBytes 2 f.dnode ++ leBytes 2 (f.dq + f.ddie * 2 ^ 13) ++ leBytes 2 f.snode ++
  leBytes 2 (f.sdie + f.hops * 8) ++ slice f.cell 0 64

/-- Does the CRC of a frame hold? -/
def frameCrcOk (f : List Byte) : Bool := crc32c (slice f 0 87) == BitVec.ofNat 32 (leAt f 87 4)

/-- The LINK tag of a frame (R172): key, EPOCH, TXCNT, the frame except TAG. -/
def linkTag (key epoch txcnt : Nat) (body : List Byte) : List Byte :=
  slice (Config.gcmTag key (leBytes 4 0 ++ leBytes 4 epoch ++ leBytes 4 txcnt) body) 0 12

/-! ## Sending -/

/-- A frame leaves on a ring port: ACKSEQ, NAK, CSREQ, freed counts and TXCNT are stamped, and CRC and TAG added (R161,
R165 to R169, R173). -/
def Hw.emitFrame (h : Hw) (d p : Nat) (f : Frame) : Hw :=
  let x := h.port d p
  let auth := h.on d R.RNG_CFG_AUTHEN
  let f := { f with auth := auth, ackseq := (x.rxNext + 255) % 256, nak := x.nakDue, csreq := x.csreqDue,
                    credits := (List.range 4).map fun c => x.freed.get 0 c % 256, txcnt := x.txCnt }
  let head := frameHead f
  let body := head ++ leBytes 4 (crc32c head).toNat
  let tag := match auth, x.sessionTx with
    | true, some k => linkTag k x.txEpoch x.txCnt body
    | _, _ => List.replicate 12 0
  h.setPort d p { x with
    nakDue := false, csreqDue := false, lastTx := body ++ tag, txCnt := (x.txCnt + 1) % 2 ^ 32
    txEpoch := if x.txCnt + 1 = 2 ^ 32 then x.txEpoch + 1 else x.txEpoch
    txAborted := false, sentFreed := x.freed }

/-- The link control frame of a message (R163). -/
def Hw.controlFrame (h : Hw) (d : Nat) (msg : List Byte) : Frame :=
  ⟨2, 0, false, false, 0, 0, false, false, 0, [], 0, 0, 0, 0, h.nodeId, d, 0, slice msg 0 64⟩

/-- A credit sync message (R169): the 32-bit counts of cells freed since the last training. -/
def creditSyncMsg (x : Port) : List Byte := [0x03, 0x01, 0, 0] ++ (List.range 4).flatMap fun c => leBytes 4 (x.freed.get 0 c)

/-- A credit sync that the peer asked for goes before every other frame (R169). -/
def Hw.syncFirst (h : Hw) (d p : Nat) : Hw :=
  let x := h.port d p
  if x.syncDue then (h.setPort d p { x with syncDue := false }).emitFrame d p (h.controlFrame d (creditSyncMsg x)) else h

/-- Send a frame on a ring port. -/
def Hw.sendFrame (h : Hw) (d p : Nat) (f : Frame) : Hw := (h.syncFirst d p).emitFrame d p f

/-- A link control frame with its message (R163). -/
def Hw.sendControl (h : Hw) (d p : Nat) (msg : List Byte) : Hw := h.sendFrame d p (h.controlFrame d msg)

/-- A cell frame (R161). -/
def cellFrame (x : OutFrame) : Frame :=
  ⟨1, x.cell.klass, x.cell.mcast, false, x.lseq, 0, false, false, x.cell.fill, [], 0, x.cell.dnode, x.cell.dq, x.cell.ddie,
    x.cell.snode, x.cell.sdie, x.cell.hops, x.cell.data⟩

/-- The head cell of a class leaves on a ring port under the next LSEQ, using one credit (R164, R167). A cell that came by a ring port,
or from another node, is passed on and has 1 added to HOPS (R162). -/
def Hw.sendRing (h : Hw) (d p c : Nat) : Hw :=
  match (h.cq d (outQueue p c)).cells with
  | [] => h
  | e :: _ =>
    let h := ((h.noteRead d p c).dropHead d (outQueue p c)).bump d R.SWC_OCNTA_TXCELLS 1 p
    let cell := if e.cell.snode = h.nodeId ∧ 4 ≤ e.src then e.cell else { e.cell with hops := e.cell.hops + 1 }
    let x := h.port d p
    let out : OutFrame := ⟨x.txNext, cell⟩
    let own := e.cell.dq == 0x1FFF && e.cell.snode == h.nodeId
    let h := h.setPort d p { x with
      txNext := (x.txNext + 1) % 256, outstanding := x.outstanding ++ [out], used := x.used.upd 0 c (· + 1), presenceFirst := x.presenceFirst && !own }
    let h := h.wr d R.RNG_PCRED_AVAIL (h.rd d R.RNG_PCRED_AVAIL p c - 1) p c
    h.sendFrame d p (cellFrame out)

/-- The head cell of a class crosses a die link, using one credit, and enters the far die's input stage (R21, R230). -/
def Hw.sendDie (h : Hw) (d o c : Nat) : Hw :=
  match (h.cq d (outQueue o c)).cells with
  | [] => h
  | e :: _ =>
    let h := ((h.noteRead d o c).dropHead d (outQueue o c)).bump d R.SWC_OCNTA_TXCELLS 1 o
    let h := h.setSwitch d { h.switch d with dieUsed := (h.switch d).dieUsed.upd 0 ((o - 8) * 4 + c) (· + 1) }
    let (f, dp) := h.dieLinkPeer d (o - 8)
    h.present f (8 + dp) ⟨e.cell, none⟩

/-- The head cell of a class leaves by HP or BP to its bridge. -/
def Hw.sendBridge (h : Hw) (d o c : Nat) : Hw :=
  ((h.noteRead d o c).dropHead d (outQueue o c)).bump d R.SWC_OCNTA_TXCELLS 1 o

/-- An output slot (R228): class, what the memories answer, then the send by the kind of port. -/
def outputSlot (d o : Nat) (u : Upset) (h : Hw) : Hw :=
  if o = 6 ∨ o = 7 then lpMpSlot d o u .clean h
  else
    match h.chooseClass d o with
    | none => h
    | some c =>
      let h := h.countWaits d o c
      let (reset, h) := h.meet d (outQueue o c) u
      if reset ∨ (h.cq d (outQueue o c)).cells.isEmpty then h
      else if o < 4 then h.sendRing d o c
      else if 8 ≤ o then h.sendDie d o c
      else h.sendBridge d o c

/-- OUTPUT_SELECT (R228). -/
def execOutputSelect (die : Die) (out : Fin 10) (upset : Upset) (s : State) : Host.Outcome State Fault Refusal :=
  s.onDie die (outputSlot die.val out.val upset)

/-- Replay every outstanding frame in order under new TXCNT values (R166, R173). -/
def Hw.replay (h : Hw) (d p : Nat) : Hw :=
  let h := h.bump d R.RNG_PERRC_REPLAY 1 p
  each (h.port d p).outstanding (fun x h => h.sendFrame d p (cellFrame x)) h

/-- REPLAY_TIMEOUT (R135, R136, R166): RTTO without an advance of ACKSEQ replays; RETRYMAX in a row take the port Down. An
advance in the same cycle prevents the replay, and MARGIN counts. -/
def replayTimeout (d p : Nat) (ackSame : Bool) (h : Hw) : Hw :=
  if ackSame then h.bump d R.RNG_EXCNT_MARGIN
  else if (h.port d p).outstanding.isEmpty ∨ h.portUp d p = false then h
  else
    let x := h.port d p
    let h := h.setPort d p { x with retries := x.retries + 1 }
    if h.rd d R.RNG_LES_RETRYMAX ≤ x.retries + 1 then
      let h := (h.wr d R.RNG_PSTAT_LES (min 1023 (h.rd d R.RNG_PSTAT_LES p + 16)) p).setPort d p { h.port d p with scored := true }
      h.linkLoss d p
    else (h.replay d p).score d p 16

def execReplayTimeout (die : Die) (port : Fin 4) (ackSame : Bool) (s : State) : Host.Outcome State Fault Refusal :=
  s.onDie die (replayTimeout die.val port.val ackSame)

/-- CREDIT_FRAME_DUE (R168, R169): a credit sync where the peer asked for one, else a keepalive. -/
def creditFrameDue (d p : Nat) (h : Hw) : Hw :=
  if h.portUp d p = false then h
  else if (h.port d p).syncDue then h.syncFirst d p
  else h.sendControl d p [0x01]

/-- A class's freed count has advanced by 64 since it was last sent: a frame is due at once (R168). -/
def creditAdvance (d p : Nat) (h : Hw) : Hw :=
  let x := h.port d p
  if (List.range 4).any fun c => decide (64 ≤ (x.freed.get 0 c + 2 ^ 32 - x.sentFreed.get 0 c) % 2 ^ 32) then creditFrameDue d p h else h

def execCreditFrameDue (die : Die) (port : Fin 4) (s : State) : Host.Outcome State Fault Refusal :=
  s.onDie die (creditFrameDue die.val port.val)

/-! ## Receiving (R165 to R173) -/

/-- Frames up to ACKSEQ leave the replay buffer; an advance ends the run of timeouts. -/
def Hw.takeAck (h : Hw) (d p ack : Nat) : Hw :=
  let x := h.port d p
  match firstIdx (fun o => o.lseq == ack) x.outstanding with
  | some i => h.setPort d p { x with outstanding := x.outstanding.drop (i + 1), retries := 0 }
  | none => h

/-- The credit that a frame returns: (CREDITc − last) modulo 256 for each class (R167). -/
def Hw.takeCredit (h : Hw) (d p : Nat) (cs : List Nat) : Hw :=
  iter 4 (fun c h =>
    let x := h.port d p
    let v := cs.getD c 0
    let n := (v + 256 - x.lastCredit.get 0 c) % 256
    (h.setPort d p { x with lastCredit := x.lastCredit.put 0 c v }).wr d R.RNG_PCRED_AVAIL (satAdd 16 (h.rd d R.RNG_PCRED_AVAIL p c) n) p c) h

/-- A discard that asks for replay and credit (R165, R169). -/
def Hw.discardFrame (h : Hw) (d p : Nat) : Hw :=
  h.setPort d p { h.port d p with nakDue := true, ignoring := true, csreqDue := true }

/-- The epoch that a received TXCNT belongs to: the next one where it has wrapped (R173). -/
def rxEpochOf (x : Port) (txcnt : Nat) : Nat :=
  match x.rxLast with
  | some l => if 2 ^ 31 ≤ l ∧ txcnt < 2 ^ 31 then x.rxEpoch + 1 else x.rxEpoch
  | none => x.rxEpoch

/-- Does a frame pass the tag and TXCNT checks (R172, R173)? -/
def tagOk (authen : Bool) (x : Port) (f : Frame) (bytes : List Byte) : Bool :=
  if authen then
    match x.sessionRx with
    | none => false
    | some k =>
      let e := rxEpochOf x f.txcnt
      f.auth && (decide (x.rxEpoch < e) || (match x.rxLast with | some l => decide (l < f.txcnt) | none => true)) &&
        linkTag k e f.txcnt (slice bytes 0 91) == slice bytes 91 12
  else !f.auth

/-- The 64-bit words of a byte string. -/
def dwords (n : Nat) (bs : List Byte) : List Nat := (List.range n).map fun k => leAt bs (8 * k) 8

/-- Is a cell delivered at a port of this node other than a ring port (R518)? -/
def Hw.deliveredHere (h : Hw) (d p : Nat) (c : Cell) : Bool :=
  if c.mcast then ((h.owedTo d p c).getD []).any fun o => decide (4 ≤ o) else ((h.route d c).any fun o => decide (4 ≤ o))

/-- The FRAME record of an arrival (R517, R518): status 0 clean, 1 CRC failed, 2 tag or TXCNT failed, 3 aborted, 4 link
control. Commands arrive on core cycles, so the sub-cycle phase is 0 (LOG 8). -/
def Hw.journalFrame (h : Hw) (d p status : Nat) (f : Frame) : Hw :=
  let cell : Cell := ⟨f.cell, f.fill, f.klass, f.mcast, f.dnode, f.ddie, f.dq, f.snode, f.sdie, f.hops⟩
  let credits := (List.range 4).foldl (fun a c => a + low 8 (f.credits.getD c 0) * 2 ^ (9 + 8 * c)) 0
  h.journal d 2 (p + f.klass * 2 ^ 2 + b2n f.mcast * 2 ^ 4 + status * 2 ^ 5 + f.dq * 2 ^ 8 + f.ddie * 2 ^ 21 + f.sdie * 2 ^ 24)
    ([f.dnode + f.snode * 2 ^ 16 + f.hops * 2 ^ 32 + f.lseq * 2 ^ 42, f.ackseq + b2n f.nak * 2 ^ 8 + credits + b2n f.csreq * 2 ^ 41] ++
      (if status = 4 ∨ (status = 0 ∧ h.deliveredHere d p cell) then dwords 8 f.cell else []))

/-- The status of a frame in its FRAME record. -/
def Hw.frameStatus (h : Hw) (d p : Nat) (bytes : List Byte) (abort : Bool) : Nat :=
  let f := parseFrame bytes
  if abort then 3 else if frameCrcOk bytes = false ∨ (f.ftype ≠ 1 ∧ f.ftype ≠ 2) then 1
  else if tagOk (h.on d R.RNG_CFG_AUTHEN) (h.port d p) f bytes = false then 2
  else if f.ftype = 2 then 4 else 0

/-- The link checks of every frame; the frame where it is clean, with its credit, acknowledgement, NAK and CSREQ applied
(credit before NAK, R176). -/
def Hw.receive (h : Hw) (d p : Nat) (bytes : List Byte) (abort : Bool) : Option Frame × Hw :=
  let f := parseFrame bytes
  let h := h.journalFrame d p (h.frameStatus d p bytes abort) f
  let x := h.port d p
  if abort then (none, (h.bump d R.RNG_PERRD_STOMPRX 1 p).setPort d p { x with csreqDue := true })
  else if frameCrcOk bytes = false ∨ (f.ftype ≠ 1 ∧ f.ftype ≠ 2) then
    (none, ((h.bump d R.RNG_PERRA_FRMERR 1 p).discardFrame d p).score d p 8)
  else if tagOk (h.on d R.RNG_CFG_AUTHEN) x f bytes = false then
    (none, ((h.bump d R.RNG_PERRC_TAGFAIL 1 p).discardFrame d p).score d p 32)
  else
    let h := if h.on d R.RNG_CFG_AUTHEN then h.setPort d p { x with rxLast := some f.txcnt, rxEpoch := rxEpochOf x f.txcnt } else h
    let h := (h.takeCredit d p f.credits).takeAck d p f.ackseq
    let h := if f.csreq then h.setPort d p { h.port d p with syncDue := true } else h
    (some f, if f.nak then h.replay d p else h)

/-- The cell of a frame. -/
def Frame.toCell (f : Frame) : Cell := ⟨f.cell, f.fill, f.klass, f.mcast, f.dnode, f.ddie, f.dq, f.snode, f.sdie, f.hops⟩

/-- A copy of a cell frame that is being cut through to ring output `o` ends in an Abort block (R170): it was linked to its output, has a
TXCNT and no LSEQ, and its credit is taken back. -/
def Hw.stompCopy (h : Hw) (d o : Nat) (c : Cell) : Hw :=
  if h.portUp d o ∧ 1 ≤ h.rd d R.RNG_PCRED_AVAIL o c.klass then
    let h := (h.pushOut d o c.klass).sendFrame d o (cellFrame ⟨(h.port d o).txNext, { c with hops := c.hops + 1 }⟩)
    h.setPort d o { h.port d o with txAborted := true }
  else h

/-- The ring outputs that a received cell goes to. -/
def Hw.cutOutputs (h : Hw) (d p : Nat) (c : Cell) : List Nat :=
  (if c.mcast then (h.owedTo d p c).getD [] else (h.route d c).toList).filter (· < 4)

/-- A frame that a port took for the expected one before its CRC was known turns out bad, or its port is lost (R170, R176): of its outputs
those in `cut` were sending it already. Its cell is then in no queue. -/
def Hw.stompFrame (h : Hw) (d p : Nat) (f : Frame) (cut : List Nat) : Hw :=
  if h.on d R.RNG_CFG_AUTHEN ∨ f.ftype ≠ 1 ∨ f.lseq ≠ (h.port d p).rxNext ∨ f.hops = 1023 then h
  else
    let c : Cell := ⟨f.cell, f.fill, f.klass, f.mcast, f.dnode, f.ddie, f.dq, f.snode, f.sdie, f.hops⟩
    each ((h.cutOutputs d p c).filter cut.contains) (fun o h => h.stompCopy d o c) h

/-- A cell whose frame was accepted is discarded at the input: its credit returns. -/
def Hw.dropArrival (h : Hw) (d p c : Nat) (ask : Bool) : Hw :=
  let x := h.port d p
  h.setPort d p { x with csreqDue := x.csreqDue || ask, freed := x.freed.upd 0 c fun n => (n + 1) % 2 ^ 32 }

/-- A broadcast write that this node takes from one ring goes on to the rings of its other dies that the issuer is not on (R32, LOG 63). -/
def Hw.relayBroadcast (h : Hw) (d : Nat) (c : Cell) : Hw :=
  if c.klass = 1 ∧ c.snode ≠ h.nodeId ∧ h.broadcastDie c.snode = some d then
    each ((List.range h.dies).filter fun e => e != d && (h.towardsDie d e).isSome && !(h.attached e).isEmpty && (h.posOf e c.snode).isNone)
      (fun e h => h.offer e 7 c) h
  else h

/-- A clean cell frame (R162, R165): the expected one is accepted and presented; a presence cell is applied before
anything later is forwarded (R198), one of this node's own is discarded (R182); any other LSEQ asks for a replay once. -/
def Hw.acceptCell (h : Hw) (d p : Nat) (f : Frame) : Hw :=
  let x := h.port d p
  if f.lseq = x.rxNext then
    let h := h.setPort d p { x with rxNext := (x.rxNext + 1) % 256, ignoring := false }
    if f.hops = 1023 then (h.bump d R.RNG_PERRD_HOPDROP 1 p).dropArrival d p f.klass true
    else if f.mcast ∧ f.dq = 0x1FFF ∧ h.ownCell d f.cell ∧ leAt f.cell 0 1 = 0x10 then h.dropArrival d p f.klass false
    else
      let h := if f.mcast ∧ f.dq = 0x1FFF then (h.applyPresence d f.cell).relayBroadcast d f.toCell else h
      h.present d p ⟨f.toCell, none⟩
  else if x.ignoring then h
  else h.setPort d p { x with nakDue := true, ignoring := true }

/-- Sync-header and unassigned control block errors met before a frame (R131, R136). -/
def Hw.blockErrors (h : Hw) (d p n : Nat) : Hw := (h.bump d R.RNG_PERRA_BLKERR n p).score d p n

/-- A frame on a port in Training, where only control frames pass: a failed CRC is counted and scored (R132, R136). -/
def Hw.trainingFrame (h : Hw) (d p : Nat) (bytes : List Byte) (abort : Bool) : Hw :=
  if abort ∨ frameCrcOk bytes then h else (h.bump d R.RNG_PERRA_FRMERR 1 p).score d p 8

/-- CELL_FRAME (R165, R170, R176): a cell frame arrives on an Active or Passive port; `cut` are the ring outputs that send it before its
CRC is known. A sleeping node listens for its wake only (R35). -/
def cellFrameIn (d p : Nat) (bytes : List Byte) (abort : Bool) (blkErr : Nat) (cut : List Nat) (h : Hw) : Hw :=
  if h.node.state = .sleep then h
  else if h.rd d R.RNG_PSTAT_STATE p = 1 then (h.blockErrors d p blkErr).trainingFrame d p bytes abort
  else if h.portUp d p then
    let h := h.blockErrors d p blkErr
    if h.portUp d p = false then h.stompFrame d p (parseFrame bytes) cut
    else
      match h.receive d p bytes abort with
      | (some f, h) =>
        if f.ftype = 1 then h.acceptCell d p f else h
      | (none, h) => h.stompFrame d p (parseFrame bytes) cut
  else h

def execCellFrame (die : Die) (port : Fin 4) (bytes : List Byte) (abort : Bool) (blkErr : Nat) (cut : List (Fin 4)) (s : State) :
    Host.Outcome State Fault Refusal :=
  s.onDie die (cellFrameIn die.val port.val bytes abort blkErr (cut.map (·.val)))

/-- A link control frame: the message of a clean one on a port that is up. -/
def Hw.controlMsg (h : Hw) (d p : Nat) (bytes : List Byte) : Option (List Byte) × Hw :=
  if h.portUp d p then
    match h.receive d p bytes false with
    | (some f, h) => (if f.ftype = 2 then some f.cell else none, h)
    | (none, h) => (none, h)
  else (none, h)

/-- KEEPALIVE (R163): a plain keepalive returns credit and acknowledges, and nothing more. -/
def keepalive (d p : Nat) (bytes : List Byte) (h : Hw) : Hw := (h.controlMsg d p bytes).2

def execKeepalive (die : Die) (port : Fin 4) (bytes : List Byte) (s : State) : Host.Outcome State Fault Refusal :=
  s.onDie die (keepalive die.val port.val bytes)

/-- Credit from a sync: INITCRED + FREED − USED for each class (R169). -/
def Hw.applySync (h : Hw) (d p : Nat) (m : List Byte) : Hw :=
  iter 4 (fun c h =>
    let x := h.port d p
    let freed := leAt m (4 + 4 * c) 4
    let v := (h.rd d R.RNG_PCRED_INIT p c + freed + 2 ^ 32 - x.used.get 0 c % 2 ^ 32) % 2 ^ 32
    (h.setPort d p { x with lastCredit := x.lastCredit.put 0 c (freed % 256) }).wr d R.RNG_PCRED_AVAIL (min v 65535) p c) h

/-- CREDIT_SYNC (R169). -/
def creditSync (d p : Nat) (bytes : List Byte) (h : Hw) : Hw :=
  match h.controlMsg d p bytes with
  | (some m, h) => if leAt m 0 2 = 0x0103 then h.applySync d p m else h
  | (none, h) => h

def execCreditSync (die : Die) (port : Fin 4) (bytes : List Byte) (s : State) : Host.Outcome State Fault Refusal :=
  s.onDie die (creditSync die.val port.val bytes)

/-! ## Training (R133, R134) -/

/-- The training exchange that a port sends (R163). -/
def Hw.exchangeMsg (h : Hw) (d p : Nat) : List Byte :=
  let x := h.port d p
  [0x02, 0x01] ++ leBytes 2 h.nodeId ++ leBytes 1 (d + p * 8) ++ leBytes 1 (h.rd d R.RNG_CFG_RINGNO) ++
  leBytes 1 (h.rd d R.RNG_CFG_AUTHEN) ++ [0] ++ leBytes 2 (h.rd d R.RNG_CFG_LINKKEY) ++ leBytes 4 (low 24 h.nightDom.pcc) ++
  leBytes 2 x.trainCnt ++ (List.range 4).flatMap fun c => leBytes 2 (h.rd d R.SWC_INRES_RES p c)

/-- DESKEW (R133): lanes 1 to 3 are deskewed; with lock on every lane the port sends its exchange, which grants the reservations that it
names (R230, R231). -/
def deskew (d p : Nat) (h : Hw) : Hw :=
  if h.rd d R.RNG_PSTAT_STATE p = 1 ∧ h.rd d R.RNG_PSTAT_LOCK p = 15 ∧ (h.attached d).contains p then
    let res := (List.range 4).foldl (fun (m : SMap Nat) c => m.put 0 c (h.rd d R.SWC_INRES_RES p c)) .empty
    (h.setPort d p { h.port d p with deskewed := true, grants := res }).sendControl d p (h.exchangeMsg d p)
  else h

def execDeskew (die : Die) (port : Fin 4) (s : State) : Host.Outcome State Fault Refusal := s.onDie die (deskew die.val port.val)

/-- What of a peer's exchange disagrees (R134): RING, AUTHEN, KEYID, the partner port; 0 where all agree. -/
def Hw.exchangeDiffers (h : Hw) (d p : Nat) (m : List Byte) : Nat :=
  b2n (leAt m 5 1 != h.rd d R.RNG_CFG_RINGNO) + 2 * b2n (bits (leAt m 6 1) 0 1 != h.rd d R.RNG_CFG_AUTHEN) +
  4 * b2n (leAt m 8 2 != h.rd d R.RNG_CFG_LINKKEY) + 8 * b2n (bits (leAt m 4 1) 3 2 != onwardPort p)

/-- The boot request that a ring boot sends on a trained port (R93): a class-0 cell for the peer's management with the
variant, die count, SLOT, generation floor and the ring position and port at which it enters the ring (R180, LOG 60). -/
def Hw.bootRequest (h : Hw) (d p : Nat) : Cell :=
  blankCell 0 (h.rd d R.RNG_PPEER_NODE p) (h.port d p).peerDie 552 h.nodeId d
    (slice (Config.bootRequest [h.part.maskBit, h.dies, h.slotNo, h.otp.genFloor, (h.posOf d h.nodeId).getD 0, d, p]) 0 64)

/-- Training is complete (R132, R133): initial credits; Active, or Passive when leaving Off or with the score at PASSTH.
In a ring boot the port sends its boot request (R93). -/
def Hw.trainingComplete (h : Hw) (d p : Nat) : Hw :=
  let x := h.port d p
  let h := iter 4 (fun c h => h.wr d R.RNG_PCRED_AVAIL (h.rd d R.RNG_PCRED_INIT p c) p c) h
  let passive := x.leavingOff || decide (h.rd d R.RNG_LES_PASSTH ≤ h.rd d R.RNG_PSTAT_LES p)
  let h := h.setPort d p { x with
    leavingOff := false, lastFailure := none, txNext := 0, outstanding := [], used := .empty, lastCredit := .empty
    retries := 0, nakDue := false, csreqDue := false, syncDue := false, rxNext := 0, ignoring := false
    freed := .empty, sentFreed := .empty, presenceFirst := false, heardPeer := false, activeFrom := h.now }
  let h := h.movePort d p (if passive then 3 else 2)
  let h := if h.dawn.ringBoot ∧ h.cfg.committed = false then h.linkOut d p 7 ⟨h.bootRequest d p, none⟩ else h
  (h.endFault d 0x01 p).buildMap d |>.checkGuar

/-- The session keys of a port (R548): each direction's tuple of the sender, then the receiver. -/
def tuple (node die port powcyc cnt : Nat) : List Byte :=
  leBytes 2 node ++ leBytes 1 die ++ leBytes 1 port ++ leBytes 3 powcyc ++ leBytes 2 cnt

/-- The ASCII bytes of a label. -/
def ascii (s : String) : List Byte := s.toList.map fun c => BitVec.ofNat 8 c.toNat

def Hw.deriveSession (h : Hw) (d p : Nat) : Hw :=
  let x := h.port d p
  match h.deliver d (h.rd d R.RNG_CFG_LINKKEY) 0 with
  | (none, h) => h
  | (some k, h) =>
    let own := tuple h.nodeId d p (low 24 h.nightDom.pcc) x.trainCnt
    let peer := tuple (h.rd d R.RNG_PPEER_NODE p) x.peerDie (h.rd d R.RNG_PPEER_PORT p) x.peerPow x.peerCnt
    h.setPort d p { x with
      sessionTx := some (Config.kdf k (ascii "OPIOR-LINK-SESS") (own ++ peer) 256)
      sessionRx := some (Config.kdf k (ascii "OPIOR-LINK-SESS") (peer ++ own) 256)
      txCnt := 0, txEpoch := 0, rxLast := none, rxEpoch := 0 }

/-- A training exchange (R134): the peer's exchange is compared; one event is recorded for each run of identical failures. -/
def trainingExchange (d p : Nat) (m : List Byte) (h : Hw) : Hw :=
  let x := h.port d p
  if h.rd d R.RNG_PSTAT_STATE p ≠ 1 ∨ x.deskewed = false ∨ h.rd d R.RNG_PSTAT_LOCK p ≠ 15 ∨ ¬(h.attached d).contains p ∨
      leAt m 0 2 ≠ 0x0102 then h
  else
    let why := h.exchangeDiffers d p m
    let h := ((h.wr d R.RNG_PPEER_NODE (leAt m 2 2) p).wr d R.RNG_PPEER_PORT (bits (leAt m 4 1) 3 2) p).wr d R.RNG_PPEER_RING (leAt m 5 1) p
    if why ≠ 0 then
      let h := if x.lastFailure = some why then h else h.report d (8 + p) .portTraining why
      (h.setPort d p { x with lastFailure := some why }).trainingFailed d p
    else
      let h := h.setPort d p { x with peerDie := bits (leAt m 4 1) 0 3, peerPow := low 24 (leAt m 10 4), peerCnt := leAt m 14 2 }
      let h := iter 4 (fun c h => h.wr d R.RNG_PCRED_INIT (leAt m (0x10 + 2 * c) 2) p c) h
      if h.on d R.RNG_CFG_AUTHEN then
        let h := h.deriveSession d p
        if (h.port d p).sessionTx = none then h.trainingFailed d p else h.sendControl d p [0x01]
      else h.trainingComplete d p

/-- TRAINING_EXCHANGE (R133, R134, R136, R175): the peer's exchange arrives in a control frame, which is journaled; a failed CRC is counted and
scored. -/
def exchangeFrame (d p : Nat) (bytes : List Byte) (h : Hw) : Hw :=
  if h.rd d R.RNG_PSTAT_STATE p ≠ 1 then h
  else if frameCrcOk bytes && (parseFrame bytes).ftype == 2 then
    trainingExchange d p (parseFrame bytes).cell (h.journalFrame d p 4 (parseFrame bytes))
  else (h.journalFrame d p 1 (parseFrame bytes)).trainingFrame d p bytes false

def execTrainingExchange (die : Die) (port : Fin 4) (bytes : List Byte) (s : State) : Host.Outcome State Fault Refusal :=
  s.onDie die (exchangeFrame die.val port.val bytes)

/-- The peer's first tagged frame in Training and its check (R133): a good one completes training, one that fails its tag ends the attempt;
each failure is counted and scored (R136). -/
def Hw.authResult (h : Hw) (d p status : Nat) (f : Frame) : Hw :=
  let x := h.port d p
  if status = 4 then
    let h := (h.setPort d p { x with rxLast := some f.txcnt, rxEpoch := rxEpochOf x f.txcnt }).wr d R.RNG_PSTAT_AUTHOK 1 p
    h.trainingComplete d p
  else if status = 1 then (h.bump d R.RNG_PERRA_FRMERR 1 p).score d p 8
  else
    let h := (h.bump d R.RNG_PERRC_TAGFAIL 1 p).score d p 32
    let h := if x.lastFailure = some 16 then h else h.report d (8 + p) .portAuthFail 16
    (h.setPort d p { h.port d p with lastFailure := some 16 }).trainingFailed d p

/-- TRAINING_AUTH_FRAME (R133, R175): the peer's control frame under the new session key; the result of its check is journaled. -/
def trainingAuthFrame (d p : Nat) (bytes : List Byte) (h : Hw) : Hw :=
  let x := h.port d p
  let f := parseFrame bytes
  let status := if !frameCrcOk bytes then 1 else if tagOk true x f bytes then 4 else 2
  if h.rd d R.RNG_PSTAT_STATE p ≠ 1 ∨ h.on d R.RNG_CFG_AUTHEN = false ∨ x.sessionRx = none then h
  else (h.journalFrame d p status f).authResult d p status f

def execTrainingAuthFrame (die : Die) (port : Fin 4) (bytes : List Byte) (s : State) : Host.Outcome State Fault Refusal :=
  s.onDie die (trainingAuthFrame die.val port.val bytes)

end Sys2Proof.Machine
end

