-- ==== Sys2Proof/Machine/Time.lean ====
section
/-!
DEFINITION. Fabric time (chapter "Fabric time", R400 to R422): the servo, the time master, delay exchange, calendar, UTC
offset and PPS_OUT. Times are in the units of `Ftm.time`.
-/

namespace Sys2Proof.Machine

/-- 500 ppm in units of 2⁻⁴⁸ (R400). -/
def ppm500 : Int := 140737488355

/-- Is this die on the ring that gives time, by its own FTM_CFG.SRCRING (R402)? -/
def Hw.onSrcRing (h : Hw) (d : Nat) : Bool := !(h.attached d).isEmpty && h.rd d R.RNG_CFG_RINGNO == h.rd d R.FTM_CFG_SRCRING

/-- Is the node originating trains on SRCRING (R403)? -/
def Hw.timeOriginator (h : Hw) : Option Nat :=
  (List.range h.dies).find? fun d => h.onSrcRing d && h.on d R.RNG_CMSTAT_ORIG

/-- Is the node the time master now (R403)? -/
def Hw.timeMaster (h : Hw) : Bool :=
  match h.timeOriginator with
  | some d => h.on d R.FTM_CFG_TMROLE
  | none => false

/-- The source die (R402): the owner at a time master, else the lowest die on SRCRING with a port whose DLYOK is 1, else
the lowest on SRCRING. -/
def Hw.sourceDie (h : Hw) : Nat :=
  if h.timeMaster then h.node.owner
  else
    let ds := (List.range h.dies).filter h.onSrcRing
    match ds.find? fun d => [0, 1, 2, 3].any fun p => h.on d R.FTM_PDLY_DLYOK p with
    | some d => d
    | none => ds.headD 0

/-- FTM_STAT.TSTATE. -/
def Hw.tstate (h : Hw) : Nat := h.rd 0 R.FTM_STAT_TSTATE

def Hw.setTstate (h : Hw) (v : Nat) : Hw := (h.wr 0 R.FTM_STAT_TSTATE v).wr 0 R.FTM_CMD_ACCEPT (b2n (v == 3))

/-- Write the UTCOFF in force on every die. -/
def Hw.setInForce (h : Hw) (v : Nat) : Hw := h.eachDie fun d h => h.wr d R.FTM_UTC_INFORCE v

/-- The Night calendar takes fabric time (R419). -/
def Hw.setCalendar (h : Hw) : Hw :=
  { h with nightDom.cal := h.fabricNs * 2 ^ 15 / 1000000000, nightDom.calAt := h.now }

/-- The step (R413, R415): fabric time takes the reference, once since Dawn. -/
def Hw.stepTime (h : Hw) (e : Int) (master : Bool) : Hw :=
  let h := { h with ftm.time := ((h.ftm.time : Int) + e).toNat, ftm.ri := 0, ftm.r := 0 }
  let h := ((h.wr 0 R.FTM_STAT_STEPPED 1).wr 0 R.FTM_STAT_VALID 1).setTstate (if master then 4 else 1)
  (h.report h.node.owner 0x98 .timeStep 0).setCalendar

/-- FTM_OFFS: the last e in 2⁻⁴ ns, saturating. -/
def offsValue (e : Int) : Nat :=
  toTwos 32 (clampInt (-(2 ^ 31)) (2 ^ 31 - 1) (e.fdiv (unitsPerNs / 16 : Nat)))

/-- The servo's answer to an error within the threshold (R413). -/
def Hw.servo (h : Hw) (d : Nat) (e : Int) (p : Nat) : Hw :=
  let y := (e * 2 ^ 48).fdiv (max 1 p : Nat)
  let ri := clampInt (-ppm500) ppm500 (h.ftm.ri + y.fdiv (2 ^ h.rd d R.FTM_SERVO_KISH : Nat))
  let r := clampInt (-ppm500) ppm500 (ri + y.fdiv (2 ^ h.rd d R.FTM_SERVO_KPSH : Nat))
  { h with ftm.ri := ri, ftm.r := r }

/-- A time input (R413): e, the reference less the node's own time at the same instant, and p, the time since the input
before it. -/
def Hw.timeInput (h : Hw) (e : Int) (p : Nat) (master : Bool) : Hw :=
  let d := h.sourceDie
  let th : Int := (h.rd d R.FTM_JUMP_JUMPTH * unitsPerNs : Nat)
  let small : Bool := decide (e.natAbs ≤ th.natAbs)
  let track : Nat := if master then 4 else 1
  let h : Hw := { (h.wr 0 R.FTM_OFFS_VALUE (offsValue e)) with ftm.missed := 0, ftm.lastInput := h.now }
  let h := if master then h.wr 0 R.FTM_STAT_TMASTER h.nodeId else h
  if h.on 0 R.FTM_STAT_STEPPED = false then h.stepTime e master
  else if h.tstate = 3 then
    let h : Hw := { h with ftm.r := if 0 < e then ppm500 else -ppm500 }
    if small then { h.setTstate track with ftm.ri := 0 } else h
  else if h.tstate = 2 then
    let g : Nat := if small then h.ftm.good + 1 else 0
    let h := { h with ftm.good := g }
    if g = 8 then h.setTstate track else h
  else if small then (h.setTstate track).servo d e p
  else
    let h := (((h.flag 0 R.FTM_STAT_JUMP).bump 0 R.FTM_CNT_REFUSE).report h.node.owner 0x98 .timeJump 0).raiseMsixNode 53
    { h.setTstate 2 with ftm.r := h.ftm.ri, ftm.good := 0 }

/-- Entry to holdover with r := ri (R410, R414). -/
def Hw.enterHoldover (h : Hw) : Hw :=
  if h.on 0 R.FTM_STAT_STEPPED ∧ h.tstate ≠ 2 then
    ({ h.setTstate 2 with ftm.r := h.ftm.ri, ftm.good := 0 }).report h.node.owner 0x98 .timeHoldover 0
  else h

/-- Is this the source die of a node that takes its time from trains (R402, R403)? -/
def Hw.followsOn (h : Hw) (d : Nat) : Bool := h.onSrcRing d && h.timeOriginator == none && d == h.sourceDie

/-- A window of R159 passes without a time input; the third brings holdover (R414). -/
def Hw.timeWindowMissed (h : Hw) (d : Nat) : Hw :=
  if h.followsOn d then
    let h := { h with ftm.missed := h.ftm.missed + 1 }
    if 3 ≤ h.ftm.missed then h.enterHoldover else h
  else h

/-- The limit of R414 is reached in the core cycle of a time input: the input is accepted, and MARGIN counts (R422). -/
def Hw.timeWindowMargin (h : Hw) (d : Nat) : Hw :=
  if h.followsOn d ∧ h.ftm.missed = 2 then h.bump 0 R.FTM_CNT_MARGIN else h

/-! ## Trains (R405, R412) -/

/-- The fabric time of the train start at the receive boundary: FTIME + CORR + LINKDLY (R412). -/
def trainTime (x : TrainHdr) (linkDly : Nat) : Int :=
  (x.ftimeNs * unitsPerNs + x.ftimeFr * unitsPerNs / 2 ^ 32 : Nat) + (signed 64 x.corr * unitsPerNs).fdiv (2 ^ 16 : Nat) +
    (linkDly * unitsPerNs / 16 : Nat)

/-- An accepted train of SRCRING gives time (R403, R412 to R415, R418); `d` is the die whose port received it. -/
def Hw.timeFromTrain (h : Hw) (d p : Nat) (x : TrainHdr) (startTime : Nat) : Hw :=
  if h.onSrcRing d ∧ h.timeOriginator = none then
    let h := ((h.wr 0 R.FTM_STAT_TVALIDRX (b2n (bit x.flags 3))).wr 0 R.FTM_STAT_TMASTER x.tmaster).setInForce x.utcOff
    if bit x.flags 3 = false then h.enterHoldover
    else if h.on d R.FTM_PDLY_DLYOK p then
      let e := trainTime x (h.rd d R.FTM_PDLY_LINKDLY p) - (startTime : Int)
      h.timeInput e ((h.now - h.ftm.lastInput) * 4 * 2 ^ 48) false
    else h.timeWindowMissed h.sourceDie
  else h

/-! ## The time master (R406 to R410) -/

/-- Two BCD digits, where both are valid. -/
def bcd2 (v : Nat) : Option Nat :=
  if v % 16 ≤ 9 ∧ v / 16 % 16 ≤ 9 then some (v / 16 % 16 * 10 + v % 16) else none

/-- Is a year of this century a leap year? -/
def leap (y : Nat) : Bool := (y % 4 == 0 && y % 100 != 0) || y % 400 == 0

/-- Days from 1970-01-01 to the first day of a year. -/
def daysTo (y : Nat) : Nat := ((List.range (y - 1970)).map fun k => if leap (1970 + k) then 366 else 365).sum

/-- The UTC second that a time-of-year word and a year word name; none for an invalid digit or date (R407, R408). -/
def labelSeconds (toy year : Nat) : Option Nat :=
  match bcd2 (bits toy 0 7), bcd2 (bits toy 7 7), bcd2 (bits toy 14 6), bcd2 (bits toy 20 8), bcd2 (bits year 0 8) with
  | some s, some m, some hr, some dl, some y =>
    let day := bits toy 28 2 * 100 + dl
    let yr := 2000 + y
    if s ≤ 60 ∧ m ≤ 59 ∧ hr ≤ 23 ∧ 1 ≤ day ∧ day ≤ (if leap yr then 366 else 365) then
      some ((daysTo yr + day - 1) * 86400 + hr * 3600 + m * 60 + s)
    else none
  | _, _, _, _, _ => none

/-- A label error (R408, R409). -/
def Hw.labelError (h : Hw) : Hw :=
  ((h.flag 0 R.FTM_STAT_LABERR).bump 0 R.FTM_CNT_LABERRCNT).report h.node.owner 0x98 .timeLabel 0

/-- The distance of two instants. -/
def apart (a b : Nat) : Nat := (a - b) + (b - a)

/-- The TAI second of a label, with the UTC offset in force. -/
def Hw.labelTai (h : Hw) (utc : Nat) : Nat := ((utc : Int) + signed 16 (h.rd 0 R.FTM_UTC_INFORCE)).toNat

/-- A complete label meets the second edge within 1.000 ms of its on-time instant (R408, R409): the first one steps the
clock, each later one is checked. -/
def Hw.pairLabel (h : Hw) (utc onTime : Nat) : Hw :=
  let h := { h with ftm.label := none }
  match h.ftm.lastEdge with
  | none => h.labelError
  | some t =>
    if apart t onTime ≤ 1000000 * unitsPerNs then
      let tai := h.labelTai utc
      if h.on 0 R.FTM_STAT_STEPPED then
        if (t + 500000000 * unitsPerNs) / (1000000000 * unitsPerNs) = tai then h else h.labelError
      else h.timeInput (((tai * 1000000000 * unitsPerNs : Nat) : Int) - (t : Int)) (1000000000 * unitsPerNs) true
    else h.labelError

/-- A label is complete: it is paired with the last second edge, or, while an edge within 1.000 ms of its on-time instant can still come,
it waits for that edge (R408). -/
def Hw.takeLabel (h : Hw) (utc onTime : Nat) : Hw :=
  let met := h.ftm.lastEdge.any fun t => decide (apart t onTime ≤ 1000000 * unitsPerNs)
  if !met && decide (h.ftm.time ≤ onTime + 1000000 * unitsPerNs) then { h with ftm.label := some (utc, onTime) } else h.pairLabel utc onTime

/-- Has the time master's fabric time reached UTCAT, and has NEXTOFF not applied for it yet (R418)? -/
def Hw.utcDue (h : Hw) : Bool :=
  let at' := h.rd h.node.owner R.FTM_UTCAT_UTCAT
  h.timeMaster && at' != 0 && at' != h.ftm.utcDone && decide (at' ≤ h.fabricNs / 1000000000)

/-- The time master's fabric time reaches UTCAT: UTCOFF in force becomes NEXTOFF, with an event (R418). -/
def Hw.reachUtcAt (h : Hw) : Hw :=
  let d := h.node.owner
  if h.utcDue then
    let h := { h with ftm.utcDone := h.rd d R.FTM_UTCAT_UTCAT }
    (h.setInForce (h.rd d R.FTM_LEAP_NEXTOFF)).report d 0x98 .utcChange (h.rd d R.FTM_LEAP_NEXTOFF)
  else h

/-- SECOND_EDGE (R406, R409, R410): a rising edge of PPS_IN, or the on-time word of IRIG-B, less its delay. After the step
the servo runs with P = 1 s; a label that waits is paired. A UTCAT reached by then applies first (R422). An edge of PPS_IN is
journaled (R517). -/
def secondEdge (h : Hw) : Hw :=
  if h.timeMaster then
    let irig := h.on h.node.owner R.FTM_CFG_PPSSRC
    let h := (if irig then h else h.eachDie fun e h => h.journal e 0xC 0).reachUtcAt
    let at? := if irig then h.ftm.onTime else some (h.ftm.time - h.rd h.node.owner R.FTM_REFDLY_PPSDLY * unitsPerNs)
    match at? with
    | none => h
    | some t =>
      let h := { h with ftm.lastEdge := some t, ftm.lastInput := h.now }
      let s := 1000000000 * unitsPerNs
      let near := (t + s / 2) / s * s
      let h := if h.on 0 R.FTM_STAT_STEPPED then h.timeInput ((near : Int) - (t : Int)) s true else h
      match h.ftm.label with
      | some (utc, o) => h.pairLabel utc o
      | none => h
  else h

def execSecondEdge (s : State) : Host.Outcome State Fault Refusal := s.on secondEdge

/-- An on-time word (R408): the label before it, where it still waits, cannot be paired any more. -/
def Hw.onTimeWord (h : Hw) (t : Nat) : Hw :=
  let h := if h.ftm.label.isSome then { h with ftm.label := none }.labelError else h
  { h with ftm.onTime := some t, ftm.toy := none, ftm.year := none }

/-- A tapped STORE gives the time logic a word (R407, R408); `lead` is how long ago the STORE's cycle began. -/
def Hw.irigWord (h : Hw) (w : Word) (lead : Nat) : Hw :=
  let tag := bits w.toNat 30 2
  if tag = 3 then
    h.onTimeWord (h.ftm.time - lead - h.rd h.node.owner R.FTM_REFDLY_IRDLY * unitsPerNs)
  else
    let h := if tag = 1 then { h with ftm.toy := some (bits w.toNat 0 30) }
      else if tag = 2 then { h with ftm.year := some (bits w.toNat 0 8) } else h
    match h.ftm.onTime, h.ftm.toy, h.ftm.year with
    | some o, some y, some n =>
      let h := { h with ftm.toy := none, ftm.year := none }
      match labelSeconds y n with
      | none => h.labelError
      | some utc => if h.timeMaster then h.takeLabel utc o else h
    | _, _, _ => h

/-- PPS_LOSS (R410): 1.5 s without a second edge. An edge in the same cycle is accepted, and MARGIN counts (R422). -/
def ppsLoss (edgeSame : Bool) (h : Hw) : Hw :=
  if h.timeMaster then
    if edgeSame then h.bump 0 R.FTM_CNT_MARGIN
    else ((h.flag 0 R.FTM_STAT_PPSLOSS).report h.node.owner 0x98 .ppsLoss 0).enterHoldover
  else h

def execPpsLoss (edgeSame : Bool) (s : State) : Host.Outcome State Fault Refusal := s.on (ppsLoss edgeSame)

/-- FTM_ACCEPT (R416): an accepted amend writing 1 starts slewing; a node that has not stepped has nothing to accept. -/
def ftmAccept (h : Hw) : Hw := if h.on 0 R.FTM_STAT_STEPPED then h.setTstate 3 else h

def execFtmAccept (s : State) : Host.Outcome State Fault Refusal := s.on ftmAccept

/-- UTC_OFFSET_CHANGE (R418). -/
def utcOffsetChange (h : Hw) : Hw := h.reachUtcAt

def execUtcOffsetChange (s : State) : Host.Outcome State Fault Refusal := s.on utcOffsetChange

/-- CALENDAR_SET (R419): every 60 s while VALID = 1. -/
def calendarSet (h : Hw) : Hw := if h.timeValid then h.setCalendar else h

def execCalendarSet (s : State) : Host.Outcome State Fault Refusal := s.on calendarSet

/-- PPS_OUT_PULSE (R420): at a second boundary of valid fabric time PPS_OUT goes high for 100 ms. -/
def ppsOutPulse (h : Hw) : Hw := if h.timeValid then { h with ftm.ppsUntil := h.now + 125000000 } else h

def execPpsOutPulse (s : State) : Host.Outcome State Fault Refusal := s.on ppsOutPulse

/-! ## Delay exchange (R411) -/

/-- The raw stamp counter, in units of 2⁻⁴ ns. -/
def Hw.rawStamp (h : Hw) : Nat := h.now * 64 / 5 % 2 ^ 64

/-- DELAY_REQUEST_SEND (R411). -/
def delayRequestSend (d p : Nat) (h : Hw) : Hw :=
  if h.portUp d p then
    let k := (h.ftm.kseq.get 0 (d * 4 + p) + 1) % 65536
    ({ h with ftm.kseq := h.ftm.kseq.put 0 (d * 4 + p) k }).sendControl d p
      ([0x01, 0x01] ++ leBytes 2 k ++ List.replicate 4 0 ++ leBytes 8 h.rawStamp)
  else h

def execDelayRequestSend (die : Die) (port : Fin 4) (s : State) : Host.Outcome State Fault Refusal :=
  s.onDie die (delayRequestSend die.val port.val)

/-- DELAY_REQUEST (R411): answered by the next frame; `turn` is the raw time from its arrival to the answer's start. -/
def delayRequest (d p : Nat) (bytes : List Byte) (turn : Nat) (h : Hw) : Hw :=
  match h.controlMsg d p bytes with
  | (some m, h) =>
    if leAt m 0 2 = 0x0101 then
      h.sendControl d p ([0x01, 0x02] ++ slice m 2 2 ++ List.replicate 4 0 ++ slice m 8 8 ++ leBytes 4 turn)
    else h
  | (none, h) => h

def execDelayRequest (die : Die) (port : Fin 4) (bytes : List Byte) (turn : Word) (s : State) : Host.Outcome State Fault Refusal :=
  s.onDie die (delayRequest die.val port.val bytes turn.toNat)

/-- The mean of the last 16 accepted delays, DLYOK at the 16th (R411). -/
def Hw.addDelay (h : Hw) (d p : Nat) (v : Int) : Hw :=
  let l := (h.ftm.delays.get [] (d * 4 + p) ++ [v])
  let l := l.drop (l.length - 16)
  let h := { h with ftm.delays := h.ftm.delays.put [] (d * 4 + p) l }
  if l.length = 16 then
    (h.wr d R.FTM_PDLY_LINKDLY (toTwos 24 (l.sum.fdiv 16)) p).wr d R.FTM_PDLY_DLYOK 1 p
  else h

/-- DELAY_RESPONSE (R411): arriving at raw stamp t4; one whose TURN exceeds 1,250 ns is discarded. -/
def delayResponse (d p : Nat) (bytes : List Byte) (t4 : Nat) (h : Hw) : Hw :=
  match h.controlMsg d p bytes with
  | (some m, h) =>
    let turn := leAt m 0x10 4
    if leAt m 0 2 = 0x0201 ∧ turn ≤ 20000 ∧ h.portUp d p then
      h.addDelay d p (((t4 : Int) - (leAt m 8 8 : Int) - (turn : Int)).fdiv 2 + h.rdInt d R.FTM_PASYM_ASYM p)
    else h
  | (none, h) => h

def execDelayResponse (die : Die) (port : Fin 4) (bytes : List Byte) (stamp : Dword) (s : State) : Host.Outcome State Fault Refusal :=
  s.onDie die (delayResponse die.val port.val bytes stamp.toNat)

/-! ## Clock checks (R588) -/

/-- FTIME_COMPARE (R588): a die's time against the source die's, in units of 2⁻⁴ ns; FTM_DIV beyond 4 ns. -/
def ftimeCompare (d : Nat) (diff : Int) (h : Hw) : Hw :=
  if d ≠ h.sourceDie ∧ 64 < diff.natAbs then h.raiseFault d 0x04 0 else h

def execFtimeCompare (die : Die) (diff : Int) (s : State) : Host.Outcome State Fault Refusal :=
  s.onDie die (ftimeCompare die.val diff)

/-- CLOCK_MONITOR (R588): the core clock's deviation in ppm; CLK_MON beyond 1 %. -/
def clockMonitor (d : Nat) (ppm : Int) (h : Hw) : Hw := if 10000 < ppm.natAbs then h.raiseFault d 0x05 0 else h

def execClockMonitor (die : Die) (ppm : Int) (s : State) : Host.Outcome State Fault Refusal :=
  s.onDie die (clockMonitor die.val ppm)

end Sys2Proof.Machine
end

