-- ==== Sys2Proof/Machine/Phase.lean ====
section
/-!
DEFINITION. The phase trackers (chapter "Phase scheduler", R362 to R381): measurements, the tracking loop, loss of source,
phase slots and sample records, and the crossings of the Phase Event Table that follow a tracker (R382).
-/

namespace Sys2Proof.Machine

/-! ## State of a tracker -/

def Hw.trk (h : Hw) (d t : Nat) : Trk := h.trks.get .init (d * 8 + t)

def Hw.setTrk (h : Hw) (d t : Nat) (x : Trk) : Hw := { h with trks := h.trks.put .init (d * 8 + t) x }

def Hw.evt (h : Hw) (d : Nat) : Evt := h.evts.get .init d

def Hw.setEvt (h : Hw) (d : Nat) (x : Evt) : Hw := { h with evts := h.evts.put .init d x }

/-- PHS_TSTAT.STATE (R373): 0 Off, 1 Acquiring, 2 Locked, 3 Holdover, 4 Stopped, 5 Faulted. -/
def Hw.trkState (h : Hw) (d t : Nat) : Nat := h.rd d R.PHS_TSTAT_STATE t

/-- θ at the present core cycle (R369), modulo 2⁹⁶. -/
def Hw.thetaNow (h : Hw) (d t : Nat) : Nat :=
  let x := h.trk d t
  toTwos 96 ((x.theta : Int) + x.w * ((h.now : Int) - (x.thetaAt : Int)))

/-- The reported estimate, a PhaseWord (R369). -/
def Hw.estimate (h : Hw) (d t : Nat) : Nat := h.thetaNow d t / 2 ^ 32

/-- Division rounded to the nearest, ties away from zero. -/
def roundAway (n : Int) (m : Nat) : Int := if 0 ≤ n then (2 * n + m).fdiv (2 * m : Nat) else -((2 * -n + m).fdiv (2 * m : Nat))

/-- VEL of a velocity in 2⁻⁶⁴ turn per core cycle (R363). -/
def velOf (w : Int) : Int := clampInt (-(2 ^ 31 - 1)) (2 ^ 31 - 1) (roundAway (w * 1250) (2 ^ 32))

/-- Does a tracker's estimate drive events (R373)? -/
def Hw.trkFires (h : Hw) (d t : Nat) : Bool :=
  h.trkState d t == 2 || (h.trkState d t == 3 && !h.on d R.PHS_TCFG_HOLDACT t)

/-- PHS_PEND follows the pending list. -/
def Hw.setPending (h : Hw) (d : Nat) (l : List Nat) : Hw :=
  let h := (h.setEvt d { h.evt d with pending := l }).wr d R.PHS_PEND_PENDING l.length
  if h.rd d R.PHS_PEND_PENDHW < l.length then h.wr d R.PHS_PEND_PENDHW l.length else h

/-! ## Next crossings (R382) -/

/-- TRIG of an entry. -/
def Hw.trig (h : Hw) (d e : Nat) : Nat := h.rd d R.PHS_EVTLO_TRIG e + h.rd d R.PHS_EVTHI_TRIG e * 2 ^ 32

/-- The first value congruent to `base` modulo `step` strictly ahead of `est` in the direction, modulo 2⁶⁴. -/
def aheadOf (est base step dir : Nat) : Nat :=
  let r := (base + 2 ^ 64 * step - est) % step
  if dir = 0 then low 64 (est + if r = 0 then step else r)
  else
    let b := (step - r) % step
    low 64 (est + 2 ^ 64 - if b = 0 then step else b)

/-- NEXT at initialisation (R382). -/
def Hw.firstNext (h : Hw) (d e : Nat) : Nat :=
  let est := h.estimate d (h.rd d R.PHS_EVTC_TRK e)
  let dir := h.rd d R.PHS_EVTC_DIR e
  match h.rd d R.PHS_EVTC_MODE e with
  | 0 => h.trig d e
  | 3 =>
    let n := max 1 (h.rd d R.PHS_EVTC_N e)
    let delta := signed 64 (low 64 (h.trig d e + 2 ^ 64 - est))
    let step := (n * 2 ^ 32 : Nat)
    let k := delta % (step : Int)
    if dir = 0 then toTwos 64 ((est : Int) + if k = 0 then (step : Int) else k)
    else toTwos 64 ((est : Int) - if k = 0 then (step : Int) else (step : Int) - k)
  | _ => aheadOf est (low 32 (h.trig d e)) (2 ^ 32) dir

/-- Initialise NEXT of one entry (R382). -/
def Hw.initNext (h : Hw) (d e : Nat) : Hw :=
  let x := h.evt d
  (h.setEvt d { x with next := x.next.put none e (some (h.firstNext d e)) }).setPending d (x.pending.filter (· != e))

/-- The entries of a die whose control word is not at its reset value. -/
def Hw.usedEntries (h : Hw) (d : Nat) : List Nat :=
  h.regs.entries.filterMap fun (k, _) =>
    let off := k % 0x200000
    if k / 0x200000 = d ∧ 0x74000 ≤ off ∧ off < 0x78000 ∧ off % 4 = 0 then some ((off - 0x74000) / 4) else none

/-- Is an entry enabled and armed? -/
def Hw.armed (h : Hw) (d e : Nat) : Bool := h.on d R.PHS_EVTC_EN e && h.on d R.PHS_EVTC_ARM e

/-- Initialise NEXT of the armed entries of a tracker, where it enters Locked (R382). -/
def Hw.initTracker (h : Hw) (d t : Nat) : Hw :=
  each ((h.usedEntries d).filter fun e => h.armed d e && h.rd d R.PHS_EVTC_TRK e == t) (fun e h => h.initNext d e) h

/-! ## State changes (R372, R373) -/

def Hw.setTrkState (h : Hw) (d t s : Nat) : Hw := h.wr d R.PHS_TSTAT_STATE s t

/-- Leave Locked or Holdover: pending entries of the tracker return to the table (R399). -/
def Hw.unpend (h : Hw) (d t : Nat) : Hw :=
  h.setPending d ((h.evt d).pending.filter fun e => h.rd d R.PHS_EVTC_TRK e != t)

/-- Entry to Stopped: the estimate freezes and PHS_LOSS is raised (R373). -/
def Hw.stopTracker (h : Hw) (d t : Nat) : Hw :=
  let th := h.thetaNow d t
  let h := (h.setTrk d t { h.trk d t with theta := th, thetaAt := h.now, w := 0 }).unpend d t
  ((h.setTrkState d t 4).raiseFault d 0x52 t).report d (0x88 + t) .trackerLoss 4

/-- Entry to Holdover from Locked, or to Stopped where HOLDTO = 0 (R372, R373). -/
def Hw.loseSource (h : Hw) (d t : Nat) : Hw :=
  if h.rd d R.PHS_TPACE_HOLDTO t = 0 then h.stopTracker d t
  else
    let h := (h.setTrkState d t 3).bump d R.PHS_TCNT_LOSS 1 t
    let h := if h.on d R.PHS_TCFG_HOLDACT t then h.unpend d t else h
    h.report d (0x88 + t) .trackerLoss 3

/-- Entry to Locked: armed entries of the tracker take their crossings (R382). -/
def Hw.lockTracker (h : Hw) (d t : Nat) : Hw :=
  let h := h.setTrk d t { h.trk d t with rejects := 0 }
  ((h.setTrkState d t 2).report d (0x88 + t) .trackerState 2).initTracker d t

/-- The lock of R370: θ and w from the last two measurements. Two measurements of one core cycle give no quotient: w is
then a free value. -/
def Hw.lockFromMeasurements (h : Hw) (d t : Nat) : Hw :=
  let x := h.trk d t
  match x.prior, x.last with
  | some (z1, t1), some (z2, t2) =>
    let (fv, h) := if t2 = t1 then h.draw else (0, h)
    let w := if t2 = t1 then signed 64 fv.toNat else (signed 64 (low 64 (z2 + 2 ^ 64 - z1)) * 2 ^ 32).fdiv (t2 - t1)
    let th := toTwos 96 ((z2 * 2 ^ 32 : Nat) + w * ((h.now : Int) - t2))
    (h.setTrk d t { x with theta := th, thetaAt := h.now, w := w }).lockTracker d t
  | _, _ => h

/-- Is the lock condition of R364 met? -/
def Hw.lockReady (h : Hw) (d t : Nat) : Bool :=
  let x := h.trk d t
  decide (2 ≤ x.locks) && (h.rd d R.PHS_TCFG_SRC t != 1 || h.rd d R.PHS_TCFG_ZMODE t == 0 || x.aligned)

/-- In Acquiring, lock where the condition is met. -/
def Hw.tryLock (h : Hw) (d t : Nat) : Hw := if h.trkState d t = 1 ∧ h.lockReady d t then h.lockFromMeasurements d t else h

/-- A measurement (z, tz) reaches a tracker (R364, R373). -/
def Hw.measure (h : Hw) (d t z : Nat) (tz : Int) : Hw :=
  let st := h.trkState d t
  if st = 0 ∨ st = 5 then h
  else
    let x := h.trk d t
    let again := st = 3 ∨ st = 4
    let h := h.setTrk d t { x with prior := x.last, last := some (z, tz), fresh := true, locks := if again then 1 else x.locks + 1 }
    let h := if again then ((h.unpend d t).setTrkState d t 1).report d (0x88 + t) .trackerState 1 else h
    h.tryLock d t

/-- DELAY in core cycles: ns rounded to whole core cycles (R365). -/
def Hw.trkDelay (h : Hw) (d t : Nat) : Nat := (h.rd d R.PHS_TDLY_DELAY t * 5 + 2) / 4

/-- z of a count: ⌊count × 2³² / COUNTS⌋ + OFFSET (R364). -/
def Hw.countPhase (h : Hw) (d t : Nat) (c : Int) : Nat :=
  toTwos 64 ((c * 2 ^ 32).fdiv (h.rd d R.PHS_TSCALE_COUNTS t : Nat) + (h.rd d R.PHS_TOFF_OFFSET t : Nat))

/-- A count moves by `k`, in the opposite direction with REV = 1, and gives a measurement; `lag` is the nominal delay of
the input chain (R364, R365). -/
def Hw.countMove (h : Hw) (d t : Nat) (k : Int) (lag : Nat) : Hw :=
  let st := h.trkState d t
  if st = 0 ∨ st = 5 then h
  else
    let k := if h.on d R.PHS_TCFG_REV t then -k else k
    let x := h.trk d t
    let h := h.setTrk d t { x with count := x.count + k, edgeAt := h.now, edgesTick := x.edgesTick + 1 }
    h.measure d t (h.countPhase d t (x.count + k)) ((h.now : Int) - (lag + h.trkDelay d t : Nat))

/-- A rejected measurement (R366, R371): REJECT and rejects rise, and the PLAUSNth rejection loses the source. -/
def Hw.reject (h : Hw) (d t : Nat) : Hw :=
  let x := h.trk d t
  let h := (h.setTrk d t { x with rejects := x.rejects + 1 }).bump d R.PHS_TCNT_REJECT 1 t
  if h.trkState d t = 2 ∧ h.rd d R.PHS_TLOS_PLAUSN t ≤ x.rejects + 1 then h.loseSource d t else h

/-- An illegal quadrature transition (R366). -/
def Hw.quadError (h : Hw) (d t : Nat) : Hw :=
  let st := h.trkState d t
  if st = 0 ∨ st = 5 then h
  else
    let x := h.trk d t
    ((h.setTrk d t { x with illegalTick := x.illegalTick + 1 }).flag d R.PHS_TSTAT_QERR t).reject d t

/-- Align a count to the nearest multiple of COUNTS; the stored measurements move with it (R367). -/
def Hw.alignCount (h : Hw) (d t : Nat) : Hw :=
  let x := h.trk d t
  let n : Int := (h.rd d R.PHS_TSCALE_COUNTS t : Nat)
  let c := (2 * x.count + n).fdiv (2 * n) * n
  let dz := h.countPhase d t c + 2 ^ 64 - h.countPhase d t x.count
  let mv := fun (m : Nat × Int) => (low 64 (m.1 + dz), m.2)
  h.setTrk d t { x with count := c, aligned := true, last := x.last.map mv, prior := x.prior.map mv }

/-- The check of a Z edge (R367): a count more than 1 from a multiple of COUNTS sets ZERR. -/
def Hw.checkZ (h : Hw) (d t : Nat) : Hw :=
  let n : Int := (h.rd d R.PHS_TSCALE_COUNTS t : Nat)
  let m := (h.trk d t).count % n
  if 1 < m ∧ m < n - 1 then (h.flag d R.PHS_TSTAT_ZERR t).report d (0x88 + t) .trackerError 8 else h

/-- A qualified Z edge (R367). -/
def Hw.zEdge (h : Hw) (d t : Nat) : Hw :=
  let st := h.trkState d t
  if st = 0 ∨ st = 5 ∨ h.rd d R.PHS_TCFG_SRC t ≠ 1 then h
  else
    let x := h.trk d t
    let h := h.setTrk d t { x with zTick := true }
    match h.rd d R.PHS_TCFG_ZMODE t with
    | 1 => if x.aligned then h.checkZ d t else (h.alignCount d t).tryLock d t
    | 2 => ((h.checkZ d t).alignCount d t).tryLock d t
    | _ => h

/-- An absolute word (R364, R368): the STORE's cycle began `lag` core cycles ago. -/
def Hw.absoluteWord (h : Hw) (d t : Nat) (word : Word) (lag : Nat) : Hw :=
  let st := h.trkState d t
  if st = 0 ∨ st = 5 then h
  else
    let b := h.rd d R.PHS_TSCALE_ABSBITS t
    let f := low 32 (low b word.toNat * 2 ^ (32 - b) + h.rd d R.PHS_TOFF_OFFSET t)
    let x := h.trk d t
    let turns := match x.frac with
      | none => x.turns
      | some f0 => if f0 + 2 ^ 31 < f then x.turns - 1 else if f + 2 ^ 31 < f0 then x.turns + 1 else x.turns
    let h := h.setTrk d t { x with frac := some f, turns := turns, count := (word.toNat : Int) }
    h.measure d t (toTwos 64 (turns * 2 ^ 32 + (f : Int))) ((h.now : Int) - (lag + h.trkDelay d t : Nat))

/-- The trackers of SRC 2 that tap a Pump's OUT queue (R364). -/
def Hw.tapTrackers (h : Hw) (d pump outQ : Nat) (word : Word) (lag : Nat) : Hw :=
  each ((List.range 8).filter fun t =>
      h.rd d R.PHS_TCFG_SRC t == 2 && h.rd d R.PHS_TCFG_PUMP t == pump && h.rd d R.PHS_TCFG_PQ t == outQ)
    (fun t h => h.absoluteWord d t word lag) h

/-! ## Start and stop with the node (R396) -/

/-- The trackers of a die enter Acquiring, at Dawn step 6 or after Sleep; only Dawn ends Faulted (R373). -/
def Hw.acquireAll (h : Hw) (d : Nat) (dawn : Bool) : Hw :=
  iter 8 (fun t h =>
    if h.rd d R.PHS_TCFG_SRC t = 0 ∨ (¬dawn ∧ h.trkState d t = 5) then h
    else (h.setTrk d t { Trk.init with thetaAt := h.now }).setTrkState d t 1) h

/-- The trackers of a die go Off: estimate 0, w = 0 (R373). -/
def Hw.trackersOff (h : Hw) (d : Nat) : Hw :=
  iter 8 (fun t h => if h.trkState d t = 5 then h else ((h.unpend d t).setTrk d t .init).setTrkState d t 0) h

/-! ## The loop (R369, R371, R375) -/

/-- The outcome of one update with a measurement. -/
def Hw.loopUpdate (h : Hw) (d t z : Nat) (tz : Int) : Hw :=
  let x := h.trk d t
  let upd := h.rd d R.PHS_TLOOP_UPDSH t
  let th := h.thetaNow d t
  let e := signed 96 (toTwos 96 ((z * 2 ^ 32 : Nat) - ((th : Int) - x.w * ((h.now : Int) - tz))))
  let dw := e.fdiv (2 ^ (h.rd d R.PHS_TLOOP_KISH t + upd) : Nat)
  let emax := h.rd d R.PHS_TEMAX_VALUE t
  let amax := h.rd d R.PHS_TAMAX_VALUE t
  if emax ≠ 0 ∧ emax * 2 ^ 32 < e.natAbs then (h.flag d R.PHS_TSTAT_EERR t).reject d t
  else if h.rd d R.PHS_TVMAX_VALUE t < (velOf (x.w + dw)).natAbs then (h.flag d R.PHS_TSTAT_VERR t).reject d t
  else if amax ≠ 0 ∧ amax * 2 ^ upd < (velOf dw).natAbs * 1250000 then (h.flag d R.PHS_TSTAT_AERR t).reject d t
  else
    h.setTrk d t { x with
      theta := toTwos 96 ((th : Int) + e.fdiv (2 ^ h.rd d R.PHS_TLOOP_KPSH t : Nat)), thetaAt := h.now,
      w := x.w + dw, rejects := 0 }

/-- The 16 bytes of a sample record (R375). -/
def Hw.sampleRecord (h : Hw) (d t : Nat) : List Byte :=
  leBytes 8 (h.estimate d t) ++ leBytes 4 (toTwos 32 (velOf (h.trk d t).w)) ++
    leBytes 4 (low 28 h.fabricNs + h.trkState d t * 2 ^ 28)

/-- The PHASE record of a quadrature tracker that the journal takes in place of its pins (R520). -/
def Hw.journalPhase (h : Hw) (d t : Nat) : Hw :=
  if h.rd d R.PHS_TCFG_SRC t = 1 ∧ bit (h.rd d R.JRN_CFG_PHSC) t then
    let x := h.trk d t
    h.journal d 5 t [toTwos 64 x.count,
      low 32 (h.now - x.edgeAt) + low 16 x.edgesTick * 2 ^ 32 + low 8 x.illegalTick * 2 ^ 48 + b2n x.zTick * 2 ^ 56]
  else h

/-- One update tick. -/
def Hw.trackerTick (h : Hw) (d t : Nat) : Hw :=
  let x := h.trk d t
  let h := h.journalPhase d t
  let h := match x.last with
    | some (z, tz) => if h.trkState d t = 2 ∧ x.fresh then h.loopUpdate d t z tz else h
    | none => h
  h.setTrk d t { h.trk d t with fresh := false, edgesTick := 0, illegalTick := 0, zTick := false }

/-- A tracker state error (R397). -/
def Hw.trackerFault (h : Hw) (d t : Nat) : Hw :=
  ((((h.journalErr d 6 t 2).unpend d t).setTrkState d t 5).flag d R.PHS_TSTAT_PAR t).raiseFault d 0x50 t |>.report d (0x88 + t) .trackerError 11

/-- Write bytes into the Process Image RAM of a die. -/
def pirWrite (pir : SMap Byte) (d o : Nat) (bs : List Byte) : SMap Byte :=
  iter bs.length (fun k m => m.put 0 (d * 2 ^ 20 + (o + k) % 2 ^ 20) (bs.getD k 0)) pir

/-- Bytes of the Process Image RAM of a die. -/
def pirRead (pir : SMap Byte) (d o n : Nat) : List Byte := (List.range n).map fun k => pir.get 0 (d * 2 ^ 20 + (o + k) % 2 ^ 20)

/-- Does a publish bucket of a die cover this byte of its Process Image RAM (R151)? -/
def Hw.publishes (h : Hw) (d o : Nat) : Bool :=
  (h.train d).buckets.any fun b => b.kind == 0 && decide (4 * b.pioff ≤ o) && decide (o < 4 * (b.pioff + b.len))

/-- The partner of a die in split attachment (R212). -/
def Hw.partner (h : Hw) (d : Nat) : Option Nat :=
  let m := h.rd d R.RNG_ATTACH_MODE
  if d = 0 ∧ m = 1 ∧ 1 < h.dies then some 1 else if d = 1 ∧ m = 2 then some 0 else none

/-- Store bytes in the Process Image RAM of a die, and over a die link in its partner's where they lie in a publish range of either
(R213). The words stored are kept for the digest (R524). -/
def storePir (d o : Nat) (bs : List Byte) (x : Hw × SMap Byte) : Hw × SMap Byte :=
  let (h, pir) := x
  let h := h.setJrn d { h.jrn d with pirWrites := leNat bs :: o :: (h.jrn d).pirWrites }
  let pir := pirWrite pir d o bs
  match h.partner d with
  | none => (h, pir)
  | some e =>
    (h, iter bs.length (fun k m =>
      if (h.towardsDie d e).isSome && (h.publishes d (o + k) || h.publishes e (o + k))
      then m.put 0 (e * 2 ^ 20 + (o + k) % 2 ^ 20) (bs.getD k 0) else m) pir)

/-- What an update tick does to a tracker: nothing where it is Off or Faulted (R369, R373, R397). -/
def Hw.updateTick (h : Hw) (d t : Nat) (parityBad : Bool) : Hw :=
  if h.trkState d t = 0 ∨ h.trkState d t = 5 then h else if parityBad then h.trackerFault d t else h.trackerTick d t

/-- Is this core cycle an update tick of a tracker: its count a multiple of N = 2^UPDSH (R369)? -/
def Hw.updateDue (h : Hw) (d t : Nat) : Bool := decide (h.now % 2 ^ h.rd d R.PHS_TLOOP_UPDSH t = 0)

/-- TRACKER_UPDATE (R369, R371, R375, R397): an update tick of a tracker, and nothing in another core cycle; with PIOFF ≠ 0 every tick
writes its sample record, whatever the state. -/
def trackerUpdate (d t : Nat) (parityBad : Bool) (x : Hw × SMap Byte) : Hw × SMap Byte :=
  let h := x.1.updateTick d t parityBad
  let po := h.rd d R.PHS_TPIO_PIOFF t
  if !x.1.updateDue d t then x
  else if po = 0 then (h, x.2)
  else storePir d (16 * po) (h.sampleRecord d t) (h, x.2)

def execTrackerUpdate (die : Die) (trk : Fin 8) (parityBad : Bool) (s : State) : Host.Outcome State Fault Refusal :=
  s.onDieMem die (trackerUpdate die.val trk.val parityBad)

/-! ## Loss of source (R372 to R374) -/

/-- A limit that falls in the cycle of an arrival does not act, and MARGIN counts (R374). -/
def Hw.orMargin (h : Hw) (d t : Nat) (arrival : Bool) (f : Hw → Hw) : Hw :=
  if arrival then h.bump d R.PHS_TCNT_MARGIN 1 t else f h

/-- Has the estimate moved more than GAP/16 of a pitch, 2³² / COUNTS, from the last measurement (R372)? -/
def Hw.gapPassed (h : Hw) (d t : Nat) : Bool :=
  match (h.trk d t).last with
  | none => false
  | some (z, _) =>
    decide (h.rd d R.PHS_TLOS_GAP t * 2 ^ 32 <
      16 * h.rd d R.PHS_TSCALE_COUNTS t * (signed 64 (low 64 (h.estimate d t + 2 ^ 64 - z))).natAbs)

/-- Does the gap limit of R372 apply to a tracker, and has it been reached? -/
def Hw.gapDue (h : Hw) (d t : Nat) : Bool :=
  let src := h.rd d R.PHS_TCFG_SRC t
  h.trkState d t == 2 && h.rd d R.PHS_TLOS_GAP t != 0 && (src == 1 || src == 3) && h.gapPassed d t

/-- GAP_LIMIT (R372): it acts only where the estimate has passed the limit. -/
def gapLimit (d t : Nat) (arrival : Bool) (h : Hw) : Hw :=
  if h.gapDue d t then
    h.orMargin d t arrival fun h => (h.flag d R.PHS_TSTAT_GAPERR t).loseSource d t
  else h

def execGapLimit (die : Die) (trk : Fin 8) (arrival : Bool) (s : State) : Host.Outcome State Fault Refusal :=
  s.onDie die (gapLimit die.val trk.val arrival)

/-- TRACKER_SILENCE (R372). -/
def trackerSilence (d t : Nat) (arrival : Bool) (h : Hw) : Hw :=
  if h.trkState d t = 2 ∧ h.rd d R.PHS_TLOS_LOSTO t ≠ 0 then
    h.orMargin d t arrival fun h => (h.flag d R.PHS_TSTAT_SILENT t).loseSource d t
  else h

def execTrackerSilence (die : Die) (trk : Fin 8) (arrival : Bool) (s : State) : Host.Outcome State Fault Refusal :=
  s.onDie die (trackerSilence die.val trk.val arrival)

/-- HOLDOVER_TIMEOUT (R373). -/
def holdoverTimeout (d t : Nat) (arrival : Bool) (h : Hw) : Hw :=
  if h.trkState d t = 3 then h.orMargin d t arrival fun h => h.stopTracker d t else h

def execHoldoverTimeout (die : Die) (trk : Fin 8) (arrival : Bool) (s : State) : Host.Outcome State Fault Refusal :=
  s.onDie die (holdoverTimeout die.val trk.val arrival)

/-! ## Phase channels of Pumps (R297, R368) -/

/-- A phase channel of a Pump is raised; a raise that finds it pending is coalesced (R297). -/
def Hw.phaseRaise (h : Hw) (d pump ch : Nat) : Hw :=
  h.wr d R.PMP_PHPEND_PHP (h.rd d R.PMP_PHPEND_PHP pump ||| 2 ^ ch) pump

/-- PACING_RAISE (R368): PACE µs without a raise of the channel. -/
def pacingRaise (d t : Nat) (h : Hw) : Hw :=
  let st := h.trkState d t
  if h.rd d R.PHS_TPACE_PACE t ≠ 0 ∧ st ≠ 0 ∧ st ≠ 5 then
    h.phaseRaise d (h.rd d R.PHS_TCFG_PUMP t) (h.rd d R.PHS_TCFG_PCH t)
  else h

def execPacingRaise (die : Die) (trk : Fin 8) (s : State) : Host.Outcome State Fault Refusal :=
  s.onDie die (pacingRaise die.val trk.val)

/-- TRACKER_LIVE_READ (PHS_TPHLO): the read latches the other live values from the same core cycle. -/
def trackerLiveRead (d t : Nat) (h : Hw) : Hw :=
  let h := h.wr d R.PHS_TPHLO_VALUE (low 32 (h.estimate d t)) t
  let h := h.wr d R.PHS_TPHHI_VALUE (h.estimate d t / 2 ^ 32) t
  (h.wr d R.PHS_TVEL_VALUE (toTwos 32 (velOf (h.trk d t).w)) t).wr d R.PHS_TRAW_VALUE (toTwos 32 (h.trk d t).count) t

def execTrackerLiveRead (die : Die) (trk : Fin 8) (s : State) : Host.Outcome State Fault Refusal :=
  s.onDie die (trackerLiveRead die.val trk.val)

/-! ## Phase slots (R376 to R379) -/

/-- The 16 bytes of a phase slot that a tracker publishes `ns` from now, with the path correction of the copy. -/
def Hw.slotBytes (h : Hw) (d t corr : Nat) : List Byte :=
  leBytes 8 (h.estimate d t) ++ leBytes 4 (toTwos 32 (velOf (h.trk d t).w)) ++ leBytes 3 (bits corr 16 24) ++
    leBytes 1 (h.trkState d t)

/-- A subscribed slot that says its function is stopped (R379). -/
def Hw.slotStopped (h : Hw) (d t : Nat) : Hw :=
  if h.trkState d t = 4 then h else h.stopTracker d t

/-- A subscribed slot that says its function holds (R379). -/
def Hw.slotHolds (h : Hw) (d t : Nat) : Hw :=
  if h.trkState d t = 3 then h
  else (((if h.on d R.PHS_TCFG_HOLDACT t then h.unpend d t else h).setTrkState d t 3).bump d R.PHS_TCNT_LOSS 1 t).report d (0x88 + t) .trackerLoss 3

/-- An accepted copy of a subscribed slot (R379): `tarr` is the core cycle of its first byte, `corrRx` the path correction
to the own receive medium boundary. -/
def Hw.acceptSlot (h : Hw) (d t : Nat) (slot : List Byte) (tarr corrRx : Nat) : Hw :=
  let st := leAt slot 15 1 % 16
  if h.trkState d t = 0 ∨ h.trkState d t = 5 then h
  else if st = 4 then
    (h.setTrk d t { h.trk d t with slotSeen := true }).slotStopped d t
  else if (st = 2 ∨ st = 3) ∧ !(h.trk d t).slotTaken then
    let vel := signed 32 (leAt slot 8 4)
    let path := (bits corrRx 16 24 + 2 ^ 24 - leAt slot 12 3) % 2 ^ 24
    let ns5 := ((h.now - tarr) * 4 + path * 5 : Nat)
    let th := toTwos 96 ((leAt slot 0 8 * 2 ^ 32 : Nat) + (vel * 2 ^ 32 * (ns5 : Nat)).fdiv 5000)
    let h := h.setTrk d t { h.trk d t with theta := th, thetaAt := h.now, w := (vel * 2 ^ 32).fdiv 1250, slotSeen := true, slotTaken := true }
    if st = 2 then (if h.trkState d t = 2 then h else h.lockTracker d t) else h.slotHolds d t
  else h

end Sys2Proof.Machine
end

