-- ==== Sys2Proof/Machine/Mio.lean ====
section
/-!
DEFINITION. The MIO pins (chapter "MIO pins, discrete lines and input conditioning", R313 to R333, R590): outputs, trip groups, the
input chain with its checks and timeouts, readback.
-/

namespace Sys2Proof.Machine

def Hw.pin (h : Hw) (d p : Nat) : Pin := h.pins.get .init (d * 192 + p)

def Hw.setPin (h : Hw) (d p : Nat) (x : Pin) : Hw := { h with pins := h.pins.put .init (d * 192 + p) x }

/-- Sample cycles of a pin's bank since reset (R318). -/
def Hw.tickOf (h : Hw) (d p : Nat) : Nat := h.now / 2 ^ h.rd d R.MIO_BANK_TSH (p / 16)

/-- Is this an input pin: FUNC ≠ 0 and MODE input only (R320)? -/
def Hw.isInput (h : Hw) (d p : Nat) : Bool := h.rd d R.MIO_PCFG_FUNC p != 0 && h.rd d R.MIO_PCFG_MODE p == 0

/-- MIO_IN word `w` (R332): qualified levels, 0 for FUNC = 0. -/
def Hw.inWord (h : Hw) (d w : Nat) : Nat :=
  (List.range 32).foldl (fun a i => if (h.pin d (32 * w + i)).qual ∧ h.rd d R.MIO_PCFG_FUNC (32 * w + i) ≠ 0 then a + 2 ^ i else a) 0

/-! ## Outputs (R325, R326) -/

/-- The Dawn step (NOD_DAWN.STEP). -/
def Hw.dawnStep (h : Hw) : Nat := h.rd 0 R.NOD_DAWN_STEP

/-- Has Dawn reached step 6, so that the image's configuration acts (R325, R330)? -/
def Hw.configured (h : Hw) : Bool :=
  match h.node.state with
  | .night => false
  | .quarantine => false
  | .dawn => decide (6 ≤ h.dawnStep)
  | _ => true

/-- Do checks and trip groups act: from Dawn step 6 onward in every node state (R330)? -/
def Hw.guarded (h : Hw) : Bool := h.configured || (h.node.state == .quarantine && decide (6 ≤ h.dawnStep))

/-- Is a pin forced by a trip group that is latched or active (R325)? -/
def Hw.forced (h : Hw) (d p : Nat) : Bool :=
  let m := h.rd d R.MIO_PTRIP_OUTGRP p &&& (h.rd d R.MIO_TRIPST_LATCHED ||| h.rd d R.MIO_TRIPST_ACTIVE)
  h.configured && h.rd d R.MIO_PCFG_MODE p != 0 && m != 0

/-- A level through the pin's MODE: an open-drain pin driving high is released (R325). -/
def Hw.throughMode (h : Hw) (d p : Nat) (level : Bool) : Option Bool :=
  if h.rd d R.MIO_PCFG_MODE p = 2 ∧ level then none else some level

/-- The level that an EXTEST, CLAMP or HIGHZ in force gives a pad of its die (R77, R79): the boundary register's, or none. -/
def Hw.tapDrive (h : Hw) (d p : Nat) : Option (Option Bool) :=
  let t := h.taps.get .init d
  if t.inForce then some (if t.ir = 0x03 then none else some (t.boundary.get false p)) else none

/-- Are the pads of a die's banks 8 to 11 bridge pins before the image's configuration acts (R82)? -/
def Hw.strapBridge (h : Hw) (d p : Nat) : Bool :=
  h.node.state == .dawn && decide (d < 2) && decide (128 ≤ p) && bit h.straps 6

/-- Is a pin at its pre-image level (R314, R325)? -/
def Hw.preImage (h : Hw) (d p : Nat) : Bool :=
  !h.configured || (h.rd d R.MIO_PCFG_FUNC p != 0 && !h.on d R.MIO_BANK_VOK (p / 16))

/-- The weak pull of a pad: of STRAP[2] at the pre-image level (R82), else of PULL (R325); `true` is up. -/
def Hw.padPull (h : Hw) (d p : Nat) : Option Bool :=
  if h.preImage d p then some (bit h.straps 2)
  else match h.rd d R.MIO_PCFG_PULL p with
    | 1 => some false
    | 2 => some true
    | _ => none

/-- The level that the pin's function, the node state and the trip groups give its pad, none where the pin is high-Z or
released (R314, R325). A bridge pin carries the bridge's signal (R58, R317). -/
def Hw.functionDrive (h : Hw) (d p : Nat) : Option Bool :=
  let safe := if h.on d R.MIO_PCFG_SAFEOE p then h.throughMode d p (h.on d R.MIO_PCFG_SAFE p) else none
  if h.preImage d p then (if h.strapBridge d p then h.bridgePad d (p - 128) else none)
  else if h.rd d R.MIO_PCFG_FUNC p == 0 || h.rd d R.MIO_PCFG_MODE p == 0 then none
  else if h.forced d p then safe
  else if h.node.state = .run ∨ h.node.state = .degraded then
    (if h.rd d R.MIO_PCFG_FUNC p = 6 then (h.bridgePad d (p - 128)).bind (h.throughMode d p)
     else if (h.pin d p).oe then h.throughMode d p (h.pin d p).fn else none)
  else safe

/-- The level formed for a pad. -/
def Hw.formDrive (h : Hw) (d p : Nat) : Option Bool := (h.tapDrive d p).getD (h.functionDrive d p)

/-- The level driven at a pad: the formed one; in Replay mode the functions drive nothing (R534, R536). -/
def Hw.padDrive (h : Hw) (d p : Nat) : Option Bool :=
  (h.tapDrive d p).getD (if h.node.replay then none else h.functionDrive d p)

/-- MIO_PSTAT.DRIVEN: high, and for an open-drain pin while it is released. -/
def Hw.drivenBit (h : Hw) (d p : Nat) : Bool :=
  match h.formDrive d p with
  | some b => b
  | none => h.rd d R.MIO_PCFG_MODE p == 2 && !h.preImage d p && h.rd d R.MIO_PCFG_FUNC p != 0 &&
      (if h.forced d p || !(h.node.state == .run || h.node.state == .degraded) then h.on d R.MIO_PCFG_SAFEOE p && h.on d R.MIO_PCFG_SAFE p
       else if h.rd d R.MIO_PCFG_FUNC p = 6 then (h.bridgePad d (p - 128)).getD false
       else (h.pin d p).oe && (h.pin d p).fn)

/-- A commanded change of a driven level restarts the settle count and ends the readback episode (R327). -/
def Hw.refreshPin (h : Hw) (d p : Nat) : Hw :=
  let x := h.pin d p
  let v := h.formDrive d p
  if v = x.drv then h
  else h.setPin d p { x with drv := v, drvAt := some h.now, settle := h.rd d R.MIO_PFLT_RBSET p, rbArmed := false, rbBad := false }

/-- Every configured pin of a die takes its level of R325. -/
def Hw.refreshPins (h : Hw) (d : Nat) : Hw := each (h.configuredPins d) (fun p h => h.refreshPin d p) h

/-- Every configured pin of the package. -/
def Hw.refreshAll (h : Hw) : Hw := h.eachDie fun d h => h.refreshPins d

/-- A function sets the level of one of its pins. -/
def Hw.setFn (h : Hw) (d p : Nat) (level : Bool) : Hw := (h.setPin d p { h.pin d p with fn := level }).refreshPin d p

/-- A function sets the output enable of one of its pins. -/
def Hw.setOe (h : Hw) (d p : Nat) (oe : Bool) : Hw := (h.setPin d p { h.pin d p with oe := oe }).refreshPin d p

/-- A pin's MIO_OUT bit. -/
def Hw.outBit (h : Hw) (d p : Nat) : Bool := bit (h.rd d R.MIO_OUT_OUT (p / 32)) (p % 32)

/-- Set a discrete output's MIO_OUT bit; `now` drives it at once, whatever OUTSYNC says (R326, R386). -/
def Hw.setOut (h : Hw) (d p : Nat) (level atOnce : Bool) : Hw :=
  if h.rd d R.MIO_PCFG_FUNC p = 2 then
    let w := h.rd d R.MIO_OUT_OUT (p / 32)
    let w := if bit w (p % 32) == level then w else if level then w + 2 ^ (p % 32) else w - 2 ^ (p % 32)
    let h := h.wr d R.MIO_OUT_OUT w (p / 32)
    if atOnce ∨ ¬h.on d R.MIO_PCFG_OUTSYNC p then h.setFn d p level else h
  else h

/-- A write of the bits of MIO_OUT word `w` that `mask` names (R326, R332). -/
def Hw.writeOuts (h : Hw) (d w mask value : Nat) : Hw :=
  iter 32 (fun i h => if bit mask i then h.setOut d (32 * w + i) (bit value i) false else h) h

/-- MIO_OUT_WRITE (R326). -/
def execMioOutWrite (die : Die) (word : Fin 6) (value : Word) (s : State) : Host.Outcome State Fault Refusal :=
  s.onDie die fun h => h.writeOuts die.val word.val (2 ^ 32 - 1) value.toNat

/-- OUTMV_WRITE (R332). -/
def execOutmvWrite (die : Die) (word : Fin 6) (value mask : Word) (s : State) : Host.Outcome State Fault Refusal :=
  s.onDie die fun h => h.writeOuts die.val word.val mask.toNat value.toNat

/-- Outputs with OUTSYNC = 1 take their MIO_OUT bits at the acceptance of a train (R326). -/
def Hw.applyOutsync (h : Hw) (d : Nat) : Hw :=
  each ((h.configuredPins d).filter fun p => h.rd d R.MIO_PCFG_FUNC p == 2 && h.on d R.MIO_PCFG_OUTSYNC p)
    (fun p h => h.setFn d p (h.outBit d p)) h

/-! ## Trip groups (R328 to R331) -/

/-- An input pin of a group at its active level, which makes the group's level condition true (R320, R328). -/
def Hw.groupPin (h : Hw) (d g : Nat) : Option Nat :=
  (h.configuredPins d).find? fun p =>
    h.isInput d p && h.rd d R.MIO_PTRIP_INCOND p == 1 && h.rd d R.MIO_PTRIP_INGRP p == g &&
      (h.pin d p).qual == (h.rd d R.MIO_PFLT_EDGE p != 1)

/-- Is the level condition of a group true? -/
def Hw.groupLevel (h : Hw) (d g : Nat) : Bool := (h.groupPin d g).isSome

/-- A group latches (R330): counted, recorded with group and pin, MSI-X source 52 raised. -/
def Hw.latchGroup (h : Hw) (d g p : Nat) : Hw :=
  if h.guarded ∧ h.on d R.MIO_TRIPG_EN g ∧ ¬bit (h.rd d R.MIO_TRIPST_LATCHED) g then
    let h := h.wr d R.MIO_TRIPST_LATCHED (h.rd d R.MIO_TRIPST_LATCHED + 2 ^ g)
    let h := (h.bump d R.MIO_TRIPG_TRIPCNT 1 g).report d (0x70 + g) .tripLatch (g + p * 2 ^ 8)
    (h.raiseMsixNode 52).refreshPins d
  else h

/-- Judge one group's level condition anew; `p` is the pin that changed. -/
def Hw.judgeGroup (h : Hw) (d p g : Nat) : Hw :=
  let act := h.guarded && h.on d R.MIO_TRIPG_EN g && h.groupLevel d g
  let m := h.rd d R.MIO_TRIPST_ACTIVE
  let h := if bit m g == act then h else (h.wr d R.MIO_TRIPST_ACTIVE (if act then m + 2 ^ g else m - 2 ^ g)).refreshPins d
  if act ∧ h.on d R.MIO_TRIPG_LATCH g then h.latchGroup d g p else h

/-- A momentary trip condition of a pin: 2 active edge, 3 range violation, 4 timeout (R328). -/
def Hw.tripOn (h : Hw) (d p cond : Nat) : Hw :=
  if h.isInput d p ∧ h.rd d R.MIO_PTRIP_INCOND p = cond then
    (h.setPin d p { h.pin d p with tripAt := some h.now }).latchGroup d (h.rd d R.MIO_PTRIP_INGRP p) p
  else h

/-- Is the condition of a group true in this core cycle: a level, or a momentary condition of one of its pins (R328, R333)? -/
def Hw.groupHolds (h : Hw) (d g : Nat) : Bool :=
  bit (h.rd d R.MIO_TRIPST_ACTIVE) g || (h.configuredPins d).any fun p =>
    h.rd d R.MIO_PTRIP_INGRP p == g && (h.pin d p).tripAt == some h.now

/-! ## Range checks and timeouts (R321 to R323) -/

/-- A range violation counts, and the first of a pin in each 1 ms is recorded (R321). -/
def Hw.pinViolation (h : Hw) (d p : Nat) : Hw :=
  let x := h.pin d p
  let h := h.bump d R.MIO_PTMO_VIOL 1 p
  let first := match x.lastViol with
    | none => true
    | some t => decide (1250000 ≤ h.now - t)
  if first then (h.setPin d p { x with lastViol := some h.now }).report d 0x80 .pinRange p else h

/-- A measure closes (R321). -/
def Hw.closeMeasure (h : Hw) (d p m : Nat) : Hw :=
  let h := h.wr d R.MIO_PSTAT_MEAS (min m 65535) p
  if m < h.rd d R.MIO_PRNG_MIN p then
    ((h.flag d R.MIO_PSTAT_RNGLO p).pinViolation d p).tripOn d p 3
  else if h.rd d R.MIO_PRNG_MAX p < m then
    ((h.flag d R.MIO_PSTAT_RNGHI p).pinViolation d p).tripOn d p 3
  else h

/-- The checks of an input pin at a qualified change: `active` tells an active edge, `high` the active level (R321). -/
def Hw.rangeEdge (h : Hw) (d p : Nat) (active atActive : Bool) : Hw :=
  let x := h.pin d p
  let t := h.tickOf d p
  match h.rd d R.MIO_PFLT_CHECK p with
  | 1 =>
    if active then
      let h := h.setPin d p { x with openAt := some t }
      match x.openAt with
      | some t0 => h.closeMeasure d p (t - t0)
      | none => h
    else h
  | 2 =>
    if atActive then h.setPin d p { x with openAt := some t }
    else
      match x.openAt with
      | some t0 => (h.setPin d p { x with openAt := none }).closeMeasure d p (t - t0)
      | none => h
  | 3 => if active ∧ x.windowOpen then h.setPin d p { x with count := x.count + 1 } else h
  | _ => h

/-- An amend of CHECK discards the open measure or count without a report (R333). -/
def Hw.dropMeasure (h : Hw) (d p : Nat) : Hw :=
  h.setPin d p { h.pin d p with openAt := none, windowOpen := false, count := 0 }

/-- An open interval or width that reaches MAX + 1 closes and reports RNGHI at once (R321). -/
def Hw.openLimit (h : Hw) (d p : Nat) : Hw :=
  let x := h.pin d p
  let c := h.rd d R.MIO_PFLT_CHECK p
  match x.openAt with
  | some t =>
    if h.guarded ∧ h.isInput d p ∧ (c = 1 ∨ c = 2) ∧ h.rd d R.MIO_PRNG_MAX p < h.tickOf d p - t then
      (h.setPin d p { x with openAt := none }).closeMeasure d p (h.rd d R.MIO_PRNG_MAX p + 1)
    else h
  | none => h

/-- The count windows of a die close at an accepted train, and the next ones open (R321). -/
def Hw.closeWindows (h : Hw) (d : Nat) : Hw :=
  each ((h.configuredPins d).filter fun p => h.isInput d p && h.rd d R.MIO_PFLT_CHECK p == 3) (fun p h =>
    let x := h.pin d p
    let h := h.setPin d p { x with count := 0, windowOpen := true }
    if x.windowOpen then h.closeMeasure d p x.count else h) h

/-- A timeout expires (R322): each expiry counts and is recorded. -/
def Hw.timeoutFires (h : Hw) (d p : Nat) : Hw :=
  let h := (h.setPin d p { h.pin d p with tmoFired := true }).flag d R.MIO_PSTAT_TMOERR p
  ((h.bump d R.MIO_PTMO_VIOL 1 p).report d 0x80 .pinTimeout p).tripOn d p 4

/-- The timeout of an input pin in a sample cycle after Dawn step 10 (R322): the first one starts the count, an active edge restarts it.
An edge where the count would reach TMO is accepted, the timeout does not fire, and MARGIN counts (R323). -/
def Hw.timeoutStep (h : Hw) (d p : Nat) (edge : Bool) : Hw :=
  let x := h.pin d p
  let tmo := h.rd d R.MIO_PTMO_TMO p
  if h.guarded ∧ h.node.state ≠ .dawn ∧ h.isInput d p ∧ tmo ≠ 0 then
    match x.tmo with
    | none => h.setPin d p { x with tmo := some 0 }
    | some n =>
      if edge then
        let h := h.setPin d p { x with tmo := some 0, tmoFired := false }
        if ¬x.tmoFired ∧ tmo ≤ n + 1 then h.bump d R.MIO_MARGIN_MARGIN else h
      else
        let h := h.setPin d p { x with tmo := some (n + 1) }
        if ¬x.tmoFired ∧ tmo ≤ n + 1 then h.timeoutFires d p else h
  else h

/-! ## Qualified changes (R319, R320, R364 to R367) -/

/-- Nominal delay of the input chain in core cycles (R365). -/
def Hw.chainDelay (h : Hw) (d p : Nat) : Nat :=
  let tick := 2 ^ h.rd d R.MIO_BANK_TSH (p / 16)
  2 + h.rd d R.MIO_PFLT_FILT p * tick + (if h.on d R.MIO_PFLT_MAJ p then 3 * tick else 0)

/-- Is a change to `level` an active edge (R320)? -/
def Hw.activeEdge (h : Hw) (d p : Nat) (level : Bool) : Bool :=
  match h.rd d R.MIO_PFLT_EDGE p with
  | 0 => level
  | 1 => !level
  | _ => true

/-- The pin of a die routed to a signal of a tracker (R316). -/
def Hw.trackerPin (h : Hw) (d t sig : Nat) : Option Nat :=
  (h.configuredPins d).find? fun p =>
    h.rd d R.MIO_PCFG_FUNC p == 5 && h.rd d R.MIO_PCFG_UNIT p == t && h.rd d R.MIO_PCFG_SIG p == sig

/-- The level of a tracker's signal. -/
def Hw.trackerLevel (h : Hw) (d t sig : Nat) : Bool :=
  match h.trackerPin d t sig with
  | some p => (h.pin d p).qual
  | none => false

/-- One pin's qualified level changes: edge count, checks, trips, Z and pulse sources. -/
def Hw.pinChange (h : Hw) (d p : Nat) : Hw :=
  let x := h.pin d p
  let lv := !x.qual
  let act := h.activeEdge d p lv
  let h := h.setPin d p { x with qual := lv, edges := if act then (x.edges + 1) % 2 ^ 32 else x.edges }
  let h := h.wr d R.MIO_PSTAT_LEVEL (b2n lv) p
  let h :=
    if h.isInput d p ∧ h.guarded then
      let h := h.rangeEdge d p act (lv == (h.rd d R.MIO_PFLT_EDGE p != 1))
      let h := if act then h.tripOn d p 2 else h
      h.judgeGroup d p (h.rd d R.MIO_PTRIP_INGRP p)
    else h
  if h.rd d R.MIO_PCFG_FUNC p = 5 then
    let t := h.rd d R.MIO_PCFG_UNIT p
    if h.rd d R.MIO_PCFG_SIG p = 2 ∧ act then h.zEdge d t
    else if h.rd d R.MIO_PCFG_SIG p = 3 ∧ act ∧ h.rd d R.PHS_TCFG_SRC t = 3 then h.countMove d t 1 (h.chainDelay d p)
    else h
  else h

/-- The quadrature decoder (R366): one change of A or B counts in the direction given by the other signal; both at once
are illegal. -/
def Hw.quadStep (h : Hw) (d t : Nat) (aPin bPin : Bool) (lag : Nat) : Hw :=
  if h.rd d R.PHS_TCFG_SRC t ≠ 1 then h
  else if aPin && bPin then h.quadError d t
  else if aPin then h.countMove d t (if h.trackerLevel d t 0 == h.trackerLevel d t 1 then -1 else 1) lag
  else if bPin then h.countMove d t (if h.trackerLevel d t 0 == h.trackerLevel d t 1 then 1 else -1) lag
  else h

/-- The pin of a list that feeds a signal of a tracker. -/
def Hw.feeder (h : Hw) (d t sig : Nat) (ps : List Nat) : Option Nat :=
  ps.find? fun p => h.rd d R.MIO_PCFG_FUNC p == 5 && h.rd d R.MIO_PCFG_UNIT p == t && h.rd d R.MIO_PCFG_SIG p == sig

/-- The qualified levels of these pins change in one sample cycle; an edge of A or B has the delay of its own pin's chain (R365). -/
def qualifiedChange (d : Nat) (ps : List Nat) (h : Hw) : Hw :=
  let h := each ps (fun p h => h.pinChange d p) h
  iter 8 (fun t h =>
    let a := h.feeder d t 0 ps
    let b := h.feeder d t 1 ps
    h.quadStep d t a.isSome b.isSome (((a.or b).map (h.chainDelay d)).getD 0)) h

/-! ## The input chain (R318, R319) -/

/-- Is this core cycle a sample cycle of a pin that has not been sampled in it (R318)? A pin with FUNC = 0 has no chain. -/
def Hw.sampleDue (h : Hw) (d p : Nat) : Bool :=
  h.rd d R.MIO_PCFG_FUNC p != 0 && h.now % 2 ^ h.rd d R.MIO_BANK_TSH (p / 16) == 0 && (h.pin d p).sampledAt != some h.now

/-- The glitch filter at a sample cycle: a level that has held at `len` consecutive sample cycles is taken; `len` = 0 bypasses (R319). -/
def filterStep (len : Nat) (v : Bool) (x : Pin) : Pin :=
  if len = 0 then { x with filt := v, run := 0 }
  else if len ≤ x.run then { x with filt := !x.filt, run := b2n (v == x.filt) }
  else { x with run := if v == x.filt then 0 else x.run + 1 }

/-- Polarity, glitch filter and majority of a pin at a sample cycle; the majority samples the filter's output as it stood (R319). -/
def Hw.chainStep (h : Hw) (d p : Nat) : Hw :=
  let x := h.pin d p
  h.setPin d p (filterStep (h.rd d R.MIO_PFLT_FILT p) (x.sync != h.on d R.MIO_PCFG_INV p)
    { x with hist := (x.filt :: x.hist).take 5, sampledAt := some h.now })

/-- The output of a pin's chain: with MAJ = 1 the level held by at least 3 of the last 5 filter outputs sampled (R319, LOG 37). -/
def Hw.chainOut (h : Hw) (d p : Nat) : Bool :=
  let x := h.pin d p
  if h.on d R.MIO_PFLT_MAJ p then decide (3 ≤ x.hist.count true) else x.filt

/-- The pins of a list whose qualified level differs from their chain's output. -/
def Hw.changedPins (h : Hw) (d : Nat) (ps : List Nat) : List Nat := ps.filter fun p => h.chainOut d p != (h.pin d p).qual

/-- A mismatch that begins an episode is reported (R327). -/
def Hw.reportReadback (h : Hw) (d p : Nat) : Hw :=
  let h := (h.setPin d p { h.pin d p with rbBad := true }).flag d R.MIO_PSTAT_RBERR p
  ((h.bump d R.MIO_MARGIN_RBCNT).raiseFault d 0x30 p).report d 0x80 .pinReadback p

/-- The readback of an output pin at a sample cycle (R327): none in the core cycle of a commanded change; RBSET sample cycles after it the
comparison starts; it is skipped while the pin is released or high-Z; a mismatch is reported once an episode. -/
def Hw.readbackStep (h : Hw) (d p : Nat) : Hw :=
  let x := h.pin d p
  if ¬h.on d R.MIO_PCFG_RBEN p ∨ h.rd d R.MIO_PCFG_MODE p = 0 ∨ ¬h.configured ∨ x.drvAt = some h.now then h
  else if ¬x.rbArmed then h.setPin d p { x with settle := x.settle - 1, rbArmed := decide (x.settle ≤ 1) }
  else
    match x.drv with
    | none => h
    | some v => if x.sync = v then h.setPin d p { x with rbBad := false } else if x.rbBad then h else h.reportReadback d p

/-- A sample cycle of those of the pins for which it is due: chain, qualified changes, timeouts, open measures, readback (R318 to R327).
A bridge pin takes its signal first. -/
def samplePins (d : Nat) (ps : List Nat) (h : Hw) : Hw :=
  let ps := ps.filter fun p => h.sampleDue d p
  let h := each ps (fun p h => h.chainStep d p) h
  let ch := h.changedPins d ps
  let h := qualifiedChange d ch h
  let h := each ps (fun p h => h.timeoutStep d p (ch.contains p && h.activeEdge d p (h.pin d p).qual)) h
  let h := each ps (fun p h => h.openLimit d p) h
  each ps (fun p h => (if h.rd d R.MIO_PCFG_FUNC p = 6 then h.refreshPin d p else h).readbackStep d p) h

/-- What the pins of a die do in one core cycle. -/
def Hw.sampleDie (h : Hw) (d : Nat) : Hw := samplePins d (h.configuredPins d) h

/-- QUALIFIED_LEVEL_CHANGE (R319): the qualified levels of these pins change in one sample cycle, where their chains say so. -/
def execQualifiedLevelChange (die : Die) (pins : List (Fin 192)) (s : State) : Host.Outcome State Fault Refusal :=
  s.onDie die (samplePins die.val (pins.map (·.val)))

/-- RANGE_OPEN_LIMIT (R321): the sample cycle in which an open interval or width reaches MAX + 1. -/
def execRangeOpenLimit (die : Die) (pin : Fin 192) (s : State) : Host.Outcome State Fault Refusal :=
  s.onDie die (samplePins die.val [pin.val])

/-- PIN_TIMEOUT (R322, R323): the sample cycle in which the count of an input pin reaches TMO. -/
def execPinTimeout (die : Die) (pin : Fin 192) (s : State) : Host.Outcome State Fault Refusal :=
  s.onDie die (samplePins die.val [pin.val])

/-- READBACK_SETTLE_END (R327): the sample cycle that ends the settle count of a commanded change. -/
def execReadbackSettleEnd (die : Die) (pin : Fin 192) (s : State) : Host.Outcome State Fault Refusal :=
  s.onDie die (samplePins die.val [pin.val])

/-- READBACK_MISMATCH (R327): a sample cycle in which the synchronised level of an output pin differs from its driven level. -/
def execReadbackMismatch (die : Die) (pin : Fin 192) (s : State) : Host.Outcome State Fault Refusal :=
  s.onDie die (samplePins die.val [pin.val])

/-- TRIP_RELEASE (R329): an accepted amend writes 1 to LATCHED bits; a group that is active, or whose condition is true in this sample
cycle (R333), stays latched. -/
def tripRelease (d mask : Nat) (h : Hw) : Hw :=
  let h := h.sampleDie d
  let m := h.rd d R.MIO_TRIPST_LATCHED
  let keep := (List.range 16).foldl (fun a g => if bit m g && !(bit mask g && !h.groupHolds d g) then a + 2 ^ g else a) 0
  (h.wr d R.MIO_TRIPST_LATCHED keep).refreshPins d

def execTripRelease (die : Die) (groups : BitVec 16) (s : State) : Host.Outcome State Fault Refusal :=
  s.onDie die (tripRelease die.val groups.toNat)

/-! ## Synchronised transitions (R319, R324, R590) -/

/-- Are the transitions of a pin journaled as PHASE records instead (R520)? -/
def Hw.phaseJournaled (h : Hw) (d p : Nat) : Bool :=
  h.rd d R.MIO_PCFG_FUNC p == 5 && decide (h.rd d R.MIO_PCFG_SIG p < 2) && bit (h.rd d R.JRN_CFG_PHSC) (h.rd d R.MIO_PCFG_UNIT p) &&
    h.rd d R.PHS_TCFG_SRC (h.rd d R.MIO_PCFG_UNIT p) == 1

/-- A synchronised level changes. -/
def Hw.syncChange (h : Hw) (d p : Nat) : Hw := h.setPin d p { h.pin d p with sync := !(h.pin d p).sync }

/-- PIN_TRANSITION (R319, R324): the synchronised levels of pins of one bank change; the journal takes a PINS record of those with
FUNC ≠ 0. -/
def pinTransition (d b changed : Nat) (h : Hw) : Hw :=
  let pins := (List.range 16).filter (bit changed)
  let h := each pins (fun i h => h.syncChange d (16 * b + i)) h
  let jp := pins.filter fun i => h.rd d R.MIO_PCFG_FUNC (16 * b + i) != 0 && !h.phaseJournaled d (16 * b + i)
  let levels := (List.range 16).foldl (fun a i => if (h.pin d (16 * b + i)).sync then a + 2 ^ i else a) 0
  let mask := jp.foldl (fun a i => a + 2 ^ i) 0
  if jp = [] then h else h.journal d 1 (b + levels * 2 ^ 4 + mask * 2 ^ 20)

def execPinTransition (die : Die) (bank : Fin 12) (changed : BitVec 16) (s : State) : Host.Outcome State Fault Refusal :=
  s.onDie die (pinTransition die.val bank.val changed.toNat)

/-- RECEIVER_MISMATCH (R590): MIO_INCMP is raised, and the chain follows the receiver whose level changed last, now at `level`. -/
def receiverMismatch (d p : Nat) (level : Bool) (h : Hw) : Hw :=
  if h.rd d R.MIO_PCFG_FUNC p = 0 then h
  else
    let h := h.raiseFault d 0x31 p
    if (h.pin d p).sync = level then h else pinTransition d (p / 16) (2 ^ (p % 16)) h

def execReceiverMismatch (die : Die) (pin : Fin 192) (level : Bool) (s : State) : Host.Outcome State Fault Refusal :=
  s.onDie die (receiverMismatch die.val pin.val level)

/-! ## Dawn step 6 (R314, R326, R330) -/

/-- Discrete outputs take SAFE; the other functions drive when their block does; CAN TX idles recessive. -/
def Hw.startPin (h : Hw) (d p : Nat) : Hw :=
  let f := h.rd d R.MIO_PCFG_FUNC p
  let x := h.pin d p
  let safe := h.on d R.MIO_PCFG_SAFE p
  let h := h.setPin d p { x with edges := 0, openAt := none, windowOpen := false, count := 0, tmo := none, tmoFired := false,
                                 fn := if f = 2 then safe else if f = 4 then true else false,
                                 oe := f == 2 || (f == 4 && h.rd d R.MIO_PCFG_SIG p == 0) }
  if f = 2 then h.setOut d p safe true else h

/-- Banks compare their supply with VSEL: `supply` gives a bank's measured level code (R314). -/
def Hw.checkBank (h : Hw) (d b supply : Nat) : Hw :=
  if (List.range 16).any fun i => h.rd d R.MIO_PCFG_FUNC (16 * b + i) != 0 then
    if supply = h.rd d R.MIO_BANK_VSEL b then h.flag d R.MIO_BANK_VOK b
    else ((h.wr d R.MIO_BANK_VOK 0 b).raiseFault d 0x32 b).report d 0x81 .bankVoltage b
  else h.wr d R.MIO_BANK_VOK 0 b

/-- The pins of a die at Dawn step 6. -/
def Hw.startPins (h : Hw) (d : Nat) : Hw :=
  let h := each (h.configuredPins d) (fun p h => h.startPin d p) h
  let h := iter 16 (fun g h => h.judgeGroup d ((h.groupPin d g).getD 0) g) h
  h.refreshPins d

end Sys2Proof.Machine
end

