-- ==== Sys2Proof/Machine/Can.lean ====
section
/-!
DEFINITION. The CAN and CAN FD controllers (chapter "CAN and CAN FD controllers", R334 to R361), at the level of frames: a
command of the bus tells what became of a frame. The error counters follow ISO 11898-1:2015, which R351 names (LOG 20).
-/

namespace Sys2Proof.Machine

def Hw.can (h : Hw) (d k : Nat) : Can := h.cans.get .init (d * 16 + k)

def Hw.setCan (h : Hw) (d k : Nat) (x : Can) : Hw := { h with cans := h.cans.put .init (d * 16 + k) x }

/-- CAN_STAT.STATE: 0 Off, 1 Integrating, 2 Operating, 3 Bus-off, 4 Recovering, 5 Sleep. -/
def Hw.canState (h : Hw) (d k : Nat) : Nat := h.rd d R.CAN_STAT_STATE k

def Hw.setCanState (h : Hw) (d k s : Nat) : Hw := h.wr d R.CAN_STAT_STATE s k

/-- The queues of a controller: 0 TX, 1 TXH, 2 RX0, 3 RX1 (R251). -/
def canQ (k i : Nat) : Nat := 256 + 4 * k + i

/-- An event of a controller, recorded once in each 1 ms: whether this is the first. -/
def firstMs (now : Nat) : Option Nat → Bool
  | none => true
  | some t => decide (1250000 ≤ now - t)

/-! ## Frames in cells (R340 to R342) -/

/-- Cells of a frame: two for FDF = 1 and DLC = 15. -/
def frameCells (c : List Byte) : Nat := if bit (leAt c 0 4) 31 ∧ leAt c 4 4 % 16 = 15 then 2 else 1

/-- Is a head cell a format error (R342)? -/
def canFormatBad (c : List Byte) (txh fden : Bool) : Bool :=
  let a := leAt c 0 4
  let b := leAt c 4 4
  let fdf := bit a 31
  bit b 7 || (bit b 6 != (fdf && b % 16 == 15)) || ((bit b 4 || bit b 5) && !fdf) || (bit a 30 && fdf) || (fdf && !fden) ||
    (!bit a 29 && low 18 a != 0) || (bit b 8 && txh) || bits b 11 5 != 0 || bits b 16 16 != 0

/-- The data length (R341). -/
def canDataLen (fdf : Bool) (dlc : Nat) : Nat :=
  if dlc ≤ 8 then dlc else if fdf then [12, 16, 20, 24, 32, 48, 64].getD (dlc - 9) 64 else 8

/-- The cells at the head of a queue. -/
def Hw.headCells (h : Hw) (d q : Nat) : List (List Byte) := (h.cq d q).cells.map (·.cell.data)

/-- Dequeue and free the head frame of TX or TXH. -/
def Hw.dropFrame (h : Hw) (d k i : Nat) : Hw :=
  let q := canQ k i
  let h := match h.headCells d q with
    | c :: _ => if frameCells c = 2 then (h.dropHead d q).dropHead d q else h.dropHead d q
    | [] => h
  if i = 0 then h.setCan d k { h.can d k with released := false } else h

def Hw.txFail (h : Hw) (d k : Nat) : Hw := h.bump d R.CAN_CNTB_TXFAIL 1 k

/-- A format error (R342). -/
def Hw.canFormatError (h : Hw) (d k : Nat) : Hw :=
  let x := h.can d k
  let h := (h.flag d R.CAN_FLAGS_TXFMT k).txFail d k
  if firstMs h.now x.lastFmt then (h.setCan d k { x with lastFmt := some h.now }).report d (0x60 + k) .canEvent 2 else h

/-- Discard the head cell of TX or TXH; a release of the head of TX ends with it (R344). -/
def Hw.dropCell (h : Hw) (d k i : Nat) : Hw :=
  let h := h.dropHead d (canQ k i)
  if i = 0 then h.setCan d k { h.can d k with released := false } else h

/-- Remove format errors from the head of TX or TXH: the cells of the frame found in error; only the first cell where the
second has CONT = 0. -/
def Hw.cleanQueue (d k i : Nat) : Nat → Hw → Hw
  | 0, h => h
  | n + 1, h =>
    match h.headCells d (canQ k i) with
    | [] => h
    | c :: rest =>
      if canFormatBad c (i == 1) (h.on d R.CAN_CFG_FDEN k) then
        let two := frameCells c = 2 ∧ (rest.head?.map fun e => bit (leAt e 4 4) 7) = some true
        let h := h.dropCell d k i
        let h := if two then h.dropCell d k i else h
        Hw.cleanQueue d k i n (h.canFormatError d k)
      else if frameCells c = 2 ∧ (rest.head?.map fun e => bit (leAt e 4 4) 7) = some false then
        Hw.cleanQueue d k i n ((h.dropCell d k i).canFormatError d k)
      else h

/-- Is the head frame of a queue whole, and at TX ungated or released (R343)? -/
def Hw.selectable (h : Hw) (d k i : Nat) : Bool :=
  match h.headCells d (canQ k i) with
  | [] => false
  | c :: rest => (frameCells c == 1 || !rest.isEmpty) && (i == 1 || !bit (leAt c 4 4) 8 || (h.can d k).released)

/-- May a controller send: Operating, not stopping, normal or loopback mode, in Run or Degraded (R334, R354)? -/
def Hw.canSends (h : Hw) (d k : Nat) : Bool :=
  h.canState d k == 2 && !(h.can d k).stopping && (h.rd d R.CAN_CFG_MODE k == 0 || h.rd d R.CAN_CFG_MODE k == 3) &&
    (h.node.state == .run || h.node.state == .degraded)

/-- FRAME_SELECTION (R342, R343): at a selection point the head of TXH is offered, else the head of TX. What the memories answer of the
queue read first comes before (R266 to R270). -/
def frameSelection (d k : Nat) (u : Upset) (h : Hw) : Hw :=
  if h.canSends d k ∧ (h.can d k).tx = none then
    let h := (h.meet d (canQ k (if (h.cq d (canQ k 1)).cells.isEmpty then 0 else 1)) u).2
    let h := Hw.cleanQueue d k 1 (h.cq d (canQ k 1)).cells.length h
    let h := Hw.cleanQueue d k 0 (h.cq d (canQ k 0)).cells.length h
    let start := fun i => (h.setCan d k { h.can d k with tx := some i }).flag d R.CAN_STAT_TXING k
    if h.selectable d k 1 then start 1 else if h.selectable d k 0 then start 0 else h
  else h

def execFrameSelection (die : Die) (can : Fin 16) (upset : Upset) (s : State) : Host.Outcome State Fault Refusal :=
  s.onDie die (frameSelection die.val can.val upset)

/-- The transmission ends; a pending STOP then takes effect (R354). -/
def Hw.endTx (h : Hw) (d k : Nat) : Hw :=
  (h.setCan d k { h.can d k with tx := none }).wr d R.CAN_STAT_TXING 0 k

/-- No frame is in progress any more: a pending STOP enters Off (R354). -/
def Hw.settleStop (h : Hw) (d k : Nat) : Hw :=
  if (h.can d k).stopping ∧ (h.can d k).tx = none ∧ ¬h.on d R.CAN_STAT_RXING k then
    (h.setCan d k { h.can d k with stopping := false }).setCanState d k 0
  else h

/-- ONESHOT of the frame in transmission. -/
def Hw.oneshot (h : Hw) (d k : Nat) : Bool :=
  match (h.can d k).tx with
  | none => false
  | some i => match h.headCells d (canQ k i) with
    | [] => false
    | c :: _ => bit (leAt c 4 4) 9

/-- A transmission ends without success: with ONESHOT = 1 the frame is dequeued and counted (R346, R354). -/
def Hw.failTx (h : Hw) (d k : Nat) : Hw :=
  match (h.can d k).tx with
  | none => h
  | some i =>
    let one := h.oneshot d k
    let h := h.endTx d k
    if one then (h.dropFrame d k i).txFail d k else h

/-! ## Reception (R348 to R350) -/

/-- The next RXSEQ (R349). -/
def Hw.nextRxseq (h : Hw) (d k : Nat) : Nat × Hw :=
  let n := ((h.can d k).rxseq + 1) % 2 ^ 32
  (n, h.setCan d k { h.can d k with rxseq := n })

/-- A frame found no room (R350): one event a millisecond. -/
def Hw.shadowLost (h : Hw) (d k : Nat) : Hw :=
  let h := (h.flag d R.CAN_FLAGS_RXOVF k).bump d R.CAN_CNTB_RXOVF 1 k
  if firstMs h.now (h.can d k).lastOvf then
    (h.setCan d k { h.can d k with lastOvf := some h.now }).report d (0x60 + k) .canEvent 3
  else h

/-- The shadow buffer writes a frame's cells to RX0 or RX1, or the frame is discarded whole (R349, R350). -/
def Hw.shadowWrite (h : Hw) (d k i : Nat) (cells : List (List Byte)) : Hw :=
  let q := canQ k i
  if h.freeCredit d q < cells.length then
    h.shadowLost d k
  else h.placeAll d q (cells.map (h.producedCell d q))

/-- The cells of a received frame (R340). -/
def rxCells (id dlc : Nat) (brs esi : Bool) (filter rxseq : Nat) (data : List Byte) : List (List Byte) :=
  let fdf := bit id 31
  let n := canDataLen fdf dlc
  let bs := if bit id 30 then [] else data.take n ++ List.replicate (n - data.length) 0
  let two := fdf && dlc == 15
  let ctl := dlc + (if brs then 16 else 0) + (if esi then 32 else 0) + (if two then 64 else 0) + filter * 2 ^ 16
  (leBytes 4 id ++ leBytes 4 ctl ++ leBytes 4 rxseq ++ List.replicate 4 0 ++ bs.take 48) ::
    (if two then [List.replicate 4 0 ++ leBytes 4 128 ++ List.replicate 8 0 ++ bs.drop 48] else [])

/-- The filter that a frame matches (R348). -/
def Hw.matchFilter (h : Hw) (d k id : Nat) : Option Nat :=
  (List.range 64).find? fun f =>
    let m := h.rd d R.CAN_FLTB_MASK k f
    let v := h.rd d R.CAN_FLTA_ID k f + h.rd d R.CAN_FLTA_IDE k f * 2 ^ 29 + h.rd d R.CAN_FLTA_RTR k f * 2 ^ 30 +
      h.rd d R.CAN_FLTA_FDF k f * 2 ^ 31
    h.on d R.CAN_FLTC_EN k f && ((id ^^^ v) &&& m) == 0

/-- Where a frame goes: the queue index and the FILTER field, none where it is rejected or discarded (R348). -/
def Hw.routeFrame (h : Hw) (d k id : Nat) : Option (Nat × Nat) :=
  match h.matchFilter d k id with
  | some f =>
    match h.rd d R.CAN_FLTC_ACTION k f with
    | 0 => some (2, f)
    | 1 => some (3, f)
    | _ => none
  | none =>
    match h.rd d R.CAN_CFG_NOMATCH k with
    | 1 => some (2, 0x40)
    | 2 => some (3, 0x40)
    | _ => none

/-- A valid frame is routed and written with the next RXSEQ. -/
def Hw.deliverFrame (h : Hw) (d k id dlc : Nat) (brs esi : Bool) (data : List Byte) : Hw :=
  let h := h.bump d R.CAN_CNTA_RXOK 1 k
  match h.routeFrame d k id with
  | none => h
  | some (i, f) =>
    let (n, h) := h.nextRxseq d k
    h.shadowWrite d k i (rxCells id dlc brs esi f n data)

/-! ## Error confinement (R351, R352) -/

/-- Do the counters of a controller move: not in bus monitoring, in restricted operation or while the node is Safe? -/
def Hw.counts (h : Hw) (d k : Nat) : Bool :=
  h.rd d R.CAN_CFG_MODE k != 1 && h.rd d R.CAN_CFG_MODE k != 2 && h.node.state != .safe

/-- Bus-off (R352). -/
def Hw.busOff (h : Hw) (d k : Nat) : Hw :=
  let h := h.endTx d k
  let h := h.setCan d k { h.can d k with stopping := false }
  let h := ((h.setCanState d k 3).wr d R.CAN_STAT_CONF 2 k).flag d R.CAN_FLAGS_BOFF k
  let h := ((h.bump d R.CAN_CNTC_BOFFCNT 1 k).raiseFault d 0x41 k).report d (0x60 + k) .canBusOff
  if h.on d R.CAN_CFG_BOFLUSH k then
    let flush := fun i h => iter (h.cq d (canQ k i)).cells.length (fun _ h =>
      if (h.cq d (canQ k i)).cells.isEmpty then h else (h.dropFrame d k i).txFail d k) h
    flush 1 (flush 0 h)
  else h

/-- The confinement state follows TEC and REC: EWARN at 96, error-passive at 128, bus-off beyond 255. -/
def Hw.confine (h : Hw) (d k : Nat) : Hw :=
  let t := h.rd d R.CAN_ERR_TEC k
  let r := h.rd d R.CAN_ERR_REC k
  let h := h.wr d R.CAN_STAT_EWARN (b2n (decide (96 ≤ t) || decide (96 ≤ r))) k
  if 255 < t then (if h.canState d k = 3 then h else h.busOff d k)
  else if 127 < t ∨ 127 < r then
    if h.rd d R.CAN_STAT_CONF k = 1 then h
    else ((h.wr d R.CAN_STAT_CONF 1 k).flag d R.CAN_FLAGS_EPASS k).report d (0x60 + k) .canEvent 1
  else h.wr d R.CAN_STAT_CONF 0 k

/-- REC after a frame received without error: one less, and from above 127 a value between 119 and 127, which the
standard leaves open. -/
def Hw.recDown (h : Hw) (d k : Nat) : Hw :=
  let r := h.rd d R.CAN_ERR_REC k
  if ¬h.counts d k then h
  else if 127 < r then
    let (v, h) := h.draw
    (h.wr d R.CAN_ERR_REC (119 + v.toNat % 9) k).confine d k
  else (h.wr d R.CAN_ERR_REC (r - 1) k).confine d k

/-- TDCV as measured in an FD frame with BRS = 1 (R339). -/
def Hw.measureTdc (h : Hw) (d k : Nat) (tdcv : Option (BitVec 7)) : Hw :=
  match tdcv with
  | none => h
  | some v =>
    if h.on d R.CAN_CFG_TDCEN k then
      let h := h.wr d R.CAN_TDC_TDCV v.toNat k
      if 127 < v.toNat + h.rd d R.CAN_TDC_SSPOFF k then h.flag d R.CAN_FLAGS_TDCOVR k else h
    else h

/-! ## Frames on the bus -/

/-- A frame sent counts TEC down (R351). -/
def Hw.sentOk (h : Hw) (d k : Nat) : Hw :=
  if h.counts d k then (h.wr d R.CAN_ERR_TEC (h.rd d R.CAN_ERR_TEC k - 1) k).confine d k else h

/-- A frame sent with ECHO = 1 is echoed to RX1 with FILTER 0x7F and the next RXSEQ, which stands in the low half of the copy's TAG (R340,
R346, LOG 39). -/
def Hw.echoSent (h : Hw) (d k : Nat) (c : List Byte) (more : List (List Byte)) : Hw :=
  if bit (leAt c 4 4) 10 then
    let (n, h) := h.nextRxseq d k
    h.shadowWrite d k 3 (spliceAt (spliceAt c 4 (leBytes 4 (leAt c 4 4 + 0x7F * 2 ^ 16))) 8 (leBytes 4 n) :: more)
  else h

/-- In internal loopback the transmission is returned internally (CAN_CFG.MODE = 3 of 10_can_controllers.md): the controller
receives the frame it sent. An FD frame carries the error state in which it was sent as its ESI (R340). -/
def Hw.loopSent (h : Hw) (d k : Nat) (passive : Bool) (c : List Byte) (more : List (List Byte)) : Hw :=
  if h.rd d R.CAN_CFG_MODE k = 3 then
    h.deliverFrame d k (leAt c 0 4) (leAt c 4 4 % 16) (bit (leAt c 4 4) 4) (passive && bit (leAt c 0 4) 31)
      (slice c 16 48 ++ more.flatMap fun e => slice e 16 16)
  else h

/-- CAN_FRAME_TRANSMITTED (R346): counted, echoed where ECHO = 1, dequeued. In internal loopback the controller also
receives it. -/
def frameTransmitted (d k : Nat) (tdcv : Option (BitVec 7)) (h : Hw) : Hw :=
  match (h.can d k).tx with
  | none => h
  | some i =>
    match h.headCells d (canQ k i) with
    | [] => h.endTx d k
    | c :: rest =>
      let more := if frameCells c = 2 then rest.take 1 else []
      let passive := h.rd d R.CAN_STAT_CONF k == 1
      let h := (h.measureTdc d k tdcv).endTx d k
      let h := (h.dropFrame d k i).bump d R.CAN_CNTA_TXOK 1 k
      (((h.sentOk d k).echoSent d k c more).loopSent d k passive c more).settleStop d k

def execCanFrameTransmitted (die : Die) (can : Fin 16) (tdcv : Option (BitVec 7)) (s : State) : Host.Outcome State Fault Refusal :=
  s.onDie die (frameTransmitted die.val can.val tdcv)

/-- ARBITRATION_LOST (R346): the frame returns to selection, or with ONESHOT = 1 is discarded; the controller receives. -/
def arbitrationLost (d k : Nat) (h : Hw) : Hw :=
  if (h.can d k).tx.isSome then (h.failTx d k).flag d R.CAN_STAT_RXING k else h

def execArbitrationLost (die : Die) (can : Fin 16) (s : State) : Host.Outcome State Fault Refusal :=
  s.onDie die (arbitrationLost die.val can.val)

/-- CAN_ERROR (R346, R351, R352): a bus error of kind `lec`. A transmitter adds 8 to TEC, a receiver 1 to REC, unless the
standard exempts this error; `extra` counts its further steps of 8. -/
def canError (d k lec : Nat) (exempt : Bool) (extra : Nat) (tdcv : Option (BitVec 7)) (h : Hw) : Hw :=
  if h.canState d k ≠ 2 then h
  else
    let h := (h.measureTdc d k tdcv).wr d R.CAN_FLAGS_LEC lec k
    let tx := (h.can d k).tx.isSome
    let h :=
      if ¬h.counts d k then h
      else if tx then h.wr d R.CAN_ERR_TEC (min 256 (h.rd d R.CAN_ERR_TEC k + (if exempt then 0 else 8) + 8 * extra)) k
      else h.bump d R.CAN_ERR_REC ((if exempt then 0 else 1) + 8 * extra) k
    let h := (h.failTx d k).wr d R.CAN_STAT_RXING 0 k
    (h.confine d k).settleStop d k

def execCanError (die : Die) (can : Fin 16) (lec : Fin 7) (exempt : Bool) (extra : Nat) (tdcv : Option (BitVec 7)) (s : State) :
    Host.Outcome State Fault Refusal := s.onDie die (canError die.val can.val lec.val exempt extra tdcv)

/-- A parity error of a controller (R359): what the receive and shadow buffers hold is lost; a frame in transmission ends and stays in its
queue. -/
def Hw.canParity (h : Hw) (d k : Nat) : Hw :=
  let h := ((((h.endTx d k).journalErr d 5 k 2).setCanState d k 0).wr d R.CAN_STAT_RXING 0 k).flag d R.CAN_FLAGS_PAR k
  (h.setCan d k { h.can d k with stopping := false }).raiseFault d 0x40 k |>.report d (0x60 + k) .canEvent 7

/-- An FD frame at a controller with FDEN = 0 (R334): with PXEN = 1 a protocol exception, after which the controller
integrates again; else a form error. -/
def Hw.fdUnexpected (h : Hw) (d k : Nat) : Hw :=
  if h.on d R.CAN_CFG_PXEN k then
    ((((h.flag d R.CAN_FLAGS_PXEV k).bump d R.CAN_CNTC_PXCNT 1 k).setCanState d k 1).wr d R.CAN_STAT_RXING 0 k).settleStop d k
  else canError d k 2 false 0 none h

/-- CAN_FRAME_RECEIVED (R348 to R350, R354, R359): a frame valid on the bus. `parity` tells a parity error found on use;
`limit` that the 2 ms of Dusk end in this cycle (R361). -/
def frameReceived (d k id dlc : Nat) (brs esi : Bool) (data : List Byte) (parity limit : Bool) (h : Hw) : Hw :=
  let st := h.canState d k
  if st = 2 then
    if parity then h.canParity d k
    else if bit id 31 ∧ ¬h.on d R.CAN_CFG_FDEN k then h.fdUnexpected d k
    else
      let h := if limit ∧ h.node.state = .dusk then h.bump d R.CAN_CNTC_MARGIN 1 k else h
      let h := (h.recDown d k).wr d R.CAN_STAT_RXING 0 k
      (h.deliverFrame d k id dlc brs esi data).settleStop d k
  else h

def execCanFrameReceived (die : Die) (can : Fin 16) (id : Word) (dlc : BitVec 4) (brs esi : Bool) (data : List Byte)
    (parity limit : Bool) (s : State) : Host.Outcome State Fault Refusal :=
  s.onDie die (frameReceived die.val can.val id.toNat dlc.toNat brs esi data parity limit)

/-! ## Commands (R347, R353 to R355) -/

/-- CAN_CMD reports the last command accepted. -/
def Hw.canAccept (h : Hw) (d k c : Nat) : Hw := h.wr d R.CAN_CMD_CMD c k

/-- Is the controller in use in a node that runs its controllers (R354)? -/
def Hw.canRuns (h : Hw) (d k : Nat) : Bool :=
  h.on d R.CAN_CFG_EN k && (h.node.state == .run || h.node.state == .degraded || h.node.state == .safe)

/-- Enter Integrating with clean counters of the controller's own (R354); a pending STOP then takes effect. -/
def Hw.integrate (h : Hw) (d k : Nat) : Hw :=
  (((h.setCan d k { h.can d k with tx := none }).setCanState d k 1).wr d R.CAN_STAT_TXING 0 k).settleStop d k

/-- CAN_START (R354): Off to Integrating. -/
def canStart (d k : Nat) (h : Hw) : Hw :=
  let h := h.canAccept d k 1
  if h.canRuns d k ∧ h.canState d k = 0 then h.integrate d k else h

def execCanStart (die : Die) (can : Fin 16) (s : State) : Host.Outcome State Fault Refusal := s.onDie die (canStart die.val can.val)

/-- Is a controller in bus-off, which it leaves only by RECOVER and the recessive bits after it (R353)? -/
def Hw.inBusOff (h : Hw) (d k : Nat) : Bool := h.canState d k == 3 || h.canState d k == 4

/-- CAN_STOP (R354): a frame in progress, sent or, with `receiving`, being received, completes, then Off. Bus-off is left only by RECOVER
(R353). -/
def canStop (d k : Nat) (receiving : Bool) (h : Hw) : Hw :=
  let h := h.canAccept d k 2
  if h.inBusOff d k then h
  else
    let h := if receiving ∧ h.canState d k = 2 ∧ (h.can d k).tx = none then h.flag d R.CAN_STAT_RXING k else h
    (h.setCan d k { h.can d k with stopping := true }).settleStop d k

def execCanStop (die : Die) (can : Fin 16) (receiving : Bool) (s : State) : Host.Outcome State Fault Refusal :=
  s.onDie die (canStop die.val can.val receiving)

/-- CAN_RECOVER (R353): accepted only in bus-off, else an access violation. -/
def canRecover (d k : Nat) (o : Origin) (h : Hw) : Hw :=
  if h.canState d k = 3 then (h.canAccept d k 3).setCanState d k 4 else h.violation d o (0x60004 + 0x800 * k)

def execCanRecover (die : Die) (can : Fin 16) (origin : Origin) (s : State) : Host.Outcome State Fault Refusal :=
  s.onReg die origin (0x60004 + 0x800 * can.val) (canRecover die.val can.val origin)

/-- Enter Sleep: a transmission in progress ends (R354, R355). -/
def Hw.canSleepNow (h : Hw) (d k : Nat) : Hw :=
  let h := h.failTx d k
  let h := h.setCan d k { h.can d k with stopping := false }
  ((h.wr d R.CAN_STAT_RXING 0 k).wr d R.CAN_WKCFG_WKERR 0 k).setCanState d k 5

/-- CAN_SLEEP (R355). -/
def canSleep (d k : Nat) (h : Hw) : Hw :=
  let h := h.canAccept d k 4
  if h.canRuns d k ∧ ¬h.inBusOff d k then h.canSleepNow d k else h

def execCanSleep (die : Die) (can : Fin 16) (s : State) : Host.Outcome State Fault Refusal := s.onDie die (canSleep die.val can.val)

/-- A sleeping controller wakes (R355); with NODEWAKE = 1 in a sleeping node this is a CAN wake (R357). -/
def Hw.canWakeUp (h : Hw) (d k cause : Nat) : Hw :=
  if h.canState d k = 5 then
    let h := ((h.flag d R.CAN_FLAGS_WAKE k).wr d R.CAN_STAT_WAKECAUSE cause k).integrate d k
    let h := h.report d (0x60 + k) .canWake cause
    if h.node.state = .sleep ∧ h.on d R.CAN_CFG_NODEWAKE k then { h with node.woken := true } else h
  else h

/-- CAN_WAKE (R355). -/
def canWake (d k : Nat) (h : Hw) : Hw := (h.canAccept d k 5).canWakeUp d k 0

def execCanWake (die : Die) (can : Fin 16) (s : State) : Host.Outcome State Fault Refusal :=
  s.onDie die (canWake die.val can.val)

/-- The frames of TX (0) or TXH (1) that have not begun transmission leave the queue (R347); `busy` is the queue whose
frame is on the bus. -/
def Hw.abortQueue (h : Hw) (d k i : Nat) (busy : Option Nat) : Hw :=
  let q := canQ k i
  let keep := if busy = some i then (match h.headCells d q with | c :: _ => frameCells c | [] => 0) else 0
  let xs := (h.cq d q).cells
  let n := ((xs.drop keep).filter fun c => !bit (leAt c.cell.data 4 4) 7).length
  let h := (each (xs.drop keep) (fun c h => h.freeCell d c) (h.setCq d q { h.cq d q with cells := xs.take keep })).bump d
    R.CAN_CNTB_TXFAIL n k
  if i = 0 then h.setCan d k { h.can d k with released := (h.can d k).released && busy == some 0 } else h

/-- CAN_ABORT (R347): every frame of TX and TXH that has not begun transmission is freed and counted. -/
def canAbort (d k : Nat) (h : Hw) : Hw :=
  let h := h.canAccept d k 6
  let busy := (h.can d k).tx
  (h.abortQueue d k 0 busy).abortQueue d k 1 busy

def execCanAbort (die : Die) (can : Fin 16) (s : State) : Host.Outcome State Fault Refusal := s.onDie die (canAbort die.val can.val)

/-- CAN_CMD_RESERVED (R353, R354): 0b111, or RECOVER outside bus-off, is ignored and recorded. -/
def canCmdReserved (d k : Nat) (o : Origin) (h : Hw) : Hw := h.violation d o (0x60004 + 0x800 * k)

def execCanCmdReserved (die : Die) (can : Fin 16) (origin : Origin) (s : State) : Host.Outcome State Fault Refusal :=
  s.onReg die origin (0x60004 + 0x800 * can.val) (canCmdReserved die.val can.val origin)

/-! ## Integration, recovery and wake (R353 to R356) -/

/-- INTEGRATION_COMPLETE (R354): 11 consecutive recessive nominal bits. -/
def integrationComplete (d k : Nat) (h : Hw) : Hw := if h.canState d k = 1 then h.setCanState d k 2 else h

def execIntegrationComplete (die : Die) (can : Fin 16) (s : State) : Host.Outcome State Fault Refusal :=
  s.onDie die (integrationComplete die.val can.val)

/-- RECOVERY_COMPLETE (R353): TEC and REC clear and the controller is error-active and operating. -/
def recoveryComplete (d k : Nat) (h : Hw) : Hw :=
  if h.canState d k = 4 then
    (((h.wr d R.CAN_ERR_TEC 0 k).wr d R.CAN_ERR_REC 0 k).setCanState d k 2).confine d k
  else h

def execRecoveryComplete (die : Die) (can : Fin 16) (s : State) : Host.Outcome State Fault Refusal :=
  s.onDie die (recoveryComplete die.val can.val)

/-- CAN_WAKE_DOMINANT (R355): a dominant level of WKDOM × 100 ns; where it ends in the same kernel cycle MARGIN counts. -/
def canWakeDominant (d k : Nat) (ends : Bool) (h : Hw) : Hw :=
  if h.canState d k = 5 ∧ ¬h.on d R.CAN_WKCFG_WAKEMODE k then
    let h := if ends then h.bump d R.CAN_CNTC_MARGIN 1 k else h
    h.canWakeUp d k 1
  else h

def execCanWakeDominant (die : Die) (can : Fin 16) (ends : Bool) (s : State) : Host.Outcome State Fault Refusal :=
  s.onDie die (canWakeDominant die.val can.val ends)

/-- Does a classical frame match the wake registers (R356)? -/
def Hw.wakeMatch (h : Hw) (d k id dlc : Nat) (data : List Byte) : Bool :=
  let want := h.rd d R.CAN_WKDATA0_DATA k + h.rd d R.CAN_WKDATA1_DATA k * 2 ^ 32
  let n := canDataLen false dlc
  ((low 29 id ^^^ h.rd d R.CAN_WKID_ID k) &&& h.rd d R.CAN_WKMASK_MASK k) == 0 &&
    bit id 29 == h.on d R.CAN_WKID_IDE k && !bit id 30 && dlc == h.rd d R.CAN_WKCFG_WKDLC k &&
    (dlc == 0 || (leNat (data.take n) &&& low (8 * n) want) != 0)

/-- CAN_WAKE_FRAME (R356): the wake frame decoder receives a frame without error; a match wakes the controller. `limit`
tells that the error count reaches 32 in the same frame: the match decides the cause (R361). -/
def canWakeFrame (d k id dlc : Nat) (data : List Byte) (limit : Bool) (h : Hw) : Hw :=
  if h.canState d k = 5 ∧ h.on d R.CAN_WKCFG_WAKEMODE k ∧ ¬bit id 31 then
    let h := h.wr d R.CAN_WKCFG_WKERR (h.rd d R.CAN_WKCFG_WKERR k - 1) k
    if h.wakeMatch d k id dlc data then h.canWakeUp d k 2
    else if limit then h.canWakeUp d k 3 else h
  else h

def execCanWakeFrame (die : Die) (can : Fin 16) (id : Word) (dlc : BitVec 4) (data : List Byte) (limit : Bool) (s : State) :
    Host.Outcome State Fault Refusal := s.onDie die (canWakeFrame die.val can.val id.toNat dlc.toNat data limit)

/-- WAKE_ERROR_LIMIT (R355, R356): `n` erroneous classical frames add to WKERR; at 32 the controller wakes. -/
def wakeErrorLimit (d k n : Nat) (h : Hw) : Hw :=
  if h.canState d k = 5 ∧ h.on d R.CAN_WKCFG_WAKEMODE k then
    let e := min 32 (h.rd d R.CAN_WKCFG_WKERR k + n)
    let h := h.wr d R.CAN_WKCFG_WKERR e k
    if e = 32 then h.canWakeUp d k 3 else h
  else h

def execWakeErrorLimit (die : Die) (can : Fin 16) (frames : Nat) (s : State) : Host.Outcome State Fault Refusal :=
  s.onDie die (wakeErrorLimit die.val can.val frames)

/-- CAN_PARITY_CHECK (R359): the background check reads one filter. -/
def canParityCheck (d k : Nat) (bad : Bool) (h : Hw) : Hw := if bad then h.canParity d k else h

def execCanParityCheck (die : Die) (can : Fin 16) (bad : Bool) (s : State) : Host.Outcome State Fault Refusal :=
  s.onDie die (canParityCheck die.val can.val bad)

/-! ## Releases (R344) -/

/-- A release releases the head of TX where it is gated and not yet released; else it is a miss. -/
def Hw.canRelease (h : Hw) (d k : Nat) : Hw :=
  let x := h.can d k
  let gated : Bool := match h.headCells d (canQ k 0) with
    | c :: _ => bit (leAt c 4 4) 8
    | [] => false
  if gated ∧ ¬x.released then h.setCan d k { x with released := true }
  else
    let h := (h.flag d R.CAN_FLAGS_RELMISS k).bump d R.CAN_CNTC_RELMISS 1 k
    if firstMs h.now x.lastMiss then (h.setCan d k { x with lastMiss := some h.now }).report d (0x60 + k) .canEvent 4 else h

/-! ## Node states (R354) -/

/-- Apply to the controllers of a die that are in use. -/
def Hw.eachCan (h : Hw) (f : Nat → Nat → Hw → Hw) : Hw :=
  h.eachDie fun d h => iter 16 (fun k h => if h.on d R.CAN_CFG_EN k then f d k h else h) h

/-- Every controller in use enters Integrating: at Dawn step 10, after Sleep (but for those awake already), after Safe. -/
def Hw.startCans (h : Hw) : Hw :=
  h.eachCan fun d k h => if h.canState d k = 0 ∨ h.canState d k = 5 then h.integrate d k else h

/-- Safe left: Integrating, then Operating; a controller that is Off, in bus-off, recovering or asleep stays so. -/
def Hw.cansLeaveSafe (h : Hw) : Hw := h.eachCan fun d k h => if h.canState d k = 2 then h.integrate d k else h

/-- A transmission in progress ends at the forcing of R325; a STOP that waited for it takes effect. -/
def Hw.endTransmissions (h : Hw) : Hw := h.eachCan fun d k h => (h.failTx d k).settleStop d k

/-- Sleep entered: the listener where WAKEEN = 1, else Off; bus-off is left only by RECOVER (R353). -/
def Hw.sleepCans (h : Hw) : Hw :=
  h.eachCan fun d k h =>
    if h.inBusOff d k then h
    else if h.on d R.CAN_CFG_WAKEEN k then h.canSleepNow d k
    else (((h.failTx d k).wr d R.CAN_STAT_RXING 0 k).setCan d k { (h.failTx d k).can d k with stopping := false }).setCanState d k 0

/-- Every controller enters Off. -/
def Hw.cansOff (h : Hw) : Hw :=
  h.eachCan fun d k h =>
    let h := h.endTx d k
    ((h.setCan d k { h.can d k with stopping := false }).wr d R.CAN_STAT_RXING 0 k).setCanState d k 0

/-- DUSK_CAN_LIMIT (R354): 2 ms after Dusk entry each controller enters Off. -/
def duskCanLimit (h : Hw) : Hw := if h.node.state = .dusk then h.cansOff else h

def execDuskCanLimit (s : State) : Host.Outcome State Fault Refusal := s.on duskCanLimit

end Sys2Proof.Machine
end

