-- ==== Sys2Proof/Machine/Events.lean ====
section
/-!
DEFINITION. The Phase Event Table (chapter "Phase scheduler", R382 to R399): scanning, commit, placement and actions of
events, event cells, captures and placer calibration.
-/

namespace Sys2Proof.Machine

/-- Does the event engine run (R396)? -/
def Hw.engineRuns (h : Hw) : Bool := h.node.state == .run || h.node.state == .degraded || h.node.state == .safe

/-- May an entry fire: enabled, armed, its tracker driving events, no parity error (R373, R397)? -/
def Hw.entryLive (h : Hw) (d e : Nat) : Bool :=
  h.engineRuns && h.armed d e && h.trkFires d (h.rd d R.PHS_EVTC_TRK e) && !(h.evt d).bad.contains e

/-- How far the crossing lies ahead in the entry's direction, in 2⁻⁶⁴ turn; not positive where it is reached (R383). -/
def Hw.toCross (h : Hw) (d e next : Nat) : Int :=
  let t := h.rd d R.PHS_EVTC_TRK e
  let dist := signed 96 (toTwos 96 ((next * 2 ^ 32 : Nat) - (h.thetaNow d t : Int)))
  if h.on d R.PHS_EVTC_DIR e then -dist else dist

/-- The tracker's velocity in the entry's direction. -/
def Hw.speed (h : Hw) (d e : Nat) : Int :=
  let w := (h.trk d (h.rd d R.PHS_EVTC_TRK e)).w
  if h.on d R.PHS_EVTC_DIR e then -w else w

/-- Is the crossing predicted within 4,096 ns, 5,120 core cycles (R384)? -/
def Hw.crossingNear (h : Hw) (d e next : Nat) : Bool := decide (0 < h.speed d e) && decide (h.toCross d e next ≤ h.speed d e * 5120)

/-- Pending entries whose crossing has moved beyond 4,096 ns, or that may not fire, return to the table (R384). -/
def Hw.trimPending (h : Hw) (d : Nat) : Hw :=
  let x := h.evt d
  let keep := x.pending.filter fun e =>
    h.entryLive d e && (match x.next.get none e with
      | some n => h.crossingNear d e n
      | none => false)
  if keep = x.pending then h else h.setPending d keep

/-! ## Placement (R389, R390) -/

/-- Bank of the pin of a pin-edge entry. -/
def Hw.edgeBank (h : Hw) (d e : Nat) : Option Nat :=
  if h.rd d R.PHS_EVTC_ACTION e = 1 then some (low 8 (h.rd d R.PHS_EVTC_PARAM e) / 16) else none

/-- Core time in ns. -/
def Hw.coreNs (h : Hw) : Nat := h.now * 4 / 5

/-- Place an edge of a bank wanted at `tc` ns: a third edge within 16 core cycles (12.8 ns) of two others goes to the first
instant at which a placer is free, and is late (R390). -/
def placeEdge (edges : List (Nat × Nat)) (bank tc : Nat) : Nat × Bool :=
  let near := (edges.filter fun x => x.1 == bank && decide (apart x.2 tc * 5 < 64)).map (·.2)
  if near.length < 2 then (tc, false) else (max tc (near.foldl min (near.headD tc) + 13), true)

/-- Record an edge; edges more than 16 core cycles old occupy no placer. -/
def Hw.noteEdge (h : Hw) (d bank tc : Nat) : Hw :=
  let x := h.evt d
  h.setEvt d { x with edges := (x.edges.filter fun e => decide (h.coreNs ≤ e.2 + 13)) ++ [(bank, tc)] }

/-- Commit an event for `tc`. -/
def Hw.commitAt (h : Hw) (d e next tc : Nat) : Hw :=
  let (tc', late, h) := match h.edgeBank d e with
    | none => (tc, false, h)
    | some b =>
      let (t, l) := placeEdge (h.evt d).edges b tc
      (t, l, h.noteEdge d b t)
  let x := h.evt d
  let vel := velOf (h.trk d (h.rd d R.PHS_EVTC_TRK e)).w
  (h.setEvt d { x with committed := x.committed ++ [⟨e, next, tc', late, vel⟩] }).setPending d (x.pending.filter (· != e))

/-- Is a pending crossing not yet reached and predicted within 256 core cycles (R384)? -/
def Hw.commitDue (h : Hw) (d e next : Nat) : Bool :=
  (h.evt d).pending.contains e && decide (0 < h.toCross d e next) && decide (h.toCross d e next ≤ h.speed d e * 256)

/-- Tc of a crossing, to 1 ns, from the estimate and w as they stand (R384). -/
def Hw.predicted (h : Hw) (d e next : Nat) : Nat :=
  let cyc5 := (2 * h.toCross d e next * 4 + h.speed d e).fdiv (2 * h.speed d e)
  (((h.now * 4 : Nat) + cyc5) / 5).toNat

/-- EVENT_COMMIT (R384, R390): 256 core cycles before its predicted time a pending event is committed; Tc is fixed to 1 ns
from the estimate and w as they stand. -/
def eventCommit (d e : Nat) (h : Hw) : Hw :=
  let h := h.trimPending d
  match (h.evt d).next.get none e with
  | none => h
  | some n =>
    if h.commitDue d e n then h.commitAt d e n (h.predicted d e n) else h

def execEventCommit (die : Die) (entry : Fin 4096) (s : State) : Host.Outcome State Fault Refusal :=
  s.onDie die (eventCommit die.val entry.val)

/-! ## Actions (R386 to R388) -/

/-- The estimate of a tracker at `tc` ns of core time. -/
def Hw.estimateAt (h : Hw) (d t tc : Nat) : Nat :=
  let x := h.trk d t
  toTwos 96 ((x.theta : Int) + (x.w * ((tc * 5 : Nat) - (x.thetaAt * 4 : Nat) : Int)).fdiv 4) / 2 ^ 32

/-- Fabric time in ns at `tc` ns of core time. -/
def Hw.fabricAt (h : Hw) (tc : Nat) : Nat :=
  (((h.ftm.time : Int) + ((tc * 5 : Nat) - (h.now * 4 : Nat) : Int) * 2 ^ 48) / (unitsPerNs : Nat)).toNat

/-- An event cell (R387). -/
def Hw.eventCell (h : Hw) (d : Nat) (c : Commit) (late : Bool) : Cell :=
  let k := low 4 (h.rd d R.PHS_EVTC_PARAM c.entry)
  let data := [0x30, 0x01] ++ leBytes 2 (c.entry + (if late then 2 ^ 15 else 0)) ++ leBytes 1 (h.rd d R.PHS_EVTC_TRK c.entry) ++
    List.replicate 3 0 ++ leBytes 8 c.next ++ leBytes 8 (h.fabricAt c.tc) ++ leBytes 4 (toTwos 32 c.vel)
  blankCell (h.rd d R.PHS_QTGTB_CLASS k) (h.rd d R.PHS_QTGTA_TGTNODE k) (h.rd d R.PHS_QTGTA_TGTDIE k) (h.rd d R.PHS_QTGTA_TGTQ k)
    h.nodeId d data

/-- A queue send (R387): the cell waits in a 64-cell buffer; one that finds it full is discarded. -/
def Hw.queueSend (h : Hw) (d : Nat) (c : Commit) (late : Bool) : Hw :=
  let x := h.evt d
  if x.cells.length < 64 then h.setEvt d { x with cells := x.cells ++ [h.eventCell d c late] }
  else h.bump d R.PHS_EMISC_EVDROP

/-- A capture (R388). -/
def Hw.capture (h : Hw) (d : Nat) (c : Commit) : Hw :=
  let p := h.rd d R.PHS_EVTC_PARAM c.entry
  let k := low 4 p
  let est := h.estimateAt d (bits p 4 3) c.tc
  let h := (h.wr d R.PHS_CAPPL_VALUE (low 32 est) k).wr d R.PHS_CAPPH_VALUE (est / 2 ^ 32) k
  let h := (h.wr d R.PHS_CAPT_VALUE (low 32 (h.fabricAt c.tc)) k).wr d R.PHS_CAPIN_VALUE (h.inWord d (bits p 7 3)) k
  let h := h.wr d R.PHS_CAPSEQ_SEQ (low 16 (h.rd d R.PHS_CAPSEQ_SEQ k + 1)) k
  let new := h.rd d R.PHS_CAPST_NEW
  if bit new k then h.wr d R.PHS_CAPST_OVR (h.rd d R.PHS_CAPST_OVR ||| 2 ^ k) else h.wr d R.PHS_CAPST_NEW (new + 2 ^ k)

/-- The action of an entry (R386). -/
def Hw.act (h : Hw) (d : Nat) (c : Commit) (late : Bool) : Hw :=
  let p := h.rd d R.PHS_EVTC_PARAM c.entry
  match h.rd d R.PHS_EVTC_ACTION c.entry with
  | 1 =>
    let pin := low 8 p
    match bits p 8 2 with
    | 0 => h.setOut d pin false true
    | 1 => h.setOut d pin true true
    | _ => h.setOut d pin (!h.outBit d pin) true
  | 2 => h.phaseRaise d (low 6 p) (bits p 6 2)
  | 3 => h.queueSend d c late
  | 4 => h.capture d c
  | 5 => h.canRelease d (low 4 p)
  | _ => h

/-- NEXT and ARM after a firing (R382). -/
def Hw.afterFire (h : Hw) (d e next : Nat) : Hw :=
  let step := fun (turns : Nat) =>
    let n := toTwos 64 ((next : Int) + (if h.on d R.PHS_EVTC_DIR e then -1 else 1) * ((turns * 2 ^ 32 : Nat) : Int))
    h.setEvt d { h.evt d with next := (h.evt d).next.put none e (some n) }
  match h.rd d R.PHS_EVTC_MODE e with
  | 2 => step 1
  | 3 => step (h.rd d R.PHS_EVTC_N e)
  | _ => h.wr d R.PHS_EVTC_ARM 0 e

/-- A late firing (R385, R390): LATE, its count, and an event for the first in each 1 ms. -/
def Hw.lateFiring (h : Hw) (d e : Nat) : Hw :=
  let h := (h.flag d R.PHS_EVTC_LATE e).bump d R.PHS_ECNT_LATE
  let x := h.evt d
  if firstMs h.now x.lastLate then (h.setEvt d { x with lastLate := some h.now }).report d 0x90 .eventLate e else h

/-- An event fires. -/
def Hw.fire (h : Hw) (d : Nat) (c : Commit) : Hw :=
  let h := (h.wr d R.PHS_EVTC_LATE 0 c.entry).bump d R.PHS_ECNT_FIRED
  let h := if c.late then h.lateFiring d c.entry else h
  (h.act d c c.late).afterFire d c.entry c.next

/-- A committed event leaves the list and fires. -/
def Hw.fireCommit (h : Hw) (d : Nat) (c : Commit) : Hw :=
  (h.setEvt d { h.evt d with committed := (h.evt d).committed.erase c }).fire d c

/-- The committed events of lower entries with the Tc of `c`, in ascending entry order (R399). -/
def sameInstant (l : List Commit) (c : Commit) : List Commit :=
  (List.range c.entry).filterMap fun k => l.find? fun x => x.entry == k && x.tc == c.tc

/-- EVENT_FIRE (R384, R386, R399): a committed event acts in the core cycle containing Tc whatever the estimate or the entry has done
since, and not before; committed events of lower entries with the same Tc act first. -/
def eventFire (d e : Nat) (h : Hw) : Hw :=
  match (h.evt d).committed.find? (·.entry == e) with
  | none => h
  | some c =>
    if h.now < c.tc * 5 / 4 then h
    else (each (sameInstant (h.evt d).committed c) (fun c h => h.fireCommit d c) h).fireCommit d c

def execEventFire (die : Die) (entry : Fin 4096) (s : State) : Host.Outcome State Fault Refusal :=
  s.onDie die (eventFire die.val entry.val)

/-- EVENT_CELL_PRESENT (R387): the oldest event cell is presented at LP once the reservation of its class allows. -/
def eventCellPresent (d : Nat) (h : Hw) : Hw :=
  let x := h.evt d
  match x.cells with
  | [] => h
  | c :: rest =>
    if h.mayPresent d 6 c.klass then (h.setEvt d { x with cells := rest }).present d 6 ⟨c, none⟩ else h

def execEventCellPresent (die : Die) (s : State) : Host.Outcome State Fault Refusal := s.onDie die (eventCellPresent die.val)

/-! ## The scanner (R384, R385, R397) -/

/-- The scanner evaluates one entry: with a parity error it is shut out; reached without a commit it fires at once, late;
near its crossing it becomes pending while the list has room. -/
def scanEntry (d e : Nat) (bad : Bool) (h : Hw) : Hw :=
  let h := h.trimPending d
  let x := h.evt d
  if bad then
    if x.bad.contains e then h
    else
      let h := (h.journalErr d 3 e 2).setEvt d { x with bad := e :: x.bad, pending := x.pending.filter (· != e) }
      (h.raiseFault d 0x50 (8 + e)).report d 0x90 .trackerError e
  else if ¬h.entryLive d e ∨ x.committed.any (·.entry == e) then h
  else
    match x.next.get none e with
    | none => h
    | some n =>
      if h.toCross d e n ≤ 0 then
        let (tc, h) := match h.edgeBank d e with
          | none => (h.coreNs, h)
          | some b => ((placeEdge x.edges b h.coreNs).1, h.noteEdge d b (placeEdge x.edges b h.coreNs).1)
        let h := if x.pending.contains e then h.setPending d (x.pending.filter (· != e)) else h
        h.fire d ⟨e, n, tc, true, velOf (h.trk d (h.rd d R.PHS_EVTC_TRK e)).w⟩
      else if h.crossingNear d e n ∧ ¬x.pending.contains e ∧ x.pending.length < 64 then h.setPending d (x.pending ++ [e])
      else h

/-- The scan with the check of the tracker's state that its crossing prediction reads (R591): a tracker that fails it is Faulted. -/
def entryScan (d e : Nat) (bad trkBad : Bool) (h : Hw) : Hw :=
  if trkBad && !bad && h.entryLive d e then h.trackerFault d (h.rd d R.PHS_EVTC_TRK e) else scanEntry d e bad h

/-- ENTRY_SCAN (R384, R385, R397, R591). -/
def execEntryScan (die : Die) (entry : Fin 4096) (parityBad trackerBad : Bool) (s : State) : Host.Outcome State Fault Refusal :=
  s.onDie die (entryScan die.val entry.val parityBad trackerBad)

/-! ## Arming (R382, R399) -/

/-- ENTRY_ARM (R382, R13, R399): a write of ARM initialises NEXT; where the one-shot fires in the same cycle the write
applies first and the firing's clear stands. A write of 0 disarms. -/
def entryArm (d e : Nat) (arm fires : Bool) (h : Hw) : Hw :=
  if arm then
    let was := h.on d R.PHS_EVTC_ARM e
    let h := h.flag d R.PHS_EVTC_ARM e
    let h := if was then h else h.initNext d e
    if fires then eventFire d e h else h
  else (h.wr d R.PHS_EVTC_ARM 0 e).trimPending d

def execEntryArm (die : Die) (entry : Fin 4096) (arm fires : Bool) (s : State) : Host.Outcome State Fault Refusal :=
  s.onDie die (entryArm die.val entry.val arm fires)

/-- A rewrite of an entry's registers ends its parity error (R397). -/
def Hw.rewriteEntry (h : Hw) (d e : Nat) : Hw :=
  let x := h.evt d
  h.setEvt d { x with bad := x.bad.filter (· != e) }

/-- The engine starts: NEXT of every armed entry is initialised (R396). -/
def Hw.startEngine (h : Hw) (d : Nat) : Hw := iter 8 (fun t h => h.initTracker d t) h

/-- The engine stops: pending entries return to the table; committed events act (R399). -/
def Hw.stopEngine (h : Hw) (d : Nat) : Hw := h.setPending d []

/-! ## Placer calibration (R391, R392) -/

/-- PLACER_CALIBRATION (R391, R392): the calibrator takes the next placer that holds no committed edge. A result more than
0.5 ns off, or a failure, keeps the taps, counts and raises PHS_CAL. -/
def placerCalibration (d : Nat) (ok : Bool) (h : Hw) : Hw :=
  let x := h.evt d
  let b := x.placer / 3
  if 3 ≤ ((x.edges.filter fun e => e.1 == b && decide (h.coreNs ≤ e.2)).length) then h
  else
    let h := h.setEvt d { x with placer := (x.placer + 1) % 36 }
    let h := h.journalErr d 15 x.placer (if ok then 0 else 3)
    if ok then h else ((h.bump d R.PHS_EMISC_CALFAIL).raiseFault d 0x51 b).report d 0x90 .placerCal b

def execPlacerCalibration (die : Die) (ok : Bool) (s : State) : Host.Outcome State Fault Refusal :=
  s.onDie die (placerCalibration die.val ok)

end Sys2Proof.Machine
end

