-- ==== Sys2Proof/Machine/PumpUnits.lean ====
section
/-!
DEFINITION. The parts of a Pump (chapter "Pumps", R278 to R312): its registers and flags, pin groups, instruction words, the
pour and gather stages with stuffing and CRC, the line code, faults and stops.
-/

namespace Sys2Proof.Machine

def Hw.pump (h : Hw) (d n : Nat) : Pump := h.pumps.get .init (d * 64 + n)

def Hw.setPump (h : Hw) (d n : Nat) (x : Pump) : Hw := { h with pumps := h.pumps.put .init (d * 64 + n) x }

/-- PMP_STAT.STATE: 0 Stopped, 1 Running, 2 Awaiting, 3 Faulted (R300). -/
def Hw.pumpState (h : Hw) (d n : Nat) : Nat := h.rd d R.PMP_STAT_STATE n

def Hw.setPumpState (h : Hw) (d n s : Nat) : Hw := h.wr d R.PMP_STAT_STATE s n

/-- The queues of a Pump: 0 IN0, 1 IN1, 2 OUT0, 3 OUT1 (R251). -/
def pumpQ (n i : Nat) : Nat := 4 * n + i

/-! ## Pins (R279, R285) -/

/-- Is a pin routed to this Pump? -/
def Hw.pumpPin (h : Hw) (d n p : Nat) : Bool := decide (p < 192) && h.rd d R.MIO_PCFG_FUNC p == 3 && h.rd d R.MIO_PCFG_UNIT p == n

/-- The sample of the IN group: pin i at bit i; a pin of another function reads 0 (R279). -/
def Hw.inSample (h : Hw) (d n : Nat) : Nat :=
  let b := h.rd d R.PMP_PINA_INBASE n
  (List.range (h.rd d R.PMP_PINA_INCNT n)).foldl (fun a i => if h.pumpPin d n (b + i) ∧ (h.pin d (b + i)).qual then a + 2 ^ i else a) 0

/-- Mask of IN pins routed to the Pump. -/
def Hw.inMask (h : Hw) (d n : Nat) : Nat :=
  let b := h.rd d R.PMP_PINA_INBASE n
  (List.range (h.rd d R.PMP_PINA_INCNT n)).foldl (fun a i => if h.pumpPin d n (b + i) then a + 2 ^ i else a) 0

/-- Drive one OUT pin. -/
def Hw.drivePump (h : Hw) (d n p : Nat) (level : Bool) : Hw := if h.pumpPin d n p then h.setFn d p level else h

/-- Set an output enable. -/
def Hw.enablePump (h : Hw) (d n p : Nat) (oe : Bool) : Hw := if h.pumpPin d n p then h.setOe d p oe else h

/-- The idle levels of OUT and SIDE pins (R279, R302). -/
def Hw.idlePump (h : Hw) (d n : Nat) : Hw :=
  let ob := h.rd d R.PMP_PINA_OUTBASE n
  let sb := h.rd d R.PMP_PINB_SIDEBASE n
  let h := iter (h.rd d R.PMP_PINA_OUTCNT n) (fun i h =>
    (h.drivePump d n (ob + i) (bit (h.rd d R.PMP_IDLE_IDLE n) i)).enablePump d n (ob + i) true) h
  iter (h.rd d R.PMP_PINB_SIDECNT n) (fun i h =>
    (h.drivePump d n (sb + i) (bit (h.rd d R.PMP_PINB_SIDEIDLE n) i)).enablePump d n (sb + i) (bit (h.rd d R.PMP_PINB_SIDEOE n) i)) h

/-- The pin action PA (R285). -/
def Hw.pinAction (h : Hw) (d n pa : Nat) : Hw :=
  let sb := h.rd d R.PMP_PINB_SIDEBASE n
  iter (min 4 (h.rd d R.PMP_PINB_SIDECNT n)) (fun i h =>
    let v := bit pa i
    match bits pa 4 2 with
    | 1 => h.drivePump d n (sb + i) v
    | 2 => if v then h.drivePump d n (sb + i) (!(h.pin d (sb + i)).fn) else h
    | 3 => h.enablePump d n (sb + i) v
    | _ => h) h

/-! ## Flags (R280) -/

/-- Would a STORE to an OUT queue complete without waiting (R298)? -/
def Hw.storeReady (h : Hw) (d n o : Nat) : Bool :=
  h.on d R.PMP_CTL_STOREMODE n || (h.openTail d (pumpQ n (2 + o))).isSome || decide (1 ≤ h.freeCredit d (pumpQ n (2 + o)))

/-- The flag vector. -/
def Hw.pumpFlags (h : Hw) (d n : Nat) : Nat :=
  let x := h.pump d n
  b2n (!h.queueEmpty d (pumpQ n 0)) + b2n (!h.queueEmpty d (pumpQ n 1)) * 2 + b2n (h.storeReady d n 0) * 4 +
    b2n (h.storeReady d n 1) * 8 + b2n x.pour.isNone * 16 + b2n x.grdy * 32 + b2n x.flag * 64 + b2n x.abort * 128 +
    b2n x.codeErr * 256 + b2n (h.rd d R.PMP_CRCACC_VALUE n == h.rd d R.PMP_CRCRES_VALUE n) * 512

/-- Is a Pump mid-shift (R301)? -/
def Hw.midShift (h : Hw) (d n : Nat) : Bool :=
  let x := h.pump d n
  let g := h.rd d R.PMP_SHIFT_GWLEN n
  let g := if g = 0 then 32 else g
  x.pour.isSome || x.gather.isSome || (decide (0 < h.rd d R.PMP_CNT_GCT n) && decide (h.rd d R.PMP_CNT_GCT n < g))

/-- A source operand by its MOVE code (R287): X, Y, GS, PS, LC, CRC, PINS, FLAGS. -/
def Hw.pumpSource (h : Hw) (d n code : Nat) : Nat :=
  match code with
  | 0 => h.rd d R.PMP_X_VALUE n
  | 1 => h.rd d R.PMP_Y_VALUE n
  | 2 => h.rd d R.PMP_GS_VALUE n
  | 3 => h.rd d R.PMP_PS_VALUE n
  | 4 => h.rd d R.PMP_CNT_LC n
  | 5 => h.rd d R.PMP_CRCACC_VALUE n
  | 6 => h.inSample d n
  | _ => h.pumpFlags d n

/-! ## Instruction words (R284, R287) -/

/-- The bit count of POUR, GATHER and a CRC feed: 0 means 32. -/
def bitCount (a : Nat) : Nat := if low 6 a = 0 then 32 else low 6 a

/-- Is an instruction word an illegal encoding whatever the configuration (R287, R290, R293, R294)? A pin or flag number out of range is
not: it is found at execution (R310). -/
def illegalWord (w : Nat) : Bool :=
  let a := low 16 w
  let nBad := decide (32 < low 6 a)
  match bits w 27 5 with
  | 0x00 => a != 0
  | 0x01 => bits a 2 14 != 0
  | 0x02 => bits a 9 7 != 0 || nBad
  | 0x03 => bits a 10 6 != 0 || nBad
  | 0x04 => bits a 7 9 != 0
  | 0x05 => bits a 13 3 == 7 || bit a 6 || (bits a 13 3 == 6 && decide (3 < bits a 8 5))
  | 0x06 => false
  | 0x07 => false
  | 0x08 => false
  | 0x09 => false
  | 0x0A => decide (5 < bits a 13 3) || bits a 0 10 != 0
  | 0x0B => bit a 14 && bits a 0 11 != 0
  | 0x0C => bit a 14 && bits a 0 11 != 0
  | 0x0D => decide (0x0F < bits a 11 5)
  | 0x0E => bits a 14 2 == 3 || (bits a 14 2 == 1 && low 14 a != 0) || (bits a 14 2 == 2 && bits a 6 8 != 0)
  | 0x0F => bits a 5 11 != 0
  | 0x10 => bits a 14 2 == 3 || (bits a 14 2 != 1 && low 14 a != 0) ||
      (bits a 14 2 == 1 && (bit a 13 || bit a 12 || bits a 6 4 != 0 || nBad))
  | 0x11 => bits a 2 14 != 0
  | 0x12 => bits a 6 10 != 0 || bits a 1 5 == 0 || decide (16 < bits a 1 5)
  | 0x1F => a != 0
  | _ => true

/-! ## CRC unit (R292) -/

/-- The W-bit reflection of a number. -/
def reflectBits (w v : Nat) : Nat := (List.range w).foldl (fun a i => if bit v i then a + 2 ^ (w - 1 - i) else a) 0

/-- One bit into the accumulator. -/
def crcBit (w poly : Nat) (refin : Bool) (acc : Nat) (b : Bool) : Nat :=
  if refin then
    let f := bit acc 0 != b
    if f then acc / 2 ^^^ reflectBits w poly else acc / 2
  else
    let f := bit acc (w - 1) != b
    if f then low w (acc * 2) ^^^ low w poly else low w (acc * 2)

/-- Feed bits in their order. -/
def Hw.crcFeed (h : Hw) (d n : Nat) (bs : List Bool) : Hw :=
  let w := h.rd d R.PMP_CRCCFG_WIDTH n
  let p := h.rd d R.PMP_CRCPOLY_POLY n
  let r := h.on d R.PMP_CRCCFG_REFIN n
  h.wr d R.PMP_CRCACC_VALUE (bs.foldl (crcBit w p r) (h.rd d R.PMP_CRCACC_VALUE n)) n

/-- The first `n` bits of a source for a feed instruction: upward when REFIN = 1, downward when REFIN = 0. -/
def feedBits (v n : Nat) (up : Bool) : List Bool :=
  (List.range n).map fun i => if up then bit v i else bit v (n - 1 - i)

/-! ## The pour stage (R288, R291) -/

/-- PMP_CNT.PCT and PMP_STAT.PBUSY, GBUSY, MIDSHIFT follow the stages. -/
def Hw.showStages (h : Hw) (d n : Nat) : Hw :=
  let x := h.pump d n
  let h := h.wr d R.PMP_CNT_PCT (match x.pour with | some p => p.left.length | none => 0) n
  let h := h.wr d R.PMP_STAT_PBUSY (b2n x.pour.isSome) n
  let h := h.wr d R.PMP_STAT_GBUSY (b2n x.gather.isSome) n
  h.wr d R.PMP_STAT_MIDSHIFT (b2n (h.midShift d n)) n

/-- A run counter after a bit: consecutive bits of STFVAL, up to the 17 that R291 tells apart at STFRUN = 15, for which the 4 bits of R278
alone do not suffice (LOG 202). -/
def runAfter (run : Nat) (b stfval : Bool) : Nat := if b == stfval then min 17 (run + 1) else 0

/-- Levels for the OUT pins of a group: bits in pour order, the earlier bit on pin 0 (DIR = 0) or on the higher pin. -/
def groupPins (g : List Bool) (dir : Bool) : List Bool := if dir then g.reverse else g

/-- One emission of the pour stage at a Pump cycle boundary: the stuff bit that is due, or the next group. -/
def Hw.emit (h : Hw) (d n : Nat) : Hw :=
  let x := h.pump d n
  match x.pour with
  | none => h
  | some s =>
    let ob := h.rd d R.PMP_PINA_OUTBASE n
    let val := h.on d R.PMP_SHIFT_STFVAL n
    if s.stuffDue then
      let h := h.drivePump d n ob (!val)
      let rest := if s.left.isEmpty then none else some { s with stuffDue := false }
      (h.setPump d n { h.pump d n with pour := rest, pourRun := 0 }).showStages d n
    else
      let w := max 1 (h.rd d R.PMP_PINA_OUTCNT n)
      let g := s.left.take w
      let left := s.left.drop w
      let h := iter g.length (fun i h => h.drivePump d n (ob + i) ((groupPins g s.dir).getD i false)) h
      let h := if s.crcf then h.crcFeed d n g else h
      let run := g.foldl (fun r b => runAfter r b val) x.pourRun
      let due := s.stf && decide (h.rd d R.PMP_SHIFT_STFRUN n ≤ run)
      let next := if left.isEmpty && !due then none else some { s with left := left, stuffDue := due }
      (h.setPump d n { h.pump d n with pour := next, pourRun := run }).showStages d n

/-- The pour stage takes n bits of PS (R288). -/
def Hw.loadPour (h : Hw) (d n arg : Nat) : Hw :=
  let k := bitCount arg
  let ps := h.rd d R.PMP_PS_VALUE n
  let bs := (List.range k).map fun i => if bit arg 6 then bit ps (k - 1 - i) else bit ps i
  (h.setPump d n { h.pump d n with pour := some ⟨bs, bit arg 6, bit arg 7, bit arg 8, false⟩ }).showStages d n

/-! ## The gather stage (R289, R291) -/

/-- Bits of a sample in the order they enter the CRC: with DIR = 1 the higher-numbered pin is the earlier. -/
def sampleBits (s m : Nat) (dir : Bool) : List Bool := (List.range m).map fun i => if dir then bit s (m - 1 - i) else bit s i

/-- The gather stage takes one sample. -/
def Hw.takeSample (h : Hw) (d n s : Nat) : Hw :=
  let x := h.pump d n
  match x.gather with
  | none => h
  | some g =>
    if g.n ≤ g.got then h
    else
      let val := h.on d R.PMP_SHIFT_STFVAL n
      let lim := h.rd d R.PMP_SHIFT_STFRUN n
      let b := bit s 0
      let run := runAfter x.gathRun b val
      if g.dst ∧ b ≠ val ∧ x.gathRun = lim then h.setPump d n { x with gathRun := 0 }
      else
        let m := min (h.rd d R.PMP_PINA_INCNT n) (g.n - g.got)
        let v := low m s
        let at_ := if g.dir then g.n - g.got - m else g.got
        let h := if g.crcf then h.crcFeed d n (sampleBits v m g.dir) else h
        let fl := g.dst && b == val && x.gathRun == lim
        let ab := g.dst && b == val && x.gathRun == lim + 1
        h.setPump d n { h.pump d n with
          gather := some { g with got := g.got + m, value := g.value + v * 2 ^ at_ }, gathRun := run,
          flag := x.flag || fl, abort := x.abort || ab }

/-- A completed collection is delivered to GS (R289). -/
def Hw.deliverGather (h : Hw) (d n : Nat) : Hw :=
  let x := h.pump d n
  match x.gather with
  | none => h
  | some g =>
    if g.got < g.n then h
    else
      let gs := h.rd d R.PMP_GS_VALUE n
      let v := if ¬g.acc then g.value else if g.dir then low 32 (gs * 2 ^ g.n) ||| g.value else gs / 2 ^ g.n ||| low 32 (g.value * 2 ^ (32 - g.n))
      let h := (h.wr d R.PMP_GS_VALUE v n).wr d R.PMP_CNT_GCT (min 63 (h.rd d R.PMP_CNT_GCT n + g.n)) n
      (h.setPump d n { x with gather := none, grdy := true }).showStages d n

/-- The gather stage is armed (R289). -/
def Hw.armGather (h : Hw) (d n arg : Nat) : Hw :=
  (h.setPump d n { h.pump d n with gather := some ⟨bitCount arg, 0, 0, bit arg 6, bit arg 7, bit arg 8, bit arg 9⟩ }).showStages d n

/-! ## Line code (R293) -/

/-- The entry index of data under the previous symbol. -/
def Hw.codeIndex (h : Hw) (d n data : Nat) (p : Bool) : Nat :=
  if h.on d R.PMP_LCCFG_PREV n ∧ p then data + 2 ^ h.rd d R.PMP_LCCFG_INW n else data

/-- Encode `g` groups of X: the symbols of PS and the last symbol; none where an invalid entry is met. -/
def Hw.encodeGroups (h : Hw) (d n x : Nat) : Nat → Nat → Bool → Option (Nat × Bool)
  | 0, _, p => some (0, p)
  | g + 1, k, p =>
    let inw := h.rd d R.PMP_LCCFG_INW n
    let outw := h.rd d R.PMP_LCCFG_OUTW n
    let e := h.codeIndex d n (bits x (inw * k) inw) p
    if h.on d R.PMP_LCT_VALID n e then
      let pat := low outw (h.rd d R.PMP_LCT_OUTPAT n e)
      match h.encodeGroups d n x g (k + 1) (bit pat (outw - 1)) with
      | some (v, q) => some (v + pat * 2 ^ (outw * k), q)
      | none => none
    else none

/-- The lowest-numbered valid entry that a group of symbols matches. -/
def Hw.decodeEntry (h : Hw) (d n pat : Nat) (p : Bool) : Option Nat :=
  (List.range 16).find? fun e =>
    h.on d R.PMP_LCT_VALID n e && low (h.rd d R.PMP_LCCFG_OUTW n) (h.rd d R.PMP_LCT_OUTPAT n e) == pat &&
      (!h.on d R.PMP_LCCFG_PREV n || bit e (h.rd d R.PMP_LCCFG_INW n) == p)

/-- Decode `g` groups of GS: the data of X, the last symbol, and whether every group matched. -/
def Hw.decodeGroups (h : Hw) (d n gs : Nat) : Nat → Nat → Bool → Nat × Bool × Bool
  | 0, _, p => (0, p, true)
  | g + 1, k, p =>
    let inw := h.rd d R.PMP_LCCFG_INW n
    let outw := h.rd d R.PMP_LCCFG_OUTW n
    let pat := bits gs (outw * k) outw
    let (v, q, ok) := h.decodeGroups d n gs g (k + 1) (bit pat (outw - 1))
    match h.decodeEntry d n pat p with
    | some e => (low inw e * 2 ^ (inw * k) + v, q, ok)
    | none => (v, q, false)

/-- Is the word at hand illegal under the configuration as it stands (R287, R290, R291, R293, R294)? -/
def Hw.illegalNow (h : Hw) (d n w : Nat) : Bool :=
  let a := low 16 w
  let inc := h.rd d R.PMP_PINA_INCNT n
  let outc := h.rd d R.PMP_PINA_OUTCNT n
  illegalWord w ||
  (match bits w 27 5 with
   | 0x02 => outc == 0 || (bit a 8 && outc != 1)
   | 0x03 => inc == 0 || (bit a 9 && inc != 1)
   | 0x05 => (decide (bits a 13 3 < 4) && decide (inc ≤ bits a 8 5)) || (bits a 13 3 == 4 && decide (9 < bits a 8 5))
   | 0x0D => ((bits a 11 5 == 0x0C || bits a 11 5 == 0x0D) && decide (inc ≤ bits a 6 5)) ||
       ((bits a 11 5 == 1 || bits a 11 5 == 2) && decide (9 < bits a 6 5))
   | 0x12 =>
     let g := bits a 1 5
     decide (32 < g * h.rd d R.PMP_LCCFG_OUTW n) || decide (32 < g * h.rd d R.PMP_LCCFG_INW n) ||
       (!bit a 0 && (h.encodeGroups d n (h.rd d R.PMP_X_VALUE n) g 0 (h.pump d n).enc).isNone)
   | _ => false)

/-! ## Stops and faults (R302, R308, R309) -/

/-- The effects of STOP-NOW (R302) but for the state. -/
def Hw.haltPump (h : Hw) (d n : Nat) : Hw :=
  let h := h.setPump d n { h.pump d n with pour := none, gather := none, wait := none, starting := false }
  let h := (h.wr d R.PMP_CNT_PCT 0 n).wr d R.PMP_CNT_GCT 0 n
  let h := (h.wr d R.PMP_STAT_STOPPEND 0 n).idlePump d n
  h.showStages d n

/-- STOP-NOW: Running, Awaiting or starting to Stopped; a Faulted Pump stays so (R300). -/
def Hw.stopPump (h : Hw) (d n : Nat) : Hw :=
  match h.pumpState d n with
  | 3 => h
  | _ => (h.haltPump d n).setPumpState d n 0

/-- A Pump fault (R309): `par` parity error, else illegal instruction. -/
def Hw.faultPump (h : Hw) (d n : Nat) (par : Bool) : Hw :=
  if h.pumpState d n = 3 then h
  else
    let ip := h.rd d R.PMP_STAT_IP n
    let h := whenDo par (fun h => h.journalErr d 4 n 2) h
    let h := ((h.haltPump d n).setPumpState d n 3).wr d R.PMP_ERR_FIP ip n
    let h := (h.flag d (if par then R.PMP_ERR_PARITY else R.PMP_ERR_ILLOP) n).bump d R.PMP_CNTB_FAULTS 1 n
    (h.raiseFault d (if par then 0x20 else 0x21) n).report d (0x20 + n) .pumpFault ip

/-! ## Signals (R296) -/

/-- SIGNAL: line `l` becomes pending in every subscribing Pump of the die. -/
def Hw.raiseSignal (h : Hw) (d l : Nat) : Hw :=
  iter 64 (fun n h =>
    if bit (h.rd d R.PMP_SIGSUB_SUB n) l then
      let m := h.rd d R.PMP_PEND_SIGP n
      if bit m l then h.flag d R.PMP_ERR_SIGOVR n else h.wr d R.PMP_PEND_SIGP (m + 2 ^ l) n
    else h) h

/-! ## START (R282, R304, R306) -/

/-- START accepted: IP, A, pending signals and channels, run counters, FLAG, ABORT, GCT and line-code states (R304). -/
def Hw.startPump (h : Hw) (d n : Nat) : Hw :=
  let h := h.wr d R.PMP_STAT_IP (h.rd d R.PMP_FLOW_STARTIP n) n
  let h := ((h.wr d R.PMP_PEND_SIGP 0 n).wr d R.PMP_PHPEND_PHP 0 n).wr d R.PMP_CNT_GCT 0 n
  (h.setPump d n { h.pump d n with
    pourRun := 0, gathRun := 0, flag := false, abort := false, enc := h.on d R.PMP_LCCFG_ENCP0 n,
    dec := h.on d R.PMP_LCCFG_DECP0 n, starting := true, safeStopped := false, acc := 0 }).showStages d n

/-! ## The Pump clock (R281, R282) -/

/-- A Pump cycle begins `lag` steps of 0.4 ns ago: A takes FRAC, and a carry makes the cycle one base clock of 2 ns longer. -/
def Hw.pumpBoundary (h : Hw) (d n lag : Nat) : Hw :=
  let x := h.pump d n
  let s := x.acc + h.rd d R.PMP_DIV_FRAC n
  h.setPump d n { x with acc := s % 256, clk := 5 * (h.rd d R.PMP_DIV_INT n + s / 256) - lag }

/-- A core cycle of 0.8 ns of a Pump that runs. -/
def Hw.pumpClock (h : Hw) (d n : Nat) : Hw :=
  if h.pumpState d n = 1 ∨ h.pumpState d n = 2 then
    let x := h.pump d n
    if 2 < x.clk then h.setPump d n { x with clk := x.clk - 2 } else h.pumpBoundary d n (2 - x.clk)
  else h

/-- A core cycle of every Pump. -/
def Hw.pumpClocks (h : Hw) : Hw := each (h.pumps.entries.map (·.1)) (fun k h => h.pumpClock (k / 64) (k % 64)) h

/-- START requested: refused where the Pump is not Stopped or an entry fails its parity (R304). -/
def Hw.requestStart (h : Hw) (d n : Nat) : Bool × Hw :=
  if h.pumpState d n = 0 ∧ (h.pump d n).bad = [] then (true, h.startPump d n)
  else (false, (h.flag d R.PMP_ERR_STARTREF n).report d (0x20 + n) .pumpStartRefused)

/-- Apply to every Pump of the node. -/
def Hw.eachPump (h : Hw) (f : Nat → Nat → Hw → Hw) : Hw := h.eachDie fun d h => iter 64 (f d) h

/-- Pumps with AUTOSTART = 1 start (R306). -/
def Hw.autostart (h : Hw) : Hw :=
  h.eachPump fun d n h => if h.on d R.PMP_CTL_AUTOSTART n then (h.requestStart d n).2 else h

/-- Pumps stopped by Safe and having AUTOSTART = 1 start (R306). -/
def Hw.restartAfterSafe (h : Hw) : Hw :=
  h.eachPump fun d n h =>
    if (h.pump d n).safeStopped ∧ h.on d R.PMP_CTL_AUTOSTART n ∧ h.pumpState d n = 0 then (h.requestStart d n).2 else h

/-- Safe entered: STOP-NOW where SAFEACT = 1 (R306). -/
def Hw.safePumps (h : Hw) : Hw :=
  h.eachPump fun d n h =>
    if h.on d R.PMP_CTL_SAFEACT n ∧ (h.pumpState d n = 1 ∨ h.pumpState d n = 2 ∨ (h.pump d n).starting) then
      let h := h.stopPump d n
      h.setPump d n { h.pump d n with safeStopped := true }
    else h

/-- STOP-NOW for every Pump (R306). -/
def Hw.stopPumps (h : Hw) : Hw := h.eachPump fun d n h => if h.pumpState d n = 0 ∧ ¬(h.pump d n).starting then h else h.stopPump d n

/-- The idle levels of every Pump with pins at Dawn step 6 (R279). -/
def Hw.idlePumps (h : Hw) (d : Nat) : Hw :=
  iter 64 (fun n h => if h.rd d R.PMP_PINA_OUTCNT n = 0 ∧ h.rd d R.PMP_PINB_SIDECNT n = 0 then h else h.idlePump d n) h

/-- PMP_PPAR0 and PMP_PPAR1: even parity of 32 program words from `from` (R284). -/
def Hw.progParity (h : Hw) (d n first : Nat) : Nat :=
  (List.range 32).foldl (fun a i =>
    let w := h.rd d R.PMP_PROG_INSTR n (first + i)
    if ((List.range 32).filter (bit w)).length % 2 = 1 then a + 2 ^ i else a) 0

end Sys2Proof.Machine
end

