-- ==== Sys2Proof/Machine/Pumps.lean ====
section
/-!
DEFINITION. The Pumps' commands, instructions and the events of their stages and waits (chapter "Pumps", R278 to R312).
-/

namespace Sys2Proof.Machine

/-! ## Issue and completion (R286, R308, R309) -/

/-- The instruction at IP. -/
def Hw.pumpWord (h : Hw) (d n : Nat) : Nat := h.rd d R.PMP_PROG_INSTR n (h.rd d R.PMP_STAT_IP n)

/-- An instruction completes: a jump, the wrap point, or the next address (R286). -/
def Hw.finish (h : Hw) (d n : Nat) (target : Option Nat) : Hw :=
  let ip := h.rd d R.PMP_STAT_IP n
  let next := match target with
    | some t => t
    | none => if ip = h.rd d R.PMP_FLOW_WRAPIP n then h.rd d R.PMP_FLOW_WRAPTO n else (ip + 1) % 64
  let h := (h.setPumpState d n 1).wr d R.PMP_STAT_IP next n
  (h.setPump d n { h.pump d n with wait := none, prevIn := h.inSample d n }).showStages d n

/-- The Pump waits (R300). -/
def Hw.pumpWaits (h : Hw) (d n : Nat) (w : PumpWait) : Hw :=
  ((h.setPump d n { h.pump d n with wait := some w }).setPumpState d n 2).showStages d n

/-- An entry with bad parity keeps START refused until it is rewritten (R309). -/
def Hw.markBad (h : Hw) (d n e : Nat) : Hw :=
  let x := h.pump d n
  if x.bad.contains e then h else h.setPump d n { x with bad := e :: x.bad }

/-- Issue the instruction at IP of a Running Pump (R285, R286, R308, R309): a parity error or an illegal instruction
faults; a word that is not of the form `want` is not this command's; else the pin action is applied and `act` runs. -/
def Hw.issue (h : Hw) (d n : Nat) (parity : Parity) (want : Nat → Bool) (act : Nat → Hw → Hw) : Hw :=
  if h.pumpState d n = 1 then
    let w := h.pumpWord d n
    if parity = .word ∨ (h.pump d n).bad.contains (h.rd d R.PMP_STAT_IP n) then
      (h.markBad d n (h.rd d R.PMP_STAT_IP n)).faultPump d n true
    else if parity = .reg then h.faultPump d n true
    else if ¬want w then h
    else if h.illegalNow d n w then h.faultPump d n false
    else
      let s := h.inSample d n
      let h := act (low 16 w) (h.pinAction d n (bits w 21 6))
      h.setPump d n { h.pump d n with prevIn := s }
  else h

/-- Words of an opcode. -/
def isOp (op w : Nat) : Bool := bits w 27 5 == op

/-- Words of an opcode and a two-bit form in ARG[15:14]. -/
def isForm (op f w : Nat) : Bool := bits w 27 5 == op && bits w 14 2 == f

/-- An instruction that acts and completes in its first cycle. -/
def Hw.simple (h : Hw) (d n : Nat) (parity : Parity) (want : Nat → Bool) (act : Nat → Hw → Hw) : Hw :=
  h.issue d n parity want fun a h => (act a h).finish d n none

/-- NOP (R287). -/
def pumpNop (d n : Nat) (par : Parity) (h : Hw) : Hw := h.simple d n par (isOp 0x00) fun _ h => h

def execNop (die : Die) (pump : Fin 64) (parity : Parity) (s : State) : Host.Outcome State Fault Refusal :=
  s.onDie die (pumpNop die.val pump.val parity)

/-- The word that a DRAW takes from an IN queue, after what its memories answer: a reset found on the dequeue returns the last value
(R265, R277). -/
def drawWord (d n : Nat) (one : Bool) (u : Upset) (h : Hw) : Word × Hw :=
  let q := pumpQ n (b2n one)
  let (reset, h) := (h.countArrival d q (h.justFilled d q)).meet d q u
  if reset then (BitVec.ofNat 32 (leAt (h.cq d q).last 0 4), h)
  else (if h.queueEmpty d q then h.flag d (if one then R.PMP_ERR_UNDR1 else R.PMP_ERR_UNDR0) n else h).takeWord d q

/-- DRAW (R287): a word from IN0 or IN1 to PS or X. -/
def pumpDraw (d n : Nat) (par : Parity) (u : Upset) (h : Hw) : Hw :=
  h.simple d n par (isOp 0x01) fun a h =>
    let (w, h) := drawWord d n (bit a 0) u h
    h.wr d (if bit a 1 then R.PMP_X_VALUE else R.PMP_PS_VALUE) w.toNat n

def execDraw (die : Die) (pump : Fin 64) (parity : Parity) (upset : Upset) (s : State) : Host.Outcome State Fault Refusal :=
  s.onDie die (pumpDraw die.val pump.val parity upset)

/-- POUR (R288). -/
def pumpPour (d n : Nat) (par : Parity) (h : Hw) : Hw :=
  h.issue d n par (isOp 0x02) fun a h =>
    if (h.pump d n).pour.isSome then h.pumpWaits d n .pour
    else ((h.loadPour d n a).emit d n).finish d n none

def execPour (die : Die) (pump : Fin 64) (parity : Parity) (s : State) : Host.Outcome State Fault Refusal :=
  s.onDie die (pumpPour die.val pump.val parity)

/-- GATHER (R289). -/
def pumpGather (d n : Nat) (par : Parity) (h : Hw) : Hw :=
  h.issue d n par (isOp 0x03) fun a h =>
    if (h.pump d n).gather.isSome then h.pumpWaits d n .gather
    else ((h.armGather d n a).takeSample d n (h.inSample d n)).finish d n none

def execGather (die : Die) (pump : Fin 64) (parity : Parity) (s : State) : Host.Outcome State Fault Refusal :=
  s.onDie die (pumpGather die.val pump.val parity)

/-- The word a STORE takes: X or GS, shifted (R298). -/
def Hw.storeValue (h : Hw) (d n a : Nat) : Word :=
  BitVec.ofNat 32 ((if bit a 1 then h.rd d R.PMP_X_VALUE n else h.rd d R.PMP_GS_VALUE n) / 2 ^ bits a 2 5)

/-- The word of a STORE is taken and shown to the taps and to the IRIG receiver: GS is free (R298). -/
def Hw.storeTaken (h : Hw) (d n a : Nat) : Hw :=
  let o := a % 2
  let w := h.storeValue d n a
  let h := if bit a 1 then h
    else (h.setPump d n { h.pump d n with grdy := false, flag := false, abort := false }).wr d R.PMP_CNT_GCT 0 n
  let h := h.tapTrackers d n o w 0
  if h.on d R.FTM_CFG_IREN ∧ h.rd d R.FTM_CFG_IRPUMP = n ∧ h.rd d R.FTM_CFG_IRPQ = o ∧ d = h.node.owner then h.irigWord w 0 else h

/-- The word of a STORE to OUT`o` was placed, or was not: then it is discarded or waits for credit (R298). -/
def storePlaced (d n o : Nat) (w : Word) (x : Bool × Hw) : Hw :=
  if x.1 then x.2.finish d n none
  else if x.2.on d R.PMP_CTL_STOREMODE n then
    ((x.2.flag d (if o = 1 then R.PMP_ERR_DROP1 else R.PMP_ERR_DROP0) n).bump d R.PMP_CNTB_DROPCR 1 n).finish d n none
  else (x.2.bump d R.PMP_CNTA_STALLS 1 n).pumpWaits d n (.store (2 + o) w)

/-- STORE (R298, R364, R407): the word is taken at issue; the taps act on every STORE. -/
def pumpStore (d n : Nat) (par : Parity) (u : Upset) (h : Hw) : Hw :=
  h.issue d n par (isOp 0x04) fun a h =>
    storePlaced d n (a % 2) (h.storeValue d n a) ((h.storeTaken d n a).localWord d (pumpQ n (2 + a % 2)) (h.storeValue d n a) u)

def execStore (die : Die) (pump : Fin 64) (parity : Parity) (upset : Upset) (s : State) : Host.Outcome State Fault Refusal :=
  s.onDie die (pumpStore die.val pump.val parity upset)

/-! ## AWAIT (R294 to R297) -/

/-- Does the condition of an AWAIT hold; `was` is the named pin's level at the boundary before, where that is not the one
at which the last instruction issued. -/
def Hw.awaitHolds (h : Hw) (d n a : Nat) (was : Option Bool) : Bool :=
  let i := bits a 8 5
  let s := h.inSample d n
  let prev : Bool := was.getD (bit (h.pump d n).prevIn i)
  match bits a 13 3 with
  | 0 => !bit s i
  | 1 => bit s i
  | 2 => bit s i && !prev
  | 3 => !bit s i && prev
  | 4 => bit (h.pumpFlags d n) i
  | 5 => bit (h.rd d R.PMP_PEND_SIGP n) i
  | 6 => bit (h.rd d R.PMP_PHPEND_PHP n) i
  | _ => false

/-- The completing AWAIT consumes its signal line or phase channel. -/
def Hw.consume (h : Hw) (d n a : Nat) : Hw :=
  let i := bits a 8 5
  match bits a 13 3 with
  | 5 => h.wr d R.PMP_PEND_SIGP (h.rd d R.PMP_PEND_SIGP n - 2 ^ i) n
  | 6 => h.wr d R.PMP_PHPEND_PHP (h.rd d R.PMP_PHPEND_PHP n - 2 ^ i) n
  | _ => h

/-- Does an AWAIT time out in its first cycle: TMO = 1 with Y[15:0] = 0 (R295)? -/
def Hw.firstTimeout (h : Hw) (d n a : Nat) : Bool := bit a 7 && low 16 (h.rd d R.PMP_Y_VALUE n) == 0

/-- AWAIT (R294, R295). -/
def pumpAwait (d n : Nat) (par : Parity) (was : Option Bool) (h : Hw) : Hw :=
  h.issue d n par (isOp 0x05) fun a h =>
    let t := h.firstTimeout d n a
    if h.awaitHolds d n a was then
      whenDo t (fun h => h.bump d R.PMP_CNTA_MARGIN 1 n) ((h.consume d n a).finish d n none)
    else if t then h.finish d n (some (low 6 a))
    else h.pumpWaits d n .await

def execAwait (die : Die) (pump : Fin 64) (parity : Parity) (was : Option Bool) (s : State) : Host.Outcome State Fault Refusal :=
  s.onDie die (pumpAwait die.val pump.val parity was)

/-- A waiting AWAIT sees its condition at this boundary: an edge has happened where the level stands after it. -/
def Hw.awaitSees (h : Hw) (d n a : Nat) : Bool := h.awaitHolds d n a (some (bits a 13 3 == 3))

/-- AWAIT_CONDITION_MET (R294, R296): the first cycle in which the condition of a waiting AWAIT holds. `again` tells that
the same line or channel arrives in this cycle: the consumption clears the earlier arrival and the new one sets it. `bad`, here and
below: a register that the waiting instruction uses fails its parity (R278, R308). -/
def awaitMet (d n : Nat) (again bad : Bool) (h : Hw) : Hw :=
  let a := low 16 (h.pumpWord d n)
  if bad ∧ (h.pump d n).wait = some .await then h.faultPump d n true
  else if (h.pump d n).wait = some .await ∧ h.awaitSees d n a then
    let h := if again then h else h.consume d n a
    h.finish d n none
  else h

def execAwaitConditionMet (die : Die) (pump : Fin 64) (again bad : Bool) (s : State) : Host.Outcome State Fault Refusal :=
  s.onDie die (awaitMet die.val pump.val again bad)

/-- AWAIT_TIMEOUT (R295, R311): cycle Y + 1 without the condition jumps; with it the AWAIT completes and MARGIN counts. -/
def awaitTimeout (d n : Nat) (holds bad : Bool) (h : Hw) : Hw :=
  let a := low 16 (h.pumpWord d n)
  if bad ∧ (h.pump d n).wait = some .await then h.faultPump d n true
  else if (h.pump d n).wait = some .await ∧ bit a 7 then
    if holds ∧ h.awaitSees d n a then ((h.consume d n a).finish d n none).bump d R.PMP_CNTA_MARGIN 1 n
    else h.finish d n (some (low 6 a))
  else h

def execAwaitTimeout (die : Die) (pump : Fin 64) (holds bad : Bool) (s : State) : Host.Outcome State Fault Refusal :=
  s.onDie die (awaitTimeout die.val pump.val holds bad)

/-! ## Registers and arithmetic (R287) -/

/-- LOADX. -/
def pumpLoadx (d n : Nat) (par : Parity) (h : Hw) : Hw := h.simple d n par (isOp 0x06) fun a h => h.wr d R.PMP_X_VALUE a n

def execLoadx (die : Die) (pump : Fin 64) (parity : Parity) (s : State) : Host.Outcome State Fault Refusal :=
  s.onDie die (pumpLoadx die.val pump.val parity)

/-- LOADY. -/
def pumpLoady (d n : Nat) (par : Parity) (h : Hw) : Hw := h.simple d n par (isOp 0x07) fun a h => h.wr d R.PMP_Y_VALUE a n

def execLoady (die : Die) (pump : Fin 64) (parity : Parity) (s : State) : Host.Outcome State Fault Refusal :=
  s.onDie die (pumpLoady die.val pump.val parity)

/-- LOADXH. -/
def pumpLoadxh (d n : Nat) (par : Parity) (h : Hw) : Hw :=
  h.simple d n par (isOp 0x08) fun a h => h.wr d R.PMP_X_VALUE (low 16 (h.rd d R.PMP_X_VALUE n) + a * 2 ^ 16) n

def execLoadxh (die : Die) (pump : Fin 64) (parity : Parity) (s : State) : Host.Outcome State Fault Refusal :=
  s.onDie die (pumpLoadxh die.val pump.val parity)

/-- LOADYH. -/
def pumpLoadyh (d n : Nat) (par : Parity) (h : Hw) : Hw :=
  h.simple d n par (isOp 0x09) fun a h => h.wr d R.PMP_Y_VALUE (low 16 (h.rd d R.PMP_Y_VALUE n) + a * 2 ^ 16) n

def execLoadyh (die : Die) (pump : Fin 64) (parity : Parity) (s : State) : Host.Outcome State Fault Refusal :=
  s.onDie die (pumpLoadyh die.val pump.val parity)

/-- MOVE: LC takes 16 bits, the CRC accumulator its WIDTH. -/
def pumpMove (d n : Nat) (par : Parity) (h : Hw) : Hw :=
  h.simple d n par (isOp 0x0A) fun a h =>
    let v := h.pumpSource d n (bits a 10 3)
    match bits a 13 3 with
    | 0 => h.wr d R.PMP_X_VALUE v n
    | 1 => h.wr d R.PMP_Y_VALUE v n
    | 2 => h.wr d R.PMP_GS_VALUE v n
    | 3 => h.wr d R.PMP_PS_VALUE v n
    | 4 => h.wr d R.PMP_CNT_LC (low 16 v) n
    | _ => h.wr d R.PMP_CRCACC_VALUE (low (h.rd d R.PMP_CRCCFG_WIDTH n) v) n

def execMove (die : Die) (pump : Fin 64) (parity : Parity) (s : State) : Host.Outcome State Fault Refusal :=
  s.onDie die (pumpMove die.val pump.val parity)

/-- The destination of ADD and XOR: X or Y. -/
def xyField (a : Nat) : Fld := if bit a 15 then R.PMP_Y_VALUE else R.PMP_X_VALUE

/-- ADD, modulo 2³²: a signed immediate or a source. -/
def pumpAdd (d n : Nat) (par : Parity) (h : Hw) : Hw :=
  h.simple d n par (isOp 0x0B) fun a h =>
    let v := if bit a 14 then h.pumpSource d n (bits a 11 3) else toTwos 32 (signed 14 (low 14 a))
    h.wr d (xyField a) (low 32 (h.rd d (xyField a) n + v)) n

def execAdd (die : Die) (pump : Fin 64) (parity : Parity) (s : State) : Host.Outcome State Fault Refusal :=
  s.onDie die (pumpAdd die.val pump.val parity)

/-- XOR: a zero-extended immediate or a source. -/
def pumpXor (d n : Nat) (par : Parity) (h : Hw) : Hw :=
  h.simple d n par (isOp 0x0C) fun a h =>
    let v := if bit a 14 then h.pumpSource d n (bits a 11 3) else low 14 a
    h.wr d (xyField a) (h.rd d (xyField a) n ^^^ v) n

def execXor (die : Die) (pump : Fin 64) (parity : Parity) (s : State) : Host.Outcome State Fault Refusal :=
  s.onDie die (pumpXor die.val pump.val parity)

/-! ## Control (R287, R290) -/

/-- The condition of TEST (R290). -/
def Hw.testHolds (h : Hw) (d n cond b : Nat) : Bool :=
  let x := h.rd d R.PMP_X_VALUE n
  let y := h.rd d R.PMP_Y_VALUE n
  let gs := h.rd d R.PMP_GS_VALUE n
  match cond with
  | 0x00 => true
  | 0x01 => bit (h.pumpFlags d n) b
  | 0x02 => !bit (h.pumpFlags d n) b
  | 0x03 => bit x b
  | 0x04 => !bit x b
  | 0x05 => x == 0
  | 0x06 => x != 0
  | 0x07 => x == y
  | 0x08 => x != y
  | 0x09 => decide (x < y)
  | 0x0A => (gs ^^^ x) &&& y == 0
  | 0x0B => (gs ^^^ x) &&& y != 0
  | 0x0C => bit (h.inSample d n) b
  | 0x0D => !bit (h.inSample d n) b
  | 0x0E => h.rd d R.PMP_CNT_LC n == 0
  | _ => h.rd d R.PMP_CNT_LC n != 0

/-- TEST. -/
def pumpTest (d n : Nat) (par : Parity) (h : Hw) : Hw :=
  h.issue d n par (isOp 0x0D) fun a h =>
    h.finish d n (if h.testHolds d n (bits a 11 5) (bits a 6 5) then some (low 6 a) else none)

def execTest (die : Die) (pump : Fin 64) (parity : Parity) (s : State) : Host.Outcome State Fault Refusal :=
  s.onDie die (pumpTest die.val pump.val parity)

/-- COUNT, load from the immediate. -/
def pumpCountLoad (d n : Nat) (par : Parity) (h : Hw) : Hw :=
  h.simple d n par (isForm 0x0E 0) fun a h => h.wr d R.PMP_CNT_LC (low 14 a) n

def execCountLoad (die : Die) (pump : Fin 64) (parity : Parity) (s : State) : Host.Outcome State Fault Refusal :=
  s.onDie die (pumpCountLoad die.val pump.val parity)

/-- COUNT, load from X. -/
def pumpCountLoadX (d n : Nat) (par : Parity) (h : Hw) : Hw :=
  h.simple d n par (isForm 0x0E 1) fun _ h => h.wr d R.PMP_CNT_LC (low 16 (h.rd d R.PMP_X_VALUE n)) n

def execCountLoadX (die : Die) (pump : Fin 64) (parity : Parity) (s : State) : Host.Outcome State Fault Refusal :=
  s.onDie die (pumpCountLoadX die.val pump.val parity)

/-- COUNT, decrement and jump while not 0. -/
def pumpCountDecrement (d n : Nat) (par : Parity) (h : Hw) : Hw :=
  h.issue d n par (isForm 0x0E 2) fun a h =>
    let lc := h.rd d R.PMP_CNT_LC n - 1
    (h.wr d R.PMP_CNT_LC lc n).finish d n (if lc = 0 then none else some (low 6 a))

def execCountDecrement (die : Die) (pump : Fin 64) (parity : Parity) (s : State) : Host.Outcome State Fault Refusal :=
  s.onDie die (pumpCountDecrement die.val pump.val parity)

/-- SIGNAL (R296). -/
def pumpSignal (d n : Nat) (par : Parity) (h : Hw) : Hw := h.simple d n par (isOp 0x0F) fun a h => h.raiseSignal d (low 5 a)

def execSignal (die : Die) (pump : Fin 64) (parity : Parity) (s : State) : Host.Outcome State Fault Refusal :=
  s.onDie die (pumpSignal die.val pump.val parity)

/-- CRC INIT (R292). -/
def pumpCrcInit (d n : Nat) (par : Parity) (h : Hw) : Hw :=
  h.simple d n par (isForm 0x10 0) fun _ h => h.wr d R.PMP_CRCACC_VALUE (h.rd d R.PMP_CRCINIT_VALUE n) n

def execCrcInit (die : Die) (pump : Fin 64) (parity : Parity) (s : State) : Host.Outcome State Fault Refusal :=
  s.onDie die (pumpCrcInit die.val pump.val parity)

/-- CRC FEED (R292). -/
def pumpCrcFeed (d n : Nat) (par : Parity) (h : Hw) : Hw :=
  h.simple d n par (isForm 0x10 1) fun a h =>
    h.crcFeed d n (feedBits (h.pumpSource d n (bits a 10 3)) (bitCount a) (h.on d R.PMP_CRCCFG_REFIN n))

def execCrcFeed (die : Die) (pump : Fin 64) (parity : Parity) (s : State) : Host.Outcome State Fault Refusal :=
  s.onDie die (pumpCrcFeed die.val pump.val parity)

/-- CRC FINAL (R292). -/
def pumpCrcFinal (d n : Nat) (par : Parity) (h : Hw) : Hw :=
  h.simple d n par (isForm 0x10 2) fun _ h =>
    h.wr d R.PMP_X_VALUE (h.rd d R.PMP_CRCACC_VALUE n ^^^ h.rd d R.PMP_CRCXOR_VALUE n) n

def execCrcFinal (die : Die) (pump : Fin 64) (parity : Parity) (s : State) : Host.Outcome State Fault Refusal :=
  s.onDie die (pumpCrcFinal die.val pump.val parity)

/-- STUFF (R287, R291). -/
def pumpStuff (d n : Nat) (par : Parity) (h : Hw) : Hw :=
  h.simple d n par (isOp 0x11) fun a h =>
    let x := h.pump d n
    let x := if bit a 0 then { x with pourRun := 0 } else x
    h.setPump d n (if bit a 1 then { x with gathRun := 0, flag := false, abort := false } else x)

def execStuff (die : Die) (pump : Fin 64) (parity : Parity) (s : State) : Host.Outcome State Fault Refusal :=
  s.onDie die (pumpStuff die.val pump.val parity)

/-- Words of CODE with a direction. -/
def isCode (dec : Bool) (w : Nat) : Bool := bits w 27 5 == 0x12 && bit w 0 == dec

/-- CODE encode (R293). -/
def pumpCodeEncode (d n : Nat) (par : Parity) (h : Hw) : Hw :=
  h.simple d n par (isCode false) fun a h =>
    match h.encodeGroups d n (h.rd d R.PMP_X_VALUE n) (bits a 1 5) 0 (h.pump d n).enc with
    | some (v, p) => (h.wr d R.PMP_PS_VALUE v n).setPump d n { h.pump d n with enc := p }
    | none => h

def execCodeEncode (die : Die) (pump : Fin 64) (parity : Parity) (s : State) : Host.Outcome State Fault Refusal :=
  s.onDie die (pumpCodeEncode die.val pump.val parity)

/-- CODE decode (R293): CODEERR is rewritten. -/
def pumpCodeDecode (d n : Nat) (par : Parity) (h : Hw) : Hw :=
  h.simple d n par (isCode true) fun a h =>
    let (v, p, ok) := h.decodeGroups d n (h.rd d R.PMP_GS_VALUE n) (bits a 1 5) 0 (h.pump d n).dec
    (h.wr d R.PMP_X_VALUE v n).setPump d n { h.pump d n with dec := p, codeErr := !ok }

def execCodeDecode (die : Die) (pump : Fin 64) (parity : Parity) (s : State) : Host.Outcome State Fault Refusal :=
  s.onDie die (pumpCodeDecode die.val pump.val parity)

/-- HALT (R303): STOP-AT-BOUNDARY from the program. -/
def pumpHalt (d n : Nat) (par : Parity) (h : Hw) : Hw := h.simple d n par (isOp 0x1F) fun _ h => h.flag d R.PMP_STAT_STOPPEND n

def execHalt (die : Die) (pump : Fin 64) (parity : Parity) (s : State) : Host.Outcome State Fault Refusal :=
  s.onDie die (pumpHalt die.val pump.val parity)

/-- ILLEGAL_INSTRUCTION (R287, R309): the instruction at IP is illegal. -/
def illegalInstruction (d n : Nat) (par : Parity) (h : Hw) : Hw := h.issue d n par (fun w => h.illegalNow d n w) fun _ h => h

def execIllegalInstruction (die : Die) (pump : Fin 64) (parity : Parity) (s : State) : Host.Outcome State Fault Refusal :=
  s.onDie die (illegalInstruction die.val pump.val parity)

/-! ## Stages and waits (R288, R289, R298) -/

/-- POUR_GROUP_EMIT (R288). `bad`, here and below: a register or stage that the event uses fails its parity, and the Pump faults
(R278, R308). -/
def pourGroupEmit (d n : Nat) (bad : Bool) (h : Hw) : Hw :=
  if bad && (h.pump d n).pour.isSome then h.faultPump d n true else h.emit d n

def execPourGroupEmit (die : Die) (pump : Fin 64) (bad : Bool) (s : State) : Host.Outcome State Fault Refusal :=
  s.onDie die (pourGroupEmit die.val pump.val bad)

/-- SHIFT_STAGE_FREE (R288, R289): a waiting POUR or GATHER completes; its first group or sample is at the next boundary. -/
def shiftStageFree (d n : Nat) (bad : Bool) (h : Hw) : Hw :=
  let x := h.pump d n
  let a := low 16 (h.pumpWord d n)
  match x.wait with
  | some .pour =>
    if x.pour.isNone then (if bad then h.faultPump d n true else (h.loadPour d n a).finish d n none) else h
  | some .gather =>
    if x.gather.isNone then (if bad then h.faultPump d n true else (h.armGather d n a).finish d n none) else h
  | _ => h

def execShiftStageFree (die : Die) (pump : Fin 64) (bad : Bool) (s : State) : Host.Outcome State Fault Refusal :=
  s.onDie die (shiftStageFree die.val pump.val bad)

/-- GATHER_DELIVERY (R289): the remaining samples, as the IN pins stood at the boundaries since the last one taken, and
the delivery of the completed collection. A pin that is not the Pump's samples as 0 (R279). -/
def gatherDelivery (d n : Nat) (samples : List Nat) (bad : Bool) (h : Hw) : Hw :=
  if bad && (h.pump d n).gather.isSome then h.faultPump d n true
  else (each samples (fun s h => h.takeSample d n (s &&& h.inMask d n)) h).deliverGather d n

def execGatherDelivery (die : Die) (pump : Fin 64) (samples : List Word) (bad : Bool) (s : State) : Host.Outcome State Fault Refusal :=
  s.onDie die (gatherDelivery die.val pump.val (samples.map (·.toNat)) bad)

/-- STORE_CREDIT_WAIT_END (R298): a waiting STORE completes when credit appears. -/
def storeCreditWaitEnd (d n : Nat) (u : Upset) (bad : Bool) (h : Hw) : Hw :=
  match (h.pump d n).wait with
  | some (.store q w) =>
    if bad then h.faultPump d n true
    else
      match h.localWord d (pumpQ n q) w u with
      | (true, h) => h.finish d n none
      | (false, h) => h
  | _ => h

def execStoreCreditWaitEnd (die : Die) (pump : Fin 64) (upset : Upset) (bad : Bool) (s : State) : Host.Outcome State Fault Refusal :=
  s.onDie die (storeCreditWaitEnd die.val pump.val upset bad)

/-! ## Commands (R282, R300 to R304) -/

/-- PUMP_START (R304). -/
def pumpStartCmd (d n : Nat) (h : Hw) : Hw :=
  if h.engineRuns then
    match h.requestStart d n with
    | (true, h) => h.wr d R.PMP_CTL_CMD 1 n
    | (false, h) => h
  else h

def execPumpStart (die : Die) (pump : Fin 64) (s : State) : Host.Outcome State Fault Refusal :=
  s.onDie die (pumpStartCmd die.val pump.val)

/-- PUMP_START_EFFECT (R282, R294, R304): the Pump runs from its first boundary, pins at their idle levels; the previous
sample equals the first. -/
def pumpStartEffect (d n : Nat) (h : Hw) : Hw :=
  if (h.pump d n).starting ∧ h.pumpState d n = 0 then
    let h := ((h.idlePump d n).setPumpState d n 1).pumpBoundary d n 0
    h.setPump d n { h.pump d n with starting := false, prevIn := h.inSample d n, wait := none }
  else h

def execPumpStartEffect (die : Die) (pump : Fin 64) (s : State) : Host.Outcome State Fault Refusal :=
  s.onDie die (pumpStartEffect die.val pump.val)

/-- PUMP_STOP_NOW (R302). -/
def pumpStopNow (d n : Nat) (h : Hw) : Hw := (h.wr d R.PMP_CTL_CMD 2 n).stopPump d n

def execPumpStopNow (die : Die) (pump : Fin 64) (s : State) : Host.Outcome State Fault Refusal :=
  s.onDie die (pumpStopNow die.val pump.val)

/-- PUMP_STOP_AT_BOUNDARY (R303). -/
def pumpStopAtBoundary (d n : Nat) (h : Hw) : Hw :=
  let h := h.wr d R.PMP_CTL_CMD 3 n
  if h.pumpState d n = 1 ∨ h.pumpState d n = 2 then h.flag d R.PMP_STAT_STOPPEND n
  else if h.pumpState d n = 0 then h.stopPump d n else h

def execPumpStopAtBoundary (die : Die) (pump : Fin 64) (s : State) : Host.Outcome State Fault Refusal :=
  s.onDie die (pumpStopAtBoundary die.val pump.val)

/-- PUMP_CLEAR (R300): Faulted to Stopped; else an access violation. -/
def pumpClear (d n : Nat) (o : Origin) (h : Hw) : Hw :=
  if h.pumpState d n = 3 then (h.wr d R.PMP_CTL_CMD 4 n).setPumpState d n 0 else h.violation d o (0x40000 + 0x400 * n)

def execPumpClear (die : Die) (pump : Fin 64) (origin : Origin) (s : State) : Host.Outcome State Fault Refusal :=
  s.onReg die origin (0x40000 + 0x400 * pump.val) (pumpClear die.val pump.val origin)

/-- PUMP_CMD_RESERVED (R300): ignored and recorded. -/
def execPumpCmdReserved (die : Die) (pump : Fin 64) (origin : Origin) (s : State) : Host.Outcome State Fault Refusal :=
  s.onReg die origin (0x40000 + 0x400 * pump.val) fun h => h.violation die.val origin (0x40000 + 0x400 * pump.val)

/-- STOP_BOUNDARY_REACHED (R303): at the end of an instruction at a shift boundary; where the 1.000 ms expire in the same
core cycle MARGIN counts. -/
def stopBoundaryReached (d n : Nat) (limit : Bool) (h : Hw) : Hw :=
  if h.on d R.PMP_STAT_STOPPEND n ∧ h.pumpState d n = 1 ∧ ¬h.midShift d n then
    let h := if limit then h.bump d R.PMP_CNTA_MARGIN 1 n else h
    h.stopPump d n
  else h

def execStopBoundaryReached (die : Die) (pump : Fin 64) (limit : Bool) (s : State) : Host.Outcome State Fault Refusal :=
  s.onDie die (stopBoundaryReached die.val pump.val limit)

/-- STOP_TIMEOUT (R303): 1.000 ms without a boundary. -/
def stopTimeout (d n : Nat) (h : Hw) : Hw :=
  if h.on d R.PMP_STAT_STOPPEND n then
    ((h.stopPump d n).flag d R.PMP_ERR_STOPTMO n).report d (0x20 + n) .pumpStopTimeout
  else h

def execStopTimeout (die : Die) (pump : Fin 64) (s : State) : Host.Outcome State Fault Refusal :=
  s.onDie die (stopTimeout die.val pump.val)

/-- PUMP_PARITY_CHECK (R308): the background checker reads one program word (0 to 63) or line-code entry (64 to 79). A bad
word keeps START refused until it is rewritten (R309). -/
def pumpParityCheck (d n e : Nat) (bad : Bool) (h : Hw) : Hw :=
  if bad then (h.markBad d n e).faultPump d n true else h

def execPumpParityCheck (die : Die) (pump : Fin 64) (entry : Fin 80) (bad : Bool) (s : State) : Host.Outcome State Fault Refusal :=
  s.onDie die (pumpParityCheck die.val pump.val entry.val bad)

end Sys2Proof.Machine
end

