-- ==== Sys2Proof/Machine/Wellhouse.lean ====
section
/-!
DEFINITION. The Wellhouse (chapter "Wellhouse: insertion, feeds, metering and hold-up", R452 to R480): its field feeds,
its conversions, the frames of its links, and the commands that leave the node's state alone. The Wellhouse runs in every
node state; what it tells the hub dies finds nothing in Night.
-/

namespace Sys2Proof.Machine

/-- An effect on the hub dies, which are unpowered in Night. -/
def Hw.onHub (h : Hw) (f : Hw → Hw) : Hw := if h.node.state = .night then h else f h

/-- A field of the configuration that the Wellhouse holds (R455). -/
def Hw.wconf (h : Hw) (F : Fld) : Nat :=
  bits (h.wlh.conf.get (resetWord h.straps h.grade F.addr) (F.addr - 0xA0000)).toNat F.lo F.w

/-- The owner sends the thirteen values of WLH_HUC to WLH_MISC (R455, R456, R478). -/
def Hw.sendWlhConf (h : Hw) : Hw :=
  iter 13 (fun k h =>
    let a := 0xA0000 + 4 * k
    { h with wlh.conf := h.wlh.conf.put (resetWord h.straps h.grade a) (4 * k) (h.regAt a) }) h

/-- Set an event flag of WLH_FLAGS by its bit. -/
def Hw.wlhFlag (h : Hw) (b : Nat) : Hw := { h with wlh.flags := h.wlh.flags ||| 2 ^ b }

def Hw.wlhMargin (h : Hw) : Hw := { h with wlh.margin := satAdd 8 h.wlh.margin 1 }

/-- A fault report of the owner about the Wellhouse, with its record on channel 0xA8. -/
def Hw.wlhFault (h : Hw) (code unit : Nat) : Hw := h.onHub fun h => (h.raiseFault h.node.owner code unit)

/-- A 48 V feed: 0 A, 1 B. -/
def Wlh.feed (w : Wlh) (f : Nat) : Feed := if f = 0 then w.a else w.b

def Wlh.setFeed (w : Wlh) (f : Nat) (x : Feed) : Wlh := if f = 0 then { w with a := x } else { w with b := x }

/-- Does the Wellhouse report loss of both 48 V feeds (R468, R626)? -/
def Wlh.bothLost (w : Wlh) : Bool := (w.a.ever || w.b.ever) && !w.a.ok && !w.b.ok

/-! ## Field feeds (R469 to R472) -/

/-- Is a field feed good: 1 or 2? -/
def Wlh.fieldGood (w : Wlh) (f : Nat) : Bool := if f = 1 then w.f1.good else if f = 2 then w.f2.good else false

def Wlh.setField (w : Wlh) (f : Nat) (x : FieldFeed) : Wlh := if f = 1 then { w with f1 := x } else { w with f2 := x }

/-- The other field feed. -/
def otherField (f : Nat) : Nat := if f = 1 then 2 else 1

/-- The preferred field feed. -/
def Hw.preferred (h : Hw) : Nat := if h.wconf R.WLH_FCFG_FPRI = 0 then 1 else 2

/-- May a field feed be on (R469, R471, R472, R477)? -/
def Hw.fieldAllowed (h : Hw) : Bool :=
  h.wconf R.WLH_FCFG_FEN == 1 && h.wlh.fon && !h.wlh.foff && !h.wlh.foclat && !(h.wlh.auto && h.wconf R.WLH_FCFG_FAUTO == 1)

/-- Both gates off; a break-before-make time starts where one was on. -/
def Hw.fieldsOff (h : Hw) : Hw :=
  { h with wlh := { h.wlh with fsel := 0, ftarget := none, fbreak := h.wlh.fbreak || h.wlh.fsel != 0 } }

/-- Neither feed good: FLDLOSS and WLH_FLD, once until a feed is on again (R469). -/
def Hw.checkFieldLoss (h : Hw) : Hw :=
  if h.fieldAllowed && !h.wlh.f1.good && !h.wlh.f2.good && !h.wlh.noFeed then
    ({ h with wlh.noFeed := true }.wlhFlag 8).wlhFault 0x62 (h.preferred - 1)
  else h

/-- A field feed is turned on; a change of feed is a switch, and the masked fault ends (R469, R588). -/
def Hw.fieldOn (h : Hw) (f : Nat) : Hw :=
  let switch := h.wlh.flast ≠ 0 ∧ h.wlh.flast ≠ f
  let h := { h with wlh := { h.wlh with fsel := f, flast := f, ftarget := none, noFeed := false } }
  let h : Hw := if switch then { h with wlh.swCnt := satAdd 8 h.wlh.swCnt 1 }.wlhFlag 7 else h
  h.onHub fun h => (h.endFault h.node.owner 0x62 0).endFault h.node.owner 0x62 1

/-- Choose a feed while none is on and no break runs: the one a switch goes to, else the preferred one, else the other
(R469). -/
def Hw.fieldSelect (h : Hw) : Hw :=
  if !h.fieldAllowed || h.wlh.fsel != 0 || h.wlh.fbreak then h.checkFieldLoss
  else
    let pick := [h.wlh.ftarget.getD 0, h.preferred, otherField h.preferred].find? h.wlh.fieldGood
    match pick with
    | some f => h.fieldOn f
    | none => h.checkFieldLoss

/-- The node states let the field feeds follow R469, or turn them off (R472). -/
def Hw.fieldPower (h : Hw) (on : Bool) : Hw :=
  if on then { h with wlh.fon := true }.fieldSelect else { h with wlh.fon := false }.fieldsOff

/-! ## Conversions (R473, R474) -/

/-- A quotient whose rounding the manual leaves open. -/
def roundOpen (n : Int) (m : Nat) : Int :=
  if n.fmod m = 0 then n.fdiv m else n.fdiv m + (b2n (Config.roundsUp n m) : Int)

/-- A signed value in a field of `w` bits; beyond its range the manual states no value. -/
def Hw.fitSigned (h : Hw) (w : Nat) (v : Int) : Nat × Hw :=
  if -(2 ^ (w - 1) : Int) ≤ v ∧ v < (2 ^ (w - 1) : Int) then (toTwos w v, h) else (low w h.draw.1.toNat, h.draw.2)

def Hw.fitAll (w : Nat) : List Int → Hw → List Nat × Hw
  | [], h => ([], h)
  | v :: vs, h =>
    let (x, h) := h.fitSigned w v
    let (xs, h) := Hw.fitAll w vs h
    (x :: xs, h)

/-- Hold-up energy in whole mJ: ½ C (V² − VMIN²) with C in µF, V in 1.25 mV and VMIN in 10 mV (R474). -/
def holdupEnergy (c hu vmin : Nat) : Nat :=
  if hu ≤ 8 * vmin then 0 else min (c * (hu ^ 2 - (8 * vmin) ^ 2) / 1280000000) (2 ^ 24 - 1)

/-- One conversion of a field feed's voltage, in units of 0.625 mV (R469). -/
def Hw.fieldConvert (h : Hw) (f v : Nat) : Hw :=
  let x := if f = 1 then h.wlh.f1 else h.wlh.f2
  let good := decide (h.wconf R.WLH_FWIN_FUV * 160 ≤ v) && decide (v ≤ h.wconf R.WLH_FWIN_FOV * 160)
  let n := x.out + 1
  let y : FieldFeed :=
    if good then ⟨true, 0⟩ else ⟨x.good && (h.wlh.fsel == f || decide (n < h.wconf R.WLH_FWIN_FDEB)), n⟩
  { h with wlh := h.wlh.setField f y }

/-- EVALID (R474): a bank, no hold-up fault, a young measurement frame at the owner. -/
def Hw.evalidNow (h : Hw) : Bool :=
  h.wconf R.WLH_HUC_C != 0 && !bit h.wlh.flags 10 && h.node.state != .night && h.frameFresh h.node.owner

/-- The sample of a conversion is taken down. -/
def Hw.noteSample (h : Hw) (totals : List Int) (volts is ps : List Nat) (energy : Nat) : Hw :=
  { h with wlh.totals := totals, wlh.sample := ⟨volts, is, ps, energy, h.evalidNow⟩ }

/-- The conversion of every channel: voltages in converter units (VA, VB, VOUT, HU, F1, F2, FLD) and shunt voltages in µV
(A, B, 1, 2, hot-swap). -/
def wlhConvert (volts : List Nat) (shunts : List Int) (h : Hw) : Hw :=
  let v := fun i => volts.getD i 0
  let ohms := [h.wconf R.WLH_SHA_RSLO, h.wconf R.WLH_SHA_RSHI, h.wconf R.WLH_SHF_RSLO, h.wconf R.WLH_SHF_RSHI, h.wconf R.WLH_LIM_RHS]
  let amps := (List.range 5).map fun i => roundOpen (shunts.getD i 0 * 1000) (ohms.getD i 1)
  let watts := (List.range 4).map fun i =>
    roundOpen ((v (if i < 2 then i else i + 2) : Int) * amps.getD i 0) (if i < 2 then 800 else 1600)
  let totals := (List.range 4).map fun i => h.wlh.totals.getD i 0 + watts.getD i 0
  let is := Hw.fitAll 16 amps h
  let ps := Hw.fitAll 32 watts is.2
  let e := holdupEnergy (h.wconf R.WLH_HUC_C) (v 3) (h.wconf R.WLH_HUV_VMIN)
  (((ps.2.noteSample totals ((List.range 7).map v) is.1 ps.1 e).fieldConvert 1 (v 4)).fieldConvert 2 (v 5)).fieldSelect

/-! ## Frames (R452 to R454, R477, R478) -/

/-- WLH_STAT of a measurement frame. -/
def Hw.wlhStat (h : Hw) : Nat :=
  let w := h.wlh
  w.hs + b2n w.pg * 2 ^ 3 + b2n (w.pg && !w.off) * 2 ^ 4 + b2n w.a.ok * 2 ^ 5 + b2n w.b.ok * 2 ^ 6 +
  b2n w.a.diode * 2 ^ 7 + b2n w.b.diode * 2 ^ 8 + w.fsel * 2 ^ 9 + b2n w.auto * 2 ^ 11 + b2n w.sample.evalid * 2 ^ 12 +
  w.retry * 2 ^ 13 + b2n (h.node.owner == 1) * 2 ^ 15

/-- Copy two values into the halves of a register. -/
def Hw.wrPair (h : Hw) (d : Nat) (lo hi : Fld) (a b : Nat) : Hw := (h.wr d lo (low 16 a)).wr d hi (low 16 b)

/-- Copy the frame's energy of feed f: ELO, and the upper half that a read of ELO latches into EHI. -/
def Hw.copyEnergy (h : Hw) (d f : Nat) : Hw :=
  let e := toTwos 64 (roundOpen (h.wlh.totals.getD f 0) 100000)
  { (h.wr d R.WLH_ELO_VALUE (low 32 e) f) with ehi := h.ehi.put 0 (d * 4 + f) (e / 2 ^ 32) }

/-- Copy the Wellhouse's flags and counts, which D0 and D1 mirror. -/
def Hw.copyFlags (h : Hw) : Hw :=
  let w := h.wlh
  let h := h.setRegAt 0xA0044 (BitVec.ofNat 32 w.flags)
  h.setRegAt 0xA0048 (BitVec.ofNat 32 (w.fastCnt + w.revCnt * 2 ^ 8 + w.swCnt * 2 ^ 16 + w.margin * 2 ^ 24))

/-- Die d's WLH block as a measurement frame leaves it (R452, R473, R474). -/
def Hw.frameMirror (h : Hw) (d : Nat) : Hw :=
  let s := h.wlh.sample
  let v := fun i => s.volts.getD i 0
  let c := fun i => s.currents.getD i 0
  let h := (h.setRegAt (R.WLH_STAT_HSSTATE.key d 0 0) (BitVec.ofNat 32 h.wlhStat)).copyFlags
  let h := h.wr d R.WLH_HUE_E s.energy
  let h := h.wrPair d R.WLH_VAB_VLO R.WLH_VAB_VHI (v 0) (v 1)
  let h := h.wrPair d R.WLH_VOH_VLO R.WLH_VOH_VHI (v 2) (v 3)
  let h := h.wrPair d R.WLH_VF_VLO R.WLH_VF_VHI (v 4) (v 5)
  let h := h.wrPair d R.WLH_VFLD_VLO R.WLH_VFLD_VHI (v 6) 0
  let h := h.wrPair d R.WLH_IAB_ILO R.WLH_IAB_IHI (c 0) (c 1)
  let h := h.wrPair d R.WLH_IF_ILO R.WLH_IF_IHI (c 2) (c 3)
  let h := h.wrPair d R.WLH_IHS_ILO R.WLH_IHS_IHI (c 4) 0
  let h := h.wr d R.WLH_PA_P (s.powers.getD 0 0)
  let h := h.wr d R.WLH_PB_P (s.powers.getD 1 0)
  let h := h.wr d R.WLH_PF1_P (s.powers.getD 2 0)
  let h := h.wr d R.WLH_PF2_P (s.powers.getD 3 0)
  iter 4 (fun f h => h.copyEnergy d f) h

/-- A measurement frame reaches die d (R452): copied, a journaled input where WLH_STAT[15:0] changes (R519); the fault of
a silent link ends. -/
def measurementFrame (d : Nat) (h : Hw) : Hw :=
  if 2 ≤ d then h
  else
    let old := (h.regAt (R.WLH_STAT_HSSTATE.key d 0 0)).toNat
    let new := h.wlhStat
    let h := h.frameMirror d
    let h := { h with wlh.frameAt := h.wlh.frameAt.put none d (some h.now) }
    let h := whenDo (new % 2 ^ 16 != old % 2 ^ 16) (fun h => h.journal d 6 (new % 2 ^ 16)) h
    (each [0, 1] (fun e h => h.endFault e 0x60 d) h).checkGuar

/-- MEASUREMENT_FRAME -/
def execMeasurementFrame (die : Die) (s : State) : Host.Outcome State Fault Refusal := s.onDie die (measurementFrame die.val)

/-- A control frame of die d (R452, R453, R478): the first of the owner clears AUTO, with an event, WLH_LINK and the
configuration sent again. -/
def controlFrame (d : Nat) (h : Hw) : Hw :=
  if d = h.node.owner ∧ h.wlh.auto then
    let h := { h with wlh.auto := false }
    let h := h.report h.node.owner 0xA8 .wlhLink d
    let h := h.raiseFault h.node.owner 0x60 d
    h.sendWlhConf.fieldSelect
  else h

/-- No measurement frame for 100 µs (R454): the die's link flag and WLH_LINK, raised by the other die as well. -/
def wlhLinkSilent (d : Nat) (h : Hw) : Hw :=
  if 2 ≤ d then h
  else
    let h := (h.wlhFlag (12 + d)).copyFlags
    let h := h.raiseFault d 0x60 d
    if 1 < h.dies then h.raiseFault (1 - d) 0x60 d else h

/-- WLH_LINK_SILENT -/
def execWlhLinkSilent (die : Die) (s : State) : Host.Outcome State Fault Refusal := s.onDie die (wlhLinkSilent die.val)

/-- AUTO_ENTRY (R477, R480): no valid frame for WLHTO sets AUTO, unless a frame of the owner comes in the same cycle. -/
def autoEntry (frame : Bool) (h : Hw) : Hw :=
  if frame then h.wlhMargin
  else
    let h := { h with wlh.auto := true }.wlhFlag 11
    if h.fieldAllowed then h else h.fieldsOff

/-- AUTO_ENTRY -/
def execAutoEntry (frame : Bool) (s : State) : Host.Outcome State Fault Refusal := s.onAny (autoEntry frame)

/-- REFCLK_QUALIFIED (R455). -/
def execRefclkQualified (s : State) : Host.Outcome State Fault Refusal := s.onAny fun h => { h with wlh.refclk := true }

/-! ## Insertion (R458 to R465) -/

/-- VIN enters the input window (R458, R459): a channel that is Off or Latched qualifies. -/
def windowEnter (h : Hw) : Hw :=
  if h.wlh.inWindow then h
  else { h with wlh := { h.wlh with inWindow := true, hs := if h.wlh.hs = 0 ∨ h.wlh.hs = 5 then 1 else h.wlh.hs } }

/-- INPUT_WINDOW_ENTER -/
def execInputWindowEnter (s : State) : Host.Outcome State Fault Refusal := s.onAny windowEnter

/-- VIN leaves the input window (R458, R459): below UVOFF for UVDEB, or above OVON before the channel is On. A channel that
qualifies or ramps returns to Off; one that is On is not disturbed. Either way of leaving counts as the leave of R126 (LOG 340). -/
def windowLeave (above : Bool) (h : Hw) : Hw :=
  if !h.wlh.inWindow || (above && h.wlh.hs == 3) then h
  else
    let start := h.wlh.hs = 1 ∨ h.wlh.hs = 2
    { h with wlh := { h.wlh with inWindow := false, hs := if start then 0 else h.wlh.hs,
                                 gate := if start then false else h.wlh.gate } }

/-- INPUT_WINDOW_LEAVE -/
def execInputWindowLeave (above : Bool) (s : State) : Host.Outcome State Fault Refusal := s.onAny (windowLeave above)

/-- Step 2 of R459: the gate charges. -/
def Hw.ramp (h : Hw) : Hw := { h with wlh := { h.wlh with hs := 2, gate := true, hold := false } }

/-- INSERTION_DELAY_END (R459): the window held since its entry. -/
def execInsertionDelayEnd (s : State) : Host.Outcome State Fault Refusal :=
  s.onAny fun h => if h.wlh.hs = 1 ∧ h.wlh.inWindow then h.ramp else h

/-- HOTSWAP_ON (R459): VOUT at 92 % of VIN with the limit inactive. -/
def execHotswapOn (s : State) : Host.Outcome State Fault Refusal :=
  s.onAny fun h => if h.wlh.hs = 2 ∧ !h.wlh.hold then { h with wlh := { h.wlh with hs := 3, limit := false } } else h

/-- POWER_GOOD_QUALIFIED (R464, R480): 2 ms of qualification with the fault timer clear; a start of the timer in the same
cycle restarts the qualification. -/
def powerGood (timerStart : Bool) (h : Hw) : Hw :=
  if h.wlh.hs = 3 ∧ !h.wlh.timer ∧ !timerStart then { h with wlh := { h.wlh with pg := true, off := false } } else h

/-- POWER_GOOD_QUALIFIED -/
def execPowerGoodQualified (timerStart : Bool) (s : State) : Host.Outcome State Fault Refusal := s.onAny (powerGood timerStart)

/-- CURRENT_LIMIT_ACTIVE (R461): the fault timer runs from the first gate charge. -/
def execCurrentLimitActive (s : State) : Host.Outcome State Fault Refusal :=
  s.onAny fun h => if h.wlh.gate then { h with wlh := { h.wlh with limit := true, timer := true } } else h

/-- FAULT_TIMER_CLEAR (R461, R462): the limit inactive for 1 ms; a hold-down counts as limit active. -/
def execFaultTimerClear (s : State) : Host.Outcome State Fault Refusal :=
  s.onAny fun h => if h.wlh.hold then h else { h with wlh := { h.wlh with limit := false, timer := false } }

/-- FAST_TRIP (R462): the gate is pulled down; power-good and the fault timer stay. -/
def fastTrip (h : Hw) : Hw :=
  if h.wlh.gate then
    { h with wlh := { h.wlh with hold := true, limit := true, timer := true, fastCnt := satAdd 8 h.wlh.fastCnt 1 } }.wlhFlag 1
  else h

/-- FAST_TRIP -/
def execFastTrip (s : State) : Host.Outcome State Fault Refusal := s.onAny fastTrip

/-- FAST_TRIP_HOLD_END (R462): after 50 µs the gate charges again under the limit. -/
def execFastTripHoldEnd (s : State) : Host.Outcome State Fault Refusal := s.onAny fun h => { h with wlh.hold := false }

/-- RETRY_WAIT_END (R463): the channel starts again at step 2, which asks for the window (R459). -/
def retryEnd (h : Hw) : Hw :=
  if h.wlh.hs = 4 then
    if h.wlh.inWindow then { h with wlh.retry := min 3 (h.wlh.retry + 1) }.ramp else { h with wlh.hs := 0 }
  else h

/-- RETRY_WAIT_END -/
def execRetryWaitEnd (s : State) : Host.Outcome State Fault Refusal := s.onAny retryEnd

/-- RETRY_COUNT_CLEAR (R463): power-good asserted for 60 s. -/
def execRetryCountClear (s : State) : Host.Outcome State Fault Refusal :=
  s.onAny fun h => if h.wlh.pg then { h with wlh.retry := 0 } else h

/-- OVERVOLTAGE_EVENT (R460): VIN above OVON while On; the gate stays on. -/
def execOvervoltageEvent (s : State) : Host.Outcome State Fault Refusal :=
  s.onAny fun h => if h.wlh.hs = 3 then h.wlhFlag 2 else h

/-! ## Ideal diodes and the store FET (R467, R476) -/

/-- REVERSE_TURN_OFF (R467). -/
def reverseOff (f : Nat) (h : Hw) : Hw :=
  { h with wlh := { h.wlh.setFeed f { h.wlh.feed f with diode := false } with revCnt := satAdd 8 h.wlh.revCnt 1 } }.wlhFlag (5 + f)

/-- REVERSE_TURN_OFF -/
def execReverseTurnOff (feed : Fin 2) (s : State) : Host.Outcome State Fault Refusal := s.onAny (reverseOff feed.val)

/-- IDEAL_DIODE_RESUME (R467). -/
def execIdealDiodeResume (feed : Fin 2) (s : State) : Host.Outcome State Fault Refusal :=
  s.onAny fun h => { h with wlh := h.wlh.setFeed feed.val { h.wlh.feed feed.val with diode := true } }

/-- STORE_FET_CONDUCT (R476): from power-good until Dusk step 6 turns it off. -/
def execStoreFetConduct (s : State) : Host.Outcome State Fault Refusal :=
  s.onAny fun h => if h.wlh.pg && !h.wlh.off then { h with wlh.store := true } else h

/-- STORE_FET_OFF (R476). -/
def execStoreFetOff (s : State) : Host.Outcome State Fault Refusal := s.onAny fun h => { h with wlh.store := false }

/-- HOLDUP_FAULT (R475, R480): HUFLT and WLH_HOLDUP, unless HU reaches VMIN in the cycle in which HUTCHG expires. -/
def holdupFault (reached : Bool) (h : Hw) : Hw :=
  if reached then h.wlhMargin else if h.wlh.pg then (h.wlhFlag 10).wlhFault 0x63 0 else h

/-- HOLDUP_FAULT -/
def execHoldupFault (reached : Bool) (s : State) : Host.Outcome State Fault Refusal := s.onAny (holdupFault reached)

/-! ## Field feed events (R469 to R471) -/

/-- The selected field feed, or both, turned bad, and the gates off. -/
def Wlh.turnBad (w : Wlh) (both : Bool) : Wlh :=
  let w : Wlh :=
    if both then { w with f1.good := false, f2.good := false }
    else if w.fsel = 1 then { w with f1.good := false } else { w with f2.good := false }
  { w with fsel := 0, ftarget := none, fbreak := true }

/-- The selected field feed turns bad (R469): its gate goes off; the other one, if good, is turned on after the break. -/
def fieldBad (both : Bool) (h : Hw) : Hw :=
  let f := h.wlh.fsel
  if f = 0 then h
  else
    let w := h.wlh.turnBad both
    if w.fieldGood (otherField f) then { h with wlh := { w with ftarget := some (otherField f) } }.wlhFault 0x62 (f - 1)
    else { h with wlh := w }.checkFieldLoss

/-- FIELD_FEED_BAD -/
def execFieldFeedBad (both : Bool) (s : State) : Host.Outcome State Fault Refusal := s.onAny (fieldBad both)

/-- BBM_END (R469): the break is over and the turned-off pair's gate is discharged. -/
def execBbmEnd (s : State) : Host.Outcome State Fault Refusal :=
  s.onAny fun h => if h.wlh.fbreak then { h with wlh.fbreak := false }.fieldSelect else h

/-- FIELD_RETURN (R470): the preferred feed has been good for FRET. -/
def fieldReturn (h : Hw) : Hw :=
  let p := h.preferred
  if h.wconf R.WLH_FCFG_FRETEN = 1 ∧ h.wlh.fsel = otherField p ∧ h.wlh.fieldGood p then
    let g := h.fieldsOff
    { g with wlh.ftarget := some p }
  else h

/-- FIELD_RETURN -/
def execFieldReturn (s : State) : Host.Outcome State Fault Refusal := s.onAny fieldReturn

/-- FIELD_OVERCURRENT (R471): both pairs off and latched. -/
def fieldOvercurrent (h : Hw) : Hw :=
  if h.wlh.fsel = 0 ∧ h.wlh.ftarget = none then h
  else
    let f := if h.wlh.fsel = 0 then h.wlh.flast else h.wlh.fsel
    let g := h.fieldsOff
    ({ g with wlh.foclat := true }.wlhFlag 9).wlhFault 0x62 (f - 1)

/-- FIELD_OVERCURRENT -/
def execFieldOvercurrent (s : State) : Host.Outcome State Fault Refusal := s.onAny fieldOvercurrent

/-- WLH_FCMD as an accepted amend applies it (R471): 1 clears the latch and resumes, 2 turns both feeds off; 0 has no
effect. -/
def fieldCommand (cmd : Nat) (h : Hw) : Hw :=
  let h := h.wr 0 R.WLH_FCMD_CMD cmd
  match cmd with
  | 1 => ({ h with wlh := { h.wlh with foclat := false, foff := false, flags := h.wlh.flags &&& (2 ^ 14 - 1 - 2 ^ 9) } }.copyFlags).fieldSelect
  | 2 => { h with wlh.foff := true }.fieldsOff
  | _ => h

/-- FIELD_RESUME -/
def execFieldResume (s : State) : Host.Outcome State Fault Refusal := s.on (fieldCommand 1)

/-- FIELD_OFF -/
def execFieldOff (s : State) : Host.Outcome State Fault Refusal := s.on (fieldCommand 2)

end Sys2Proof.Machine
end

