-- ==== Sys2Proof/Machine/Vault.lean ====
section
/-!
DEFINITION. The vault (chapter "Vault, keys, attestation and tamper", R539 to R563): the key tree and its engines, the key
cache, revocation, the attestation statement and the Night domain's tamper log. Slots are held die by die; the vault's
registers are the owner's.
-/

namespace Sys2Proof.Machine

/-- The 48 bytes of a SHA-384 value. -/
def hashBytes (m : BitVec 384) : List Byte := (leBytes 48 m.toNat).reverse

def Hw.setKeySlot (h : Hw) (d s : Nat) (k : KeySlot) : Hw := { h with vlt.slots := h.vlt.slots.put .init (d * 64 + s) k }

/-- Is slot `s` the slot `root` or one of its descendants (R552)? -/
def Hw.isUnder (h : Hw) (d root : Nat) : Nat → Nat → Bool
  | 0, s => s == root
  | n + 1, s =>
    s == root || (let k := h.keySlot d s; decide (2 ≤ k.parent) && decide (k.parent < 64) && h.isUnder d root n k.parent)

/-- The mask of the slots of a die that satisfy a test. -/
def Hw.slotMask (h : Hw) (d : Nat) (f : KeySlot → Bool) : Nat :=
  (List.range 64).foldl (fun a s => if f (h.keySlot d s) then a + 2 ^ s else a) 0

/-! ## The key tree (R543 to R546) -/

/-- The order of the P-384 group, and the method of FIPS 186-5 Appendix A.2.1. -/
def p384Order : Nat :=
  0xFFFFFFFFFFFFFFFFFFFFFFFFFFFFFFFFFFFFFFFFFFFFFFFFC7634D81F4372DDF581A0DB248B0A77AECEC196ACCC52973

def eccPrivate (c : Nat) : Nat := c % (p384Order - 1) + 1

/-- OWNERHASH[0:15] of R544. -/
def Hw.ownerHash16 (h : Hw) : List Byte :=
  match h.otp.ownerHash with
  | some x => (hashBytes x).take 16
  | none => Config.blankOwnerHash.take 16

/-- A derived key (R544): 384 bits for SECRET, 256 for AESK, 448 and the FIPS method for ECK. -/
def Hw.deriveKey (h : Hw) (parent : Nat) (k : KeyDef) : Nat :=
  let ctx := leBytes 1 k.slot ++ leBytes 1 k.typ ++ leBytes 1 k.engines ++ h.ownerHash16
  match k.typ with
  | 0 => Config.kdf parent k.label ctx 384
  | 1 => Config.kdf parent k.label ctx 256
  | _ => eccPrivate (Config.kdf parent k.label ctx 448)

/-- An imported secret (R545): the blob of this slot for this device, opened under KEK; none where the tag fails. -/
def Hw.importKey (h : Hw) (slot : Nat) : Option Nat :=
  let dev := Config.devId h.otp.rootSecret
  match h.cfg.imports.find? fun b => leAt b 0 1 == slot && slice b 16 16 == dev with
  | none => none
  | some b =>
    let z := Config.ecdhX (Config.dimp h.otp.rootSecret) (slice b 32 96)
    let kek := Config.kdf z ((("OPIOR-IMPORT".toList).map fun c => BitVec.ofNat 8 c.toNat)) (dev ++ leBytes 1 slot) 256
    Config.gcmOpen kek (slice b 4 12) (slice b 0 128) (slice b 128 48) (slice b 176 16)

/-- Additional data and nonce of a cache entry (R550). -/
def Hw.cacheAad (h : Hw) (slot typ : Nat) : List Byte :=
  leBytes 1 slot ++ leBytes 1 typ ++ leBytes 2 0 ++ h.cfg.header.imgHash.take 16

def cacheNonce (i pcc : Nat) : List Byte := leBytes 9 i ++ leBytes 3 pcc

/-- The cached key of a slot, where an entry's tag verifies (R551). -/
def Hw.cachedKey (h : Hw) (slot typ : Nat) : Option Nat :=
  (List.range h.nightDom.cache.length).findSome? fun i =>
    let e := h.nightDom.cache.getD i ⟨0, 0, [], 0⟩
    if e.slot = slot ∧ e.typ = typ then
      Config.gcmOpen h.nightDom.nightKey (cacheNonce i e.pcc) (h.cacheAad slot typ) (e.sealed.take 48) (e.sealed.drop 48)
    else none

/-- Load one slot of the tree into every die's vault; false where an import's tag fails. -/
def Hw.loadSlot (k : KeyDef) (x : Bool × Hw) : Bool × Hw :=
  let (ok, h) := x
  let cached := if k.cache then h.cachedKey k.slot k.typ else none
  let key : Option Nat :=
    match cached with
    | some v => some v
    | none =>
      if k.parent = 0xFE then h.importKey k.slot
      else some (h.deriveKey (if k.parent = 0xFF then h.otp.rootSecret else (h.keySlot 0 k.parent).key) k)
  match key with
  | none => (false, h)
  | some v =>
    let depth := if k.parent < 64 then (h.keySlot 0 k.parent).depth + 1 else 1
    let s : KeySlot := ⟨true, false, k.typ, k.engines, k.parent, depth, cached.isSome, k.parent == 0xFE, v⟩
    let h := h.eachDie fun d h => h.setKeySlot d k.slot s
    (ok, if cached.isSome then { h with vlt.cacheUsed := true } else h)

/-- The tree of Dawn step 7: slots 0 and 1 from OTP, then the defined slots in their order. -/
def Hw.loadTree (h : Hw) : Bool × Hw :=
  let h := h.eachDie fun d h =>
    (h.setKeySlot d 0 ⟨true, false, 2, 2 ^ 3, 0, 0, false, false, Config.dik h.otp.rootSecret⟩).setKeySlot d 1
      ⟨true, false, 2, 0, 0, 0, false, false, Config.dimp h.otp.rootSecret⟩
  h.cfg.keyDefs.foldl (fun x k => Hw.loadSlot k x) (true, { h with vlt.cacheUsed := false })

/-- Working key registers zeroised (R87, R112). -/
def Hw.zeroKeys (h : Hw) : Hw :=
  ({ h with vlt.slots := .empty, vlt.inUse := [], vlt.producing := false }.wr 0 R.VLT_STAT_TREEOK 0).wr 0 R.VLT_STAT_CACHEOK 0

/-- The key cache written at Dawn step 10 (R551): one entry for each slot with CACHE = 1. -/
def Hw.writeCache (h : Hw) : Hw :=
  let ks := h.cfg.keyDefs.filter (·.cache)
  let es := (List.range ks.length).map fun i =>
    let k := ks.getD i ⟨0, 0, 0, 0, false, []⟩
    (⟨k.slot, k.typ, Config.gcmSeal h.nightDom.nightKey (cacheNonce i h.nightDom.pcc) (h.cacheAad k.slot k.typ) (h.keySlot 0 k.slot).key,
      h.nightDom.pcc⟩ : CacheEntry)
  { h with nightDom.cache := es }

/-! ## Engines (R547, R549) -/

/-- ENGINE_REQUEST (R547): a slot's key is delivered or refused; an operation that goes on holds the slot until the
engine's next request. -/
def engineRequest (d slot engine : Nat) (goesOn : Bool) (h : Hw) : Hw :=
  let (k, h) := h.deliver d slot engine
  let u := h.vlt.inUse.filter fun x => x.1 != d * 8 + engine
  { h with vlt.inUse := if goesOn && k.isSome then u ++ [(d * 8 + engine, slot)] else u }

/-- ENGINE_REQUEST -/
def execEngineRequest (die : Die) (slot : Fin 64) (engine : Fin 6) (goesOn : Bool) (s : State) :
    Host.Outcome State Fault Refusal := s.onDie die (engineRequest die.val slot.val engine.val goesOn)

/-- VAULT_COMMAND (R549): the management pair's access to space 0x18 requests an operation of an engine on a slot. An
access beyond 0xFFFF is answered with ADR, and one of another origin with DENIED; both are access violations (R29, R45). -/
def vaultCommand (d : Nat) (o : Origin) (off slot engine : Nat) (h : Hw) : Hw :=
  if 0xFFFF < off ∨ !o.isManagement then h.violation d o off else engineRequest d slot engine false h

/-- VAULT_COMMAND -/
def execVaultCommand (die : Die) (origin : Origin) (offset : BitVec 40) (slot : Fin 64) (engine : Fin 6) (s : State) :
    Host.Outcome State Fault Refusal :=
  s.onReg die origin (0x18 * 2 ^ 40 + offset.toNat) (vaultCommand die.val origin offset.toNat slot.val engine.val)

/-! ## Revocation (R552 to R554) -/

/-- Kind 0x06 (R554), of vault origin. -/
def keyEntry (op slot a1 a2 a3 a4 die : Nat) : LedgerBody :=
  ledgerBody 0x06 .vault (op + slot * 2 ^ 8) a1 a2 a3 a4 (some die)

/-- A port of a die whose LINKKEY is revoked goes to Down (R553) and trains in vain until the next Dawn. -/
def Hw.dropLinks (h : Hw) (d : Nat) (slots : List Nat) : Hw :=
  if h.on d R.RNG_CFG_AUTHEN && slots.contains (h.rd d R.RNG_CFG_LINKKEY) then
    each (h.attached d) (fun p h =>
      if h.portUp d p then (h.leaveUp d p 0).enterTraining d p
      else if h.rd d R.RNG_PSTAT_STATE p = 1 then h.trainingFailed d p else h) h
  else h

/-- Revoke slots on one die: their operations are aborted, their users affected. Answers the operations aborted. -/
def Hw.revokeOn (d : Nat) (slots : List Nat) (x : Nat × Hw) : Nat × Hw :=
  let (n, h) := x
  let hit := h.vlt.inUse.filter fun u => u.1 / 8 == d && slots.contains u.2
  let h := each slots (fun s h => h.setKeySlot d s { h.keySlot d s with revoked := true }) h
  let h := { h with vlt.inUse := h.vlt.inUse.filter fun u => !(u.1 / 8 == d && slots.contains u.2) }
  let h := if hit.isEmpty then h else h.flag 0 R.VLT_ERR_ABORT
  (n + hit.length, h.dropLinks d slots)

/-- The valid slots of a die under a slot. -/
def Hw.family (h : Hw) (d root : Nat) : List Nat :=
  (List.range 64).filter fun s => (h.keySlot d s).valid && h.isUnder d root 4 s

def maskOf (l : List Nat) : Nat := l.foldl (fun a s => a ||| 2 ^ s) 0

/-- The report and the entry that follow a revocation (R553). -/
def Hw.afterRevoke (h : Hw) (d op slot : Nat) (slots : List Nat) (aborted : Nat) : Hw :=
  let h := (h.flag 0 (if op = 3 then R.VLT_ERR_PAR else R.VLT_ERR_REVOKED)).wr 0 R.VLT_ERR_LASTSLOT slot
  let h := h.raiseFault d 0x81 slot
  let m := maskOf slots
  let b := keyEntry op slot (low 32 m) (m / 2 ^ 32) aborted 0 d
  if op = 2 then h.stageRequested b else h.stageForced b

/-- May an amend revoke the slot (R552)? -/
def Hw.mayRevoke (h : Hw) (slot : Nat) : Bool :=
  let seal' := h.rd 0 R.LDG_CFG_SEALKEY
  decide (2 ≤ slot) && (h.keySlot h.node.owner slot).valid && !h.isUnder h.node.owner slot 4 seal'

/-- An accepted amend of VLT_REVOKE (R552): the slot and its descendants on every die. -/
def revokeSlot (slot : Nat) (h : Hw) : Hw :=
  if h.mayRevoke slot then
    let slots := h.family h.node.owner slot
    let h := h.wr 0 R.VLT_REVOKE_SLOT slot
    let (n, h) := iter h.dies (fun d x => Hw.revokeOn d slots x) (0, h)
    h.afterRevoke h.node.owner 2 slot slots n
  else h

/-- VLT_REVOKE -/
def execVltRevoke (slot : Fin 64) (s : State) : Host.Outcome State Fault Refusal := s.on (revokeSlot slot.val)

/-- KEY_SLOT_CHECK (R592, R553, R563): a parity failure of a slot in use revokes it and its descendants in that die's
vault; where an amend revokes the slot in the same cycle, that is the one revocation. -/
def keySlotCheck (d slot : Nat) (bad amended : Bool) (h : Hw) : Hw :=
  let k := h.keySlot d slot
  if bad && k.valid && !k.revoked && !amended then
    let slots := h.family d slot
    let (n, h) := Hw.revokeOn d slots (0, h)
    h.afterRevoke d 3 slot slots n
  else h

/-- KEY_SLOT_CHECK -/
def execKeySlotCheck (die : Die) (slot : Fin 64) (bad amended : Bool) (s : State) : Host.Outcome State Fault Refusal :=
  s.onDie die (keySlotCheck die.val slot.val bad amended)

/-! ## Entropy (R540) -/

/-- ENTROPY_HEALTH_FAIL (R540, R563): ENT and VLT_ENT; a statement in production is withheld. -/
def entropyFail (h : Hw) : Hw :=
  let h := ((h.flag 0 R.VLT_ERR_ENT).wr 0 R.VLT_STAT_ENTOK 0).raiseFault h.node.owner 0x80 0
  let h := { h with vlt.entFail := true }
  if h.vlt.producing then
    ({ h with vlt.producing := false }.wr 0 R.VLT_ASTAT_STATE 3).wr 0 R.VLT_ASTAT_REASON 4
  else h

/-- ENTROPY_HEALTH_FAIL -/
def execEntropyHealthFail (s : State) : Host.Outcome State Fault Refusal := s.on entropyFail

/-- A new Night key (R550), which needs fresh entropy: while the source fails it stays zeroised (R540). -/
def Hw.drawNightKey (h : Hw) : Hw :=
  if h.vlt.entFail then { h with nightDom.nightKey := 0 }
  else
    let (k, h) := h.draw
    { h with nightDom.nightKey := k.toNat }

/-- ENTROPY_HEALTH_PASS (R540): a Night key that a zeroisation left undrawn is drawn now. -/
def entropyPass (h : Hw) : Hw :=
  let h : Hw := { (h.wr 0 R.VLT_STAT_ENTOK 1) with vlt.entFail := false }
  if h.nightDom.nightKey = 0 then h.drawNightKey else h

/-- ENTROPY_HEALTH_PASS -/
def execEntropyHealthPass (s : State) : Host.Outcome State Fault Refusal := s.on entropyPass

/-! ## The attestation statement (R555 to R557) -/

/-- Why a request is refused: 1 busy, 2 rate, 3 ledger, 4 entropy; 0 it is not. -/
def Hw.attestRefusal (h : Hw) : Nat :=
  if h.vlt.producing then 1
  else if (match h.vlt.lastSigned with | some t => decide (h.now - t < 1250000000) | none => false) then 2
  else if h.requestedWaits || !h.holdupOk h.ldg.staging.length then 3
  else if h.vlt.entFail then 4 else 0

/-- ATTESTATION_REQUEST (R555): a write of 1 to VLT_ACMD.GO, by an origin that the node state lets write the VLT block. A
refusal while a statement is in production leaves its production alone. -/
def attestRequest (d : Nat) (o : Origin) (h : Hw) : Hw :=
  if o.isManagement ∨ h.node.state = .run ∨ h.node.state = .degraded ∨ h.node.state = .safe then
    let why := h.attestRefusal
    if why = 0 then
      let h := { h with vlt.producing := true, vlt.statement := [] }
      ((h.wr 0 R.VLT_ASTAT_STATE 1).wr 0 R.VLT_ASTAT_REASON 0).wr 0 R.VLT_ASTAT_LEN 0
    else if why = 1 then h.wr 0 R.VLT_ASTAT_REASON 1
    else (h.wr 0 R.VLT_ASTAT_STATE 3).wr 0 R.VLT_ASTAT_REASON why
  else h.violation d o 0xE0020

/-- ATTESTATION_REQUEST -/
def execAttestationRequest (die : Die) (origin : Origin) (s : State) : Host.Outcome State Fault Refusal :=
  s.onReg die origin 0xE0020 (attestRequest die.val origin)

/-- A TLV element. -/
def tlv (tag : Nat) (v : List Byte) : List Byte := leBytes 1 tag ++ leBytes 2 v.length ++ v

/-- The bytes of the written nonce. -/
def Hw.nonce (h : Hw) : List Byte := (List.range 12).flatMap fun i => leBytes 4 (h.rd 0 R.VLT_ANONCE_NONCE i)

/-- NOD_IDENT.FWGEN: 3 from the commit of Dawn step 6 on, else 0. -/
def Hw.fwGen (h : Hw) : Nat := if h.cfg.committed then 3 else 0

/-- NOD_STRAP.DEBUGEFF: the strap, unless the identity record has locked debug access (R83). -/
def Hw.debugOpen (h : Hw) : Bool := h.on 0 R.NOD_STRAP_DEBUGEFF

/-- The tamper log's bytes in a statement. -/
def TamperEntry.bytes (e : TamperEntry) : List Byte := leBytes 4 e.sec ++ leBytes 3 e.pcc ++ leBytes 1 e.source

/-- Every element before SIG (R556), as the node stands (R557). -/
def Hw.statementBody (h : Hw) : List Byte :=
  let hd := h.cfg.header
  let own := h.node.owner
  tlv 0x01 [0x01] ++ tlv 0x02 h.nonce ++ tlv 0x03 (Config.deviceCert h.otp.rootSecret) ++ tlv 0x04 Config.intCert ++
  tlv 0x05 (leBytes 2 (h.rd own R.NOD_NODEID_NODEID) ++ leBytes 1 h.dies ++ leBytes 1 (2 ^ h.dies - 1) ++ leBytes 1 own) ++
  tlv 0x06 ([0x21] ++ leBytes 1 h.fwGen ++ leBytes 2 hd.fwVer) ++
  tlv 0x07 ([1] ++ hashBytes (Config.romMeasure 1) ++ [2] ++ hashBytes (Config.romMeasure 2) ++ [3] ++ h.cfg.fwHash ++ [4] ++
    hd.imgHash ++ [5] ++ hashBytes (Config.sha384 h.cfg.keyBytes)) ++
  tlv 0x08 (leBytes 1 h.straps ++ leBytes 1 h.slotNo ++ leBytes 1 (b2n h.debugOpen)) ++
  tlv 0x09 ((match h.otp.ownerHash with | some x => hashBytes x | none => Config.blankOwnerHash) ++
    leBytes 1 h.otp.genFloor ++ leBytes 2 (h.otp.fwFloors.getLastD 0) ++ [Config.identityCode h.otp.identityBlank]) ++
  tlv 0x0A (leBytes 1 (h.rd 0 R.VLT_STAT_VBATLOSS) ++ leBytes 1 h.nightDom.log.length ++ h.nightDom.log.flatMap TamperEntry.bytes) ++
  tlv 0x0B (leBytes 3 h.nightDom.pcc ++ leBytes 1 (b2n h.timeValid) ++ leBytes 8 h.fabricNs ++ leBytes 8 h.ldg.nextLseq) ++
  tlv 0x0C (leBytes 8 (h.slotMask own (·.valid)) ++ leBytes 8 (h.slotMask own (·.revoked)))

/-- STATEMENT_SIGNED (R556, R557): the signature by DIK is written, ASTAT reports done, and the kind 0x06 entry staged. -/
def statementSigned (h : Hw) : Hw :=
  if h.vlt.producing then
    let body := h.statementBody
    let (r, h) := h.draw
    let whole := body ++ tlv 0xFF (Config.ecdsaSign (h.keySlot h.node.owner 0).key body r.toNat)
    let h := { h with vlt := { h.vlt with producing := false, statement := whole, lastSigned := some h.now } }
    let h := (h.wr 0 R.VLT_ASTAT_STATE 2).wr 0 R.VLT_ASTAT_LEN whole.length
    h.stageRequested (keyEntry 6 0 (leAt h.nonce 0 4) whole.length 0 0 h.node.owner)
  else h

/-- STATEMENT_SIGNED -/
def execStatementSigned (s : State) : Host.Outcome State Fault Refusal := s.on statementSigned

/-! ## The Night domain's tamper log (R560 to R562) -/

/-- Copy the tamper log and its count to the registers (VLT_STAT, VLT_TLOGA, VLT_TLOGB). -/
def Hw.showTamper (h : Hw) : Hw :=
  let h := h.wr 0 R.VLT_STAT_TLOGN h.nightDom.log.length
  iter 8 (fun e h =>
    let x := h.nightDom.log.getD e ⟨0, 0, 0⟩
    (h.wr 0 R.VLT_TLOGA_VALUE (low 32 x.sec) e).wr 0 R.VLT_TLOGB_VALUE (low 24 x.pcc + x.source * 2 ^ 24) e) h

/-- An alarm's entry: the first eight since the last clear; key cache and Night key zeroised, a new Night key drawn. -/
def Hw.tamperEntry (h : Hw) (source : Nat) : Hw :=
  let n := h.nightDom
  let log := if n.log.length < 8 then n.log ++ [⟨low 32 (h.calendar / 2 ^ 15), n.pcc, source⟩] else n.log
  { h with nightDom := { n with log := log, cache := [] } }.drawNightKey

/-- The sources whose condition holds at a second sample on end, and the new runs: enabled sources only. -/
def tamperRuns (cfg : Nat) (prev : List Nat) (holds : List Bool) : List Nat :=
  (List.range 7).map fun i =>
    if bit cfg i && holds.getD i false then min 3 (prev.getD i 0 + 1) else 0

/-- Alarms of a sample: a run reaches two. -/
def tamperAlarms (runs : List Nat) : List Nat := (List.range 7).filter fun i => runs.getD i 0 == 2

/-- Clear the tamper log (R562): the held conditions start a new pair of samples. -/
def tamperClear (h : Hw) : Hw :=
  let n := h.nightDom.log.length
  let h := { h with nightDom.log := [], nightDom.tampRun := [] }
  h.showTamper.stageRequested (keyEntry 5 0 n 0 0 0 h.node.owner)

/-- TAMPER_LOG_CLEAR -/
def execTamperLogClear (s : State) : Host.Outcome State Fault Refusal := s.on tamperClear

/-- Every slot revoked by a tamper alarm (R553, R561): VLT_KEY for the whole tree, OP 0x04 and VLT_TAMPER. -/
def Hw.tamperRevoke (h : Hw) (source : Nat) : Hw :=
  let slots := (List.range 64).filter fun s => (h.keySlot h.node.owner s).valid
  let (_, h) := iter h.dies (fun d x => Hw.revokeOn d slots x) (0, h)
  let h := ((h.flag 0 R.VLT_ERR_REVOKED).raiseFault h.node.owner 0x81 0).raiseFault h.node.owner 0x82 source
  let h := h.abandonStatement
  h.stageForced (keyEntry 4 0 source h.nightDom.pcc 0 0 h.node.owner)

end Sys2Proof.Machine
end

