-- ==== Sys2Proof/Machine/Node.lean ====
section
/-!
DEFINITION. The node states and their transitions (R35 to R41, R624 to R626) with what each does to every block: hub reset
and Night, the exits of Dawn, Safe, Sleep, Dusk, Run; the commands of NOD_CMD.
-/

namespace Sys2Proof.Machine

/-! ## Reset and Night -/

/-- Every hub die resets: what is kept is the part, the sampled straps, the one-time memory, the Night domain (its calendar
running on), the log NVM and the NOR, and the Wellhouse with its field feeds off (R472). -/
def Hw.resetHub (h : Hw) : Hw :=
  let w := h.fieldPower false
  { Hw.init h.part h.grade with
    straps := h.straps, slotNo := h.slotNo, otp := h.otp,
    nightDom := { h.nightDom with cal := h.calendar, calAt := 0 },
    logNvm := h.logNvm, nor := h.nor, wlh := { w.wlh with frameAt := .empty }, freeCtr := h.freeCtr }

/-- Night: power is gone from the hub dies; the entry writes no record (R41). A page of the log NVM that is being written then keeps its
old bytes, which R125 and R492 leave to the device (LOG 106). -/
def Hw.enterNight (h : Hw) : Hw := { h.resetHub with node.state := .night }

/-- Dusk step 6 (R124, R466, R476): PWR_EN low, HS_GATE and store FET off, Night. Whatever caused the Dusk, the FET then waits for the
input to leave its window and re-enter it, as R126 says of NOD_CMD dusk (LOG 341). -/
def Hw.duskEnd (h : Hw) : Hw :=
  let h := h.enterNight
  { h with wlh := { h.wlh with off := true, gate := false, hs := 0, store := false, hold := false } }

/-- Power-good drops (R465, R125): PWR_EN falls, and every die resets into Night. -/
def Hw.powerDrop (h : Hw) : Hw :=
  let h := { h with wlh := { h.wlh with pg := false, store := false } }
  if h.node.state = .night then h else h.enterNight

/-! ## Updates and locks that a state ends -/

/-- Bytes of the staging copy of an update (R573). -/
def Hw.stagedAt (h : Hw) (o n : Nat) : List Byte := (List.range n).map fun k => h.mgt.staged.get 0 (o + k)

/-- A kind 0x05 entry (R579): OP, code, die, old FWVER, and new FWVER and IMGHASH as far as the staged header goes (0 before
it has come). -/
def Hw.updateBody (h : Hw) (op code die : Nat) : LedgerBody :=
  let w := fun i => leNat (h.stagedAt (0x30 + 4 * i) 4)
  ledgerBody 0x05 .loader (op + code * 2 ^ 8 + low 3 die * 2 ^ 16 + h.mgt.oldFw * 2 ^ 32 + leNat (h.stagedAt 0x1C 2) * 2 ^ 48)
    (w 0) (w 1) (w 2) (w 3) (some h.node.owner)

/-- A pair in the blackout of a handover that is given up goes on (R576, R583). -/
def Hw.endBlackout (h : Hw) : Hw := h.eachDie fun d h => if h.rd d R.MGT_STAT_PAIR = 3 then h.wr d R.MGT_STAT_PAIR 1 else h

/-- An open update ends with a code (R579, R583): 1 to 0x0C of MGT_USTAT. -/
def Hw.endUpdate (h : Hw) (code : Nat) : Hw :=
  if h.mgt.isOpen then
    let h := h.endBlackout.stageRequested (h.updateBody 5 code 0)
    let h := { h with mgt := { h.mgt with isOpen := false, staged := .empty, stagedLen := 0, norDone := false, handed := [], readbackFails := 0 } }
    let h := (h.wr 0 R.MGT_USTAT_USTATE 6).wr 0 R.MGT_USTAT_CODE code
    h.report h.node.owner 0x03 .updateEvent code
  else h

/-! ## Run, Safe, Sleep, Dusk -/

/-- Run or Degraded, per NOD_STATE.DEGR. -/
def Hw.runState (h : Hw) : NodeState := if h.flt.present = [] then .run else .degraded

/-- Pumps, CAN controllers and the event engine start (R306, R354, R396). -/
def Hw.startDatapath (h : Hw) : Hw := (((h.autostart).startCans).eachDie fun d h => h.startEngine d).refreshAll

/-- The node enters Safe (R36): safe levels, each block's Safe behaviour. -/
def Hw.enterSafe (h : Hw) (cause : Nat) : Hw :=
  let h := { h.moveTo .safe cause with node.scause := cause }
  h.endTransmissions.safePumps.refreshAll.checkGuar

/-- A resume leaves Safe (R36, R625): the command cause ends. -/
def Hw.leaveSafe (h : Hw) : Hw :=
  let h := { h with node.safeCmd := false }
  (h.moveTo h.runState 2).cansLeaveSafe.refreshAll.checkGuar

/-- The trains' windows close until the first train accepted after Sleep (R159). -/
def Hw.closeTrainWindows (h : Hw) : Hw := h.eachDie fun d h => h.setTrain d { h.train d with windowOpen := false }

/-- The phase trackers go off and the event engine stops on every die (R396). -/
def Hw.phaseOff (h : Hw) : Hw := h.eachDie fun d h => (h.trackersOff d).stopEngine d

/-- The node enters Sleep (R36, R306, R354, R396, R472). -/
def Hw.enterSleep (h : Hw) : Hw :=
  let h := h.moveTo .sleep 3
  let h := { h with node.woken := false, node.wakeTrain := false }
  let h := h.sleepCans.stopPumps.phaseOff.closeTrainWindows
  (if h.wconf R.WLH_FCFG_FSLEEP = 1 then h else h.fieldPower false).refreshAll

/-- The node leaves Sleep at the train after the wake train (R36, R306). -/
def Hw.leaveSleep (h : Hw) : Hw :=
  let h := (h.moveTo h.runState 1).fieldPower true
  (h.eachDie fun d h => h.acquireAll d false).startDatapath

/-- Dusk steps 1 and 2 (R124), and what Dusk ends at once: updates (R583), restores (R600), a freeze where DUSKFRZ = 1
(R529). -/
def Hw.enterDusk (h : Hw) (cause : Nat) : Hw :=
  let h := { h.moveTo .dusk cause with node.duskAt := h.now }
  let h := (h.endTransmissions.stopPumps.phaseOff.closeTrainWindows.fieldPower false).refreshAll
  let h := h.endUpdate 0x0B
  let h := { h with flt.restoreDue := [] }.endLocks
  if (List.range h.dies).any fun d => h.on d R.JRN_CFG_DUSKFRZ && h.on d R.JRN_CFG_EN then h.triggerFreeze ⟨2, 0, 0, 0⟩ else h

/-! ## The exits of Dawn (R86 to R88) -/

/-- SCAUSE of an exit code (R86). -/
def dawnCause (code : Nat) : Nat := if code = 0x0D then 5 else if code = 0x0E then 6 else if code = 0x0F then 7 else 4

/-- The codes whose exit is the ring boot fallback. -/
def fallbackCodes : List Nat := [0x01, 0x02, 0x03, 0x07, 0x08]

/-- A port that is Down trains (R93, R133). -/
def Hw.trainPort (h : Hw) (d p : Nat) : Hw := if h.rd d R.RNG_PSTAT_STATE p = 0 then h.enterTraining d p else h

/-- A ring boot begins (R93): every port trains with default link parameters; SRC reports ring boot, and step 4
is next (R95). -/
def Hw.ringBoot (h : Hw) : Hw :=
  let h := ((h.wr 0 R.NOD_DAWN_SRC 3).wr 0 R.NOD_DAWN_DTR 0).wr 0 R.NOD_DAWN_STEP 4
  let h := { h with dawn := { Dawn.init with ringBoot := true, ringTried := true, replaySel := h.dawn.replaySel } }
  h.eachDie fun d h => iter 4 (fun p h => h.trainPort d p) h

/-- The node enters Quarantine (R35, R86): outputs at the pre-image level, no datapath. -/
def Hw.enterQuarantine (h : Hw) (scause code : Nat) : Hw :=
  let h := { h.moveTo .quarantine code with node.scause := scause }
  (((h.cansOff.phaseOff).eachDie fun d h => iter 64 (fun n h => if h.pumpState d n = 0 then h else h.stopPump d n) h).fieldPower false).refreshAll

/-- A failure ends Dawn or falls back to ring boot (R86 to R88, R108): held configuration discarded, working keys zeroised,
the code and step recorded. -/
def Hw.dawnFail (h : Hw) (code seq : Nat) : Hw :=
  if h.node.state = .dawn then
    let tried := h.dawn.ringTried
    let keep := h.dawn.replaySel
    let h := { h with dawn := { Dawn.init with ringTried := tried, replaySel := keep } }.zeroKeys
    let h := (h.wr 0 R.NOD_DAWNERR_CODE code).wr 0 R.NOD_DAWNERR_SEQ seq
    let h := h.report h.node.owner 0x01 .dawnFailure (code + h.dawnStep * 2 ^ 8 + seq * 2 ^ 16)
    if fallbackCodes.contains code && !tried then (h.wr 0 R.NOD_DAWN_FALLBACK 1).ringBoot
    else h.enterQuarantine (dawnCause code) code
  else h

/-! ## NOD_CMD (R36 to R38, R45, R624, R625) -/

/-- May this origin write this command now (R45, R118)? A reset comes while debug access is open only. -/
def Hw.cmdAllowed (h : Hw) (o : Origin) (cmd : Nat) : Bool :=
  match h.node.state with
  | .night => false
  | .dawn => false
  | .quarantine => o.isManagement && cmd == 5 && h.debugOpen
  | _ => bit (h.cfg.cmdPolicy.getD (cmd - 1) 0) o.code && (cmd != 5 || o.isManagement)

/-- Does a report of this core cycle demand Safe (R40, R600)? Its Safe cause goes before a resume or a sleep. -/
def Hw.safeDemanded (h : Hw) : Bool :=
  h.flt.reports.any fun r => r.cycle == h.now && h.rd r.die R.FLT_CODE_ACTION r.code == 2

/-- Was a command accepted in this core cycle? -/
def Hw.cmdNow (h : Hw) : Bool := h.node.cmdAt == some h.now

/-- The state that the commands of this core cycle meet: the one before the first that was accepted in it (R624). -/
def Hw.cycleState (h : Hw) : NodeState := if h.cmdNow then h.node.cmdFrom else h.node.state

/-- Has the command a transition from the present state (R36, R38, R625)? A reset waits for every TAP to leave EXTEST,
HIGHZ and CLAMP (R79). -/
def Hw.cmdTransition (h : Hw) (cmd : Nat) : Bool :=
  let s := h.cycleState
  match cmd with
  | 1 => s == .run || s == .degraded
  | 2 => s == .safe && !h.node.safeTrains && h.flt.safeCodes.isEmpty && !h.safeDemanded
  | 3 => (s == .run || s == .degraded) && !h.safeDemanded
  | 4 => s == .quarantine || s == .run || s == .degraded || s == .safe || s == .sleep
  | 5 => s == .quarantine && !(List.range h.dies).any fun d => (h.taps.get .init d).inForce
  | _ => false

/-- The order of R624: dusk, enter-Safe, sleep, resume, reset. -/
def cmdRank (cmd : Nat) : Nat := ([4, 1, 3, 2, 5].idxOf cmd)

/-- The other commands of this core cycle: those that the row names, and the one accepted in it. -/
def Hw.cmdOthers (h : Hw) (same : Nat) : List Nat :=
  (List.range 6).filter fun c => decide (1 ≤ c) && (bit same c || (h.cmdNow && h.rd 0 R.NOD_CMD_CMD == c))

/-- Is a command overruled by what else comes in its core cycle (R40, R624): by loss of both feeds, by a Safe cause where it is a
resume or a sleep, by a command that goes before it and has a transition? -/
def Hw.cmdOverruled (h : Hw) (same cmd : Nat) : Bool :=
  (bit same 6 && cmd != 4) || (bit same 0 && (cmd == 2 || cmd == 3)) ||
  (h.cmdOthers same).any fun c => decide (cmdRank c < cmdRank cmd) && h.cmdTransition c

/-- A command is refused, with a record of it, its origin and the state (R38). -/
def Hw.refuseCmd (h : Hw) (cmd : Nat) (o : Origin) : Hw :=
  h.report h.node.owner 0x00 .cmdRefused (cmd + h.node.state.code * 2 ^ 8) o.code

/-- NOD_CMD.CMD reports an accepted command from this core cycle on (R38). -/
def Hw.acceptCmd (h : Hw) (cmd : Nat) : Hw :=
  { (h.wr 0 R.NOD_CMD_CMD cmd) with node := { h.node with cmdAt := some h.now, cmdFrom := h.cycleState } }

/-- A write of a command. One that its origin may not write now is an access violation (R45); one that has no transition is refused
and recorded (R38), whether it may be written or not; of one core cycle the same command acts once (R624). `same` is what else comes
in the core cycle. -/
def nodCmd (cmd d : Nat) (o : Origin) (same : Nat) (act : Hw → Hw) (h : Hw) : Hw :=
  if !h.cmdAllowed o cmd then
    let h := h.violation d o 0xC
    if h.cmdTransition cmd then h else h.refuseCmd cmd o
  else if h.cmdNow && h.rd 0 R.NOD_CMD_CMD == cmd then h
  else if h.cmdTransition cmd && !h.cmdOverruled same cmd then act (h.acceptCmd cmd)
  else h.refuseCmd cmd o

/-- The reset command (R36): Dawn again from its first step, with the straps sampled at power-on reset release; the core
cycle count, which runs from that release (R511), goes on. -/
def Hw.resetCommand (h : Hw) : Hw :=
  let taps := h.taps
  let now := h.now
  let strap := h.regAt (R.NOD_STRAP_BOOT.key 0 0 0)
  let h := { h.resetHub with taps := taps, node.state := .quarantine, now := now, dawn.powerOn := false }
  let h := { h with nightDom.calAt := now }
  (h.setRegAt (R.NOD_STRAP_BOOT.key 0 0 0) strap |>.wr 0 R.NOD_CMD_CMD 5).moveTo .dawn 5

/-- What each command does once it is accepted; Dusk's cause is the command, Safe's the cause 3 of R625. A Safe cause of a dusk's
core cycle is recorded (R40). -/
def commandAct (cmd same : Nat) (h : Hw) : Hw :=
  match cmd with
  | 1 => { h with node.safeCmd := true }.enterSafe 3
  | 2 => h.leaveSafe
  | 3 => h.enterSleep
  | 4 => (whenDo (bit same 0) (fun h => h.report h.node.owner 0x00 .safeCause) h).enterDusk 4
  | 5 => h.resetCommand
  | _ => h

/-- A write of NOD_CMD on a die: 0 and the reserved encodings are ignored and recorded as access violations. -/
def nodCommand (cmd d : Nat) (o : Origin) (same : Nat) (h : Hw) : Hw :=
  if 1 ≤ cmd ∧ cmd ≤ 5 then nodCmd cmd d o same (commandAct cmd same) h else h.violation d o 0xC

/-- NOD_CMD_ENTER_SAFE -/
def execNodCmdEnterSafe (die : Die) (origin : Origin) (same : BitVec 7) (s : State) : Host.Outcome State Fault Refusal :=
  s.onReg die origin 0xC (nodCommand 1 die.val origin same.toNat)

/-- NOD_CMD_RESUME -/
def execNodCmdResume (die : Die) (origin : Origin) (same : BitVec 7) (s : State) : Host.Outcome State Fault Refusal :=
  s.onReg die origin 0xC (nodCommand 2 die.val origin same.toNat)

/-- NOD_CMD_SLEEP -/
def execNodCmdSleep (die : Die) (origin : Origin) (same : BitVec 7) (s : State) : Host.Outcome State Fault Refusal :=
  s.onReg die origin 0xC (nodCommand 3 die.val origin same.toNat)

/-- NOD_CMD_DUSK -/
def execNodCmdDusk (die : Die) (origin : Origin) (same : BitVec 7) (s : State) : Host.Outcome State Fault Refusal :=
  s.onReg die origin 0xC (nodCommand 4 die.val origin same.toNat)

/-- NOD_CMD_RESET -/
def execNodCmdReset (die : Die) (origin : Origin) (same : BitVec 7) (s : State) : Host.Outcome State Fault Refusal :=
  s.onReg die origin 0xC (nodCommand 5 die.val origin same.toNat)

/-- NOD_CMD_RESERVED: a write of 0 or of a reserved encoding is ignored and recorded as an access violation. -/
def execNodCmdReserved (die : Die) (origin : Origin) (_value : BitVec 4) (s : State) : Host.Outcome State Fault Refusal :=
  s.onReg die origin 0xC fun h => h.violation die.val origin 0xC

/-- RING_WAKE (R36): the ring wake listener wakes the node; the next valid train is the wake train. -/
def ringWake (d p : Nat) (h : Hw) : Hw :=
  if h.node.state = .sleep ∧ p ∈ h.attached d then { h with node.woken := true } else h

/-- RING_WAKE -/
def execRingWake (die : Die) (port : Fin 4) (s : State) : Host.Outcome State Fault Refusal :=
  s.onDie die (ringWake die.val port.val)

/-- QUARANTINE_TO_DUSK (R626): the standing report of loss of both feeds takes a quarantined node to Dusk. -/
def quarantineToDusk (h : Hw) : Hw := if h.node.state = .quarantine ∧ h.wlh.bothLost then h.enterDusk 0x61 else h

/-- QUARANTINE_TO_DUSK -/
def execQuarantineToDusk (s : State) : Host.Outcome State Fault Refusal := s.on quarantineToDusk

/-- Dusk ends as soon as everything is copied (R124, R507). -/
def Hw.duskCheck (h : Hw) : Hw := if h.duskCopied then h.duskEnd else h

/-- DUSK_RECORD (R507) -/
def execDuskRecord (count : Nat) (s : State) : Host.Outcome State Fault Refusal := s.on fun h => (duskRecord count h).duskCheck

/-- LOG_NVM_WRITE_DONE (R492, R506, R124) -/
def execLogNvmWriteDone (readback : Option (List Byte)) (s : State) : Host.Outcome State Fault Refusal :=
  s.on fun h => (logNvmWriteDone readback h).duskCheck

/-- DUSK_COPY_LIMIT (R507, R124): 25 ms after Dusk entry copying stops, and Dusk ends. -/
def execDuskCopyLimit (s : State) : Host.Outcome State Fault Refusal :=
  s.on fun h => if h.node.state = .dusk then h.duskEnd else h

/-- INPUT_POWER_LOST (R112): input power lost during Dawn; nothing has been staged and held configuration is lost. -/
def execInputPowerLost (s : State) : Host.Outcome State Fault Refusal :=
  s.on fun h => if h.node.state = .dawn then h.powerDrop else h

/-- PORST_N_ASSERT (R619): every die resets without Dusk; Dawn follows at the next release. -/
def execPorstNAssert (s : State) : Host.Outcome State Fault Refusal := s.on fun h => h.enterNight

end Sys2Proof.Machine
end

