-- ==== Sys2Proof/Machine/Fault.lean ====
section
/-!
DEFINITION. The fault managers (R584 to R600): a report is counted, captured, recorded and answered by its ACTION; Safe
causes and their clearing; restores; the monitors of supply and temperature. With them the management pairs (R564 to R569):
heartbeat, lockstep, restart, mirror and the takeover of D1 (R24, R25).
-/

namespace Sys2Proof.Machine

/-! ## Management pairs -/

/-- Is a die's management pair running (MGT_STAT.PAIR; before Dawn step 6 from its ROM)? -/
def Hw.pairRuns (h : Hw) (d : Nat) : Bool := !h.cfg.committed || h.rd d R.MGT_STAT_PAIR == 1

/-- D1 holds the mirror of R23 (MGT_STAT.MIRROR on every die). -/
def Hw.setMirror (h : Hw) (v : Nat) : Hw := h.eachDie fun d h => h.wr d R.MGT_STAT_MIRROR v

/-- Nothing performs node-level functions until the next Dawn (R26, R567). -/
def Hw.orphan (h : Hw) : Hw := { h with mgt := { h.mgt with headless := true, takeoverDue := false } }

/-- Does the failure of D0's pair lead to a takeover (R24, R112, R569)? A D1 in its handover completes it first (R583). -/
def Hw.mayTakeOver (h : Hw) : Bool :=
  decide (1 < h.dies) && (h.pairRuns 1 || h.rd 1 R.MGT_STAT_PAIR == 3) && h.on 0 R.MGT_STAT_MIRROR && h.node.stepTen && h.node.owner == 0

/-- A pair that is not the owner's stops (R567, R568, R569): it restarts unless nobody restarts it any more. -/
def Hw.stopOther (h : Hw) (d : Nat) : Hw :=
  let h := if d = 1 then h.setMirror 0 else h
  let h := if d = 1 ∧ h.mgt.takeoverDue then h.orphan else h
  h.wr d R.MGT_STAT_PAIR (if h.mgt.headless ∨ 3 ≤ h.mgt.restarts.get 0 d then 0 else 2)

/-- A pair stops (R565, R566): the report names the die. In Dawn the failure of D0's pair ends Dawn (R112). -/
def Hw.stopPair (h : Hw) (d code : Nat) : Hw :=
  let h := h.raiseFault d code d
  if h.node.state = .dawn ∧ d = 0 then (h.wr d R.MGT_STAT_PAIR 0).dawnFail 0x0D 0
  else if d ≠ h.node.owner then h.stopOther d
  else
    let take := d == 0 && h.mayTakeOver
    let h := h.wr d R.MGT_STAT_PAIR 0
    if take then { h with mgt := { h.mgt with headless := true, takeoverDue := true, detectAt := some h.now } } else h.orphan

/-- A write of MGT_HBEAT (R566): the firmware's own; any other is discarded and recorded. -/
def heartbeat (d : Nat) (o : Origin) (v : Word) (h : Hw) : Hw :=
  if o = .management d then h.wr d R.MGT_HBEAT_COUNT v.toNat else h.violation d o 0xF0008

/-- HEARTBEAT -/
def execHeartbeat (die : Die) (origin : Origin) (value : Word) (s : State) : Host.Outcome State Fault Refusal :=
  s.onReg die origin 0xF0008 (heartbeat die.val origin value)

/-- WATCHDOG_EXPIRY (R566, R583): a heartbeat written in the same cycle is accepted and there is no failure. -/
def watchdogExpiry (d : Nat) (beat : Option Word) (h : Hw) : Hw :=
  match beat with
  | some v => (h.wr d R.MGT_HBEAT_COUNT v.toNat).bump d R.MGT_CNT_MARGIN
  | none => if h.pairRuns d then h.stopPair d 0x91 else h

/-- WATCHDOG_EXPIRY -/
def execWatchdogExpiry (die : Die) (beat : Option Word) (s : State) : Host.Outcome State Fault Refusal :=
  s.onDie die (watchdogExpiry die.val beat)

/-- LOCKSTEP_MISMATCH (R565): both cores stop; the stop is counted. -/
def lockstepMismatch (d : Nat) (h : Hw) : Hw :=
  if h.pairRuns d ∨ h.rd d R.MGT_STAT_PAIR = 3 then (h.bump d R.MGT_CNT_LOCKERR).stopPair d 0x90 else h

/-- LOCKSTEP_MISMATCH -/
def execLockstepMismatch (die : Die) (s : State) : Host.Outcome State Fault Refusal := s.onDie die (lockstepMismatch die.val)

/-- PAIR_RESTART (R568, R593): the restarted pair runs the firmware it last ran; its masked fault ends. -/
def pairRestart (d : Nat) (h : Hw) : Hw :=
  if h.rd d R.MGT_STAT_PAIR = 2 ∧ ¬h.mgt.headless then
    let h := (h.wr d R.MGT_STAT_PAIR 1).bump d R.MGT_CNT_RESTART
    let h := { h with mgt.restarts := h.mgt.restarts.upd 0 d (· + 1) }
    let h := h.report h.node.owner 0x03 .pairRestarted d
    (h.endFault d 0x90 d).endFault d 0x91 d
  else h

/-- PAIR_RESTART -/
def execPairRestart (die : Die) (s : State) : Host.Outcome State Fault Refusal := s.onDie die (pairRestart die.val)

/-- MIRROR_REBUILD (R569): the restarted D1 has taken a full copy from D0. -/
def mirrorRebuild (h : Hw) : Hw :=
  if 1 < h.dies ∧ h.node.owner = 0 ∧ h.cfg.committed ∧ h.pairRuns 1 ∧ h.pairRuns 0 then h.setMirror 1 else h

/-- MIRROR_REBUILD -/
def execMirrorRebuild (s : State) : Host.Outcome State Fault Refusal := s.on mirrorRebuild

/-- TAKEOVER (R24, R25): D1, after its fence, holds OWNER; the takeover is recorded in the recorder and in the ledger, and
the entries that waited are staged by D1 (R123). -/
def takeover (h : Hw) : Hw :=
  if h.node.fenced ∧ h.mgt.takeoverDue ∧ h.node.owner = 0 ∧ h.pairRuns 1 then
    let us := (h.now - h.mgt.detectAt.getD h.now) / 1250
    let h := { h with node := { h.node with owner := 1 }
                      mgt := { h.mgt with headless := false, takeoverDue := false } }.abandonStatement
    let h := (h.eachDie fun d h => h.flag d R.NOD_STATE_TAKEOVER).report 1 0x03 .takeover us
    (h.stageForced (ledgerBody 0x08 (.management 1) 0 us 0 0 0 (some 1))).checkGuar
  else h

/-- TAKEOVER -/
def execTakeover (s : State) : Host.Outcome State Fault Refusal := s.on takeover

/-! ## Reports and reactions (R593 to R600) -/

/-- The reports of `l` in the order of their application: earliest cycle first, then die, then code (R600). -/
def FaultRep.before (a b : FaultRep) : Bool :=
  if a.cycle = b.cycle then (if a.die = b.die then decide (a.code < b.code) else decide (a.die < b.die)) else decide (a.cycle < b.cycle)

/-- The first report of a list and the rest. -/
def firstFault : List FaultRep → Option (FaultRep × List FaultRep)
  | [] => none
  | r :: rest =>
    match firstFault rest with
    | none => some (r, [])
    | some (m, others) => if m.before r then some (m, r :: others) else some (r, m :: others)

/-- Is a fault of this report masked (R588)? A field feed only while the other is good; a pair only where it is taken over
or restarted (R26, R567). -/
def Hw.isMasked (h : Hw) (r : FaultRep) : Bool :=
  if r.code = 0x62 then h.wlh.fieldGood (otherField h.wlh.fsel)
  else if r.code = 0x90 ∨ r.code = 0x91 then
    decide (1 < h.dies) && (if r.die = 0 then h.mgt.takeoverDue || h.node.fenced else r.die != h.node.owner)
  else maskedCodes.contains r.code

/-- A masked fault is present (R36, R39, R595). -/
def Hw.setPresent (h : Hw) (r : FaultRep) : Hw :=
  let key := (r.code, r.die, r.unit)
  let h := if h.flt.present.contains key then h else { h with flt.present := key :: h.flt.present }
  if h.node.state = .run then h.moveTo .degraded r.code else h

/-- ACTION 2 (R595): a Safe cause is active; Run and Degraded enter Safe. -/
def Hw.setSafeCode (h : Hw) (code : Nat) : Hw :=
  let h := if h.flt.safeCodes.contains code then h else { h with flt.safeCodes := code :: h.flt.safeCodes }
  if h.node.state = .run ∨ h.node.state = .degraded then h.enterSafe 2 else h

/-- How often a unit has been restored since Dawn (R597). -/
def Hw.restoreCount (h : Hw) (code d unit : Nat) : Nat :=
  ((h.flt.restores.filter fun x => x.1 == code && x.2.1 == d && x.2.2.1 == unit).map (·.2.2.2)).headD 0

/-- Can the unit of a report be restored (R597): a Pump, a CAN controller, an event entry (units 8 up)? -/
def restorable (code unit : Nat) : Bool := code == 0x20 || code == 0x40 || (code == 0x50 && decide (8 ≤ unit))

/-- RESTORE = 1 (R594, R597): a restore falls due until the third. -/
def Hw.dueRestore (h : Hw) (r : FaultRep) : Hw :=
  if h.on r.die R.FLT_CODE_RESTORE r.code && restorable r.code r.unit && decide (h.restoreCount r.code r.die r.unit < 3) then
    { h with flt.restoreDue := h.flt.restoreDue ++ [(r.code, r.die, r.unit)] }
  else h

/-- The fence (R24, R25, R598): D1's fault manager acts on the failure of D0's pair. -/
def Hw.fence (h : Hw) (r : FaultRep) : Hw :=
  if (r.code = 0x90 ∨ r.code = 0x91) ∧ r.die = 0 ∧ h.mgt.takeoverDue then { h with node.fenced := true } else h

/-- The reaction of the owner's fault manager (R595). -/
def Hw.react (h : Hw) (r : FaultRep) : Hw :=
  let h := h.fence r
  let action := h.rd r.die R.FLT_CODE_ACTION r.code
  if action = 0 then h
  else
    let h := if h.isMasked r && !r.ended then h.setPresent r else h
    let h := if action = 2 then h.setSafeCode r.code else h
    (h.dueRestore r).checkGuar

/-- Count and capture on the reporting die (R598). -/
def Hw.captureFault (h : Hw) (r : FaultRep) : Hw :=
  let h := (h.bump r.die R.FLT_CODE_COUNT 1 r.code).bump r.die R.FLT_TOTAL_REPORTS
  let h := (h.wr r.die R.FLT_LASTA_CODE r.code).wr r.die R.FLT_LASTA_DIE r.die
  (h.wr r.die R.FLT_LASTA_UNIT r.unit).wr r.die R.FLT_LASTB_CYCLE (low 32 r.cycle)

/-- The record of the first report of a code on a die in each 1 ms, with MSI-X source 51 (R595, R436). -/
def Hw.recordFault (h : Hw) (r : FaultRep) : Hw :=
  if h.rd r.die R.FLT_CODE_ACTION r.code = 0 then h
  else
    let h := h.raiseMsixNode 51
    let key := r.die * 256 + r.code
    let last := h.flt.lastRec.get 0 key
    if last = 0 ∨ last / 1250000 ≠ r.cycle / 1250000 + 1 then
      { (h.report r.die 0x04 .faultReport (r.die + r.unit * 2 ^ 8 + low 32 r.cycle * 2 ^ 32)) with
          flt.lastRec := h.flt.lastRec.put 0 key ((r.cycle / 1250000 + 1) * 1250000) }
    else h

/-- A second report waits from the same cycle and die (R600)? -/
def sameCycle (r : FaultRep) (l : List FaultRep) : Bool := l.any fun x => x.cycle == r.cycle && x.die == r.die

/-- FAULT_REPORT (R598, R599, R600): the earliest report reaches its fault manager. Before Dawn step 10 its reaction waits. -/
def faultReport (h : Hw) : Hw :=
  match firstFault h.flt.reports with
  | none => h
  | some (r, rest) =>
    let h := { h with flt.reports := rest }
    let h := if sameCycle r rest then h.bump r.die R.FLT_TOTAL_MARGIN else h
    let h := (h.captureFault r).recordFault r
    if h.node.stepTen then h.react r else { h with flt.deferred := h.flt.deferred ++ [r] }

/-- FAULT_REPORT -/
def execFaultReport (s : State) : Host.Outcome State Fault Refusal := s.on faultReport

/-- The reactions that waited for Dawn step 10 (R599). -/
def Hw.reactDeferred (h : Hw) : Hw :=
  each h.flt.deferred (fun r h => h.react r) { h with flt.deferred := [] }

/-- FLT_SCLR (R596, R600), the effect of an accepted amend of it: the cause of the code ends unless its fault still holds
or is reported in the same core cycle. -/
def fltSclr (code : Nat) (holds : Bool) (h : Hw) : Hw :=
  if code ∈ faultCodes then
    let h := h.wr 0 R.FLT_SCLR_CODE code
    let again := h.flt.reports.any fun r => r.code == code && r.cycle == h.now
    if again then h.bump h.node.owner R.FLT_TOTAL_MARGIN
    else if holds || h.flt.present.any (·.1 == code) then h
    else { h with flt.safeCodes := h.flt.safeCodes.filter (· != code) }.checkGuar
  else h

/-- FLT_SCLR -/
def execFltSclr (code : BitVec 8) (holds : Bool) (s : State) : Host.Outcome State Fault Refusal :=
  s.on (fltSclr code.toNat holds)

/-! ## Restores (R597) -/

/-- A management write of a register into the domain, as the journal takes it (R517). -/
def Hw.firmwareWrite (h : Hw) (d off : Nat) (w : Nat) : Hw := h.journal d 7 (0xF * 2 ^ 8) [off, w]

/-- The registers that a restore rewrites: 64 program words and 16 line-code entries of a Pump, 64 filters of three words of a CAN
controller, the three words of an event entry. -/
def restoreRegs (code unit : Nat) : List Nat :=
  if code = 0x20 then
    (List.range 64).map (fun k => R.PMP_PROG_INSTR.addr + 1024 * unit + 4 * k) ++
      (List.range 16).map fun k => R.PMP_LCT_OUTPAT.addr + 1024 * unit + 4 * k
  else if code = 0x40 then (List.range 192).map fun k => R.CAN_FLTA_ID.addr + 2048 * unit + 16 * (k / 3) + 4 * (k % 3)
  else [0x74000 + 4 * (unit - 8), 0x78000 + 8 * (unit - 8), 0x78004 + 8 * (unit - 8)]

/-- The words are rewritten with their values in force, which therefore stay, through journaled management writes. -/
def Hw.rewriteWords (h : Hw) (code d unit : Nat) : Hw :=
  each (restoreRegs code unit) (fun o h => h.firmwareWrite d o (h.regAt (d * 0x200000 + o)).toNat) h

/-- A command of a unit's control register, through a journaled management write. -/
def Hw.firmwareCommand (h : Hw) (d : Nat) (F : Fld) (unit cmd : Nat) : Hw :=
  h.firmwareWrite d (F.key 0 unit 0) (setBits (h.regAt (F.key d unit 0)) F.lo F.w cmd).toNat

/-- CLEAR, the words and entries rewritten, START when AUTOSTART = 1. -/
def Hw.restorePump (h : Hw) (d n : Nat) : Hw :=
  let h := h.firmwareCommand d R.PMP_CTL_CMD n 4
  let h := if h.pumpState d n = 3 then (h.wr d R.PMP_CTL_CMD 4 n).setPumpState d n 0 else h
  let h := (h.rewriteWords 0x20 d n).setPump d n { h.pump d n with bad := [] }
  if h.on d R.PMP_CTL_AUTOSTART n ∧ (h.node.state = .run ∨ h.node.state = .degraded ∨ h.node.state = .safe) then
    ((h.firmwareCommand d R.PMP_CTL_CMD n 1).requestStart d n).2
  else h

/-- The filter table rewritten, then START. -/
def Hw.restoreCan (h : Hw) (d k : Nat) : Hw := canStart d k ((h.rewriteWords 0x40 d k).firmwareCommand d R.CAN_CMD_CMD k 1)

/-- How many words a restore rewrites. -/
def restoreWords (code : Nat) : Nat := if code = 0x20 then 80 else if code = 0x40 then 192 else 3

/-- Restore one unit. -/
def Hw.restoreUnit (h : Hw) (code d unit : Nat) : Hw :=
  if code = 0x20 then h.restorePump d unit
  else if code = 0x40 then h.restoreCan d unit
  else (h.rewriteWords 0x50 d unit).rewriteEntry d (unit - 8)

/-- RESTORE (R597): the firmware of the faulted die restores the unit whose restore has been due longest; a forced entry of
kind 0x0B shows it. -/
def restore (h : Hw) : Hw :=
  match h.flt.restoreDue.find? fun x => h.pairRuns x.2.1 with
  | none => h
  | some (code, d, unit) =>
    let h := { h with flt.restoreDue := h.flt.restoreDue.erase (code, d, unit) }
    let n := h.restoreCount code d unit + 1
    if 3 < n then h
    else
      let h := { h with flt.restores := (code, d, unit, n) :: h.flt.restores.filter fun x => x.1 != code || x.2.1 != d || x.2.2.1 != unit }
      let h := (h.restoreUnit code d unit).bump d R.FLT_CODE_RESTORES 1 code
      h.stageForced (ledgerBody 0x0B (.management d) (code + d * 2 ^ 8 + unit * 2 ^ 16) (restoreWords code) n 0 0)

/-- RESTORE -/
def execRestore (s : State) : Host.Outcome State Fault Refusal := s.on restore

/-! ## Conditions (R585, R606) -/

/-- SUPPLY_CONDITION_CHANGE -/
def execSupplyConditionChange (die : Die) (ok : Bool) (s : State) : Host.Outcome State Fault Refusal :=
  s.onDie die fun h => { h with flt.supplyOk := h.flt.supplyOk.put true die.val ok }.checkGuar

/-- TEMPERATURE_CONDITION_CHANGE -/
def execTemperatureConditionChange (die : Die) (ok : Bool) (s : State) : Host.Outcome State Fault Refusal :=
  s.onDie die fun h => { h with flt.tempOk := h.flt.tempOk.put true die.val ok }.checkGuar

end Sys2Proof.Machine
end

