-- ==== Sys2Proof/Machine/Supply.lean ====
section
/-!
DEFINITION. What the Wellhouse and the Night domain do to the node state: power-good drops (R463, R465), feeds present and
lost (R468, R626), conversions (R473, R477), control frames (R478), tamper samples (R560, R561).
-/

namespace Sys2Proof.Machine

/-- The standing report of loss of both feeds takes the node to Dusk (R36, R626), unless AUTO is set (R477). -/
def Hw.standingLoss (h : Hw) : Hw :=
  let s := h.node.state
  if h.wlh.bothLost && !h.wlh.auto && (s == .quarantine || s == .run || s == .degraded || s == .safe || s == .sleep) then
    h.enterDusk 0x61
  else h

/-- CONTROL_FRAME_SEND -/
def execControlFrameSend (die : Die) (s : State) : Host.Outcome State Fault Refusal :=
  s.onDie die fun h => if die.val < 2 then (controlFrame die.val h).standingLoss else h

/-- WELLHOUSE_CONVERSION (R473, R474, R477): with AUTO set and both feeds lost, PWR_EN falls when HU is down to VMIN. -/
def wellhouseConversion (volts : List Nat) (shunts : List Int) (h : Hw) : Hw :=
  let h := wlhConvert volts shunts h
  if h.wlh.auto && h.wlh.bothLost && decide (volts.getD 3 0 ≤ 8 * h.wconf R.WLH_HUV_VMIN) && !h.wlh.off then
    let h := { h with wlh.off := true }
    if h.node.state = .night then h else h.enterNight
  else h

/-- WELLHOUSE_CONVERSION -/
def execWellhouseConversion (volts : List (BitVec 16)) (shunts : List Int) (s : State) : Host.Outcome State Fault Refusal :=
  s.onAny (wellhouseConversion (volts.map (·.toNat)) shunts)

/-- FAULT_TIMER_EXPIRY (R463, R465): gate off, TMREXP, RetryWait while a retry is left, else Latched; power-good drops. -/
def faultTimerExpiry (h : Hw) : Hw :=
  if h.wlh.timer ∧ (h.wlh.hs = 2 ∨ h.wlh.hs = 3) then
    let again := h.wconf R.WLH_INTIM_RETRY = 1 ∧ h.wlh.retry < 3
    let h : Hw := { h with wlh := { h.wlh with gate := false, limit := false, timer := false, hold := false,
                                               hs := if again then 4 else 5 } }.wlhFlag 0
    if h.wlh.pg then h.powerDrop else h
  else h

/-- FAULT_TIMER_EXPIRY -/
def execFaultTimerExpiry (s : State) : Host.Outcome State Fault Refusal := s.onAny faultTimerExpiry

/-- POWER_GOOD_DROP (R465): VOUT below PGUV for UVDEB. -/
def execPowerGoodDrop (s : State) : Host.Outcome State Fault Refusal :=
  s.onAny fun h => if h.wlh.pg then h.powerDrop else h

/-- WLH_FEED of a lost feed. -/
def Hw.raiseFeed (h : Hw) (f : Nat) : Hw := h.wlhFault 0x61 f

/-- FEED_PRESENT (R468): the feed is present; its report ends. Where the other feed is lost and that loss was the loss of
both, WLH_FEED is raised for the other. -/
def feedPresent (f : Nat) (h : Hw) : Hw :=
  let both := h.wlh.bothLost
  let h := { h with wlh := h.wlh.setFeed f { h.wlh.feed f with ever := true, ok := true } }
  h.onHub fun h =>
    let h := h.endFault h.node.owner 0x61 f
    let h := if both && (h.wlh.feed (1 - f)).ever then h.raiseFeed (1 - f) else h
    h.checkGuar

/-- FEED_PRESENT -/
def execFeedPresent (feed : Fin 2) (s : State) : Host.Outcome State Fault Refusal := s.onAny (feedPresent feed.val)

/-- FEED_LOST (R468, R480): LOSSA or LOSSB; WLH_FEED where the other feed is present or becomes so in the same cycle, else
the report of loss of both. -/
def feedLost (f : Nat) (other : Bool) (h : Hw) : Hw :=
  if (h.wlh.feed f).ok then
    let h := if other then feedPresent (1 - f) h else h
    let h := { h with wlh := h.wlh.setFeed f { h.wlh.feed f with ok := false } }.wlhFlag (3 + f)
    if (h.wlh.feed (1 - f)).ok then h.raiseFeed f else h.onHub fun h => h.standingLoss
  else h

/-- FEED_LOST -/
def execFeedLost (feed : Fin 2) (otherPresent : Bool) (s : State) : Host.Outcome State Fault Refusal :=
  s.onAny (feedLost feed.val otherPresent)

/-! ## Tamper (R560, R561, R563) -/

/-- The key operations in progress are aborted, and their slots zeroised (R561, R563). -/
def Hw.abortKeyUse (h : Hw) : Hw :=
  if h.vlt.inUse.isEmpty then h
  else
    let h := each h.vlt.inUse (fun u h => h.setKeySlot (u.1 / 8) u.2 { h.keySlot (u.1 / 8) u.2 with key := 0 }) h
    { h with vlt.inUse := [] }.flag 0 R.VLT_ERR_ABORT

/-- What an alarm does in the node's state (R561): the key operations in progress first. -/
def tamperAct (source : Nat) (h : Hw) : Hw :=
  h.onHub fun h =>
    let h := ((h.abortKeyUse.flag 0 R.VLT_ERR_TAMPER).showTamper).report h.node.owner 0xC1 .tamperAlarm source
    match h.node.state with
    | .dawn => h.dawnFail 0x0F 0
    | .night => h
    | .quarantine => h
    | _ => (h.tamperRevoke source).endUpdate 0x0B

/-- TAMPER_SAMPLE (R560): one sample of every source, loops 0 to 3, voltage, clock, temperature. -/
def tamperSample (holds : List Bool) (h : Hw) : Hw :=
  let runs := tamperRuns h.nightDom.tampCfg h.nightDom.tampRun holds
  let now := runs.any (0 < ·)
  let h := { h with nightDom.tampRun := runs }.onHub fun h => h.wr 0 R.VLT_STAT_TAMPNOW (b2n now)
  each (tamperAlarms runs) (fun s h => tamperAct s (h.tamperEntry s)) h

/-- TAMPER_SAMPLE -/
def execTamperSample (holds : List Bool) (s : State) : Host.Outcome State Fault Refusal := s.onAny (tamperSample holds)

end Sys2Proof.Machine
end

