-- ==== Sys2Proof/Machine/Limits.lean ====
section
/-!
DEFINITION. The limits that the chapters place on configured values: the range of each field, which holds for a loaded value
(R107, R629) and for an amended one (R119), and the relations between values that are checked at the END record (R629) and
at an amend of one of their registers.
-/

namespace Sys2Proof.Machine

/-! ## Ranges of single fields -/

/-- Ranges of the ring, switch and Cistern registers: field, lowest, highest. -/
def rangesA : List (Fld × Nat × Nat) :=
  [(R.RNG_PERIOD_PERIOD, 1000, 65535000), (R.RNG_PLOCK_K, 1, 65535), (R.RNG_PBOUND_PMIN, 1, 65535),
   (R.RNG_PBOUND_PMAX, 1, 65535), (R.RNG_LES_PASSTH, 16, 1022), (R.RNG_LES_RETRYMAX, 1, 15),
   (R.RNG_LINKTM_OFFHOLD, 1, 65535), (R.RNG_LINKTM_RTTO, 100, 65535), (R.SWC_MCRES_MCRES, 16, 65536),
   (R.SWC_SHARE_SHARE, 16, 196608), (R.CIS_SPARE_SPARE, 64, 65536)]

/-- Ranges of the Pump, pin and CAN registers. -/
def rangesB : List (Fld × Nat × Nat) :=
  [(R.PMP_DIV_INT, 1, 65535), (R.PMP_PINA_INCNT, 0, 32), (R.PMP_PINA_OUTCNT, 0, 32), (R.PMP_PINB_SIDECNT, 0, 4),
   (R.PMP_SHIFT_GWLEN, 0, 32), (R.PMP_SHIFT_STFRUN, 1, 15), (R.PMP_CRCCFG_WIDTH, 1, 32), (R.PMP_LCCFG_INW, 1, 4),
   (R.PMP_LCCFG_OUTW, 1, 5), (R.MIO_BANK_VSEL, 0, 2), (R.MIO_PCFG_FUNC, 0, 6), (R.MIO_PCFG_MODE, 0, 2),
   (R.MIO_PCFG_PULL, 0, 2), (R.MIO_PFLT_EDGE, 0, 2), (R.MIO_PFLT_RBSET, 1, 255), (R.MIO_PTRIP_INCOND, 0, 4),
   (R.CAN_CFG_NOMATCH, 0, 2), (R.CAN_NBT_NTSEG1, 1, 255), (R.CAN_WKCFG_WKDLC, 0, 8), (R.CAN_WKCFG_WKDOM, 1, 255),
   (R.CAN_FLTC_ACTION, 0, 2)]

/-- Ranges of the phase, time, bridge, ledger and command registers. -/
def rangesC : List (Fld × Nat × Nat) :=
  [(R.PHS_TCFG_SRC, 0, 4), (R.PHS_TCFG_ZMODE, 0, 2), (R.PHS_TLOOP_UPDSH, 6, 26), (R.PHS_TVMAX_VALUE, 1, 2 ^ 31 - 1),
   (R.PHS_TLOS_PLAUSN, 1, 15), (R.PHS_EVTC_ACTION, 0, 5), (R.FTM_JUMP_JUMPTH, 100, 1000000000),
   (R.BRG_BCFG_STRB, 1, 255), (R.BRG_BTMO_SLOTTO, 1, 255), (R.BRG_BTMO_HOLDMAX, 1, 255), (R.BRG_BTMO_FETCHTO, 1, 255),
   (R.BRG_BTMO_LOCKTO, 1, 255), (R.BRG_SWA_ASP, 0, 2), (R.LDG_CFG_SIZE, 0, 6), (R.LDG_CFG_LEDGSZ, 1, 255),
   (R.WLH_FCMD_CMD, 0, 2)]

/-- Ranges of the Wellhouse registers. -/
def rangesD : List (Fld × Nat × Nat) :=
  [(R.WLH_HUV_VMIN, 1000, 8000), (R.WLH_HUV_HUTCHG, 1, 255), (R.WLH_EENTRY_VALUE, 1, 65535), (R.WLH_INWIN_UVON, 180, 720),
   (R.WLH_INWIN_UVOFF, 180, 719), (R.WLH_INWIN_OVON, 181, 720), (R.WLH_INTIM_UVDEB, 1, 255), (R.WLH_INTIM_TINS, 1, 255),
   (R.WLH_LIM_VLIM, 10, 50), (R.WLH_LIM_TFLT, 1, 255), (R.WLH_LIM_RHS, 100, 65535), (R.WLH_SHA_RSLO, 100, 65535),
   (R.WLH_SHA_RSHI, 100, 65535), (R.WLH_SHF_RSLO, 100, 65535), (R.WLH_SHF_RSHI, 100, 65535), (R.WLH_FCFG_BBM, 1, 200),
   (R.WLH_FCFG_FRET, 1, 255), (R.WLH_FWIN_FUV, 100, 400), (R.WLH_FWIN_FOV, 101, 400), (R.WLH_FWIN_FDEB, 1, 255),
   (R.WLH_FOC_FOC, 100, 40000), (R.WLH_FOC_FOCT, 1, 255), (R.WLH_MISC_PGUV, 180, 720), (R.WLH_MISC_WLHTO, 10, 255)]

/-- Does a word keep the ranges of its register's fields? -/
def inRanges (addr w : Nat) (l : List (Fld × Nat × Nat)) : Bool :=
  l.all fun x => x.1.addr != addr || (decide (x.2.1 ≤ bits w x.1.lo x.1.w) && decide (bits w x.1.lo x.1.w ≤ x.2.2))

/-- The spaces of R27. -/
def spaces : List Nat := [0x00, 0x01, 0x02, 0x03, 0x04, 0x08, 0x10, 0x11, 0x12, 0x18]

/-- The address modifiers of R437: A16, A24, A32. -/
def modifiers (asp : Nat) : List Nat :=
  if asp = 0 then [0x29, 0x2D] else if asp = 1 then [0x39, 0x3A, 0x3D, 0x3E] else [0x09, 0x0A, 0x0D, 0x0E]

/-- The field at a Fld of a word. -/
def Fld.of (F : Fld) (w : Nat) : Nat := bits w F.lo F.w

/-- Ranges that depend on the instance, the die, the grade or the part: RATE (R127), MODE of RNG_ATTACH, class 0 of RES, TQ,
program words, dies and spaces that a field names, MMB.AM (R437). -/
def Hw.specialOk (h : Hw) (d off addr w : Nat) : Bool :=
  if addr = R.RNG_CFG_RATE.addr then h.grade != .extended || R.RNG_CFG_RATE.of w == 1
  else if addr = R.RNG_ATTACH_MODE.addr then
    let m := R.RNG_ATTACH_MODE.of w
    (m != 1 || d == 0) && (m != 2 || d == 1)
  else if addr = R.SWC_INRES_RES.addr then (off - addr) % 16 != 0 || decide (4 ≤ R.SWC_INRES_RES.of w)
  else if addr = R.CIS_LINKB_TQ.addr then
    (decide (R.CIS_LINKB_TQ.of w < 320) || decide (1024 ≤ R.CIS_LINKB_TQ.of w)) && (R.CIS_LINKB_VALID.of w == 0 || R.CIS_LINKB_LCRED.of w != 0)
  else if addr = R.PMP_PROG_INSTR.addr then !illegalWord w
  else if addr = R.BRG_QWATCH_DIE.addr then decide (R.BRG_QWATCH_DIE.of w < h.dies)
  else if addr = R.BRG_WINA_SPACE.addr then spaces.contains (R.BRG_WINA_SPACE.of w)
  else if addr = R.BRG_MMB_AM.addr then (modifiers 0 ++ modifiers 1 ++ modifiers 2).contains (R.BRG_MMB_AM.of w)
  else true

/-- Does a word hold only values in range for the register at an offset? -/
def Hw.wordOk (h : Hw) (d off w : Nat) : Bool :=
  match findReg off with
  | none => true
  | some r =>
    inRanges r.addr w rangesA && inRanges r.addr w rangesB && inRanges r.addr w rangesC && inRanges r.addr w rangesD &&
    h.specialOk d off r.addr w

/-! ## Relations between values -/

/-- A pin that is no input pin holds CHECK, TMO and INCOND 0 (R320). -/
def Hw.pinChecksOk (h : Hw) (d p : Nat) : Bool :=
  h.isInput d p || (h.rd d R.MIO_PFLT_CHECK p == 0 && h.rd d R.MIO_PTMO_TMO p == 0 && h.rd d R.MIO_PTRIP_INCOND p == 0)

/-- MIN to MAX of a pin (MIO_PRNG). -/
def Hw.pinLimitsOk (h : Hw) (d p : Nat) : Bool := decide (h.rd d R.MIO_PRNG_MIN p ≤ h.rd d R.MIO_PRNG_MAX p)

/-- The line code's index width (PMP_LCCFG). -/
def Hw.lineCodeOk (h : Hw) (d n : Nat) : Bool := decide (h.rd d R.PMP_LCCFG_INW n + h.rd d R.PMP_LCCFG_PREV n ≤ 4)

/-- CRC constants within WIDTH, pin groups within the die's pins (R629). -/
def Hw.pumpOk (h : Hw) (d n : Nat) : Bool :=
  let width := h.rd d R.PMP_CRCCFG_WIDTH n
  let fits := fun F => decide (h.rd d F n < 2 ^ width)
  fits R.PMP_CRCPOLY_POLY && fits R.PMP_CRCINIT_VALUE && fits R.PMP_CRCXOR_VALUE && fits R.PMP_CRCRES_VALUE &&
  decide (h.rd d R.PMP_PINA_INBASE n + h.rd d R.PMP_PINA_INCNT n ≤ 192) &&
  decide (h.rd d R.PMP_PINA_OUTBASE n + h.rd d R.PMP_PINA_OUTCNT n ≤ 192) &&
  decide (h.rd d R.PMP_PINB_SIDEBASE n + h.rd d R.PMP_PINB_SIDECNT n ≤ 192) && h.lineCodeOk d n

/-- The bit timing of a controller (R336); without delay compensation the data bit time is 40 kernel cycles or more (R339). -/
def Hw.canTimingOk (h : Hw) (d k : Nat) : Bool :=
  let f := fun F => h.rd d F k + 1
  let nominal := f R.CAN_NBT_NBRP * (1 + f R.CAN_NBT_NTSEG1 + f R.CAN_NBT_NTSEG2)
  let data := f R.CAN_DBT_DBRP * (1 + f R.CAN_DBT_DTSEG1 + f R.CAN_DBT_DTSEG2)
  decide (f R.CAN_NBT_NSJW ≤ f R.CAN_NBT_NTSEG2) && decide (f R.CAN_DBT_DSJW ≤ f R.CAN_DBT_DTSEG2) &&
  decide (80 ≤ nominal) && decide (nominal ≤ 8000) && decide (10 ≤ data) && decide (data ≤ nominal) &&
  (h.on d R.CAN_CFG_TDCEN k || decide (40 ≤ data))

/-- The pins of a CAN controller's signal (R335). -/
def Hw.canPin (h : Hw) (d k sig : Nat) : Option Nat :=
  (h.configuredPins d).find? fun p =>
    h.rd d R.MIO_PCFG_FUNC p == 4 && h.rd d R.MIO_PCFG_UNIT p == k && h.rd d R.MIO_PCFG_SIG p == sig

/-- An enabled controller has both its pins, TX push-pull, safe recessive, driven in safe and in no trip group (R335). -/
def Hw.canPinsOk (h : Hw) (d k : Nat) : Bool :=
  !h.on d R.CAN_CFG_EN k ||
  (match h.canPin d k 0, h.canPin d k 1 with
   | some t, some _ => h.rd d R.MIO_PCFG_MODE t == 1 && h.on d R.MIO_PCFG_SAFE t && h.on d R.MIO_PCFG_SAFEOE t &&
       h.rd d R.MIO_PTRIP_OUTGRP t == 0
   | _, _ => false)

/-- KISH + UPDSH (PHS_TLOOP). -/
def Hw.loopOk (h : Hw) (d t : Nat) : Bool := decide (h.rd d R.PHS_TLOOP_KISH t + h.rd d R.PHS_TLOOP_UPDSH t ≤ 60)

/-- COUNTS and ABSBITS for the tracker's source (PHS_TSCALE); compact journal records for SRC 1 only (JRN_CFG.PHSC). -/
def Hw.trackerOk (h : Hw) (d t : Nat) : Bool :=
  let counts := h.rd d R.PHS_TSCALE_COUNTS t
  let absBits := h.rd d R.PHS_TSCALE_ABSBITS t
  let src := h.rd d R.PHS_TCFG_SRC t
  h.loopOk d t && (!bit (h.rd d R.JRN_CFG_PHSC) t || src == 1) &&
  (match src with
   | 1 => decide (4 ≤ counts)
   | 2 => decide (1 ≤ absBits) && decide (absBits ≤ 32)
   | 3 => decide (1 ≤ counts) && decide (counts ≤ 65535)
   | _ => true)

/-- The shortest PERIOD in units of 0.01 ns (R157). -/
def Hw.minPeriod (h : Hw) (d : Nat) : Nat :=
  (10 + 32 * (1 + h.rd d R.RNG_TRAIN_SEGCNT)) * (if h.rd d R.RNG_CFG_RATE = 1 then 330 else 264)

/-- Periods of a die that may be cycle master (R157, R158). -/
def Hw.periodOk (h : Hw) (d : Nat) : Bool :=
  h.rd d R.RNG_CFG_CMROLE == 0 ||
  ((!h.on d R.RNG_PLOCK_PLEN || decide (h.minPeriod d ≤ 100000 * h.rd d R.RNG_PBOUND_PMIN)) &&
   decide (h.minPeriod d ≤ 100 * h.rd d R.RNG_PERIOD_PERIOD))

/-- A valid route entry names a range and a die that is attached (R216). -/
def Hw.routeOk (h : Hw) (d e : Nat) : Bool :=
  let x := h.rd d R.RNG_ROUTEB_DIE e
  !h.on d R.RNG_ROUTEB_VALID e ||
  (decide (h.rd d R.RNG_ROUTEA_NODELO e ≤ h.rd d R.RNG_ROUTEA_NODEHI e) && decide (x < h.dies) && h.rd x R.RNG_ATTACH_MODE != 3)

/-- The rings of a die: levels (R140), bounds and periods (R157, R158), routes. -/
def Hw.ringOk (h : Hw) (d : Nat) : Bool :=
  decide (h.rd d R.RNG_LES_PASSTH < h.rd d R.RNG_LES_OFFTH) && decide (h.rd d R.RNG_PBOUND_PMIN ≤ h.rd d R.RNG_PBOUND_PMAX) &&
  h.periodOk d && (List.range 64).all (h.routeOk d)

/-- Two attached dies hold one ring number only in the split attachment of D0 and D1 (R212). -/
def Hw.ringPairsOk (h : Hw) : Bool :=
  (List.range h.dies).all fun d => (List.range d).all fun e =>
    h.rd d R.RNG_ATTACH_MODE == 3 || h.rd e R.RNG_ATTACH_MODE == 3 || h.rd d R.RNG_CFG_RINGNO != h.rd e R.RNG_CFG_RINGNO ||
    (e == 0 && d == 1 && h.rd e R.RNG_ATTACH_MODE == 1 && h.rd d R.RNG_ATTACH_MODE == 2)

/-- A credit link in use holds cells; the links to a queue keep within its reservation (R256, CIS_LINKB). -/
def Hw.linkOk (h : Hw) (d l : Nat) : Bool :=
  let q := h.rd d R.CIS_LINKB_TQ l
  !h.on d R.CIS_LINKB_VALID l ||
  (decide (1 ≤ h.rd d R.CIS_LINKB_LCRED l) &&
    decide (((h.linksTo d q).map fun k => h.rd d R.CIS_LINKB_LCRED k).sum ≤ h.qrd d q Q.QCFGA_QRES))

/-- Trackers of SRC 4 have a subscribe slot, and sample records overlap no subscribe bucket (R380). -/
def Hw.slotsOk (h : Hw) (d t : Nat) : Bool :=
  let bs := (h.train d).buckets
  let o := h.rd d R.PHS_TPIO_PIOFF t * 4
  (h.rd d R.PHS_TCFG_SRC t != 4 || bs.any fun b => b.kind == 3 && b.pioff == t) &&
  (o == 0 || bs.all fun b => b.kind != 1 || decide (b.pioff + b.len ≤ o) || decide (o + 4 ≤ b.pioff))

/-- A slave window in use keeps the limits of R439. -/
def Hw.slaveWindowOk (h : Hw) (d w : Nat) : Bool :=
  let size := h.rd d R.BRG_SWA_SIZESH w
  let top := if h.rd d R.BRG_SWA_ASP w = 0 then 16 else if h.rd d R.BRG_SWA_ASP w = 1 then 24 else 32
  !h.on d R.BRG_SWA_VALID w ||
  (decide (8 ≤ size) && decide (size ≤ top) && h.rd d R.BRG_SWB_BASE w % 2 ^ size == 0 && h.rd d R.BRG_SWD_OFFLO w % 2 ^ size == 0)

/-- A master map entry runs upward (BRG_MMA). -/
def Hw.masterMapOk (h : Hw) (d e : Nat) : Bool := decide (h.rd d R.BRG_MMA_START e ≤ h.rd d R.BRG_MMA_END e)

/-- An event entry of MODE 3 counts turns (R393). -/
def Hw.entryOk (h : Hw) (d e : Nat) : Bool := h.rd d R.PHS_EVTC_MODE e != 3 || h.rd d R.PHS_EVTC_N e != 0

/-- The Wellhouse's windows (INWIN, FWIN). -/
def Hw.wellhouseOk (h : Hw) : Bool :=
  decide (h.rd 0 R.WLH_INWIN_UVOFF < h.rd 0 R.WLH_INWIN_UVON) && decide (h.rd 0 R.WLH_INWIN_UVON < h.rd 0 R.WLH_INWIN_OVON) &&
  decide (h.rd 0 R.WLH_FWIN_FUV < h.rd 0 R.WLH_FWIN_FOV)

/-- The recorder area is at least 64 KiB (R483). -/
def Hw.logAreasOk (h : Hw) : Bool := decide ((h.rd 0 R.LDG_CFG_LEDGSZ + 1) * 0x10000 ≤ h.logCapacity)

/-- The slot of a key and an engine bit: do the KEYTREE records define it so (R627, MGT_CFG.IMGKEY)? -/
def Hw.slotServes (h : Hw) (slot engine : Nat) : Bool := h.cfg.keyDefs.any fun k => k.slot == slot && bit k.engines engine

/-- MIO_PCFG.UNIT and SIG fit the function (R316). -/
def pinUseOk (func unit sig : Nat) : Bool :=
  match func with
  | 3 => sig == 0
  | 4 => decide (unit < 16) && decide (sig < 2)
  | 5 => decide (unit < 8)
  | 7 => false
  | _ => unit == 0 && sig == 0

/-- The function of a pin (R316). -/
def Hw.pinRouteOk (h : Hw) (d p : Nat) : Bool :=
  pinUseOk (h.rd d R.MIO_PCFG_FUNC p) (h.rd d R.MIO_PCFG_UNIT p) (h.rd d R.MIO_PCFG_SIG p)

/-- The relations of one die. -/
def Hw.dieOk (h : Hw) (d : Nat) : Bool :=
  (List.range 64).all (h.pumpOk d) && (h.configuredPins d).all (h.pinRouteOk d) && (List.range 192).all (h.pinChecksOk d) &&
  (List.range 192).all (h.pinLimitsOk d) && (List.range 16).all (fun k => h.canTimingOk d k && h.canPinsOk d k) &&
  (List.range 8).all (fun t => h.trackerOk d t && h.slotsOk d t) && h.ringOk d && (List.range 512).all (h.linkOk d) &&
  (List.range 8).all (fun w => h.slaveWindowOk d w && h.masterMapOk d w) && (h.usedEntries d).all (h.entryOk d)

/-- Does an image set SRCRING: a REGSET that covers FTM_CFG (R404)? -/
def setsSource (l : List HeldRec) : Bool :=
  l.any fun r => r.typ == 0x20 &&
    (let w := (r.payload.headD 0).toNat
     let o := bits w 16 5 * 0x10000 + bits w 2 14 * 4
     decide (o ≤ 0x80000) && decide (0x80000 < o + 4 * (r.payload.length - 1)))

/-- The END-record checks (R629). -/
def Hw.relationsOk (h : Hw) (records : List HeldRec) : Bool :=
  (List.range h.dies).all h.dieOk && h.ringPairsOk && h.wellhouseOk && h.logAreasOk &&
  h.slotServes (h.rd 0 R.LDG_CFG_SEALKEY) 2 && h.slotServes (h.rd 0 R.MGT_CFG_IMGKEY) 1 &&
  (!setsSource records || (List.range h.dies).any fun d => !(h.attached d).isEmpty && h.rd d R.RNG_CFG_RINGNO == h.rd 0 R.FTM_CFG_SRCRING)

/-- The relations that an amend of the register at an offset could break: for a value already in place (R119, R320, R336). -/
def Hw.amendRelationOk (h : Hw) (d off : Nat) : Bool :=
  match findReg off with
  | none => true
  | some r =>
    let i := if r.s1 = 0 then 0 else (off - r.addr) / r.s1
    if r.addr = R.MIO_PFLT_FILT.addr ∨ r.addr = R.MIO_PTMO_TMO.addr then h.pinChecksOk d i
    else if r.addr = R.MIO_PRNG_MIN.addr then h.pinLimitsOk d i
    else if r.addr = R.PMP_LCCFG_INW.addr then h.lineCodeOk d i
    else if r.addr = R.CAN_NBT_NBRP.addr ∨ r.addr = R.CAN_DBT_DBRP.addr then h.canTimingOk d i
    else if r.addr = R.PHS_TLOOP_KPSH.addr then h.loopOk d i
    else if r.addr = R.PHS_EVTC_TRK.addr then h.rd d R.PHS_EVTC_N i != 0
    else true

end Sys2Proof.Machine
end

