-- ==== Sys2Proof/Machine/Image.lean ====
section
/-!
DEFINITION. The typed records of the image (R100 to R109, R629) and of the chapters that define their payloads: reading a
record, loading it into held configuration, and the checks that make a record content in error. Held configuration is a
package state in which the records checked so far stand loaded; it acts only when END commits it.
-/

namespace Sys2Proof.Machine

/-! ## Records as words (R100, R107) -/

/-- The bytes of words, least significant first (R7). -/
def wordBytes (l : List Word) : List Byte := l.flatMap fun w => leBytes 4 w.toNat

/-- The words of bytes. -/
def bytesWords (l : List Byte) : List Word :=
  (List.range (l.length / 4)).map fun i => BitVec.ofNat 32 (leAt l (4 * i) 4)

/-- LEN of a record, from its type word. -/
def recordLen (ws : List Word) : Nat := bits (ws.headD 0).toNat 16 16

/-- A record whose CRC-32C and LEN are right, with whether its target word's reserved bits are 0 (R100, R107). -/
def parseRecord (ws : List Word) : Option (HeldRec × Bool) :=
  let len := recordLen ws
  let n := len / 4
  let body := ws.take (n + 2)
  if len % 4 = 0 ∧ n + 3 ≤ ws.length ∧ crc32c (wordBytes body) = (ws.getD (n + 2) 0) then
    let w0 := (ws.getD 0 0).toNat
    let w1 := (ws.getD 1 0).toNat
    some (⟨low 16 w0, low 8 w1, bits w1 16 16, (ws.drop 2).take n⟩, bits w1 8 8 == 0)
  else none

/-- SEQ of a record as read. -/
def recordSeq (ws : List Word) : Nat := bits (ws.getD 1 0).toNat 16 16

/-- The first record of a byte stream: its words and the rest; none where the stream does not hold it whole. -/
def takeRecord (bs : List Byte) : Option (List Word × List Byte) :=
  if bs.length < 12 then none
  else
    let n := leAt bs 2 2 / 4 * 4 + 12
    if bs.length < n then none else some (bytesWords (bs.take n), bs.drop n)

/-- The types of R102 that appear at most once, and those that must appear. -/
def onceTypes : List Nat := [0x01, 0x03, 0x18, 0x90]
def requiredTypes : List Nat := [0x01, 0x03, 0x10, 0x18, 0x80]
def recordTypes : List Nat := [0x01, 0x02, 0x03, 0x10, 0x18, 0x20, 0x30, 0x40, 0x50, 0x60, 0x68, 0x70, 0x80, 0x90, 0xFF]

/-- Type known and in order (R102, R107): ascending TYPE, SEQ from 1 rising by 1, no second of a "once" type. -/
def orderOk (held : List HeldRec) (r : HeldRec) : Bool :=
  recordTypes.contains r.typ &&
  (match held.getLast? with
   | none => r.seq == 1
   | some p => r.seq == p.seq + 1 && decide (p.typ ≤ r.typ) && !(p.typ == r.typ && onceTypes.contains r.typ))

/-- Every required type is there (R102). -/
def mandatoryOk (held : List HeldRec) : Bool := requiredTypes.all fun t => held.any fun r => r.typ == t

/-! ## Loading (R104, R105) -/

/-- The dies that a record's DIEMASK selects. -/
def Hw.recDies (h : Hw) (r : HeldRec) : List Nat := (List.range h.dies).filter fun d => bit r.dieMask d

/-- Word `i` of a payload. -/
def HeldRec.word (r : HeldRec) (i : Nat) : Nat := (r.payload.getD i 0).toNat

/-- Entries of `k` words in a payload. -/
def HeldRec.entries (r : HeldRec) (k : Nat) : List (List Nat) :=
  (List.range (r.payload.length / k)).map fun i => (List.range k).map fun j => r.word (i * k + j)

/-- The bits of a register that a REGSET may set (R105). -/
def RegDesc.imageMask (r : RegDesc) : Nat :=
  (r.fields.filter fun f => f.cls == .img || f.cls == .amd).foldl (fun a f => a + (2 ^ f.w - 1) * 2 ^ f.lo) 0

/-- Load a word into a register field by field (R105). -/
def Hw.loadWord (h : Hw) (d off w : Nat) : Hw :=
  match findReg off with
  | none => h
  | some r =>
    let key := (if r.node then 0 else d) * 0x200000 + off
    let m := r.imageMask
    let old := (h.regAt key).toNat
    h.setRegAt key (BitVec.ofNat 32 (old - (old &&& m) + (w &&& m)))

/-- The register offset at which a REGSET starts (R104). -/
def regsetStart (r : HeldRec) : Nat := bits (r.word 0) 16 5 * 0x10000 + bits (r.word 0) 2 14 * 4

def Hw.loadRegset (h : Hw) (r : HeldRec) : Hw :=
  each (h.recDies r) (fun d h =>
    iter (r.payload.length - 1) (fun i h => h.loadWord d (regsetStart r + 4 * i) (r.word (i + 1))) h) h

/-- Debug access is locked, and MDBG connects no die any longer (R74, R83). -/
def Hw.lockDebug (h : Hw) : Hw :=
  { h.wr 0 R.NOD_STRAP_DEBUGEFF 0 with taps := iter h.dies (fun d m => m.upd .init d fun t => { t with mdbg := false }) h.taps }

/-- A disabled host port has no link, and no read of its host waits (R83, R427). -/
def Hw.closeHost (h : Hw) (d : Nat) : Hw :=
  if h.on d R.BRG_HSTAT_ENABLED then h
  else
    { (((h.wr d R.BRG_HSTAT_LINKUP 0).wr d R.BRG_HSTAT_SPEED 0).wr d R.BRG_HSTAT_WIDTH 0) with
        hosts := h.hosts.upd .init d fun x => { x with reads := [] } }

/-- IDENTITY (R20, R83, R103): node ID, host ports and bridges of D0 and D1, debug lock. -/
def Hw.loadIdentity (h : Hw) (r : HeldRec) : Hw :=
  let w := r.word 0
  let enable := fun (code keep : Nat) => if code = 1 then 0 else if code = 2 then 1 else keep
  let h := h.eachDie fun d h => (h.wr d R.NOD_NODEID_NODEID (low 16 (low 16 w + h.slotNo))).wr d R.NOD_NODEID_SLOT h.slotNo
  let h := h.eachDie fun d h =>
    if d < 2 then
      ((h.wr d R.BRG_HSTAT_ENABLED (enable (bits w 16 2) (b2n (bit h.straps 5)))).wr d R.BRG_BCFG_ENABLED
        (enable (bits w 18 2) (b2n (bit h.straps 6)))).closeHost d
    else h
  if bit w 20 then h.lockDebug else h

/-- An AMEND_POLICY entry (R115). -/
def policyOf (e : List Nat) : Policy :=
  let a := e.getD 0 0
  ⟨low 8 a, bits a 8 8, bit a 16, e.getD 1 0, e.getD 2 0, low 16 (e.getD 3 0), bits (e.getD 3 0) 16 16⟩

/-- The slot entries and import blobs of a KEYTREE record (R543). -/
def HeldRec.keyDefs (r : HeldRec) : List KeyDef :=
  let bs := wordBytes r.payload
  (List.range (low 8 (r.word 0))).map fun i =>
    let e := slice bs (4 + 32 * i) 32
    ⟨leAt e 0 1, leAt e 1 1, leAt e 2 1, leAt e 3 1, bit (leAt e 4 1) 0, slice e 8 16⟩

def HeldRec.blobs (r : HeldRec) : List (List Byte) :=
  let bs := wordBytes r.payload
  (List.range (bits (r.word 0) 8 8)).map fun i => slice bs (4 + 32 * low 8 (r.word 0) + 192 * i) 192

/-- The bytes of a record as the image holds it. -/
def HeldRec.bytes (r : HeldRec) : List Byte :=
  let body := leBytes 2 r.typ ++ leBytes 2 (4 * r.payload.length) ++ leBytes 1 r.dieMask ++ leBytes 1 0 ++ leBytes 2 r.seq ++
    wordBytes r.payload
  body ++ leBytes 4 (crc32c body).toNat

def Hw.loadKeytree (h : Hw) (r : HeldRec) : Hw :=
  { h with cfg := { h.cfg with keyDefs := h.cfg.keyDefs ++ r.keyDefs, imports := h.cfg.imports ++ r.blobs,
                               keyBytes := h.cfg.keyBytes ++ r.bytes } }

/-- HOLDUP (R456): the thirteen registers WLH_HUC to WLH_MISC. -/
def Hw.loadHoldup (h : Hw) (r : HeldRec) : Hw := iter 13 (fun i h => h.loadWord 0 (0xA0000 + 4 * i) (r.word i)) h

/-- PINROUTE (R316). -/
def Hw.loadRoutes (h : Hw) (r : HeldRec) : Hw :=
  each (h.recDies r) (fun d h => each (r.entries 1) (fun e h =>
    let w := e.getD 0 0
    let p := low 8 w
    if p < 192 then
      ((h.wr d R.MIO_PCFG_FUNC (bits w 8 3) p).wr d R.MIO_PCFG_UNIT (bits w 11 6) p).wr d R.MIO_PCFG_SIG (bits w 17 2) p
    else h) h) h

/-- One QUEUE entry (R252, R253). -/
def Hw.loadQueue (h : Hw) (d : Nat) (e : List Nat) : Hw :=
  let w := fun i => e.getD i 0
  let q := low 13 (w 0)
  let h := h.qwr d q Q.QCFGA_FWD (bits (w 0) 13 1)
  let h := h.qwr d q Q.QCFGA_WORD (if q < 256 then 1 else if q < 320 then 0 else bits (w 0) 14 1)
  let h := h.qwr d q Q.QCFGA_CLASS (bits (w 0) 15 2)
  let h := (h.qwr d q Q.QCFGA_WINW (bits (w 0) 17 1)).qwr d q Q.QCFGA_WINR (bits (w 0) 18 1)
  let h := h.qwr d q Q.QCFGA_QRES (bits (w 1) 0 18)
  let h := (h.qwr d q Q.QCFGB_TGTNODE (bits (w 2) 0 16)).qwr d q Q.QCFGB_TGTDIE (bits (w 2) 16 3)
  let h := h.qwr d q Q.QCFGB_TGTQ (bits (w 2) 19 13)
  h.setCq d q { h.cq d q with grantMax := bits (w 1) 18 14, lcred := bits (w 3) 0 12, packTo := bits (w 3) 12 16 }

def Hw.loadQueues (h : Hw) (r : HeldRec) : Hw :=
  each (h.recDies r) (fun d h => each (r.entries 4) (fun e h => h.loadQueue d e) h) h

/-- PUMPPROG (R310). -/
def Hw.loadProgram (h : Hw) (r : HeldRec) : Hw :=
  let w := r.word 0
  each (h.recDies r) (fun d h =>
    iter (bits w 16 7) (fun i h => h.wr d R.PMP_PROG_INSTR (r.word (i + 1)) (low 6 w) (bits w 8 6 + i)) h) h

/-- A BUCKET entry (R151). -/
def bucketOf (e : List Nat) : Bucket :=
  ⟨bits (e.getD 0 0) 8 2, low 18 (e.getD 1 0), low 13 (e.getD 2 0), low 18 (e.getD 3 0)⟩

def Hw.loadBuckets (h : Hw) (r : HeldRec) : Hw :=
  each (h.recDies r) (fun d h =>
    h.setTrain d { h.train d with buckets := (h.train d).buckets ++ (r.entries 4).map bucketOf }) h

/-- IMGSERVE (R106). -/
def Hw.loadServes (h : Hw) (r : HeldRec) : Hw :=
  { h with cfg := { h.cfg with serves := h.cfg.serves ++ (r.entries 3).map fun e =>
      ⟨e.getD 0 0, e.getD 1 0, low 4 (e.getD 2 0)⟩ } }

/-- PHASEEVT (R393): PHS_EVTC with ARM, PHS_EVTLO, PHS_EVTHI. -/
def Hw.loadEvents (h : Hw) (r : HeldRec) : Hw :=
  each (h.recDies r) (fun d h => each (r.entries 4) (fun e h =>
    let i := low 12 (e.getD 0 0)
    let h := h.setRegAt (d * 0x200000 + 0x74000 + 4 * i) (BitVec.ofNat 32 (e.getD 1 0))
    (h.wr d R.PHS_EVTLO_TRIG (e.getD 2 0) i).wr d R.PHS_EVTHI_TRIG (e.getD 3 0) i) h) h

/-- FAULTRESP (R594). -/
def Hw.loadResponses (h : Hw) (r : HeldRec) : Hw :=
  h.eachDie fun d h => each (r.entries 1) (fun e h =>
    let w := e.getD 0 0
    (h.wr d R.FLT_CODE_ACTION (bits w 8 2) (low 8 w)).wr d R.FLT_CODE_RESTORE (bits w 10 1) (low 8 w)) h

/-- PRIVCHAN (R504). -/
def Hw.loadChannels (h : Hw) (r : HeldRec) : Hw :=
  h.eachDie fun d h => each (r.entries 1) (fun e h =>
    let w := e.getD 0 0
    (h.wr d R.EVR_CHCFG_PRIV (bits w 8 1) (low 8 w)).wr d R.EVR_CHCFG_FREEZE (bits w 9 1) (low 8 w)) h

/-- Load one checked record. -/
def Hw.loadRec (r : HeldRec) (h : Hw) : Hw :=
  match r.typ with
  | 0x01 => h.loadIdentity r
  | 0x02 => { h with cfg.policies := h.cfg.policies ++ (r.entries 4).map policyOf }
  | 0x03 => { h with cfg.cmdPolicy := (wordBytes r.payload).map (·.toNat) }
  | 0x10 => h.loadKeytree r
  | 0x18 => h.loadHoldup r
  | 0x20 => h.loadRegset r
  | 0x30 => h.loadRoutes r
  | 0x40 => h.loadQueues r
  | 0x50 => h.loadProgram r
  | 0x60 => h.loadBuckets r
  | 0x68 => h.loadServes r
  | 0x70 => h.loadEvents r
  | 0x80 => h.loadResponses r
  | 0x90 => h.loadChannels r
  | _ => h

/-! ## Record content in error -/

/-- IDENTITY (R103). -/
def identityOk (r : HeldRec) : Bool :=
  r.payload.length == 2 && r.word 1 == 0 && bits (r.word 0) 21 11 == 0 && bits (r.word 0) 16 2 != 3 && bits (r.word 0) 18 2 != 3

/-- The node ID of an IDENTITY record lies outside 0x0001 to 0xFFFE (R20, R86). -/
def Hw.idOutside (h : Hw) (r : HeldRec) : Bool :=
  let n := low 16 (r.word 0) + h.slotNo
  n == 0 || decide (0xFFFE < n)

/-- AMEND_POLICY (R115). -/
def Hw.policyOk (h : Hw) (r : HeldRec) : Bool :=
  r.payload.length % 4 == 0 && (r.entries 4).all fun e =>
    let p := policyOf e
    bits (e.getD 0 0) 17 15 == 0 && p.origins &&& 0xE1 == 0 && decide (p.start ≤ p.last) && h.maskPresent p.dieMask

/-- CMD_POLICY (R118). Bytes 5 to 7, of which R118 says nothing, are taken as reserved and checked to be 0 (LOG 16). -/
def cmdPolicyOk (r : HeldRec) : Bool :=
  let l := wordBytes r.payload
  l.length == 8 && (l.take 5).all (fun b => b.toNat &&& 0xE1 == 0) && (l.drop 5).all (· == 0)

/-- The engines of R547 that accept a TYPE. -/
def enginesFor (typ : Nat) : Nat := if typ = 0 then 0x17 else if typ = 1 then 0x20 else 0x08

/-- Depth of a slot under the definitions before it (R546). -/
def slotDepth (defs : List KeyDef) : Nat → KeyDef → Nat
  | 0, _ => 5
  | n + 1, k =>
    if 0xFE ≤ k.parent then 1
    else
      match defs.find? (·.slot == k.parent) with
      | none => 5
      | some p => slotDepth defs n p + 1

/-- One slot entry against the definitions before it (R543, R546). -/
def keyDefOk (before : List KeyDef) (k : KeyDef) : Bool :=
  decide (2 ≤ k.slot) && decide (k.slot < 64) && !before.any (·.slot == k.slot) && decide (k.typ ≤ 2) &&
  k.engines &&& enginesFor k.typ == k.engines &&
  (k.parent == 0xFF || (k.parent == 0xFE && k.typ == 0) || before.any fun p => p.slot == k.parent && p.typ == 0) &&
  decide (slotDepth before 5 k ≤ 4)

/-- Every entry in turn. -/
def keyDefsOk : List KeyDef → List KeyDef → Bool
  | _, [] => true
  | before, k :: rest => keyDefOk before k && keyDefsOk (before ++ [k]) rest

/-- The reserved bytes of a KEYTREE payload. -/
def keytreeReservedOk (r : HeldRec) : Bool :=
  let bs := wordBytes r.payload
  bits (r.word 0) 16 16 == 0 &&
  ((List.range (low 8 (r.word 0))).all fun i =>
    let e := slice bs (4 + 32 * i) 32
    leAt e 4 1 &&& 0xFE == 0 && leAt e 5 3 == 0 && leAt e 24 8 == 0 && leAt e 3 1 &&& 0xC0 == 0) &&
  r.blobs.all fun b => leAt b 1 3 == 0

/-- KEYTREE (R546), against the KEYTREE records before it. -/
def Hw.keytreeOk (h : Hw) (r : HeldRec) : Bool :=
  let defs := h.cfg.keyDefs ++ r.keyDefs
  let blobs := h.cfg.imports ++ r.blobs
  let imported := defs.filter (·.parent == 0xFE)
  r.payload.length == 1 + 8 * low 8 (r.word 0) + 48 * bits (r.word 0) 8 8 && keytreeReservedOk r &&
  keyDefsOk h.cfg.keyDefs r.keyDefs && decide (imported.length ≤ 16) && decide ((defs.filter (·.cache)).length ≤ 32) &&
  imported.all (fun k => blobs.any fun b => leAt b 0 1 == k.slot && slice b 16 16 == Config.devId h.otp.rootSecret) &&
  blobs.all fun b => imported.any fun k => k.slot == leAt b 0 1

/-- HOLDUP (R456): `g` holds it loaded. -/
def Hw.holdupRecOk (h g : Hw) (r : HeldRec) : Bool :=
  r.payload.length == 13 && r.dieMask == 1 && g.wellhouseOk &&
  (List.range 13).all fun i =>
    h.wordOk 0 (0xA0000 + 4 * i) (r.word i) &&
    (match findReg (0xA0000 + 4 * i) with | some x => r.word i &&& x.imageMask == r.word i | none => false)

/-- Does a REGSET cover one of the registers from `lo` to below `hi` (R105)? -/
def regsetCovers (r : HeldRec) (lo hi : Nat) : Bool :=
  decide (regsetStart r < hi) && decide (lo < regsetStart r + 4 * (r.payload.length - 1))

/-- REGSET (R104, R105): header, bits it may not set, ranges of its values. -/
def Hw.regsetOk (h : Hw) (r : HeldRec) : Bool :=
  let n := r.payload.length - 1
  decide (2 ≤ r.payload.length) && r.word 0 % 4 == 0 && bits (r.word 0) 21 11 == 0 && decide (bits (r.word 0) 16 5 ≤ 0x10) &&
  decide (bits (r.word 0) 2 14 + n ≤ 16384) && !regsetCovers r 0xC0400 0xC0800 && !regsetCovers r 0x100100 0x100500 &&
  (List.range n).all fun i =>
    let off := regsetStart r + 4 * i
    let w := r.word (i + 1)
    (match findReg off with | some x => w &&& x.imageMask == w | none => w == 0) && (h.recDies r).all fun d => h.wordOk d off w

/-- The reservations of a die (R232, R250): input reservations, multicast, carry image, fixed and image queues, spare. -/
def Hw.reservedCells (h : Hw) (d : Nat) : Nat :=
  let inputs := [0, 1, 2, 3] ++ (if d < 2 then [4, 5] else []) ++ [6, 7] ++ (if 1 < h.dies then [8, 9] else [])
  let res := (inputs.map fun p => ((List.range 4).map fun c => h.rd d R.SWC_INRES_RES p c).sum).sum
  let queues := (h.qregs.entries.filterMap fun (k, _) =>
    if k / 0x200000 = d ∧ k % 256 = 0x48 ∧ ¬(552 ≤ k % 0x200000 / 256 ∧ k % 0x200000 / 256 < 576) then
      some (h.qrd d (k % 0x200000 / 256) Q.QCFGA_QRES) else none).sum
  res + h.rd d R.SWC_MCRES_MCRES + (if h.rd d R.RNG_CFG_CMROLE = 0 then 0 else 16384) + 1536 + queues + h.rd d R.CIS_SPARE_SPARE

/-- Within the cell memory on every die. -/
def Hw.reservesOk (h : Hw) : Bool := (List.range h.dies).all fun d => decide (h.reservedCells d ≤ 196608)

/-- No two valid links of a die share (SNODE, SDIE, TQ) (R263). -/
def Hw.linksDistinct (h : Hw) : Bool :=
  (List.range h.dies).all fun d =>
    !hasDup (((List.range 512).filter fun l => h.on d R.CIS_LINKB_VALID l).map fun l =>
      (h.rd d R.CIS_LINKA_SNODE l * 8 + h.rd d R.CIS_LINKA_SDIE l) * 8192 + h.rd d R.CIS_LINKB_TQ l)

/-- Entries of PINROUTE records: die, pin, FUNC, UNIT, SIG. -/
def Hw.routesOf (h : Hw) (l : List HeldRec) : List (List Nat) :=
  (l.filter (·.typ == 0x30)).flatMap fun r => (h.recDies r).flatMap fun d => (r.entries 1).map fun e =>
    let w := e.getD 0 0
    [d, low 8 w, bits w 8 3, bits w 11 6, bits w 17 2]

/-- One PINROUTE entry on a die (R60, R317). -/
def Hw.routeEntryOk (h : Hw) (x : List Nat) : Bool :=
  let d := x.getD 0 0
  let p := x.getD 1 0
  let func := x.getD 2 0
  let bridge := decide (128 ≤ p) && decide (d < 2)
  decide (p < 192) && pinUseOk func (x.getD 3 0) (x.getD 4 0) && (func != 6 || bridge) &&
  !(bridge && h.on d R.BRG_BCFG_ENABLED && func != 6 && func != 0)

/-- PINROUTE (R317): no pin twice, no CAN or tracker signal twice. -/
def Hw.pinrouteOk (h : Hw) (held : List HeldRec) (r : HeldRec) : Bool :=
  let all := h.routesOf (held ++ [r])
  let signals := all.filter fun x => x.getD 2 0 == 4 || x.getD 2 0 == 5
  (r.entries 1).all (fun e => bits (e.getD 0 0) 19 13 == 0) && (h.routesOf [r]).all h.routeEntryOk &&
  !hasDup (all.map fun x => x.getD 0 0 * 256 + x.getD 1 0) &&
  !hasDup (signals.map fun x => ((x.getD 0 0 * 8 + x.getD 2 0) * 64 + x.getD 3 0) * 4 + x.getD 4 0)

/-- Is a queue's fixed consumer a block: a Pump IN queue, a CAN TX or TXH queue (R251)? -/
def blockConsumed (q : Nat) : Bool := (decide (q < 256) || (decide (256 ≤ q) && decide (q < 320))) && decide (q % 4 < 2)

/-- A Pump OUT or a CAN RX queue (R251). -/
def blockProduced (q : Nat) : Bool := decide (q < 320) && decide (2 ≤ q % 4)

/-- One QUEUE entry (R253, R254, R423). -/
def queueEntryOk (e : List Nat) : Bool :=
  let w := fun i => e.getD i 0
  let q := low 13 (w 0)
  let fwd := bit (w 0) 13
  let winw := bit (w 0) 17
  let winr := bit (w 0) 18
  let word := if q < 256 then true else if q < 320 then false else bit (w 0) 14
  bits (w 0) 19 13 == 0 && bits (w 3) 28 4 == 0 && decide (bits (w 1) 0 18 ≤ 65536) &&
  !(decide (320 ≤ q) && decide (q ≤ 575)) && !(decide (577 ≤ q) && decide (q ≤ 831)) && !(decide (848 ≤ q) && decide (q ≤ 1023)) &&
  (q != 576 || (decide (16 ≤ bits (w 1) 0 18) && decide (bits (w 1) 0 18 ≤ 4096) && !fwd && !winw && !winr)) &&
  !(fwd && winr) && !(fwd && blockConsumed q) && !(decide (832 ≤ q) && decide (q ≤ 847) && !fwd) &&
  !(winr && blockConsumed q) && !(winw && blockProduced q) && !(decide (1024 ≤ q) && !fwd && !winr) &&
  (!fwd || (bits (w 0) 15 2 != 0 && bits (w 3) 0 12 != 0)) && !(fwd && word && bits (w 3) 12 16 == 0)

/-- QUEUE (R254): no queue of a die twice. -/
def Hw.queueRecOk (h : Hw) (held : List HeldRec) (r : HeldRec) : Bool :=
  let keys := ((held ++ [r]).filter (·.typ == 0x40)).flatMap fun x => (h.recDies x).flatMap fun d =>
    (x.entries 4).map fun e => d * 8192 + low 13 (e.getD 0 0)
  r.payload.length % 4 == 0 && (r.entries 4).all queueEntryOk && !hasDup keys

/-- PUMPPROG (R310). -/
def programOk (r : HeldRec) : Bool :=
  let w := r.word 0
  let n := bits w 16 7
  decide (1 ≤ n) && decide (bits w 8 6 + n ≤ 64) && r.payload.length == 1 + n &&
  bits w 6 2 == 0 && bits w 14 2 == 0 && bits w 23 9 == 0 && (List.range n).all fun i => !illegalWord (r.word (i + 1))

/-- Do two of these ranges (start, length) overlap? -/
def anyOverlap : List (Nat × Nat) → Bool
  | [] => false
  | x :: rest => rest.any (fun y => decide (x.1 < y.1 + y.2) && decide (y.1 < x.1 + x.2)) || anyOverlap rest

/-- One BUCKET entry as words (R151, R152). -/
def bucketEntryOk (e : List Nat) : Bool :=
  let b := bucketOf e
  bits (e.getD 0 0) 10 22 == 0 && bits (e.getD 1 0) 18 14 == 0 && bits (e.getD 2 0) 13 19 == 0 && bits (e.getD 3 0) 18 14 == 0 &&
  (if b.kind < 2 then
     decide (1 ≤ b.len) && decide (b.len ≤ 4096) && decide (b.unit + b.len ≤ 253890) && decide (b.pioff + b.len ≤ 262144) &&
     (b.kind == 0 || decide (4 ≤ b.pioff))
   else b.len == 0 && decide (b.unit ≤ 10) && decide (b.pioff < 8))

/-- The buckets of one die together (R152, R380). -/
def Hw.bucketsOk (g : Hw) (d : Nat) : Bool :=
  let bs := (g.train d).buckets
  let kind := fun k => bs.filter (·.kind == k)
  let spans := fun (l : List Bucket) (f : Bucket → Nat) => l.map fun b => (f b, b.len)
  decide (bs.length ≤ 2048) && !anyOverlap (spans (kind 0) (·.unit)) && !anyOverlap (spans (kind 1) (·.pioff)) &&
  decide (((kind 0).map (·.len)).sum ≤ 4096) && !hasDup ((kind 2).map (·.unit)) && !hasDup ((kind 3).map (·.pioff)) &&
  (kind 2).all (fun b => g.rd d R.PHS_TCFG_SRC b.pioff != 0) && (kind 3).all fun b => g.rd d R.PHS_TCFG_SRC b.pioff == 4

/-- BUCKET (R152, R380): `g` holds it loaded. -/
def Hw.bucketRecOk (h g : Hw) (r : HeldRec) : Bool :=
  r.payload.length % 4 == 0 && (r.entries 4).all bucketEntryOk && (h.recDies r).all g.bucketsOk &&
  (h.recDies r).all fun d => (r.entries 4).all fun e => low 8 (e.getD 0 0) == h.rd d R.RNG_CFG_RINGNO

/-- IMGSERVE (R106); the NOR's capacity is known where Dawn has read its tables. -/
def Hw.serveOk (h : Hw) (imgLen : Nat) (r : HeldRec) : Bool :=
  r.payload.length % 3 == 0 && (r.entries 3).all fun e =>
    let off := e.getD 0 0
    let len := e.getD 1 0
    off % 4096 == 0 && len % 4 == 0 && decide (512 ≤ len) && decide (len ≤ 33554432) && e.getD 2 0 != 0 &&
    decide (e.getD 2 0 < 16) && decide (imgLen ≤ off) && (h.norIf.capacity == 0 || decide (off + len ≤ h.norIf.capacity))

/-- PARAM of an action (R386, R393). -/
def Hw.paramOk (h : Hw) (d action p : Nat) : Bool :=
  match action with
  | 0 => p == 0
  | 1 => decide (low 8 p < 192) && bits p 8 2 != 3 && bits p 10 2 == 0 && h.rd d R.MIO_PCFG_FUNC (low 8 p) == 2
  | 2 => bits p 8 4 == 0
  | 3 => bits p 4 8 == 0 && h.on d R.PHS_QTGTB_VALID (low 4 p)
  | 4 => decide (bits p 7 3 < 6) && bits p 10 2 == 0 && h.rd d R.PHS_TCFG_SRC (bits p 4 3) != 0
  | 5 => bits p 4 8 == 0 && h.on d R.CAN_CFG_EN (low 4 p)
  | _ => false

/-- One PHASEEVT entry on a die (R393). -/
def Hw.eventEntryOk (h : Hw) (d : Nat) (e : List Nat) : Bool :=
  let c := e.getD 1 0
  bits (e.getD 0 0) 12 20 == 0 && !bit c 11 && h.paramOk d (R.PHS_EVTC_ACTION.of c) (R.PHS_EVTC_PARAM.of c) &&
  h.rd d R.PHS_TCFG_SRC (R.PHS_EVTC_TRK.of c) != 0 && !(R.PHS_EVTC_MODE.of c == 3 && R.PHS_EVTC_N.of c == 0)

/-- PHASEEVT (R393): no index of a die twice. -/
def Hw.eventRecOk (h : Hw) (held : List HeldRec) (r : HeldRec) : Bool :=
  let keys := ((held ++ [r]).filter (·.typ == 0x70)).flatMap fun x => (h.recDies x).flatMap fun d =>
    (x.entries 4).map fun e => d * 4096 + low 12 (e.getD 0 0)
  r.payload.length % 4 == 0 && ((h.recDies r).all fun d => (r.entries 4).all (h.eventEntryOk d)) && !hasDup keys

/-- FAULTRESP (R594). -/
def Hw.responseOk (h : Hw) (held : List HeldRec) (r : HeldRec) : Bool :=
  let codes := ((held ++ [r]).filter (·.typ == 0x80)).flatMap fun x => (x.entries 1).map fun e => low 8 (e.getD 0 0)
  r.dieMask == 2 ^ h.dies - 1 && !hasDup codes && (r.entries 1).all fun e =>
    let w := e.getD 0 0
    faultCodes.contains (low 8 w) && bits w 8 2 != 3 && bits w 11 21 == 0 && (!bit w 10 || [0x20, 0x40, 0x50].contains (low 8 w))

/-- The channels of R501. -/
def channelKnown (c : Nat) : Bool :=
  decide (c ≤ 0x04) || (decide (0x08 ≤ c) && decide (c ≤ 0x0C)) || c == 0x10 || c == 0x11 ||
  (decide (0x20 ≤ c) && decide (c ≤ 0x7F)) || c == 0x80 || c == 0x81 || (decide (0x88 ≤ c) && decide (c ≤ 0x90)) ||
  [0x98, 0xA0, 0xA1, 0xA8, 0xB0, 0xB8, 0xC0, 0xC1].contains c

/-- PRIVCHAN (R504). -/
def Hw.channelRecOk (h : Hw) (r : HeldRec) : Bool :=
  let es := (r.entries 1).map fun e => e.getD 0 0
  r.dieMask == 2 ^ h.dies - 1 && !hasDup (es.map (low 8)) && decide ((es.filter fun w => bit w 8).length ≤ 32) &&
  es.all fun w => bits w 10 22 == 0 && channelKnown (low 8 w)

/-- The content of a record by its type: `h` is held configuration before it, `g` after it. -/
def Hw.contentOk (h g : Hw) (imgLen : Nat) (held : List HeldRec) (r : HeldRec) : Bool :=
  match r.typ with
  | 0x01 => identityOk r
  | 0x02 => h.policyOk r
  | 0x03 => cmdPolicyOk r
  | 0x10 => h.keytreeOk r
  | 0x18 => h.holdupRecOk g r
  | 0x20 => h.regsetOk r && g.reservesOk && g.linksDistinct
  | 0x30 => h.pinrouteOk held r
  | 0x40 => h.queueRecOk held r && g.reservesOk
  | 0x50 => programOk r
  | 0x60 => h.bucketRecOk g r
  | 0x68 => h.serveOk imgLen r
  | 0x70 => h.eventRecOk held r
  | 0x80 => h.responseOk held r
  | 0x90 => h.channelRecOk r
  | _ => false

/-- The exit code of a record that is read right, 0 where there is no error (R86, R107): reserved type or order 0x09, content
0x0A, node ID 0x0E. -/
def Hw.judgeRecord (h : Hw) (imgLen : Nat) (held : List HeldRec) (x : HeldRec × Bool) : Nat :=
  let r := x.1
  if !orderOk held r then 0x09
  else if !x.2 || !h.maskPresent r.dieMask || !h.contentOk (h.loadRec r) imgLen held r then 0x0A
  else if r.typ = 0x01 ∧ h.idOutside r then 0x0E
  else 0

/-- The exit code of the END record (R107, R629). -/
def Hw.judgeEnd (h : Hw) (held : List HeldRec) (x : HeldRec × Bool) : Nat :=
  if !orderOk held x.1 then 0x09
  else if !x.2 || !h.maskPresent x.1.dieMask || x.1.payload != [] || !h.relationsOk held then 0x0A
  else if !mandatoryOk held then 0x0B
  else 0

/-- Held configuration: the records checked so far, loaded over the state before them. -/
def Hw.heldView (h : Hw) (held : List HeldRec) : Hw := each held Hw.loadRec h

/-- Check a whole record stream without acting on it (R574): 0 where every record passes to END. -/
def Hw.judgeStream (imgLen : Nat) : Nat → Hw → List HeldRec → List Byte → Nat
  | 0, _, _, _ => 0x0B
  | n + 1, h, held, bs =>
    match takeRecord bs with
    | none => 0x0B
    | some (ws, rest) =>
      match parseRecord ws with
      | none => 0x08
      | some x =>
        if x.1.typ = 0xFF then h.judgeEnd held x
        else
          let code := h.judgeRecord imgLen held x
          if code = 0 then Hw.judgeStream imgLen n (h.loadRec x.1) (held ++ [x.1]) rest else code

/-! ## The header (R96) -/

/-- The header of 512 bytes. -/
def headerOf (b : List Byte) : Header :=
  { imgLen := leAt b 8 4, gen := leAt b 12 1, partMask := leAt b 13 1, bind := bit (leAt b 14 1) 0, recOff := leAt b 0x10 4,
    fwOff := leAt b 0x14 4, fwLen := leAt b 0x18 4, fwVer := leAt b 0x1C 2, hoFmt := leAt b 0x1E 2, peerMin := leAt b 0x20 2,
    peerMax := leAt b 0x22 2, imgHash := slice b 0x30 48, signer := slice b 0x60 96 }

/-- Magic, version, length and the fields fixed at 0. -/
def headerShapeOk (b : List Byte) : Bool :=
  leAt b 0 4 == 0x4F504948 && leAt b 4 2 == 3 && leAt b 6 2 == 0x200 && leAt b 13 1 &&& 0xF0 == 0 && leAt b 14 1 &&& 0xFE == 0 &&
  leAt b 15 1 == 0 && (slice b 0xC0 0xE0).all (· == 0)

/-- The header's signature over bytes 0x000 to 0x19F. -/
def headerSigOk (b : List Byte) : Bool := Config.ecdsaVerify (slice b 0x60 96) (slice b 0 0x1A0) (slice b 0x1A0 96)

/-- Is the signer the owner (R97), or is the part blank and the image binding (R98)? -/
def Hw.signerOk (h : Hw) (x : Header) : Bool :=
  match h.otp.ownerHash with
  | some o => Config.sha384 x.signer == o
  | none => x.bind

/-- The exit code of a header, 0 where it passes, in the order of R86. -/
def Hw.judgeHeader (h : Hw) (b : List Byte) : Nat :=
  let x := headerOf b
  if !headerShapeOk b then 0x02
  else if !headerSigOk b then 0x03
  else if !h.signerOk x then 0x04
  else if !bit x.partMask h.part.maskBit then 0x05
  else if x.gen < h.otp.genFloor then 0x06
  else if 33554432 < x.imgLen ∨ (h.norIf.capacity ≠ 0 ∧ h.norIf.capacity < x.imgLen) then 0x10
  else 0

end Sys2Proof.Machine
end

