-- ==== Sys2Proof/Machine/Train.lean ====
section
/-!
DEFINITION. The cycle train (chapters "Ring links, the cycle train and bulk cells", R141 to R160, and "Dual rings, healing and
junction nodes", R187 to R219): trains in passage, the substitution of own bytes, the commit of subscribed copies, the
acceptance of a train with all that hangs on it, and the cycle master.
-/

namespace Sys2Proof.Machine

/-! ## The header -/

/-- The partner of a die in split attachment that a die link reaches (R213). -/
def Hw.reachedPartner (h : Hw) (d : Nat) : Option Nat := (h.partner d).filter fun e => (h.towardsDie d e).isSome

/-- The header fields of R143. -/
def parseTrain (b : List Byte) : TrainHdr :=
  { ver := leAt b 0 1, flags := leAt b 1 1, ring := leAt b 2 1, dirn := leAt b 3 1, master := leAt b 4 2, segCnt := low 12 (leAt b 6 2),
    cycle := leAt b 8 8, period := leAt b 0x10 4, hopCnt := leAt b 0x14 2, ftimeNs := leAt b 0x18 8, ftimeFr := leAt b 0x20 4,
    tmaster := leAt b 0x24 2, utcOff := leAt b 0x26 2, corr := leAt b 0x28 8, tstat := leAt b 0x30 4 }

/-- The 248 data bytes of a header with every phase slot zero (R143, R377). -/
def trainBytes (x : TrainHdr) : List Byte :=
  leBytes 1 x.ver ++ leBytes 1 x.flags ++ leBytes 1 x.ring ++ leBytes 1 x.dirn ++ leBytes 2 x.master ++ leBytes 2 x.segCnt ++
  leBytes 8 x.cycle ++ leBytes 4 x.period ++ leBytes 2 x.hopCnt ++ leBytes 2 0 ++ leBytes 8 x.ftimeNs ++ leBytes 4 x.ftimeFr ++
  leBytes 2 x.tmaster ++ leBytes 2 x.utcOff ++ leBytes 8 x.corr ++ leBytes 4 x.tstat ++ List.replicate 196 0

/-- The CRC register with zero initial value and no final exclusive-or (R146). -/
def crcRaw (l : List Byte) : BitVec 32 := l.foldl crcByte 0

/-- The segment that leaves (R146): substituted data, the received CRC changed by the CRC of the difference, POISON zero
only where the received segment was good. -/
def outSegment (received data : List Byte) (good : Bool) : List Byte :=
  let delta := crcRaw (List.zipWith (· ^^^ ·) (slice received 0 248) data)
  data ++ leBytes 4 (BitVec.ofNat 32 (leAt received 248 4) ^^^ delta).toNat ++
    (if good then List.replicate 4 0 else List.replicate 4 0xFF)

/-- A segment that the master sends (R141). -/
def freshSegment (data : List Byte) : List Byte := data ++ leBytes 4 (crc32c data).toNat ++ List.replicate 4 0

/-! ## Paths (R191 to R194) -/

/-- The ring of an express receiver: 0 A (A-East, A-West), 1 B (B-East, B-West). -/
def expressRing (p : Nat) : Nat := p / 2

/-- The receiver of a ring in its own direction: A-West, B-East. -/
def normalPort (r : Nat) : Nat := if r = 0 then 1 else 2

/-- The onward port of a ring: A-East, B-West. -/
def forwardPort (r : Nat) : Nat := if r = 0 then 0 else 3

/-- Set the wrap state of a ring (R194): a start counts, and starts and stops are recorded. -/
def Hw.setWrap (h : Hw) (d r : Nat) (v : Bool) : Hw :=
  let t := h.train d
  if t.wrapped.get false r = v then h
  else
    let h := h.setTrain d { t with wrapped := t.wrapped.put false r v }
    let h := h.wr d R.RNG_WRAP_WRAPX (if v then h.rd d R.RNG_WRAP_WRAPX ||| 2 ^ r else h.rd d R.RNG_WRAP_WRAPX &&& (3 - 2 ^ r))
    let h := if v then h.bump d R.RNG_WRAP_WRAPCNT else h
    h.report d 0x0C (if v then .wrapStart else .wrapStop) r

/-- Judge at a train start whether a ring is wrapped here (R191, R194): wrapping starts with the onward port lost, and
stops once it is Active and its new peer has been heard. -/
def Hw.judgeWrap (h : Hw) (d r : Nat) : Hw :=
  let o := forwardPort r
  if (h.train d).wrapped.get false r then
    if h.rd d R.RNG_PSTAT_STATE o = 2 ∧ (h.port d o).heardPeer then h.setWrap d r false else h
  else if h.portUp d o then h else h.setWrap d r true

/-- The port whose express transmitter a train leaves by: onward, or turned back on the reverse lane of the receiving
port (R191); on a reverse lane the far port of the ring, none where that is lost (R193). -/
def Hw.leavesBy (h : Hw) (d p : Nat) : Option Nat :=
  let r := expressRing p
  if p = normalPort r then some (if (h.train d).wrapped.get false r then p else forwardPort r)
  else if h.portUp d (normalPort r) then some (normalPort r) else none

/-- Is this die originating, itself or with its partner in split attachment (R156, R212)? -/
def Hw.originating (h : Hw) (d : Nat) : Bool :=
  h.on d R.RNG_CMSTAT_ORIG || (match h.partner d with | some e => h.on e R.RNG_CMSTAT_ORIG | none => false)

/-- The die whose train logic originates for a die. -/
def Hw.originator (h : Hw) (d : Nat) : Nat :=
  if h.on d R.RNG_CMSTAT_ORIG then d else (h.partner d).getD d

/-- The minimum period with a measured round trip, in units of 0.01 ns (R207, R208). -/
def Hw.tMin (h : Hw) (d rtrip : Nat) : Nat :=
  h.minPeriod d + 200 * rtrip + 2 * (if h.rd d R.RNG_CFG_RATE = 1 then 600 else 500) + 50000

/-- The running period in units of 0.01 ns: PERIOD, or 1,000 × PMIN in phase-locked mode (R207). -/
def Hw.runPeriod (h : Hw) (d : Nat) : Nat :=
  if h.on d R.RNG_PLOCK_PLEN then 100000 * h.rd d R.RNG_PBOUND_PMIN else 100 * h.rd d R.RNG_PERIOD_PERIOD

/-- The originating die `d` measures the round trip of its train, whose start block came back on ring A at a core cycle (R208). -/
def Hw.measureRtrip (h : Hw) (d start : Nat) : Hw :=
  let ns := low 24 ((start - (h.train d).lastStart) * 4 / 5)
  let h := h.wr d R.RNG_RTRIP_RTRIP ns
  if h.runPeriod d < h.tMin d ns ∧ h.on d R.RNG_RTRIP_RTOVR = false then (h.flag d R.RNG_RTRIP_RTOVR).report d 0x0C .rtOver ns else h

/-- What the start of a train judges: its ring's wrap (R191). -/
def Hw.trainArrives (h : Hw) (d p : Nat) : Hw :=
  if p = normalPort (expressRing p) then h.judgeWrap d (expressRing p) else h

/-- TRAIN_START_BLOCK (R141, R191): a train starts to pass; `residence` is the time it takes through this node in
2⁻¹⁶ ns. A sleeping node that nothing has woken passes nothing (R35). -/
def trainStart (d p residence : Nat) (h : Hw) : Hw :=
  if h.portUp d p = false ∨ (h.node.state = .sleep ∧ h.node.woken = false) then h
  else
    let r := expressRing p
    let h := h.trainArrives d p
    let t := h.train d
    h.setTrain d { t with passages := t.passages.put none p (some
      { startTime := h.ftm.time, startCycle := h.now, residence := residence, dirn := r, onward := h.leavesBy d p,
        unchanged := false, next := 0, hdr := none, lastOut := [] }) }

/-- TRAIN_START_BLOCK -/
def execTrainStartBlock (die : Die) (port : Fin 4) (residence : BitVec 20) (s : State) : Host.Outcome State Fault Refusal :=
  s.onDie die (trainStart die.val port.val residence.toNat)

/-- TRAIN_END_BLOCK (R141): the train has passed. -/
def trainEnd (d p : Nat) (h : Hw) : Hw :=
  let t := h.train d
  h.setTrain d { t with passages := t.passages.put none p none }

/-- TRAIN_END_BLOCK -/
def execTrainEndBlock (die : Die) (port : Fin 4) (s : State) : Host.Outcome State Fault Refusal :=
  s.onDie die (trainEnd die.val port.val)

/-! ## Buckets (R150 to R155) -/

/-- Does a train of `segCnt` segments cover a bucket (R155)? -/
def Bucket.fits (b : Bucket) (segCnt : Nat) : Bool := decide (b.unit + b.len ≤ 62 * segCnt)

/-- The buckets of a kind that a train covers. -/
def Hw.bucketsOf (h : Hw) (d kind segCnt : Nat) : List Bucket :=
  (h.train d).buckets.filter fun b => b.kind == kind && b.fits segCnt

/-- The segments that a bucket lies in. -/
def Bucket.segments (b : Bucket) : List Nat := (List.range (((b.unit + b.len - 1) / 62) - b.unit / 62 + 1)).map (· + b.unit / 62 + 1)

/-- Is a header that passes receiver `p` of the train whose bytes the publish latch holds? A clean one tells by its CYCLE; one that is not
clean is of that train where it comes by a receiver that the train has not passed yet (LOG 31). -/
def Trn.latchIs (t : Trn) (p : Nat) (cycle : Option Nat) : Bool :=
  match cycle, t.latchCycle with
  | some c, some l => c == l
  | _, _ => !t.latchSeen.isEmpty && !t.latchSeen.contains p

/-- The publish latch at a train's header, clean or not (R153, R190): each publish unit is read once from the Process Image RAM for both
copies of a train. -/
def Hw.fillLatch (h : Hw) (pir : SMap Byte) (d p : Nat) (cycle : Option Nat) : Hw :=
  let t := h.train d
  if t.latchIs p cycle then
    h.setTrain d { t with latchCycle := t.latchCycle.or cycle, latchSeen := p :: t.latchSeen }
  else
    let latch := each (t.buckets.filter (·.kind == 0)) (fun b m =>
      iter b.len (fun i m => m.put 0 (b.unit + i) (BitVec.ofNat 32 (leNat (pirRead pir d (4 * (b.pioff + i)) 4)))) m) SMap.empty
    h.setTrain d { t with latch := latch, latchCycle := cycle, latchSeen := [p] }

/-- The data of bucket segment `k` with the die's own publish units in place (R146, R153). -/
def Hw.substitute (h : Hw) (d k segCnt : Nat) (data : List Byte) : List Byte :=
  let bs := h.bucketsOf d 0 segCnt
  (List.range 62).flatMap fun i =>
    let u := (k - 1) * 62 + i
    if bs.any fun b => decide (b.unit ≤ u) && decide (u < b.unit + b.len) then leBytes 4 ((h.train d).latch.get 0 u).toNat
    else slice data (4 * i) 4

/-- The units of segment `k` that a die subscribes: Process Image RAM offset and word. -/
def Hw.subscribed (h : Hw) (d k segCnt : Nat) (data : List Byte) : List (Nat × List Byte) :=
  (h.bucketsOf d 1 segCnt).flatMap fun b =>
    (List.range 62).filterMap fun i =>
      let u := (k - 1) * 62 + i
      if b.unit ≤ u ∧ u < b.unit + b.len then some (4 * (b.pioff + (u - b.unit)), slice data (4 * i) 4) else none

/-- Store a committed unit, mirrored over die links to every other die of the node that publishes its range (R217). -/
def storeUnit (d : Nat) (u : Nat × List Byte) (x : Hw × SMap Byte) : Hw × SMap Byte :=
  let x := storePir d u.1 u.2 x
  each ((List.range x.1.dies).filter fun e => e != d && x.1.publishes e u.1 && (x.1.towardsDie d e).isSome)
    (fun e x => storePir e u.1 u.2 x) x

/-- The subscribed segments of the accepted train. -/
def Hw.wantedSegments (h : Hw) (d : Nat) : List Nat := (h.bucketsOf d 1 (h.train d).segCnt).flatMap Bucket.segments

/-- Has a segment of the accepted train been committed? -/
def Trn.has (t : Trn) (k : Nat) : Bool := t.taken.any fun x => x.1 == k

/-- Write TRAIN_END once the last subscribed copy is committed (R43). -/
def endCopies (d cycle : Nat) (x : Hw × SMap Byte) : Hw × SMap Byte :=
  let t := x.1.train d
  if t.beginWritten then storePir d 8 (leBytes 8 cycle) (x.1.setTrain d { t with beginWritten := false }, x.2) else x

/-- Is this copy the one to commit (R188)? The first clean copy; of two in one core cycle the one from ring A. -/
def Trn.takes (t : Trn) (k now ring : Nat) : Bool :=
  match t.taken.find? fun x => x.1 == k with
  | none => true
  | some (_, at0, r) => at0 == now && r == 1 && ring == 0

/-- The subscribed units of a segment are stored, TRAIN_BEGIN before the first of the train, TRAIN_END after the last
(R43, R188). -/
def storeUnits (d cycle : Nat) (us : List (Nat × List Byte)) (x : Hw × SMap Byte) : Hw × SMap Byte :=
  let x := if (x.1.train d).beginWritten then x else storePir d 0 (leBytes 8 cycle) x
  let x := each us (storeUnit d) (x.1.setTrain d { x.1.train d with beginWritten := true }, x.2)
  if (x.1.wantedSegments d).all fun n => (x.1.train d).has n then endCopies d cycle x else x

/-- The other half of the 8-byte word that a Process Image RAM offset lies in. -/
def otherHalf (o : Nat) : Nat := if o % 8 = 0 then o + 4 else o - 4

/-- Does the train bring the other half of a unit's 8-byte word in the same bucket copy? -/
def Hw.isPaired (h : Hw) (d segCnt o : Nat) : Bool :=
  (h.bucketsOf d 1 segCnt).any fun b =>
    decide (4 * b.pioff ≤ min o (otherHalf o)) && decide (max o (otherHalf o) < 4 * (b.pioff + b.len))

/-- Commit the subscribed units of a clean segment to the Process Image RAM of a die (R43, R154, R188), whatever became of its own
copy's header. Of an aligned 8-byte word that lies in two segments both halves are committed with the later of them, so that
it holds one train's bytes (R44). The units taken are returned for the journal. -/
def commitSegment (d k cycle ring : Nat) (data : List Byte) (x : Hw × SMap Byte) : List (Nat × List Byte) × Hw × SMap Byte :=
  let t := x.1.train d
  if t.accepted ≠ some cycle ∨ t.takes k x.1.now ring = false then ([], x)
  else
    let us := x.1.subscribed d k t.segCnt data
    let new := us.filter fun u => x.1.isPaired d t.segCnt u.1 && !us.any fun v => v.1 == otherHalf u.1
    let kept := new ++ t.halves.filter fun u => !new.any fun v => v.1 == u.1
    let h := x.1.setTrain d { t with taken := t.taken ++ [(k, x.1.now, ring)], halves := kept }
    let ready := us.filter fun u => !new.any fun v => v.1 == u.1
    let pairs := kept.filter fun u => (new.any fun v => v.1 == u.1 || v.1 == otherHalf u.1) && kept.any fun v => v.1 == otherHalf u.1
    if us = [] then ([], (h, x.2)) else (us, storeUnits d cycle (ready ++ pairs) (h, x.2))

/-! ## What hangs on an accepted train -/

/-- The copies of the train before are final: a subscribed bucket that has a segment without a clean copy is lost (R155), a
subscribed slot that brought none sets SLOTMISS (R378), and TRAIN_END follows the last copy (R43). -/
def closeTrain (d : Nat) (x : Hw × SMap Byte) : Hw × SMap Byte :=
  let t := x.1.train d
  match t.accepted with
  | none => x
  | some cycle =>
    let x := endCopies d cycle x
    let lost := (x.1.bucketsOf d 1 t.segCnt).filter fun b => b.segments.any fun k => !t.has k
    let h := if lost.isEmpty then x.1 else x.1.bump d R.RNG_EXCNT_BKTLOST lost.length
    let h := each (t.buckets.filter (·.kind == 3)) (fun b h =>
      if (h.trk d b.pioff).slotSeen then h.setTrk d b.pioff { h.trk d b.pioff with slotSeen := false, slotTaken := false }
      else h.flag d R.PHS_TSTAT_SLOTMISS b.pioff) h
    (h, x.2)

/-- The core cycle at which a phase slot's first byte crossed the receive boundary: the start block, then 8 bytes a block
of 2.64 ns or 3.30 ns (R141, R379). -/
def Hw.slotArrival (h : Hw) (d slot start : Nat) : Nat :=
  start + (9 + 2 * slot) * 33 / (if h.rd d R.RNG_CFG_RATE = 1 then 8 else 10)

/-- Subscribed phase slots of a clean header (R378, R379); `path` is CORR with the delay of the receiving link. -/
def Hw.takeSlots (h : Hw) (d start path : Nat) (again : Bool) (data : List Byte) : Hw :=
  each ((h.train d).buckets.filter (·.kind == 3)) (fun b h =>
    let h := if again then h.setTrk d b.pioff { h.trk d b.pioff with slotSeen := false, slotTaken := false } else h
    h.acceptSlot d b.pioff (slice data (0x40 + 16 * b.unit) 16) (h.slotArrival d b.unit start) path) h

/-- Dawn step 10 (R84, R86, R98, R99, R495 to R498, R551, R599, R626): the ledger's head and sequence numbers, the forced
entries in their order, the one-time memory, the key cache, the deferred fault reports, the journal, and Run, or Dusk with
the loss of both feeds standing. -/
def Hw.stepTenEntries (h : Hw) : Hw :=
  let c := h.cfg.header
  let imgWord := fun i => leAt c.imgHash (4 * i) 4
  let h := rebuildSeq (headSearch h)
  let h := h.stageForced (ledgerBody 0x02 .image (c.gen + c.fwVer * 2 ^ 16) (imgWord 0) (imgWord 1) (imgWord 2) (imgWord 3))
  let h :=
    if h.otp.genFloor < c.gen then
      let old := h.otp.genFloor
      (({ h with otp.genFloor := c.gen }).wr 0 R.NOD_IMGGEN_FLOOR c.gen).stageForced (ledgerBody 0x03 .image 0 old c.gen 0 0)
    else h
  let h :=
    if h.otp.ownerHash = none then
      let m := Config.sha384 c.signer
      let w := fun i => leAt (hashBytes m) (4 * i) 4
      ({ h with otp.ownerHash := some m }).stageForced (ledgerBody 0x04 .image 0 (w 0) (w 1) (w 2) (w 3))
    else h
  let keyHash := leAt (hashBytes (Config.sha384 h.cfg.keyBytes)) 0 4
  let valid := h.slotMask 0 (·.valid)
  let h := h.stageForced (ledgerBody 0x06 .vault (1 + valid * 2 ^ 8) (valid / 2 ^ 32) 0 keyHash (b2n h.vlt.cacheUsed))
  { h with ldg.forced := h.ldg.forced ++ checkpointSet h.ldg } |> drainForced 256

/-- The journal of a die starts (R526): a TIME record, then every record; a checkpoint is due at the next digest (R521). -/
def Hw.startJournal (h : Hw) (d : Nat) : Hw :=
  if h.on d R.JRN_CFG_EN then
    let h := (h.setJrn d { Jrn.init with lastCycle := h.now, ckptDue := true }).wr d R.JRN_STAT_STATE 1
    h.jrnPush d [jrnWord 0 1 0 0, h.now]
  else h

/-- Dawn completes. -/
def Hw.dawnComplete (h : Hw) : Hw :=
  let h := { h.writeCache with node.stepTen := true }.stepTenEntries
  let h := h.wr 0 R.NOD_DAWN_ELAPSED (min 65535 h.operatingMs)
  let h := (h.eachDie fun d h => h.startJournal d)
  if h.wlh.bothLost then (h.enterDusk 0x61).reactDeferred.checkGuar
  else (((h.moveTo h.runState 0).startDatapath).reactDeferred).checkGuar

/-- What an accepted train does to the node (R36, R85, R159, R306, R625). -/
def Hw.nodeOnTrain (h : Hw) : Hw :=
  let lost := (List.range h.dies).any fun d => decide (h.rd d R.NOD_STATE_HOLD < h.rd d R.RNG_MISS_CONSEC)
  let h := if lost then h else { h with node.safeTrains := false }
  match h.node.state with
  | .dawn =>
    if h.dawnStep = 9 then h.wr 0 R.NOD_DAWN_STEP 10
    else if h.dawnStep = 10 then h.dawnComplete else h
  | .sleep =>
    if h.node.woken then (if h.node.wakeTrain then h.leaveSleep else { h with node.wakeTrain := true }) else h
  | .run => h.restartAfterSafe
  | .degraded => h.restartAfterSafe
  | _ => h

/-- Are train windows kept now: after the train that ends Dawn, and from the wake train on (R159)? -/
def Hw.windowsRun (h : Hw) : Bool :=
  h.node.state == .run || h.node.state == .degraded || h.node.state == .safe || (h.node.state == .sleep && h.node.wakeTrain)

/-- The accepted train is the current one: its cycle, its master, its time, its orders (R159, R188). -/
def Hw.openTrain (h : Hw) (d e p : Nat) (g : Passage) (hd : TrainHdr) : Hw :=
  let h := ((h.setTrain d { h.train d with
    accepted := some hd.cycle, acceptedAt := h.now, segCnt := hd.segCnt, everRun := true, taken := [], halves := [], beginWritten := false
    }).wr d R.RNG_CYC_CYCLE (low 32 hd.cycle)).wr d R.RNG_CMSTAT_MASTER hd.master
  let h := h.wr d R.RNG_MISS_CONSEC 0
  ((if d = h.sourceDie then h.timeFromTrain e p hd g.startTime else h).applyOutsync d).closeWindows d

/-- A die accepts a train (R159, R188): `p` is the receiver and `e` its die; `data` the header segment. -/
def acceptOn (d e p : Nat) (g : Passage) (hd : TrainHdr) (data : List Byte) (x : Hw × SMap Byte) : Hw × SMap Byte :=
  let t := x.1.train d
  let path := toTwos 64 (signed 64 hd.corr + (x.1.rd e R.FTM_PDLY_LINKDLY p * 2 ^ 12 : Nat))
  if t.accepted = some hd.cycle then
    if t.acceptedAt = x.1.now ∧ g.dirn = 0 then (x.1.takeSlots d g.startCycle path true data, x.2)
    else (x.1.takeSlots d g.startCycle path false data, x.2)
  else
    (((closeTrain d x).1.openTrain d e p g hd).takeSlots d g.startCycle path false data, (closeTrain d x).2)

/-- A clean header of a train of this ring arrives (R155, R159): BKTOOR, acceptance on this die and over a die link on its
partner in split attachment (R213), and what the node does with a train that is new. -/
def acceptTrain (d p : Nat) (g : Passage) (hd : TrainHdr) (data : List Byte) (x : Hw × SMap Byte) : Hw × SMap Byte :=
  let h := x.1
  let h := if (h.train d).buckets.all fun b => 2 ≤ b.kind || b.fits hd.segCnt then h else h.flag d R.RNG_EXSTAT_BKTOOR
  if hd.ver ≠ 1 then (h, x.2)
  else
    let new := (h.train d).accepted != some hd.cycle
    let x := acceptOn d d p g hd data (h, x.2)
    let x := match x.1.reachedPartner d with
      | some e => acceptOn e d p g hd data x
      | none => x
    if new then
      let h := x.1.nodeOnTrain
      let open1 := h.windowsRun
      let mark := fun (e : Nat) (h : Hw) => h.setTrain e { h.train e with windowOpen := open1 }
      let h := mark d h
      (match h.reachedPartner d with | some e => mark e h | none => h, x.2)
    else x

/-! ## A segment passes (R142 to R146) -/

/-- Does this node write and copy buckets and slots: from the commit at Dawn step 6, and not in Quarantine (R35, R209)? -/
def Hw.expressActive (h : Hw) : Bool := h.cfg.committed && h.node.state != .quarantine

/-- Stop originating (R202): the train's master goes on, and the masked fault of a takeover ends (R588). -/
def Hw.yieldTo (h : Hw) (d : Nat) : Hw :=
  let o := h.originator d
  let h := ((h.wr o R.RNG_CMSTAT_ORIG 0).flag o R.RNG_CMSTAT_YIELD).wr o R.RNG_RTRIP_RTRIP 0
  (h.report o 0x0C .originationYield).endFault o 0x02 0

/-- Where an originating die lets a clean train go (R144, R192, R193, R202): its own is absorbed on a normal receiver with
HOPERR judged, and passed once on a reverse lane; a lower master's is passed with a yield; a higher one's is absorbed. The ring's node
count is that of the map's entries now present (LOG 32). Its return on A-West gives the round trip, from its start block (R208). -/
def Hw.masterPath (h : Hw) (d p start : Nat) (hd : TrainHdr) (onward : Option Nat) : Option Nat × Hw :=
  if hd.master = h.nodeId then
    if p = normalPort (expressRing p) then
      let nodes := ((h.ring d).map.filter (·.present)).length
      let o := h.originator d
      let h := if p = 1 ∧ hd.cycle = (h.train o).cycle ∧ (h.train o).lastStart ≤ start then h.measureRtrip o start else h
      (none, if hd.hopCnt = nodes - 1 then h else h.flag d R.RNG_EXSTAT_HOPERR)
    else if (h.train d).passedReverse.get 0 p = hd.cycle then (none, h)
    else (onward, h.setTrain d { h.train d with passedReverse := (h.train d).passedReverse.put 0 p hd.cycle })
  else if hd.master < h.nodeId then (onward, h.yieldTo d)
  else (none, h)

/-- The header as it leaves (R143, R144, R377, R412): HOPCNT, CORR and, but for a node in Quarantine, the die's own phase slots. -/
def Hw.passHeader (h : Hw) (d p : Nat) (g : Passage) (hd : TrainHdr) (data : List Byte) : List Byte :=
  let data := if hd.master = h.nodeId then data else spliceAt data 0x14 (leBytes 2 ((hd.hopCnt + 1) % 65536))
  let corr := if h.on d R.FTM_PDLY_DLYOK p
    then toTwos 64 (signed 64 hd.corr + (h.rd d R.FTM_PDLY_LINKDLY p * 2 ^ 12 + g.residence : Nat)) else hd.corr
  let data := spliceAt data 0x28 (leBytes 8 corr)
  each ((h.train d).buckets.filter fun b => b.kind == 2 && h.expressActive)
    (fun b l => spliceAt l (0x40 + 16 * b.unit) (h.slotBytes d b.pioff corr)) data

/-- Put a segment on its express transmitter and step the passage on. -/
def Hw.passOn (h : Hw) (d p : Nat) (g : Passage) (out : List Byte) : Hw :=
  let t := h.train d
  h.setTrain d { t with
    passages := t.passages.put none p (some { g with next := g.next + 1, lastOut := out })
    expressOut := match g.onward with | some o => t.expressOut.put [] o out | none => t.expressOut }

/-- The TRAIN record of a segment (R517, R518): committed units, two to a word. -/
def Hw.journalTrain (h : Hw) (d p k : Nat) (good : Bool) (ext : List Nat) : Hw :=
  h.journal d 3 (p + low 12 k * 2 ^ 2 + (if good then 0 else 1) * 2 ^ 14 + (if k = 0 then 2 ^ 16 else 0)) ext

/-- The header segment: a train of another ring passes as it is (R145), and before Dawn step 6 nothing is written (R209); a node in
Quarantine adds itself to HOPCNT and CORR and does no more (R35, R144). -/
def headerSegment (d p : Nat) (g : Passage) (bytes : List Byte) (good : Bool) (x : Hw × SMap Byte) : Hw × SMap Byte :=
  let h := x.1
  let data := slice bytes 0 248
  let hd := parseTrain data
  let foreign := h.cfg.committed && hd.ring != h.rd d R.RNG_CFG_RINGNO
  let slots := (h.train d).buckets.filter (·.kind == 3)
  let h := h.journalTrain d p 0 good (dwords 8 data ++ slots.flatMap fun b => dwords 2 (slice data (0x40 + 16 * b.unit) 16))
  if foreign then
    let h := if h.on d R.RNG_EXSTAT_RINGMIS then h else (h.flag d R.RNG_EXSTAT_RINGMIS).report d 0x0C .ringMis hd.ring
    (h.passOn d p { g with hdr := some hd, unchanged := true } bytes, x.2)
  else if h.node.state = .quarantine then
    (h.passOn d p { g with hdr := some hd, unchanged := true } (outSegment bytes (h.passHeader d p g hd data) good), x.2)
  else if h.expressActive = false then (h.passOn d p { g with hdr := some hd, unchanged := true } (outSegment bytes data good), x.2)
  else
    let h := h.fillLatch x.2 d p (if good then some hd.cycle else none)
    let y : Option Nat × Hw :=
      if h.originating d then
        if good then h.masterPath d p g.startCycle hd g.onward
        else (if p = normalPort (expressRing p) then none else g.onward, h)
      else (if hd.master = h.nodeId ∧ p = normalPort (expressRing p) then none else g.onward, h)
    let g := { g with hdr := some hd, onward := y.1 }
    let h := y.2.passOn d p g (outSegment bytes (y.2.passHeader d p g hd data) good)
    if good then acceptTrain d p g hd data (h, x.2) else (h, x.2)

/-- The carry image takes the first clean copy of a segment of an own train (R187), after the own substitution. -/
def Hw.captureCarry (h : Hw) (d k : Nat) (hd : TrainHdr) (data : List Byte) : Hw :=
  let o := h.originator d
  let t := h.train o
  if h.originating d ∧ hd.master = h.nodeId ∧ hd.cycle = t.capturedCycle ∧ t.captured.contains k = false then
    h.setTrain o { t with
      captured := k :: t.captured
      carry := iter 248 (fun i m => m.put 0 ((k - 1) * 248 + i) (data.getD i 0)) t.carry }
  else h

/-- Commit a clean bucket segment on this die and, over a die link, its partner (R154, R213). -/
def commitBoth (d k : Nat) (hd : TrainHdr) (ring : Nat) (data : List Byte) (x : Hw × SMap Byte) :
    List (Nat × List Byte) × Hw × SMap Byte :=
  let (us, x) := commitSegment d k hd.cycle ring data x
  match x.1.reachedPartner d with
  | some e => (us, (commitSegment e k hd.cycle ring data x).2)
  | none => (us, x)

/-- A bucket segment. -/
def bucketSegment (d p : Nat) (g : Passage) (bytes : List Byte) (good : Bool) (x : Hw × SMap Byte) : Hw × SMap Byte :=
  let data := slice bytes 0 248
  match g.hdr with
  | none => x
  | some hd =>
    if g.unchanged then
      let h := x.1.journalTrain d p g.next good []
      (h.passOn d p g (if hd.ring = h.rd d R.RNG_CFG_RINGNO then outSegment bytes data good else bytes), x.2)
    else
      let k := g.next
      let out := x.1.substitute d k hd.segCnt data
      let h := x.1.passOn d p g (outSegment bytes out good)
      let h := if good then h.captureCarry d k hd out else h
      let z := if good && h.expressActive then commitBoth d k hd g.dirn data (h, x.2) else ([], h, x.2)
      (z.2.1.journalTrain d p k good (dwords ((z.1.length + 1) / 2) (z.1.flatMap (·.2))), z.2.2)

/-- Count what is found wrong with a segment (R136, R142): a CRC failure first found here scores 8. -/
def Hw.countSegment (h : Hw) (d p : Nat) (crcOk clean : Bool) : Hw :=
  if !crcOk && clean then (h.bump d R.RNG_PERRB_SEGERR 1 p).score d p 8
  else if !clean then h.bump d R.RNG_PERRB_POISONRX 1 p
  else h

/-- TRAIN_SEGMENT (R146): the next segment of the train in passage at a receiver, 256 bytes as they arrive. With `tamper` a tamper alarm
comes in the same core cycle: in Dawn it goes before the end of Dawn that the train would bring (R40). -/
def trainSegment (d p : Nat) (bytes : List Byte) (tamper : Bool) (x : Hw × SMap Byte) : Hw × SMap Byte :=
  let x := if tamper ∧ x.1.node.state = .dawn then (x.1.dawnFail 0x0F 0, x.2) else x
  match (x.1.train d).passages.get none p with
  | none => x
  | some g =>
    let crcOk := crc32c (slice bytes 0 248) == BitVec.ofNat 32 (leAt bytes 248 4)
    let clean := leAt bytes 252 4 == 0
    let good := crcOk && clean
    let y := if g.next = 0 then headerSegment d p g bytes good x else bucketSegment d p g bytes good x
    (y.1.countSegment d p crcOk clean, y.2)

/-- TRAIN_SEGMENT -/
def execTrainSegment (die : Die) (port : Fin 4) (bytes : List Byte) (tamper : Bool) (s : State) : Host.Outcome State Fault Refusal :=
  s.onDieMem die (trainSegment die.val port.val bytes tamper)

/-! ## Missing trains (R159, R160) -/

/-- TRAIN_WINDOW_EXPIRY: a window expires with no train. A header that completes clean in the same sample cycle is
accepted, and MARGIN counts. CONSEC has 8 bits and stops at 255, so with HOLD = 255 the HOLD + 1 of R159 is never reached
(LOG 33). -/
def windowExpiry (d : Nat) (headerSame : Bool) (h : Hw) : Hw :=
  if (h.train d).windowOpen = false then h
  else if headerSame then (h.bump d R.RNG_EXCNT_MARGIN).timeWindowMargin d
  else
    let h : Hw := ((h.bump d R.RNG_MISS_CONSEC).bump d R.RNG_MISS_TOTAL).timeWindowMissed d
    if h.rd d R.NOD_STATE_HOLD < h.rd d R.RNG_MISS_CONSEC then
      let h : Hw := { h with node.safeTrains := true }
      if h.node.state = .run ∨ h.node.state = .degraded then h.enterSafe 1 else h.checkGuar
    else h

/-- TRAIN_WINDOW_EXPIRY -/
def execTrainWindowExpiry (die : Die) (headerSame : Bool) (s : State) : Host.Outcome State Fault Refusal :=
  s.onDie die (windowExpiry die.val headerSame)

/-! ## The cycle master (R156 to R158, R187, R200 to R203) -/

/-- The header of a train that starts now (R143, R405). A master's first train has no start before it: it carries RNG_PERIOD.PERIOD
(LOG 34). -/
def Hw.newHeader (h : Hw) (d cycle flags : Nat) : TrainHdr :=
  let t := h.train d
  { ver := 1, flags := flags + 8 * b2n h.timeValid, ring := h.rd d R.RNG_CFG_RINGNO, dirn := 0, master := h.nodeId,
    segCnt := h.rd d R.RNG_TRAIN_SEGCNT, cycle := cycle,
    period := if t.lastStart = 0 then h.rd d R.RNG_PERIOD_PERIOD else low 32 ((h.now - t.lastStart) * 4 / 5), hopCnt := 0,
    ftimeNs := h.fabricNs, ftimeFr := h.fabricFr,
    tmaster := if h.timeMaster ∨ ¬h.on 0 R.FTM_STAT_STEPPED then h.nodeId else h.rd 0 R.FTM_STAT_TMASTER,
    utcOff := h.rd 0 R.FTM_UTC_INFORCE, corr := 0, tstat := h.tstate }

/-- The bucket segments of the carry image (R187). -/
def carrySegments (t : Trn) (segCnt : Nat) : List Byte :=
  (List.range segCnt).flatMap fun k => freshSegment ((List.range 248).map fun i => t.carry.get 0 (k * 248 + i))

/-- Send the train of one ring: by its originating port, or with that lost straight onto the reverse lane of the ring's
other port (R156, R191). -/
def Hw.sendTrain (h : Hw) (d r : Nat) (train : List Byte) : Hw :=
  let h := h.judgeWrap d r
  let o := if (h.train d).wrapped.get false r then normalPort r else forwardPort r
  if h.portUp d o then h.setTrain d { h.train d with expressOut := (h.train d).expressOut.put [] o train } else h

/-- The number of boundaries of the phase-locked cycle that the tracker's estimate has passed (R158): boundary j of each turn lies at its
fraction ⌊j × 2³² / K⌋. -/
def Hw.boundaryNo (h : Hw) (d : Nat) : Nat :=
  let k := max 1 (h.rd d R.RNG_PLOCK_K)
  let est := h.estimate d (h.rd d R.RNG_PLOCK_TRACKER)
  let j := low 32 est * k / 2 ^ 32
  est / 2 ^ 32 * k + (if (j + 1) * 2 ^ 32 / k ≤ low 32 est then j + 1 else j)

/-- Start a train on both rings (R156): one CYCLE, one header but for DIRN. A UTCAT that FTIME has reached applies first (R418, R422). -/
def Hw.startTrain (h : Hw) (d flags : Nat) : Hw :=
  let h := h.reachUtcAt
  let t := h.train d
  let x := h.newHeader d (t.cycle + 1) flags
  let body := carrySegments t x.segCnt
  let h := h.setTrain d { t with cycle := t.cycle + 1, lastStart := h.now, phaseAt := h.boundaryNo d, captured := [], capturedCycle := t.cycle + 1 }
  let att := h.attached d
  let far := (h.partner d).getD d
  let a := if 0 ∈ att then d else far
  let b := if 3 ∈ att then d else far
  (h.sendTrain a 0 (freshSegment (trainBytes x) ++ body)).sendTrain b 1 (freshSegment (trainBytes { x with dirn := 1 }) ++ body)

/-- TRAIN_ORIGINATE (R156 to R158): the period has passed; in phase-locked mode the tracker's estimate has crossed a boundary since the last
start, and the tracker does not report loss of source. -/
def trainOriginate (d : Nat) (h : Hw) : Hw :=
  let k := h.rd d R.RNG_PLOCK_TRACKER
  let due := !h.on d R.RNG_PLOCK_PLEN ||
    (h.boundaryNo d != (h.train d).phaseAt && h.trkState d k != 3 && h.trkState d k != 4)
  if h.on d R.RNG_CMSTAT_ORIG ∧ due then h.startTrain d (h.rd d R.RNG_PLOCK_PLEN) else h

/-- TRAIN_ORIGINATE -/
def execTrainOriginate (die : Die) (s : State) : Host.Outcome State Fault Refusal := s.onDie die (trainOriginate die.val)

/-- PHASE_LOCKED_BOUND (R158, R399): PMIN or PMAX is reached, or PERIOD while the tracker reports loss of source. A
boundary in the core cycle of PMAX starts the train without PLSLIP, and MARGIN counts. -/
def phaseLockedBound (d : Nat) (boundarySame : Bool) (h : Hw) : Hw :=
  if h.on d R.RNG_CMSTAT_ORIG ∧ h.on d R.RNG_PLOCK_PLEN then
    let k := h.rd d R.RNG_PLOCK_TRACKER
    let st := h.trkState d k
    if st = 3 ∨ st = 4 then (h.startTrain d 5).flag d R.RNG_EXSTAT_PLHOLD
    else if boundarySame then (h.startTrain d 1).bump d R.PHS_EMISC_MARGIN
    else (h.startTrain d 3).flag d R.RNG_EXSTAT_PLSLIP
  else h

/-- PHASE_LOCKED_BOUND -/
def execPhaseLockedBound (die : Die) (boundarySame : Bool) (s : State) : Host.Outcome State Fault Refusal :=
  s.onDie die (phaseLockedBound die.val boundarySame)

/-- Is a train in passage at a receiver of a die? -/
def Trn.inPassage (t : Trn) : Bool := (List.range 4).any fun p => (t.passages.get none p).isSome

/-- Has the wait that follows the last accepted train of R200 come to its end: for a master and a backup, where windows are kept, one
window has expired? -/
def Hw.windowMissed (h : Hw) (d : Nat) : Bool :=
  let t := h.train d
  !(t.everRun && t.windowOpen && (h.rd d R.RNG_CFG_CMROLE == 1 || h.rd d R.RNG_CFG_CMROLE == 2)) || decide (1 ≤ h.rd d R.RNG_MISS_CONSEC)

/-- May a die originate now (R85, R200, R205)? -/
def Hw.mayOriginate (h : Hw) (d : Nat) : Bool :=
  let s := h.node.state
  h.rd d R.RNG_CFG_CMROLE != 0 && !h.originating d && !(h.attached d).isEmpty && h.cfg.committed &&
    ((s == .dawn && decide (9 ≤ h.dawnStep)) || s == .run || s == .degraded || s == .safe) &&
    !(h.train d).inPassage && ((h.partner d).all fun e => !(h.train e).inPassage) && h.windowMissed d

/-- ORIGINATION_START (R200, R201, R204, R219): the wait for the role has passed with no train. After trains have run the
CYCLE goes on from the last accepted plus 2, and the masked fault RNG_TRAIN is raised (R588). A header that completes
clean in the same sample cycle prevents it. A stepped node that originates on SRCRING and is no time master has no time input: its counter
is in holdover (R403). -/
def originationStart (d : Nat) (headerSame : Bool) (h : Hw) : Hw :=
  if headerSame ∨ h.mayOriginate d = false then h
  else
    let t := h.train d
    let last := t.accepted.getD 0
    let took := t.everRun
    let h := h.setTrain d { t with
      cycle := if took then last + 1 else 0, lastStart := 0, phaseAt := h.boundaryNo d
      carry := .empty, captured := [], capturedCycle := 0, passedReverse := .empty }
    let h := (h.wr d R.RNG_CMSTAT_ORIG 1).report d 0x0C .originationStart
    let h := if took then (h.flag d R.RNG_CMSTAT_TOOK).raiseFault d 0x02 0 else h
    if h.timeMaster then h.setInForce (h.rd h.node.owner R.FTM_UTC_UTCOFF) else if h.onSrcRing d then h.enterHoldover else h

/-- ORIGINATION_START -/
def execOriginationStart (die : Die) (headerSame : Bool) (s : State) : Host.Outcome State Fault Refusal :=
  s.onDie die (originationStart die.val headerSame)

end Sys2Proof.Machine
end

