-- ==== Sys2Proof/Machine/Dawn.lean ====
section
/-!
DEFINITION. Dawn (chapter "Dawn: reset to Run, and the image", R82 to R112): power-on reset release, the configuration NOR
or a ring boot, the image and its commit, key tree, self-test; the image server (R94, R106); and the instructions of the
test access port (R72 to R79).
-/

namespace Sys2Proof.Machine

/-! ## Release and step 2 -/

/-- The highest power-cycle count among the ledger entries in the log NVM (R558). -/
def Hw.highestPcc (h : Hw) : Option Nat :=
  (usedSlots h).foldl (fun a x => let p := low 24 (leAt x.2 0x10 4); some (max (a.getD 0) p)) none

/-- The Night domain at release (R558): the calendar has run on, the power-cycle count rises; a void domain is reported and
its contents are lost, the calendar to a free value. -/
def Hw.nightAtRelease (h : Hw) (void : Bool) (ticks : Nat) : Hw :=
  let n := h.nightDom
  if void then
    let (fv, h) := h.draw
    let pcc := match h.highestPcc with | some p => min 16777215 (p + 256) | none => 1
    { (h.wr 0 R.VLT_STAT_VBATLOSS 1) with
      nightDom := { n with cal := low 47 fv.toNat, calAt := h.now, pcc := pcc, cache := [], log := [], void := true, tampRun := [] } }
  else { h with nightDom := { n with cal := n.cal + ticks, calAt := h.now, pcc := satAdd 24 n.pcc 1, void := false } }

/-- The first start (R539): a blank identity area takes a root secret from the entropy source. -/
def Hw.firstStart (h : Hw) : Hw :=
  if h.otp.identityBlank then
    let (fv, h) := h.draw
    { h with otp := { h.otp with identityBlank := false, rootSecret := fv.toNat } }
  else h

/-- POWER_ON_RESET_RELEASE (R36, R68, R82): in Night with power-good the straps and SLOT are sampled and Dawn begins at
step 1. -/
def powerOnRelease (straps slot : Nat) (nightVoid : Bool) (nightTicks : Nat) (h : Hw) : Hw :=
  if h.node.state ≠ .night ∨ h.wlh.pg = false ∨ h.wlh.off then h
  else
    let h := { h with straps := straps, slotNo := slot, taps := .empty, now := 0 }
    let h := (h.setRegAt (R.NOD_STRAP_BOOT.key 0 0 0) (BitVec.ofNat 32 (straps + straps / 128 * 256))).wr 0 R.NOD_DAWN_STEP 1
    let h := h.eachDie fun d h => h.wr d R.NOD_NODEID_SLOT slot
    let h := h.wr 0 R.NOD_IMGGEN_FLOOR h.otp.genFloor
    ((h.nightAtRelease nightVoid nightTicks).firstStart).moveTo .dawn 0

/-- POWER_ON_RESET_RELEASE -/
def execPowerOnResetRelease (straps : BitVec 8) (slot : BitVec 6) (nightVoid : Bool) (nightTicks : Nat) (s : State) :
    Host.Outcome State Fault Refusal :=
  s.onAny (powerOnRelease straps.toNat slot.toNat nightVoid nightTicks)

/-- Replay mode is selected at the end of step 2 (R74, R533): the Dawn of a power-on reset, debug access open, RPLY in D0's
instruction register, an owner. -/
def Hw.selectReplay (h : Hw) : Hw :=
  if h.dawn.powerOn ∧ h.debugOpen ∧ (h.taps.get .init 0).ir = 0x20 ∧ h.otp.ownerHash ≠ none then
    { h with node.replay := true, dawn.replaySel := true }
  else h

/-! ## Step 3: the configuration NOR (R89 to R92) -/

/-- SRC of NOD_DAWN for STRAP[1:0]: 50, 100 or 25 MHz. -/
def bootSource (boot : Nat) : Nat := if boot = 1 then 1 else if boot = 2 then 2 else 0

/-- The clock of STRAP[1:0] in MHz (R82). -/
def bootMhz (boot : Nat) : Nat := if boot = 1 then 100 else if boot = 2 then 25 else 50

/-- The modes of R90 in its order. -/
def norModes : List NorMode := [.m144d, .m144, .m114, .m122, .m112, .m111]

/-- The read mode (R90, R91): the first of R90's order that the tables advertise, DTR at 100 MHz only; 1-1-1 for STRAP[1:0] = 0b10. -/
def norMode (boot : Nat) (t : Sfdp) : NorMode :=
  if boot = 2 then .m111
  else (norModes.find? fun m => bit t.modes.toNat m.ctorIdx && (m != .m144d || boot == 1)).getD .m111

/-- How the NOR is read (R89 to R92): the dummy cycles and the quad-enable method of the basic table, 4-byte addresses beyond
16 MiB. -/
def norReading (boot : Nat) (t : Sfdp) : NorIf :=
  let m := norMode boot t
  ⟨m, bootMhz boot, t.dummies.getD m.ctorIdx 0, t.quadEnable, if 16777216 < t.capacity then 4 else 3, t.capacity⟩

/-- NOR_DISCOVERY (R83, R86, R89 to R92): the end of step 2, then the NOR's JEDEC ID and SFDP tables (none: no SFDP signature).
STRAP[1:0] = 0b11 leaves the NOR unread and boots from the ring. -/
def norDiscovery (romOk jedecOk : Bool) (sfdp : Option Sfdp) (h : Hw) : Hw :=
  if h.node.state ≠ .dawn ∨ h.dawnStep ≠ 1 ∨ h.dawn.ringBoot then h
  else if !romOk then (h.wr 0 R.NOD_DAWN_STEP 2).dawnFail 0x0D 0
  else
    let h := (h.selectReplay).wr 0 R.NOD_DAWN_STEP 3
    let boot := h.rd 0 R.NOD_STRAP_BOOT
    if boot = 3 then h.ringBoot
    else
      match jedecOk, sfdp with
      | true, some t =>
        let h := (h.wr 0 R.NOD_DAWN_SRC (bootSource boot)).wr 0 R.NOD_DAWN_DTR (b2n (norMode boot t == .m144d))
        { h.wr 0 R.NOD_DAWN_STEP 4 with norIf := norReading boot t }
      | _, _ => h.dawnFail 0x01 0

/-- NOR_DISCOVERY -/
def execNorDiscovery (romOk jedecOk : Bool) (sfdp : Option Sfdp) (s : State) : Host.Outcome State Fault Refusal :=
  s.on (norDiscovery romOk jedecOk sfdp)

/-! ## Steps 4 and 5: header and records -/

/-- Bytes of the NOR, kept as they are read. -/
def Hw.norWrite (h : Hw) (o : Nat) (bs : List Byte) : Hw :=
  { h with nor := iter bs.length (fun k m => m.put 0xFF (o + k) (bs.getD k 0)) h.nor }

/-- Bytes of the NOR. -/
def Hw.norRead (h : Hw) (o n : Nat) : List Byte := (List.range n).map fun k => h.nor.get 0xFF (o + k)

/-- The header is judged (R86, R96 to R98): held, or the exit of Dawn. -/
def Hw.takeHeader (h : Hw) (b : List Byte) : Hw :=
  let code := h.judgeHeader b
  if code ≠ 0 then h.dawnFail code 0 else { h.wr 0 R.NOD_DAWN_STEP 5 with dawn.header := some (headerOf b) }

/-- IMAGE_HEADER (R86, R96): the 512 bytes at NOR offset 0. -/
def imageHeader (bytes : List Byte) (h : Hw) : Hw :=
  if h.node.state ≠ .dawn ∨ h.dawnStep ≠ 4 ∨ h.dawn.ringBoot then h
  else
    let b := slice bytes 0 512
    (h.norWrite 0 b).takeHeader b

/-- IMAGE_HEADER -/
def execImageHeader (bytes : List Byte) (s : State) : Host.Outcome State Fault Refusal := s.on (imageHeader bytes)

/-- A record read right is judged and held (R107 to R109). -/
def Hw.holdRecord (h : Hw) (x : HeldRec × Bool) (raw : List Byte) : Hw :=
  let code := (h.heldView h.dawn.held).judgeRecord ((h.dawn.header.map (·.imgLen)).getD 0) h.dawn.held x
  if code ≠ 0 then h.dawnFail code x.1.seq
  else { h with dawn := { h.dawn with held := h.dawn.held ++ [x.1], bytes := h.dawn.bytes ++ raw } }

/-- The bytes of a record as read. -/
def rawRecord (ws : List Word) : List Byte := wordBytes (ws.take (recordLen ws / 4 + 3))

/-- A record on its first read, or where that fails on the re-read at 25 MHz (R107). -/
def readTwice (first reread : List Word) : Option ((HeldRec × Bool) × List Word) :=
  match parseRecord first with
  | some x => some (x, first)
  | none => (parseRecord reread).map fun x => (x, reread)

/-- The next record's place in the NOR. -/
def Hw.nextRecord (h : Hw) : Nat := (h.dawn.header.map (·.recOff)).getD 0 + h.dawn.bytes.length

/-- IMAGE_RECORD (R100 to R108): the next record other than END. -/
def imageRecord (first reread : List Word) (h : Hw) : Hw :=
  if h.node.state ≠ .dawn ∨ h.dawnStep ≠ 5 ∨ h.dawn.ringBoot then h
  else
    match readTwice first reread with
    | none => h.dawnFail 0x08 (recordSeq reread)
    | some (x, ws) =>
      if x.1.typ = 0xFF then h
      else (h.norWrite h.nextRecord (rawRecord ws)).holdRecord x (rawRecord ws)

/-- IMAGE_RECORD -/
def execImageRecord (first reread : List Word) (s : State) : Host.Outcome State Fault Refusal := s.on (imageRecord first reread)

/-! ## Step 6: the END record and the commit -/

/-- The bytes of the image being loaded, from the NOR or from the stream of a ring boot. -/
def Hw.imageBytes (h : Hw) (o n : Nat) : List Byte :=
  if h.dawn.ringBoot then (List.range n).map fun k => h.dawn.streamed.get 0xFF (o + k) else h.norRead o n

/-- A die runs a firmware section (R564, MGT_VER): its versions, and the pair running. -/
def Hw.runFirmware (h : Hw) (d : Nat) (x : Header) (fw : List Byte) : Hw :=
  let ppv := (Config.firmwarePpv fw).toNat
  let h := ((h.wr d R.MGT_VER_FWVER x.fwVer).wr d R.MGT_VER_PPV ppv).wr d R.MGT_VER_HOFMT (low 8 x.hoFmt)
  { (h.wr d R.MGT_STAT_PAIR 1) with mgt.fwOf := h.mgt.fwOf.put (0, 0, 0, 0, 0) d (x.fwVer, ppv, x.hoFmt, x.peerMin, x.peerMax) }

/-- The commit (R109, R314, R325, R396, R472, R478, R560): held configuration acts, on every die at once. -/
def Hw.commitImage (h : Hw) (x : Header) (supplies : List (Nat × Nat × Nat)) : Hw :=
  let h := (h.heldView h.dawn.held).eachDie fun d h => if h.portLive d 4 then h else h.flushPort d 4
  let fw := h.imageBytes x.fwOff x.fwLen
  let h := { h with cfg := { h.cfg with committed := true, header := x, fwHash := hashBytes (Config.sha384 fw) } }
  let h := (h.wr 0 R.NOD_IMGGEN_GEN x.gen).wr 0 R.NOD_IMGGEN_FWVER x.fwVer
  let h := h.eachDie fun d h =>
    ((h.runFirmware d x fw).wr d R.MGT_STAT_MIRROR (b2n (decide (1 < h.dies)))).wr d R.CIS_RESV_RESV (h.reservedCells d)
  let h := { h with nightDom.tampCfg := low 7 (h.regAt (R.VLT_TAMPCFG_LOOPEN.key 0 0 0)).toNat }
  let h := (h.sendWlhConf).wr 0 R.NOD_DAWN_STEP (if h.node.replay then 8 else 7)
  let h := h.eachDie fun d h => iter 12 (fun b h =>
    h.checkBank d b (((supplies.find? fun (s : Nat × Nat × Nat) => s.1 == d && s.2.1 == b).map fun s => s.2.2).getD (h.rd d R.MIO_BANK_VSEL b))) h
  let h := h.eachDie fun d h => (h.startPins d).idlePumps d
  let h := if h.node.replay then h else h.eachDie fun d h => h.acquireAll d true
  (if h.node.replay then h else h.fieldPower true).checkGuar

/-- The END record closes the image (R86, R96, R102, R629): relations at 0x0A, the hash at 0x07, a missing record at 0x0B,
then the commit. A missing record has no SEQ of its own (R108): NOD_DAWNERR shows END's (LOG 17). -/
def Hw.endImage (h : Hw) (x : HeldRec × Bool) (hd : Header) (supplies : List (Nat × Nat × Nat)) : Hw :=
  let code := (h.heldView h.dawn.held).judgeEnd h.dawn.held x
  let hash := hashBytes (Config.sha384 (h.imageBytes 0x200 (hd.imgLen - 0x200)))
  if code ≠ 0 ∧ code ≠ 0x0B then h.dawnFail code x.1.seq
  else
    let h := h.wr 0 R.NOD_DAWN_STEP 6
    if hash ≠ hd.imgHash then h.dawnFail 0x07 0
    else if code ≠ 0 then h.dawnFail code x.1.seq
    else h.commitImage hd supplies

/-- END_RECORD (R86, R629): the END record and the firmware section from the NOR; in a ring boot both come from the stream,
which must be whole. `supplies` names the banks whose supply differs from VSEL: die, bank, what it is. -/
def endRecord (first reread : List Word) (firmware : List Byte) (supplies : List (Nat × Nat × Nat)) (h : Hw) : Hw :=
  match h.dawn.header with
  | none => h
  | some hd =>
    if h.node.state ≠ .dawn ∨ h.dawnStep ≠ 5 then h
    else if h.dawn.ringBoot then
      if h.dawn.streamLen < hd.imgLen then h
      else
        match takeRecord (h.imageBytes h.nextRecord (h.dawn.streamLen - h.nextRecord)) with
        | none => h.dawnFail 0x08 0
        | some (ws, _) =>
          match parseRecord ws with
          | none => h.dawnFail 0x08 (recordSeq ws)
          | some x => if x.1.typ = 0xFF then h.endImage x hd supplies else h
    else
      match readTwice first reread with
      | none => h.dawnFail 0x08 (recordSeq reread)
      | some (x, ws) =>
        if x.1.typ ≠ 0xFF then h
        else
          let h := (h.norWrite h.nextRecord (rawRecord ws)).norWrite hd.fwOff (slice firmware 0 hd.fwLen)
          h.endImage x hd supplies

/-- END_RECORD -/
def execEndRecord (first reread : List Word) (firmware : List Byte) (supplies : List (Die × Fin 12 × Fin 4)) (s : State) :
    Host.Outcome State Fault Refusal :=
  s.on (endRecord first reread firmware (supplies.map fun x => (x.1.val, x.2.1.val, x.2.2.val)))

/-! ## Steps 7 to 9 -/

/-- KEYTREE_UNWRAP (R86, R539 to R551): `failed` names the dies whose key reconstruction fails. -/
def keytreeUnwrap (failed : List Nat) (h : Hw) : Hw :=
  if h.node.state ≠ .dawn ∨ h.dawnStep ≠ 7 then h
  else if failed.any fun d => decide (d < h.dies) then h.dawnFail 0x0D 0
  else
    let (ok, h) := h.loadTree
    if !ok then h.dawnFail 0x0A 0
    else
      ((h.wr 0 R.VLT_STAT_TREEOK 1).wr 0 R.VLT_STAT_CACHEOK (b2n h.vlt.cacheUsed)).wr 0 R.VLT_STAT_ENTOK (b2n (!h.vlt.entFail))
        |>.wr 0 R.NOD_DAWN_STEP 8

/-- KEYTREE_UNWRAP -/
def execKeytreeUnwrap (failed : List Die) (s : State) : Host.Outcome State Fault Refusal :=
  s.on (keytreeUnwrap (failed.map (·.val)))

/-- A ring port at the start of step 9 (R93, R133, R231): an unattached port goes Down; an attached one in Down trains, and
one in Active or Passive trains again where its reservations differ from what it granted, or where it came up in a ring
boot on default link parameters and the image authenticates links. -/
def Hw.portAtNine (h : Hw) (d p : Nat) : Hw :=
  let st := h.rd d R.RNG_PSTAT_STATE p
  let up := h.portUp d p
  let changed := (List.range 4).any fun c => h.rd d R.SWC_INRES_RES p c != (h.port d p).grants.get 0 c
  if !(h.attached d).contains p then
    if up then h.leaveUp d p 0 else if st = 0 ∨ st = 4 then h else h.movePort d p 0
  else if up ∧ (changed ∨ (h.dawn.ringBoot ∧ h.on d R.RNG_CFG_AUTHEN)) then (h.leaveUp d p 0).enterTraining d p
  else h.trainPort d p

/-- Replay mode skips step 9 (R534): the node enters Run with every journal in Replay loading. -/
def Hw.enterReplay (h : Hw) : Hw :=
  let h := { h.wr 0 R.NOD_DAWN_STEP 10 with node.stepTen := true }
  (h.eachDie fun d h => h.wr d R.JRN_STAT_STATE 4).moveTo .run 0

/-- BUILT_IN_SELF_TEST (R85, R110, R111): every die's result; a failed unit on any die quarantines the node. Step 9 trains
the ring ports; without trains on the ring the awaiting-train event is recorded. -/
def selfTest (fails : List (Nat × Nat)) (trains : Bool) (h : Hw) : Hw :=
  if h.node.state ≠ .dawn ∨ h.dawnStep ≠ 8 then h
  else
    let failOf := fun (d : Nat) => ((fails.find? fun f => f.1 == d).map (·.2)).getD 0
    let h := h.eachDie fun d h => (h.wr d R.NOD_BIST_FAIL (failOf d)).wr d R.NOD_BIST_DONE 1
    if (List.range h.dies).any fun d => failOf d != 0 then h.dawnFail 0x0D 0
    else if h.node.replay then h.enterReplay
    else
      let h := h.wr 0 R.NOD_DAWN_STEP 9
      let h := h.eachDie fun d h => iter 4 (fun p h => h.portAtNine d p) h
      if trains then h else h.report h.node.owner 0x01 .awaitingTrain

/-- BUILT_IN_SELF_TEST -/
def execBuiltInSelfTest (fails : List (Die × BitVec 8)) (trains : Bool) (s : State) : Host.Outcome State Fault Refusal :=
  s.on (selfTest (fails.map fun x => (x.1.val, x.2.toNat)) trains)

/-! ## Ring boot and the image server (R93 to R95, R106) -/

/-- RING_BOOT_TIMEOUT (R86): no image complete within 10 s. -/
def ringBootTimeout (h : Hw) : Hw :=
  if h.node.state = .dawn ∧ h.dawn.ringBoot ∧ h.cfg.committed = false then h.dawnFail 0x0C 0 else h

/-- RING_BOOT_TIMEOUT -/
def execRingBootTimeout (s : State) : Host.Outcome State Fault Refusal := s.on ringBootTimeout

/-- BOOT_REQUEST (R94, R106): the first request that comes while no stream runs is answered from the first entry that names
the requester's variant. -/
def bootRequest (part : Part) (node : Nat) (h : Hw) : Hw :=
  let s := h.node.state
  if !(s == .run || s == .degraded || s == .safe) || h.cfg.serving.isSome then h
  else
    match h.cfg.serves.find? fun e => bit e.partMask part.maskBit with
    | none => h
    | some e => { h with cfg.serving := some (node, e.off, e.off + e.len) }

/-- BOOT_REQUEST -/
def execBootRequest (die : Die) (port : Fin 4) (part : Part) (node : BitVec 16) (s : State) : Host.Outcome State Fault Refusal :=
  s.onDie die fun h => if h.portUp die.val port.val then bootRequest part node.toNat h else h

/-- The next cell of a stream being served (R94): 64 bytes of the stored image, class 2. -/
def Hw.serveCell (h : Hw) : Hw :=
  match h.cfg.serving with
  | none => h
  | some (node, o, e) =>
    let d := h.node.owner
    if !h.mayPresent d 7 2 then h
    else
      let h := h.offer d 7 (blankCell 2 node 0 552 h.nodeId d (h.norRead o 64))
      { h with cfg.serving := if e ≤ o + 64 then none else some (node, o + 64, e) }

/-- Records of a stream that have come whole, short of END (R95, R107): a CRC failure ends the boot, there being no slower
read to try. -/
def streamRecords : Nat → Hw → Hw
  | 0, h => h
  | n + 1, h =>
    if h.node.state ≠ .dawn ∨ h.dawn.streamLen < h.nextRecord + 12 then h
    else
      match takeRecord (h.imageBytes h.nextRecord (h.dawn.streamLen - h.nextRecord)) with
      | none => h
      | some (ws, _) =>
        if low 16 (ws.headD 0).toNat = 0xFF then h
        else
          match parseRecord ws with
          | none => h.dawnFail 0x08 (recordSeq ws)
          | some x => streamRecords n (h.holdRecord x (rawRecord ws))

/-- The header is read as soon as it has come. -/
def Hw.tryHeader (h : Hw) : Hw :=
  if h.dawn.header.isNone ∧ 512 ≤ h.dawn.streamLen then h.takeHeader (h.imageBytes 0 512) else h

/-- The stream is worked as far as it has come. -/
def Hw.workStream (h : Hw) : Hw :=
  if h.tryHeader.dawn.header.isSome ∧ h.tryHeader.dawnStep = 5 then streamRecords 8 h.tryHeader else h.tryHeader

/-- IMAGE_STREAM_CELL (R94, R95): the next 64 bytes from the first server that answered. -/
def imageStreamCell (server : Nat × Nat) (bytes : List Byte) (h : Hw) : Hw :=
  if h.node.state ≠ .dawn ∨ h.dawn.ringBoot = false ∨ h.cfg.committed then h
  else if h.dawn.server.getD server ≠ server then h
  else
    let w := h.dawn
    let m := iter 64 (fun k m => m.put 0xFF (w.streamLen + k) (bytes.getD k 0)) w.streamed
    { h with dawn := { w with server := some server, streamed := m, streamLen := w.streamLen + 64 } }.workStream

/-- IMAGE_STREAM_CELL -/
def execImageStreamCell (server : BitVec 16) (serverDie : Die) (bytes : List Byte) (s : State) : Host.Outcome State Fault Refusal :=
  s.on (imageStreamCell (server.toNat, serverDie.val) bytes)

/-! ## The test access port (R72 to R79) -/

def Hw.tap (h : Hw) (d : Nat) : Tap := h.taps.get .init d

/-- Load an instruction: EXTEST, HIGHZ and CLAMP are in force only in Quarantine, else the die acts as under BYPASS (R77);
the pins follow. -/
def Hw.loadIr (h : Hw) (d ir : Nat) (f : Tap → Tap) : Hw :=
  let force : Bool := (ir == 0x00 || ir == 0x03 || ir == 0x04) && h.node.state == .quarantine
  let priv : Bool := ir == 0x21 && h.debugOpen
  let t := f { h.tap d with ir := ir, inForce := force, mdbg := priv }
  ({ h with taps := h.taps.put .init d { t with bypass := false } }).refreshPins d

/-- The cells of a die's boundary register (R76): the MIO pins, PERST_N, and on D0 the 29 digital shared balls of R61 in its order from
PORST_N to LOG_WP_N less the test port's; which place each has is the model's choice (LOG 176). -/
def boundaryCells (d : Nat) : Nat := if d = 0 then 222 else 193

/-- The boundary register as captured (R76): each pin's level at its ball, and of the other balls the levels given. -/
def Hw.capturePins (h : Hw) (d : Nat) (levels : List (Nat × Bool)) : SMap Bool :=
  let pins := iter 192 (fun p m => m.put false p (h.pin d p).sync) .empty
  each (levels.filter fun x => decide (192 ≤ x.1) && decide (x.1 < boundaryCells d)) (fun x m => m.put false x.1 x.2) pins

/-- A scan of the boundary register: it captures the balls and takes the cells shifted in. -/
def Hw.scanCells (h : Hw) (d : Nat) (shifted levels : List (Nat × Bool)) (t : Tap) : Tap :=
  { t with captured := h.capturePins d levels,
           boundary := each (shifted.filter fun x => decide (x.1 < boundaryCells d)) (fun x m => m.put false x.1 x.2) t.boundary }

/-- EXTEST (R72, R76, R77): in force it selects the boundary register. Loaded as the node leaves Quarantine in the same core cycle, it
acts as BYPASS (R79). -/
def extest (d : Nat) (shifted levels : List (Nat × Bool)) (leaving : Bool) (h : Hw) : Hw :=
  h.loadIr d 0x00 fun t => if leaving then { t with inForce := false } else if t.inForce then h.scanCells d shifted levels t else t

/-- EXTEST -/
def execExtest (die : Die) (shifted levels : List (Nat × Bool)) (leaving : Bool) (s : State) : Host.Outcome State Fault Refusal :=
  s.onDie die (extest die.val shifted levels leaving)

/-- SAMPLE/PRELOAD (R72, R76): the boundary register captures the pins and takes the values shifted in. -/
def samplePreload (d : Nat) (preload levels : List (Nat × Bool)) (h : Hw) : Hw := h.loadIr d 0x01 (h.scanCells d preload levels)

def execSamplePreload (die : Die) (preload levels : List (Nat × Bool)) (s : State) : Host.Outcome State Fault Refusal :=
  s.onDie die (samplePreload die.val preload levels)

/-- IDCODE (R75) -/
def execIdcode (die : Die) (s : State) : Host.Outcome State Fault Refusal := s.onDie die fun h => h.loadIr die.val 0x02 id

/-- HIGHZ -/
def execHighz (die : Die) (s : State) : Host.Outcome State Fault Refusal := s.onDie die fun h => h.loadIr die.val 0x03 id

/-- CLAMP -/
def execClamp (die : Die) (s : State) : Host.Outcome State Fault Refusal := s.onDie die fun h => h.loadIr die.val 0x04 id

/-- BYPASS (R72, R73): 0x3F and every code listed in no table. -/
def execBypass (die : Die) (code : BitVec 6) (s : State) : Host.Outcome State Fault Refusal :=
  s.onDie die fun h =>
    let c := code.toNat
    h.loadIr die.val (if c ≤ 4 ∨ c = 0x20 ∨ c = 0x21 then 0x3F else c) id

/-- RPLY (R74, R533): standing in D0 at the end of Dawn step 2 it selects Replay mode; loaded later it has no effect. -/
def execRply (die : Die) (s : State) : Host.Outcome State Fault Refusal := s.onDie die fun h => h.loadIr die.val 0x20 id

/-- MDBG (R74): while debug access is open it connects the management pair's debug port and takes 64 bits into its data register. -/
def mdbg (d shifted : Nat) (h : Hw) : Hw := h.loadIr d 0x21 fun t => if t.mdbg then { t with mdbgData := shifted } else t

def execMdbg (die : Die) (shifted : Dword) (s : State) : Host.Outcome State Fault Refusal := s.onDie die (mdbg die.val shifted.toNat)

/-- The data register of a die under the instruction it holds (R72 to R76), the bit that leaves it first at the head. -/
def Hw.tapData (h : Hw) (d : Nat) : List Bool :=
  let t := h.tap d
  if t.ir = 0x01 ∨ (t.ir = 0x00 ∧ t.inForce) then (List.range (boundaryCells d)).map fun k => t.captured.get false k
  else if t.ir = 0x02 then (List.range 32).map fun k => bit 0x2B1015CB k
  else if t.ir = 0x20 ∧ d = 0 ∧ h.debugOpen then [h.node.replay]
  else if t.ir = 0x21 ∧ h.debugOpen then (List.range 64).map fun k => bit t.mdbgData k
  else [t.bypass]

/-- What a data scan of the chain shifts out of TDO (R72): TDI feeds D0, each die the next, and the highest die drives TDO, so its bits
come first. -/
def Hw.chainData (h : Hw) : List Bool := (List.range h.dies).reverse.flatMap h.tapData

/-- TEST_LOGIC_RESET (R78): every controller of the chain goes to Test-Logic-Reset. -/
def testLogicReset (h : Hw) : Hw := { h with taps := .empty }.refreshAll

def execTestLogicReset (s : State) : Host.Outcome State Fault Refusal := s.on testLogicReset

end Sys2Proof.Machine
end

