-- ==== Sys2Proof/Machine/Mgmt.lean ====
section
/-!
DEFINITION. The update transaction (chapter "Management pair and hitless update", R570 to R583): staging, the checks of a
commit, the write of the configuration NOR, the handover of each die, and the write-back of a ring-booted image.
-/

namespace Sys2Proof.Machine

/-- MGT_USTAT.USTATE: 0 idle, 1 receiving, 2 checking, 3 writing NOR, 4 handover, 5 done, 6 ended with a code. -/
def Hw.ustate (h : Hw) : Nat := h.rd 0 R.MGT_USTAT_USTATE

/-- May the loader open an update now (R573)? -/
def Hw.loaderState (h : Hw) : Bool := h.node.state == .run || h.node.state == .degraded || h.node.state == .safe

/-- UPDATE_START (R573, R579, R582): the effect of an accepted START. -/
def updateStart (h : Hw) : Hw :=
  if h.loaderState = false then h
  else
    let h := h.wr 0 R.MGT_UCMD_CMD 1
    if h.mgt.isOpen then h.wr 0 R.MGT_USTAT_CODE 0x0C
    else
      let h := { h with mgt := { h.mgt with isOpen := true, staged := .empty, stagedLen := 0, norDone := false, handed := [], readbackFails := 0,
                                            oldFw := h.rd h.node.owner R.MGT_VER_FWVER } }
      let h := ((h.wr 0 R.MGT_USTAT_USTATE 1).wr 0 R.MGT_USTAT_CODE 0).wr 0 R.MGT_ULEN_BYTES 0
      (h.stageRequested (h.updateBody 1 0 0)).report h.node.owner 0x03 .updateEvent 0x100

/-- UPDATE_START -/
def execUpdateStart (s : State) : Host.Outcome State Fault Refusal := s.on updateStart

/-- Would four more bytes exceed the spare above SPARE, or the IMGLEN of a header already received (R573)? -/
def Hw.stageFull (h : Hw) : Bool :=
  let n := h.mgt.stagedLen + 4
  let d := h.node.owner
  decide (h.spareCells d < h.rd d R.CIS_SPARE_SPARE + (n + 63) / 64) ||
    (decide (12 ≤ h.mgt.stagedLen) && decide (leNat (h.stagedAt 8 4) < n))

/-- MGT_UDATA (R573): the next 4 bytes of the image; outside reception the write is an access violation. -/
def updateData (d : Nat) (o : Origin) (w : Word) (h : Hw) : Hw :=
  if h.mgt.isOpen = false ∨ h.ustate ≠ 1 then h.violation d o 0xF0014
  else if h.stageFull then h.endUpdate 0x01
  else
    let n := h.mgt.stagedLen
    let m := iter 4 (fun k m => m.put 0 (n + k) ((leBytes 4 w.toNat).getD k 0)) h.mgt.staged
    ({ h with mgt := { h.mgt with staged := m, stagedLen := n + 4 } }).wr 0 R.MGT_ULEN_BYTES (n + 4)

/-- MGT_UDATA -/
def execMgtUdata (die : Die) (origin : Origin) (value : Word) (s : State) : Host.Outcome State Fault Refusal :=
  s.onReg die origin 0xF0014 (updateData die.val origin value)

/-- The firmware floor (R572). -/
def Hw.fwFloor (h : Hw) : Nat := h.otp.fwFloors.getLastD 0

/-- Is the staged firmware compatible with every running die (R571)? -/
def Hw.compatible (h : Hw) (x : Header) : Bool :=
  let ppv := (Config.firmwarePpv (h.stagedAt x.fwOff x.fwLen)).toNat
  (List.range h.dies).all fun d =>
    let (_, runPpv, runFmt, lo, hi) := h.mgt.fwOf.get (0, 0, 0, 0, 0) d
    decide (x.peerMin ≤ runPpv) && decide (runPpv ≤ x.peerMax) && decide (lo ≤ ppv) && decide (ppv ≤ hi) &&
      (runFmt == x.hoFmt || runFmt + 1 == x.hoFmt)

/-- The first failing check of R574, 0 where all pass. -/
def Hw.judgeUpdate (h : Hw) : Nat :=
  let b := h.stagedAt 0 512
  let x := headerOf b
  if h.mgt.stagedLen < 512 || !headerShapeOk b || !headerSigOk b || !h.signerOk x then 0x02
  else if !bit x.partMask h.part.maskBit then 0x03
  else if x.gen < h.otp.genFloor then 0x04
  else if x.fwVer < h.fwFloor then 0x05
  else if h.mgt.stagedLen ≠ x.imgLen ∨ hashBytes (Config.sha384 (h.stagedAt 0x200 (x.imgLen - 0x200))) ≠ x.imgHash then 0x06
  else if Hw.judgeStream x.imgLen x.imgLen h.resetHub [] (h.stagedAt x.recOff (x.imgLen - x.recOff)) ≠ 0 then 0x07
  else if !h.compatible x then 0x08
  else 0

/-- The header sector is erased once the hold-up check passes (R575). -/
def Hw.eraseHeader (h : Hw) : Hw :=
  if !h.mgt.norDone && h.holdupOk h.ldg.staging.length then
    { h.norWrite 0 (List.replicate 512 0xFF) with mgt := { h.mgt with norDone := true } }
  else h

/-- UPDATE_COMMIT (R574, R575): reception closes, the staged image is checked, and the write of the NOR begins. -/
def updateCommit (h : Hw) : Hw :=
  if h.mgt.isOpen = false ∨ h.ustate ≠ 1 then h
  else
    let h := (h.wr 0 R.MGT_UCMD_CMD 2).wr 0 R.MGT_USTAT_USTATE 2
    let code := h.judgeUpdate
    if code ≠ 0 then h.endUpdate code else (h.wr 0 R.MGT_USTAT_USTATE 3).eraseHeader

/-- UPDATE_COMMIT -/
def execUpdateCommit (s : State) : Host.Outcome State Fault Refusal := s.on updateCommit

/-- UPDATE_ABORT (R583): what is open ends; a header already erased stays absent. -/
def updateAbort (h : Hw) : Hw := (h.wr 0 R.MGT_UCMD_CMD 3).endUpdate 0x0B

/-- UPDATE_ABORT -/
def execUpdateAbort (s : State) : Host.Outcome State Fault Refusal := s.on updateAbort

/-- The dies in the order of handover: D1, then D2 upward, then D0 (R576). -/
def Hw.handoverOrder (h : Hw) : List Nat := (List.range (h.dies - 1)).map (· + 1) ++ [0]

/-- The next die of the handover, with HODIE. -/
def Hw.nextHandover (h : Hw) : Option Nat := (h.handoverOrder.filter fun d => !h.mgt.handed.contains d).head?

/-- The handover command to the next die (R576): HODIE names it, and a running pair is in its blackout. -/
def Hw.showHandover (h : Hw) : Hw :=
  match h.nextHandover with
  | some d =>
    let h := h.wr 0 R.MGT_USTAT_HODIE d
    if h.rd d R.MGT_STAT_PAIR = 1 then h.wr d R.MGT_STAT_PAIR 3 else h
  | none => h

/-- NOR_WRITE_COMPLETE (R575, R579): every sector is written and read back. The header goes last and waits for the hold-up
check; a readback that differs is tried again once. -/
def norWriteComplete (equal : Bool) (h : Hw) : Hw :=
  if h.mgt.isOpen = false ∨ h.ustate ≠ 3 then h
  else
    let h := h.eraseHeader
    if !h.mgt.norDone || !h.holdupOk h.ldg.staging.length then h
    else if !equal then
      if 1 ≤ h.mgt.readbackFails then h.endUpdate 0x0A
      else { h with mgt := { h.mgt with readbackFails := h.mgt.readbackFails + 1 } }
    else
      let h := h.norWrite 0 (h.stagedAt 0 h.mgt.stagedLen)
      let h := h.eachDie fun d h => h.flag d R.MGT_STAT_PENDING
      let h := (h.stageRequested (h.updateBody 2 0 0)).report h.node.owner 0x03 .updateEvent 0x200
      (h.wr 0 R.MGT_USTAT_USTATE 4).showHandover

/-- NOR_WRITE_COMPLETE -/
def execNorWriteComplete (equal : Bool) (s : State) : Host.Outcome State Fault Refusal := s.on (norWriteComplete equal)

/-- HOLDUP_WAIT_TIMEOUT (R575): 10 s of waiting for the hold-up check. -/
def holdupWaitTimeout (h : Hw) : Hw := if h.mgt.isOpen ∧ h.ustate = 3 then h.endUpdate 0x09 else h

/-- HOLDUP_WAIT_TIMEOUT -/
def execHoldupWaitTimeout (s : State) : Host.Outcome State Fault Refusal := s.on holdupWaitTimeout

/-- The floor is raised once every die has adopted a newer firmware (R572). -/
def Hw.raiseFwFloor (h : Hw) (fwVer : Nat) : Hw :=
  if h.fwFloor < fwVer ∧ h.otp.fwFloors.length < 48 then
    { h with otp := { h.otp with fwFloors := h.otp.fwFloors ++ [fwVer] } }.stageRequested (h.updateBody 7 0 0)
  else h

/-- The update is complete once no die is left to hand over (R572, R578, R579). -/
def Hw.finishUpdate (h : Hw) (allAdopted : Bool) : Hw :=
  if h.nextHandover.isSome then h.showHandover
  else
    let x := headerOf (h.stagedAt 0 512)
    let h := if allAdopted then h.raiseFwFloor x.fwVer else h
    let h := (h.stageRequested (h.updateBody 4 0 0)).report h.node.owner 0x03 .updateEvent 0x400
    { h.wr 0 R.MGT_USTAT_USTATE 5 with mgt := { h.mgt with isOpen := false, staged := .empty, stagedLen := 0, norDone := false, handed := [] } }

/-- Does every die run the staged firmware? -/
def Hw.allAdopted (h : Hw) : Bool :=
  let x := headerOf (h.stagedAt 0 512)
  (List.range h.dies).all fun d => h.rd d R.MGT_VER_FWVER == x.fwVer && h.pairRuns d

/-- The die in handover does not come up with the new firmware (R577): its pair has failed, and HOFAIL is set. The die is
restarted from the staged copy, so its versions are the new ones. -/
def Hw.handoverFails (h : Hw) (d : Nat) (x : Header) : Hw :=
  let h := (h.runFirmware d x (h.stagedAt x.fwOff x.fwLen)).stopPair d 0x91
  (h.flag d R.MGT_STAT_HOFAIL).report h.node.owner 0x03 .updateEvent (0x500 + d)

/-- HANDOVER (R576 to R579): the die in HODIE answers its new firmware's handover block after a blackout in µs. -/
def handover (accepts : Bool) (blackout : Nat) (h : Hw) : Hw :=
  if h.mgt.isOpen = false ∨ h.ustate ≠ 4 then h
  else
    match h.nextHandover with
    | none => h
    | some d =>
      let x := headerOf (h.stagedAt 0 512)
      let h := { h with mgt := { h.mgt with handed := h.mgt.handed ++ [d] } }
      let h := h.wr 0 R.MGT_USTAT_BLACKMAX (max (h.rd 0 R.MGT_USTAT_BLACKMAX) (min 65535 blackout))
      let h := if accepts then (h.runFirmware d x (h.stagedAt x.fwOff x.fwLen)).stageRequested (h.updateBody 3 0 d)
        else h.handoverFails d x
      h.finishUpdate h.allAdopted

/-- HANDOVER -/
def execHandover (accepts : Bool) (blackout : BitVec 16) (s : State) : Host.Outcome State Fault Refusal :=
  s.on (handover accepts blackout.toNat)

/-- HANDOVER_TIMEOUT (R577): 25 ms after its command the die has not resumed its heartbeat. -/
def handoverTimeout (h : Hw) : Hw :=
  if h.mgt.isOpen = false ∨ h.ustate ≠ 4 then h
  else
    match h.nextHandover with
    | none => h
    | some d =>
      let x := headerOf (h.stagedAt 0 512)
      let h := { h with mgt := { h.mgt with handed := h.mgt.handed ++ [d] } }
      let h := h.wr 0 R.MGT_USTAT_BLACKMAX (max (h.rd 0 R.MGT_USTAT_BLACKMAX) 25000)
      (h.handoverFails d x).finishUpdate false

/-- HANDOVER_TIMEOUT -/
def execHandoverTimeout (s : State) : Host.Outcome State Fault Refusal := s.on handoverTimeout

/-- RING_BOOT_WRITE_BACK (R581): the image as it came again from a server, written part by part with the header last and
only where its hash is the header's. A ring boot selected by strap writes nothing. -/
def ringBootWriteBack (bytes : List Byte) (h : Hw) : Hw :=
  let hd := h.cfg.header
  if h.loaderState = false ∨ h.node.replay ∨ h.rd 0 R.NOD_DAWN_FALLBACK = 0 ∨ h.rd 0 R.NOD_DAWN_SRC ≠ 3 ∨
      h.on 0 R.MGT_CFG_RBWB = false ∨ h.mgt.isOpen then h
  else
    let h := (h.norWrite 0 (List.replicate 512 0xFF)).norWrite 0x200 (slice bytes 0x200 (hd.imgLen - 0x200))
    if hashBytes (Config.sha384 (slice bytes 0x200 (hd.imgLen - 0x200))) = slice bytes 0x30 48 ∧ slice bytes 0x30 48 = hd.imgHash ∧
        h.holdupOk h.ldg.staging.length then
      let h := h.norWrite 0 (slice bytes 0 512)
      let w := fun i => leAt hd.imgHash (4 * i) 4
      h.stageRequested (ledgerBody 0x05 .loader (6 + hd.fwVer * 2 ^ 32 + hd.fwVer * 2 ^ 48) (w 0) (w 1) (w 2) (w 3) (some h.node.owner))
    else h

/-- RING_BOOT_WRITE_BACK -/
def execRingBootWriteBack (bytes : List Byte) (s : State) : Host.Outcome State Fault Refusal := s.on (ringBootWriteBack bytes)

end Sys2Proof.Machine
end

