-- ==== Sys2Proof/Machine/Journal.lean ====
section
/-!
DEFINITION. The replay journal (chapter "Replay journal"): the circle in SRAM and its stream, digests, checkpoints, freezes
and re-arming (R521 to R532). Replay itself is in Machine/Replay.lean.
-/

namespace Sys2Proof.Machine

/-! ## The circle and the stream (R526, R527) -/

/-- Words of the journal SRAM. -/
def jrnSize : Nat := 524288

/-- Put one word into the circle. -/
def Hw.jrnStore (h : Hw) (d w : Nat) : Hw :=
  let j := h.jrn d
  let n := (j.next + 1) % jrnSize
  h.setJrn d { j with words := j.words.put 0 j.next w, next := n, wraps := if n = 0 then (j.wraps + 1) % 8192 else j.wraps,
                      filled := min jrnSize (j.filled + 1),
                      undrained := if h.on d R.JRN_CFG_MODE then min jrnSize (j.undrained + 1) else 0 }

/-- One word of the input buffer goes to SRAM; in stream mode a word is never overwritten before it has drained. -/
def Hw.jrnDrain (h : Hw) (d : Nat) : Hw :=
  let j := h.jrn d
  match j.buffer with
  | [] => h
  | w :: rest =>
    if h.on d R.JRN_CFG_MODE ∧ jrnSize ≤ j.undrained then h
    else (h.setJrn d { j with buffer := rest }).jrnStore d w

/-- The whole input buffer goes to SRAM. -/
def Hw.jrnFlush (h : Hw) (d : Nat) : Hw := each (h.jrn d).buffer (fun w h => h.jrnStore d w) (h.setJrn d { h.jrn d with buffer := [] })

/-- The next stream cell of Q832 (R527): header and seven words, oldest first; in Frozen the last cell is filled up with
zeros. -/
def Hw.jrnStream (h : Hw) (d : Nat) : Hw :=
  let j := h.jrn d
  if h.on d R.JRN_CFG_MODE ∧ (7 ≤ j.undrained ∨ (h.rd d R.JRN_STAT_STATE = 3 ∧ 0 < j.undrained)) ∧ ¬h.node.replay then
    let n := min 7 j.undrained
    let first := j.next + jrnSize - j.undrained
    let body := (List.range 7).flatMap fun k => leBytes 8 (if k < n then j.words.get 0 ((first + k) % jrnSize) else 0)
    let (ok, h) := h.localCell d 832 ([0x50, 0x01, BitVec.ofNat 8 d, 0] ++ leBytes 4 j.sseq ++ body)
    if ok then h.setJrn d { h.jrn d with undrained := j.undrained - n, sseq := (j.sseq + 1) % 2 ^ 32 } else h
  else h

/-- What the journal of a die does in one core cycle. -/
def Hw.jrnCycle (h : Hw) (d : Nat) : Hw := ((h.jrnClose d).jrnDrain d).jrnStream d

/-- Is this core cycle a digest boundary: its count a multiple of 1,250,000 (R524)? -/
def Hw.digestBoundary (h : Hw) : Bool := h.now % 1250000 == 0

/-! ## Digests (R519, R524, R525) -/

/-- The formed level and output enable of a pin, in Replay mode as in service (R536). -/
def Hw.formedLevel (h : Hw) (d p : Nat) : Nat := b2n (h.drivenBit d p) + 2 * b2n (h.formDrive d p).isSome

/-- Component 0: every pin in order, less those of compact trackers (R520). -/
def Hw.digestPins (h : Hw) (d : Nat) : List Nat :=
  (List.range 192).map fun p => if h.phaseJournaled d p then 0 else h.formedLevel d p

/-- Component 1: every Pump. -/
def Hw.digestPumps (h : Hw) (d : Nat) : List Nat :=
  (List.range 64).flatMap fun n =>
    [h.rd d R.PMP_STAT_STATE n, h.rd d R.PMP_STAT_IP n, h.rd d R.PMP_X_VALUE n, h.rd d R.PMP_Y_VALUE n, h.rd d R.PMP_GS_VALUE n,
     h.rd d R.PMP_PS_VALUE n, h.rd d R.PMP_CNT_LC n, h.rd d R.PMP_CNT_PCT n, h.rd d R.PMP_CNT_GCT n]

/-- The configured queues of a die: those that a window word configures, and those that hold cells. -/
def Hw.liveQueues (h : Hw) (d : Nat) : List Nat :=
  (h.queues.entries.filter fun e => e.1 / 8192 == d).map fun e => e.1 % 8192

/-- Component 2: head, tail, OCC and EPOCH of every configured queue, and CIS_POOL. -/
def Hw.digestQueues (h : Hw) (d : Nat) : List Nat :=
  h.poolFree d :: (h.liveQueues d).flatMap fun q =>
    let c := (h.cq d q).cells
    [q, ((c.head?).map (·.index)).getD 0, ((c.getLast?).map (·.index)).getD 0, c.length, h.qrd d q Q.QSTAT_EPOCH]

/-- Component 3: switch pointers, reservations in use and output occupancies. -/
def Hw.digestSwitch (h : Hw) (d : Nat) : List Nat :=
  let s := h.switch d
  (List.range 10).flatMap fun p =>
    [s.gptr1.get 0 p, s.gptr2.get 0 p, s.aptr.get 0 p, h.outputCells d p] ++
    (List.range 4).map fun c => h.rd d R.SWC_INRES_USE p c

/-- Component 4: every CAN controller. -/
def Hw.digestCans (h : Hw) (d : Nat) : List Nat :=
  (List.range 16).flatMap fun k => [h.canState d k, h.rd d R.CAN_ERR_TEC k, h.rd d R.CAN_ERR_REC k, (h.can d k).rxseq]

/-- Component 5: every tracker, and NEXT of every pending entry. -/
def Hw.digestPhase (h : Hw) (d : Nat) : List Nat :=
  ((List.range 8).flatMap fun t => [h.trkState d t, h.estimate d t, toTwos 64 (h.trk d t).w]) ++
  (h.evt d).pending.flatMap fun e => [e, ((h.evt d).next.get none e).getD 0]

/-- Component 6: port states, LES, LSEQ and credits; fabric time and r. -/
def Hw.digestRing (h : Hw) (d : Nat) : List Nat :=
  ((List.range 4).flatMap fun p =>
    let x := h.port d p
    [h.rd d R.RNG_PSTAT_STATE p, h.rd d R.RNG_PSTAT_LES p, x.txNext, x.rxNext] ++
    (List.range 4).flatMap fun c => [x.used.get 0 c, x.lastCredit.get 0 c, x.freed.get 0 c]) ++
  [h.fabricNs, h.fabricFr, toTwos 64 h.ftm.r]

/-- The eight components of a die's digest (R524). -/
def Hw.digestWords (h : Hw) (d : Nat) : List Word :=
  [Config.digestCrc 0 (h.digestPins d), Config.digestCrc 1 (h.digestPumps d), Config.digestCrc 2 (h.digestQueues d),
   Config.digestCrc 3 (h.digestSwitch d), Config.digestCrc 4 (h.digestCans d), Config.digestCrc 5 (h.digestPhase d),
   Config.digestCrc 6 (h.digestRing d), Config.digestCrc 7 (h.jrn d).pirWrites.reverse]

/-- Two words to a journal word, the even component low. -/
def pairWords : List Nat → List Nat
  | a :: b :: rest => (a + b * 2 ^ 32) :: pairWords rest
  | [a] => [a]
  | [] => []

/-- The Wellhouse snapshot of a digest boundary (R519), on the dies with a Wellhouse link. -/
def Hw.journalWell (h : Hw) (d : Nat) : Hw :=
  if d < 2 then
    let reg := fun (F : Fld) => (h.regAt (F.key d 0 0)).toNat
    h.journal d 6 (reg R.WLH_STAT_PG % 2 ^ 16)
      (pairWords [reg R.WLH_VAB_VLO, reg R.WLH_VOH_VLO, reg R.WLH_VF_VLO, reg R.WLH_VFLD_VLO, reg R.WLH_IAB_ILO, reg R.WLH_IF_ILO,
        reg R.WLH_IHS_ILO, reg R.WLH_HUE_E])
  else h

/-- The recorded digest that the replay of a die has reached: the four words behind a DIGEST record at the replay place. -/
def Hw.recordedDigest (h : Hw) (d : Nat) : Option (List Nat) :=
  let j := h.jrn d
  if bits (j.words.get 0 j.replayPos) 60 4 = 8 then
    some ((List.range 8).map fun c => bits (j.words.get 0 ((j.replayPos + 1 + c / 2) % jrnSize)) (32 * (c % 2)) 32)
  else none

/-- The components in which two digests differ, as a mask. -/
def diffMask (a b : List Nat) : Nat :=
  (List.range 8).foldl (fun m c => if a.getD c 0 = b.getD c 0 then m else m + 2 ^ c) 0

/-- The first divergence of a die (R537): DIV, the cycle, the mask and both values. -/
def Hw.diverge (h : Hw) (d m : Nat) (expected got : List Nat) : Hw :=
  let h := (((h.flag d R.JRN_STAT_DIV).wr d R.JRN_DIVLO_VALUE (low 32 h.now)).wr d R.JRN_DIVHI_VALUE (h.now / 2 ^ 32)).wr d R.JRN_DIVMASK_MASK m
  let h := iter 8 (fun c h => (h.wr d R.JRN_DIVEXP_CRC (expected.getD c 0) c).wr d R.JRN_DIVGOT_CRC (got.getD c 0) c) h
  if h.on 0 R.JRN_RCTL_CONT then h else h.eachDie fun e h => if h.rd e R.JRN_STAT_STATE = 5 then h.wr e R.JRN_STAT_STATE 6 else h

/-- The comparison in Replay running (R537). -/
def Hw.compareDigest (h : Hw) (d : Nat) : Hw :=
  match h.recordedDigest d with
  | none => h
  | some want =>
    let got := (h.digestWords d).map (·.toNat)
    let m := diffMask want got
    let h := h.bump d R.JRN_DIVMASK_COMPARED
    if m = 0 ∨ h.on d R.JRN_STAT_DIV then h else h.diverge d m want got

/-- DIGEST (R519, R524, R537): at every digest boundary each die writes a Wellhouse snapshot and a DIGEST record; in Replay it compares.
In another core cycle none is due. -/
def digest (d : Nat) (h : Hw) : Hw :=
  if h.rd d R.JRN_STAT_STATE = 5 then
    let h := h.compareDigest d
    h.setJrn d { h.jrn d with pirWrites := [] }
  else if !h.digestBoundary then h
  else if h.journaling d then
    let rate := (h.jrn d).bytesMs
    let h := h.wr d R.JRN_RATE_RATEHW (max (h.rd d R.JRN_RATE_RATEHW) (min rate 0xFFFFFF))
    let h := h.setJrn d { h.jrn d with bytesMs := 0 }
    let h := (h.journalWell d).journal d 8 0 (pairWords ((h.digestWords d).map (·.toNat)))
    h.setJrn d { h.jrn d with pirWrites := [] }
  else h.setJrn d { h.jrn d with pirWrites := [] }

def execDigest (die : Die) (s : State) : Host.Outcome State Fault Refusal := s.onDie die (digest die.val)

/-! ## Checkpoints (R521 to R523) -/

/-- Is a checkpoint of a die due (R521)? -/
def Hw.ckptNow (h : Hw) (d : Nat) : Bool :=
  h.journaling d && !(h.jrn d).inLoss &&
    ((h.jrn d).ckptDue ||
     (h.rd d R.JRN_CKPT_PERIOD != 0 && decide ((h.jrn d).ckptAt + h.rd d R.JRN_CKPT_PERIOD * 12500000 ≤ h.now)))

/-- A CKPT record: memory code, unit, contents. -/
def ckptRecord (memory unit : Nat) (ext : List Nat) : List Nat := jrnWord 0xA ext.length 0 (low 4 memory + low 34 unit * 2 ^ 4) :: ext

/-- Code 0: a cell with its link RAM entry. -/
def ckptCell (q : Nat) (c : CCell) : List Nat :=
  ckptRecord 0 c.index (dwords 8 c.cell.data ++
    [(Config.ckptWord 0 c.index [q, c.src, c.cell.klass, c.cell.dnode, c.cell.ddie, c.cell.dq, c.words,
      c.cell.fill, c.cell.snode, c.cell.sdie, c.read, b2n c.closed]).toNat])

/-- Codes 0 and 1: the occupied cells and the queue descriptors. -/
def Hw.ckptQueues (h : Hw) (d : Nat) : List Nat :=
  ((h.liveQueues d).flatMap fun q => (h.cq d q).cells.flatMap fun c => ckptCell q c) ++
  (h.liveQueues d).flatMap fun q =>
    ckptRecord 1 q [(Config.ckptWord 1 q ((h.cq d q).cells.map (·.index))).toNat]

/-- The 32-bit units of the Process Image RAM that BUCKET entries and PHS_TPIO name. -/
def Hw.ckptUnits (h : Hw) (d : Nat) : List Nat :=
  ((h.train d).buckets.flatMap fun b => if b.kind = 3 then [] else (List.range b.len).map (b.pioff + ·)) ++
  (List.range 8).flatMap fun t =>
    if h.rd d R.PHS_TPIO_PIOFF t = 0 then [] else (List.range 4).map (4 * h.rd d R.PHS_TPIO_PIOFF t + ·)

/-- The blocks that lie inside the replay domain (R510): all but the pages of NOD, WLH, LDG, JRN, VLT, MGT and FLT. -/
def domainReg (off : Nat) : Bool := !([0x0, 0xA, 0xB, 0xD, 0xE, 0xF, 0x10].contains (off / 0x10000))

/-- The code of R522 under which a register is copied: event entries, Pump programs, CAN filters, other registers. -/
def ckptCode (off : Nat) : Nat :=
  if 0x74000 ≤ off ∧ off < 0x80000 then 3
  else if off / 0x10000 = 4 ∧ 0x80 ≤ off % 0x400 ∧ off % 0x400 < 0x200 then 4
  else if off / 0x10000 = 6 ∧ 0x100 ≤ off % 0x800 then 5
  else 6

/-- Codes 3 to 6: the registers of a die inside the domain, and what no register shows. -/
def Hw.ckptRegs (h : Hw) (d : Nat) : List Nat :=
  (h.regs.entries.filter fun e => e.1 / 0x200000 == d && domainReg (e.1 % 0x200000)).flatMap fun e =>
    ckptRecord (ckptCode (e.1 % 0x200000)) (e.1 % 0x200000 / 4) [e.2.toNat]

/-- The CKPT records of a die for the state at this cycle (R522). -/
def ckptState (d : Nat) (x : Hw × SMap Byte) : List Nat :=
  let (h, pir) := x
  h.ckptQueues d ++
  ((h.ckptUnits d).flatMap fun u => ckptRecord 2 u [leNat (pirRead pir d (4 * u) 4)]) ++
  h.ckptRegs d ++
  ckptRecord 6 (2 ^ 20) [h.now, (Config.ckptWord 6 0 (h.digestSwitch d ++ h.digestRing d)).toNat,
    (Config.ckptWord 6 1 (h.digestPumps d)).toNat, (Config.ckptWord 6 2 (h.digestCans d)).toNat, (Config.ckptWord 6 3 (h.digestPhase d)).toNat]

/-- The four words of MARK kind 5 (R517). -/
def Hw.markWords (h : Hw) : List Nat :=
  let c := h.cfg.header
  [leAt c.imgHash 0 8, leAt c.imgHash 8 8, h.nodeId + h.dies * 2 ^ 32, c.gen + c.fwVer * 2 ^ 32]

/-- A checkpoint of one die begins. -/
def beginCheckpoint (d : Nat) (x : Hw × SMap Byte) : Hw × SMap Byte :=
  let h := x.1
  if h.journaling d ∧ ¬(h.jrn d).inLoss then
    let ws := ckptState d x
    let h := h.journal d 9 5 h.markWords
    let h := h.setJrn d { h.jrn d with ckptAt := h.now, ckptDue := false, ckptWords := ws }
    (h.flag d R.JRN_STAT_CKOPEN, x.2)
  else x

/-- CHECKPOINT_BEGIN (R521): at a due digest boundary every die begins a checkpoint at the same core cycle. -/
def checkpointBegin (x : Hw × SMap Byte) : Hw × SMap Byte :=
  if x.1.digestBoundary && (List.range x.1.dies).any fun d => x.1.ckptNow d then iter x.1.dies beginCheckpoint x else x

def execCheckpointBegin (s : State) : Host.Outcome State Fault Refusal := s.onMem checkpointBegin

/-- CHECKPOINT_END (R521 to R523): the last unit is copied, and MARK kind 6 completes the checkpoint. -/
def checkpointEnd (d : Nat) (h : Hw) : Hw :=
  if h.on d R.JRN_STAT_CKOPEN ∧ h.journaling d then
    let ws := (h.jrn d).ckptWords
    let h := (h.jrnClose d).jrnFlush d
    if h.on d R.JRN_CFG_MODE ∧ jrnSize < (h.jrn d).undrained + ws.length + 2 then h.beginLoss d
    else
      let h := each ws (fun w h => h.jrnStore d w) h
      let h := h.setJrn d { h.jrn d with ckptWords := [], bytesMs := (h.jrn d).bytesMs + 8 * ws.length }
      ((h.wr d R.JRN_STAT_CKOPEN 0).journal d 9 6).wr d R.JRN_CKLAST_INDEX (h.jrn d).ckptIndex
  else h

def execCheckpointEnd (die : Die) (s : State) : Host.Outcome State Fault Refusal := s.onDie die (checkpointEnd die.val)

/-! ## Loss (R528) -/

/-- JOURNAL_LOSS_END (R528): the next cycle whose records fit writes MARK kind 4; a checkpoint is due (R521). -/
def journalLossEnd (d : Nat) (h : Hw) : Hw :=
  let j := h.jrn d
  if j.inLoss ∧ h.journaling d ∧ j.buffer.length + 3 ≤ 2048 ∧ ¬(h.on d R.JRN_CFG_MODE ∧ jrnSize ≤ j.undrained + j.buffer.length + 3) then
    (h.setJrn d { j with inLoss := false, ckptDue := true }).journal d 9 4
  else h

def execJournalLossEnd (die : Die) (s : State) : Host.Outcome State Fault Refusal := s.onDie die (journalLossEnd die.val)

/-! ## Freeze and re-arm (R529, R530, R538) -/

/-- JRN_FREEZE (R529): a write of 1 to JRN_CMD.FREEZE on any die acts on the node. -/
def jrnFreeze (h : Hw) : Hw := h.triggerFreeze ⟨1, 0, 0, 0⟩

def execJrnFreeze (die : Die) (s : State) : Host.Outcome State Fault Refusal := s.onDie die jrnFreeze

/-- A freeze takes effect on one die. In Post or Frozen it is ignored. -/
def freezeDie (f : Freeze) (d : Nat) (h : Hw) : Hw :=
  let st := h.rd d R.JRN_STAT_STATE
  if st = 1 then
    let h := h.journal d 9 f.kind (if f.kind = 0 then [f.seq + f.chan * 2 ^ 32] else [])
    let h := (h.wr d R.JRN_STAT_STATE 2).wr d R.JRN_STAT_FRZSRC (f.kind + 1)
    let h := whenDo (f.kind == 0) (fun h => h.wr d R.JRN_STAT_FRZCHAN f.chan) h
    (h.wr d R.JRN_FRZCYCLO_VALUE (low 32 h.now)).wr d R.JRN_FRZCYCHI_VALUE (low 32 (h.now / 2 ^ 32))
  else if st = 2 ∨ st = 3 then h.bump d R.JRN_CNT_FRZIGN
  else h

/-- FREEZE_EFFECT (R529): 4 core cycles after the trigger and not before, on every die in the same core cycle. -/
def freezeEffect (h : Hw) : Hw :=
  match h.freeze with
  | none => h
  | some f => if h.now < f.cycle + 4 then h else { h with freeze := none }.eachDie (freezeDie f)

def execFreezeEffect (s : State) : Host.Outcome State Fault Refusal := s.on freezeEffect

/-- Has the window's post-trigger part been written: POST × 65,536 bytes from the freeze mark on (R529)? -/
def Hw.postWritten (h : Hw) (d : Nat) : Bool :=
  let j := h.jrn d
  decide (8192 * h.rd d R.JRN_CFG_POST ≤ (j.next + j.buffer.length + jrnSize - h.rd d R.JRN_FRZ_INDEX) % jrnSize)

/-- MARK kind 7 ends the window and the journal is Frozen. -/
def Hw.endWindow (h : Hw) (d : Nat) : Hw :=
  let h := ((h.journal d 9 7).jrnClose d).jrnFlush d
  let h := h.setJrn d { h.jrn d with ckptWords := [] }
  (h.wr d R.JRN_STAT_STATE 3).wr d R.JRN_STAT_CKOPEN 0

/-- POST_COMPLETE (R529): POST × 64 KiB are written, and the window ends. A checkpoint that is still open stays incomplete (R523). -/
def postComplete (d : Nat) (h : Hw) : Hw :=
  if h.rd d R.JRN_STAT_STATE = 2 ∧ (h.jrnClose d).postWritten d then (h.jrnClose d).endWindow d else h

def execPostComplete (die : Die) (s : State) : Host.Outcome State Fault Refusal := s.onDie die (postComplete die.val)

/-- The window registers as at Dawn step 10. -/
def Hw.clearWindow (h : Hw) (d : Nat) : Hw :=
  let h := ((h.wr d R.JRN_STAT_FRZSRC 0).wr d R.JRN_STAT_FRZCHAN 0).wr d R.JRN_STAT_CKOPEN 0
  ((((h.wr d R.JRN_FRZ_INDEX 0).wr d R.JRN_CKLAST_INDEX 0).wr d R.JRN_FRZCYCLO_VALUE 0)).wr d R.JRN_FRZCYCHI_VALUE 0

/-- JRN_REARM (R530, R538): in Frozen the window is discarded and recording starts as at Dawn step 10; a freeze triggered in
the same cycle then freezes the new recording. -/
def jrnRearm (h : Hw) : Hw :=
  let pending := h.freeze.any fun f => f.cycle == h.now
  h.eachDie fun d h =>
    if h.rd d R.JRN_STAT_STATE = 3 then
      let h := (h.clearWindow d).startJournal d
      if pending then h.bump d R.JRN_CNT_MARGIN else h
    else h

def execJrnRearm (s : State) : Host.Outcome State Fault Refusal := s.on jrnRearm

end Sys2Proof.Machine
end

