-- ==== Sys2Proof/Machine/Views.lean ====
section
/-!
DEFINITION. What a read of each register returns (R12, R15, R16): the stored word with the fields that the hub computes at
the read; what a read does besides (RC fields clear, some reads latch others); the windows of queues (R275) and of the MIO
words and Pump snapshots (R332, R312).
-/

namespace Sys2Proof.Machine

/-- Put a value at a field of a word. -/
def Fld.put (F : Fld) (v : Nat) (w : Nat) : Nat := (setBits (BitVec.ofNat 32 w) F.lo F.w v).toNat

/-- NOD block. -/
def Hw.viewNod (h : Hw) (d off w : Nat) : Nat :=
  if off = 0x0 then R.NOD_IDENT_DIE.put d (R.NOD_IDENT_FWGEN.put h.fwGen (R.NOD_IDENT_DIES.put h.dies w))
  else if off = 0x4 then R.NOD_NODEID_SLOT.put h.slotNo w
  else if off = 0x8 then
    let owner := d = h.node.owner ∧ ¬(h.node.fenced ∧ h.node.owner = 0)
    R.NOD_STATE_STATE.put h.node.state.code (R.NOD_STATE_DEGR.put (b2n (!h.flt.present.isEmpty))
      (R.NOD_STATE_OWNER.put (b2n owner) (R.NOD_STATE_SCAUSE.put h.node.scause w)))
  else w

/-- RNG block: the ring map and the bulk wraps of R194. -/
def Hw.viewRing (h : Hw) (d off w : Nat) : Nat :=
  let r := h.ring d
  if off = 0x1020C then
    let down := fun (l : List Nat) => let a := l.filter ((h.attached d).contains ·)
      !a.isEmpty && a.all fun p => !h.portUp d p
    R.RNG_WRAP_WRAPB.put (b2n (down [0, 2]) + 2 * b2n (down [1, 3])) w
  else if off = 0x10210 then
    R.RNG_RINGINFO_NODES.put r.map.length (R.RNG_RINGINFO_POS.put ((h.posOf d h.nodeId).getD 0)
      (R.RNG_RINGINFO_CLOSED.put (b2n r.closed) w))
  else if 0x10400 ≤ off ∧ off < 0x107F8 then
    match r.map[(off - 0x10400) / 4]? with
    | none => 0
    | some e => R.RNG_MAP_NODE.put e.node (R.RNG_MAP_PRESENT.put (b2n e.present) (R.RNG_MAP_ALOST.put (b2n e.aLost)
        (R.RNG_MAP_BLOST.put (b2n e.bLost) (R.RNG_MAP_DIE.put e.die 0))))
  else w

/-- SWC, CIS blocks. -/
def Hw.viewSwitch (h : Hw) (d off w : Nat) : Nat :=
  if off = 0x2000C then R.SWC_MCUSE_PENDING.put (h.switch d).mcs.length w
  else if 0x20300 ≤ off ∧ off < 0x203A0 then (h.cq d (512 + (off - 0x20300) / 4)).cells.length
  else if off = 0x30008 then h.poolFree d
  else w

/-- PMP block. -/
def Hw.viewPump (h : Hw) (d off w : Nat) : Nat :=
  let n := (off - 0x40000) / 0x400
  let o := off % 0x400
  if o = 0x68 then h.pumpFlags d n
  else if o = 0x200 then h.progParity d n 0
  else if o = 0x204 then h.progParity d n 32
  else w

/-- MIO block. -/
def Hw.viewPins (h : Hw) (d off w : Nat) : Nat :=
  if 0x50080 ≤ off ∧ off < 0x50098 then h.inWord d ((off - 0x50080) / 4)
  else if 0x51000 ≤ off ∧ off < 0x52800 ∧ off % 32 = 0x10 then
    let p := (off - 0x51000) / 32
    R.MIO_PSTAT_DRIVEN.put (b2n (h.drivenBit d p)) (R.MIO_PSTAT_FORCED.put (b2n (h.forced d p)) w)
  else w

/-- FTM block: the present time, and the rate in 2⁻⁴⁰ (R400, R402). -/
def Hw.viewTime (h : Hw) (off w : Nat) : Nat :=
  if off = 0x80018 then toTwos 32 (h.ftm.r / 2 ^ 8)
  else if off = 0x80020 then low 32 h.fabricNs
  else w

def Hw.host (h : Hw) (d : Nat) : HostPort := h.hosts.get .init d

def Hw.setHost (h : Hw) (d : Nat) (x : HostPort) : Hw := { h with hosts := h.hosts.put .init d x }

/-- BRG block: what is outstanding, the oldest entry of the fault log, the slots and the bus. -/
def Hw.viewBridge (h : Hw) (d off w : Nat) : Nat :=
  let x := h.host d
  let b := h.bp d
  let oldest := fun (f : PwFault → Nat) => (x.log.head?.map f).getD 0
  if 2 ≤ d then 0
  else if off = 0x90000 then
    R.BRG_HSTAT_OUTSTD.put (x.reads.filter fun r => r.pieces.any fun p => !(p.addr / 2 ^ 48 == 0 || p.addr / 2 ^ 48 == h.nodeId)).length w
  else if off = 0x90010 then R.BRG_PWST_COUNT.put x.log.length (R.BRG_PWST_POP.put 0 w)
  else if off = 0x90014 then low 32 (oldest (·.addr))
  else if off = 0x90018 then low 32 (oldest (·.addr) / 2 ^ 32)
  else if off = 0x9001C then oldest fun e => low 4 e.port + e.code * 2 ^ 8 + e.reqid * 2 ^ 16
  else if off = 0x90020 then low 32 (oldest (·.ftime))
  else if off = 0x90024 then low 32 (oldest (·.ftime) / 2 ^ 32)
  else if off = 0x9004C then b.slots.entries.length + 32 * b2n b.bus + 64 * b2n b.lockBy.isSome
  else w

/-- WLH block: D0 and D1 only; EVALID counts while the last frame is fresh (R474). -/
def Hw.viewWlh (h : Hw) (d off w : Nat) : Nat :=
  if 2 ≤ d then 0
  else if off = 0xA0040 ∧ ¬h.frameFresh d then R.WLH_STAT_EVALID.put 0 w
  else w

/-- LDG block. -/
def Hw.viewLedger (h : Hw) (off w : Nat) : Nat :=
  if off = 0xB0004 then R.LDG_STAT_STAGED.put h.ldg.staging.length w
  else if off = 0xB0008 then low 32 h.ldg.nextLseq
  else w

/-- JRN block: the window indices; the registers of Replay mode read 0 outside it. -/
def Hw.viewJournal (h : Hw) (d off w : Nat) : Nat :=
  let j := h.jrn d
  if 0xD0100 ≤ off ∧ ¬h.node.replay then 0
  else if off = 0xD0008 ∨ off = 0xD000C then 0
  else if off = 0xD0014 then j.next + j.wraps * 2 ^ 19
  else if off = 0xD0018 then (j.next + jrnSize - j.filled) % jrnSize
  else if off = 0xD0034 then (if h.on d R.JRN_CFG_MODE then j.undrained else 0)
  else if off = 0xD0114 then low 32 h.now
  else w

/-- VLT block: the Night domain's values, the die's slots, the statement once it is done. -/
def Hw.viewVault (h : Hw) (d off w : Nat) : Nat :=
  if off = 0xE000C then h.nightDom.pcc
  else if off = 0xE0010 then low 32 (h.calendar / 2 ^ 15)
  else if off = 0xE001C ∨ off = 0xE0020 then 0
  else if 0xE0100 ≤ off ∧ off < 0xE0200 then
    let k := h.keySlot d ((off - 0xE0100) / 4)
    b2n k.valid + 2 * b2n k.revoked + 4 * low 2 k.typ + 2 ^ 4 * low 6 k.engines + 2 ^ 10 * low 8 k.parent + 2 ^ 18 * low 3 k.depth +
      2 ^ 21 * b2n k.cached + 2 ^ 22 * b2n k.imported
  else if 0xE1000 ≤ off then (if h.rd 0 R.VLT_ASTAT_STATE = 2 then leAt h.vlt.statement (off - 0xE1000) 4 else 0)
  else w

/-- FLT block. -/
def Hw.viewFault (h : Hw) (d off w : Nat) : Nat :=
  if off = 0x100000 then
    (List.range 9).foldl (fun a i => if h.conditions.getD i false then a + 2 ^ i else a) 0 + 2 ^ 15 * b2n h.guarNow
  else if 0x100100 ≤ off ∧ off < 0x100500 then
    let c := (off - 0x100100) / 4
    R.FLT_CODE_PRESENT.put (b2n (h.flt.present.any fun x => x.1 == c && x.2.1 == d))
      (R.FLT_CODE_SAFE.put (b2n (h.flt.safeCodes.contains c)) w)
  else w

/-- What a read of the register at an offset of space 0x00 of die `d` returns; a reserved offset reads 0 (R16). -/
def Hw.viewReg (h : Hw) (d off : Nat) : Nat :=
  match findReg off with
  | none => 0
  | some r =>
    let w := (h.regAt ((if r.node then 0 else d) * 0x200000 + off)).toNat
    match off / 0x10000 with
    | 0 => h.viewNod d off w
    | 1 => h.viewRing d off w
    | 2 => h.viewSwitch d off w
    | 3 => h.viewSwitch d off w
    | 4 => h.viewPump d off w
    | 5 => h.viewPins d off w
    | 8 => h.viewTime off w
    | 9 => h.viewBridge d off w
    | 10 => h.viewWlh d off w
    | 11 => h.viewLedger off w
    | 13 => h.viewJournal d off w
    | 14 => h.viewVault d off w
    | 15 => if off = 0xF0020 then h.fwFloor + (48 - h.otp.fwFloors.length) * 2 ^ 16 else w
    | 16 => h.viewFault d off w
    | _ => w

/-- The bits of a register whose fields have an access code. -/
def RegDesc.maskOf (r : RegDesc) (a : Access) : Nat :=
  (r.fields.filter (·.acc == a)).foldl (fun m f => m + (2 ^ f.w - 1) * 2 ^ f.lo) 0

/-- Clear the bits of a mask in a stored word. -/
def Hw.clearBits (h : Hw) (key m : Nat) : Hw :=
  let w := (h.regAt key).toNat
  h.setRegAt key (BitVec.ofNat 32 (w - (w &&& m)))

/-- A read of an RC field clears it in the same access (R12); the counts of WLH_CNT clear at the Wellhouse as well. -/
def Hw.clearRc (h : Hw) (d off : Nat) : Hw :=
  match findReg off with
  | none => h
  | some r =>
    let m := r.maskOf .rc
    if m = 0 then h
    else
      let h := h.clearBits ((if r.node then 0 else d) * 0x200000 + off) m
      if off = 0xA0048 then { h with wlh := { h.wlh with fastCnt := 0, revCnt := 0, swCnt := 0, margin := 0 } } else h

/-- A read that latches other registers from the same core cycle. -/
def Hw.latchRead (h : Hw) (d off : Nat) : Hw :=
  if 0x70148 ≤ off ∧ off < 0x70548 ∧ off % 0x80 = 0x48 then trackerLiveRead d ((off - 0x70148) / 0x80) h
  else if off = 0x80020 then (h.wr 0 R.FTM_NOWHI_VALUE (h.fabricNs / 2 ^ 32)).wr 0 R.FTM_NOWFR_VALUE h.fabricFr
  else if 0xA00C0 ≤ off ∧ off < 0xA00E0 ∧ off % 8 = 0 then
    h.wr d R.WLH_EHI_VALUE (h.ehi.get 0 (d * 4 + (off - 0xA00C0) / 8)) ((off - 0xA00C0) / 8)
  else if off = 0xB0008 then
    ((h.wr 0 R.LDG_NEXTHI_VALUE (h.ldg.nextLseq / 2 ^ 32)).wr 0 R.LDG_FIRSTLO_VALUE (low 32 h.ldg.firstLseq)).wr 0
      R.LDG_FIRSTHI_VALUE (h.ldg.firstLseq / 2 ^ 32)
  else if off = 0xD0114 then h.wr d R.JRN_RCYCHI_VALUE (low 32 (h.now / 2 ^ 32))
  else if off = 0xE0010 then h.wr 0 R.VLT_CALF_VALUE (h.calendar % 2 ^ 15)
  else h

/-- A read of a register: the blocks BRG and WLH lie on D0 and D1 (R34). A live read of a tracker returns the value it
latches. -/
def readReg (d off : Nat) (h : Hw) : Nat × Hw :=
  if (off / 0x10000 = 9 ∨ off / 0x10000 = 10) ∧ 2 ≤ d then (0, h)
  else
    let h := h.latchRead d off
    (h.viewReg d off, h.clearRc d off)

/-- Would a read of this register change state (R536)? -/
def readChanges (off : Nat) : Bool :=
  (match findReg off with | some r => r.maskOf .rc != 0 | none => false) ||
  [0x80020, 0xB0008, 0xE0010].contains off || (decide (0x70148 ≤ off) && decide (off < 0x70548) && off % 0x80 == 0x48) ||
  (decide (0xA00C0 ≤ off) && decide (off < 0xA00E0) && off % 8 == 0)

/-! ## Package outputs (R61, R420, R465, R482) -/

/-- What a die puts on a shared ball (none: high impedance): its own level, or on D0 under EXTEST and CLAMP in force the boundary cell,
under HIGHZ nothing (R72, R76). -/
def Hw.ballDrive (h : Hw) (d cell : Nat) (own : Option Bool) : Option Bool :=
  let t := h.taps.get .init 0
  if d = 0 ∧ t.inForce then (if t.ir = 3 then none else some (t.boundary.get false cell)) else own

/-- NODE_FLT_N, open drain: released in Run and Degraded, low in every other node state (R61). -/
def Hw.nodeFltN (h : Hw) : Bool :=
  h.ballDrive 0 194 (if h.node.state == .run || h.node.state == .degraded then none else some false) != some false

/-- PPS_OUT as a die drives it: the owner's pulse of 100 ms, low while fabric time is invalid (R61, R420). -/
def Hw.ppsOut (h : Hw) (d : Nat) : Option Bool :=
  h.ballDrive d 196 (if d = h.node.owner then some (h.timeValid && decide (h.now < h.ftm.ppsUntil)) else none)

/-- Does a die drive the NVM and log NVM outputs (R62)? The owner alone; the other die's drivers are at high impedance. -/
def Hw.drivesNvm (h : Hw) (d : Nat) : Bool := d == h.node.owner

/-- LOG_WP_N as a die drives it: high during a write sequence only (R62, R482). -/
def Hw.logWpN (h : Hw) (d : Nat) : Option Bool := h.ballDrive d 221 (if h.drivesNvm d then some h.ldg.wpHigh else none)

/-- PWR_EN: high while power-good is asserted and the owner has not commanded it off (R465). -/
def Hw.pwrEn (h : Hw) : Bool := h.wlh.pg && !h.wlh.off

/-! ## Queue windows (R275, R276) -/

/-- QSTAT: the occupancy and EMPTY beside the stored flags. -/
def Hw.viewQstat (h : Hw) (d q : Nat) : Nat :=
  (h.cq d q).cells.length + 2 ^ 18 * b2n (h.queueEmpty d q) + 2 ^ 19 * h.qrd d q Q.QSTAT_UNDER + 2 ^ 20 * h.qrd d q Q.QSTAT_QRESET +
    2 ^ 21 * h.qrd d q Q.QSTAT_EPOCH

/-- The stored window word at an offset. -/
def Hw.windowWordAt (h : Hw) (d q off : Nat) : Nat := (h.qregs.get (windowReset q off) (windowKey d q off)).toNat

/-- A read of a window word other than DATA: its value and what the read does. -/
def readWindow (d q off : Nat) (h : Hw) : Nat × Hw :=
  if off = 0x40 then (h.viewQstat d q, h)
  else if off = 0x44 then qgrantRead d q h
  else if off = 0x54 then (h.windowWordAt d q off, (h.qwr d q Q.QCNT_UNDERCNT 0).qwr d q Q.QCNT_DROPS 0)
  else (h.windowWordAt d q off, h)

/-- May the DATA port of a queue be written or read (R276)? -/
def Hw.dataOpen (h : Hw) (d q : Nat) (write : Bool) : Bool :=
  if 512 ≤ q ∧ q ≤ 575 then write && q == 560
  else if write then h.qrd d q Q.QCFGA_WINW == 1 else h.qrd d q Q.QCFGA_WINR == 1

/-- A DATA read (R264, R265): a cell of a cell queue, a word of a word queue. What its memories answer is `u` (R266 to
R270); a reset found on the dequeue returns the last value (R277). -/
def readData (d q : Nat) (u : Upset) (h : Hw) : List Byte × Hw :=
  let h := h.countArrival d q (h.justFilled d q)
  let (reset, h) := h.meet d q u
  let word := h.isWord d q
  if reset then
    let l := (h.cq d q).last
    (slice l 0 (if word then 4 else 64), h)
  else if word then
    let (w, h) := h.takeWord d q
    (leBytes 4 w.toNat, h)
  else h.takeCell d q

/-- A DATA write (R262): false where it is discarded. -/
def writeData (d q : Nat) (o : Origin) (bs : List Byte) (u : Upset) (h : Hw) : Bool × Hw :=
  if h.isWord d q then h.windowWord d q (BitVec.ofNat 32 (leAt bs 0 4)) u else h.windowCell d q o (slice bs 0 64) u

/-! ## MIO words and Pump snapshots (R312, R332) -/

/-- The word at an offset of space 0x03, where the offset holds one. -/
def Hw.dataWord (h : Hw) (d off : Nat) : Nat :=
  if off < 0x18 then h.inWord d (off / 4)
  else if 0x20 ≤ off ∧ off < 0x50 then (if off % 8 = 0 then h.rd d R.MIO_OUT_OUT ((off - 0x20) / 8) else 0)
  else if 0x1000 ≤ off ∧ off < 0x1300 then low 32 (h.pin d ((off - 0x1000) / 4)).edges
  else if 0x10000 ≤ off ∧ off < 0x10800 then
    let n := (off - 0x10000) / 0x20
    let reg := fun (F : Fld) => h.viewReg d (F.addr + n * 0x400)
    match off % 0x20 / 4 with
    | 0 => reg R.PMP_X_VALUE
    | 1 => reg R.PMP_Y_VALUE
    | 2 => reg R.PMP_GS_VALUE
    | 3 => reg R.PMP_PS_VALUE
    | 4 => reg R.PMP_CNT_LC
    | 5 => reg R.PMP_FLAGS_FLAGS
    | 6 => reg R.PMP_STAT_STATE
    | _ => reg R.PMP_CRCACC_VALUE
  else 0

/-- The forms of space 0x03 (R312, R332). -/
def dataForm (off len : Nat) (write : Bool) : Bool :=
  if write then decide (0x20 ≤ off) && decide (off < 0x50) && off % 8 == 0 && len == 8
  else if off < 0x18 then off % 4 == 0 && len % 4 == 0 && decide (off + len ≤ 0x18)
  else if 0x20 ≤ off ∧ off < 0x50 then off % 8 == 0 && len == 8
  else if 0x1000 ≤ off ∧ off < 0x1300 then off % 4 == 0 && len == 4
  else decide (0x10000 ≤ off) && decide (off + len ≤ 0x10800)

/-- Bytes of a space made of 32-bit words. -/
def wordSlice (f : Nat → Nat) (off len : Nat) : List Byte :=
  (List.range len).map fun k => BitVec.ofNat 8 (bits (f ((off + k) / 4 * 4)) (8 * ((off + k) % 4)) 8)

end Sys2Proof.Machine
end

