-- ==== Sys2Proof/Machine/Replay.lean ====
section
/-!
DEFINITION. Replay mode (R533 to R537): feeding the journal, loading a checkpoint, run, pause, stop and end. What one replay
cycle does stands in Machine/Rerun.lean.
-/

namespace Sys2Proof.Machine

/-- The state of a die that no register shows, as a checkpoint holds it (memory code 6 of R522), with fabric time. -/
structure Flops where
  pins : SMap Pin
  pumps : SMap Pump
  cans : SMap Can
  trks : SMap Trk
  evt : Evt
  swc : Swc
  cis : Cis
  ports : SMap Port
  trn : Trn
  ring : Rng
  ftm : Ftm
deriving DecidableEq, Repr

end Sys2Proof.Machine

namespace Sys2Proof.Config

/-- The state of a die that a checkpoint's words of code 6 hold, in a layout the manual does not give (LOG 62). -/
opaque flops : List Nat → Option Machine.Flops

end Sys2Proof.Config

namespace Sys2Proof.Machine

/-! ## Records in the circle (R516) -/

/-- A journal record read back: type, DCYC, payload, extension words, and the index behind it. -/
structure JrnRec where
  typ : Nat
  dcyc : Nat
  payload : Nat
  ext : List Nat
  next : Nat
deriving DecidableEq, Repr

/-- The record at an index of a die's circle. -/
def Hw.jrnRec (h : Hw) (d i : Nat) : JrnRec :=
  let w := fun k => (h.jrn d).words.get 0 ((i + k) % jrnSize)
  let n := bits (w 0) 54 6
  ⟨bits (w 0) 60 4, bits (w 0) 38 16, low 38 (w 0), (List.range n).map fun k => w (k + 1), (i + n + 1) % jrnSize⟩

/-- The words fed from an index on (R535). -/
def Hw.fedFrom (h : Hw) (d i : Nat) : Nat := (h.rd d R.JRN_RFEED_INDEX + jrnSize - i) % jrnSize

/-- Is the record at an index fed whole? -/
def Hw.recordFed (h : Hw) (d i : Nat) : Bool := decide ((h.jrnRec d i).ext.length < h.fedFrom d i)

/-- The CKPT records from an index to MARK kind 6; none where the fed words end first (R523). -/
def Hw.ckptRecords (h : Hw) (d : Nat) : Nat → Nat → List JrnRec → Option (List JrnRec)
  | 0, _, _ => none
  | n + 1, i, acc =>
    if !h.recordFed d i then none
    else
      let r := h.jrnRec d i
      if r.typ = 9 ∧ low 4 r.payload = 6 then some acc.reverse
      else h.ckptRecords d n r.next (if r.typ = 0xA then r :: acc else acc)

/-! ## Loading (R535) -/

/-- A cell of a checkpoint goes back to its queue. -/
def Hw.loadCell (h : Hw) (d : Nat) (r : JrnRec) : Hw :=
  let f := fun k => Config.ckptField 0 k (BitVec.ofNat 64 (r.ext.getD 8 0))
  let q := low 13 (f 0)
  let cell : Cell := ⟨(r.ext.take 8).flatMap (leBytes 8), low 4 (f 7), low 2 (f 2), false,
    low 16 (f 3), low 3 (f 4), low 13 (f 5), low 16 (f 8), low 3 (f 9), 0⟩
  let c : CCell := ⟨cell, bits r.payload 4 18, low 4 (f 1), none, none, h.qrd d q Q.QSTAT_EPOCH, low 5 (f 6), low 5 (f 10), f 11 % 2 == 1⟩
  h.setCq d q { h.cq d q with cells := (h.cq d q).cells ++ [c] }

/-- Copy the entries of one die from a loaded table. -/
def loadTable {β : Type} [DecidableEq β] (dflt : β) (n d : Nat) (src dst : SMap β) : SMap β :=
  iter n (fun k m => m.put dflt (d * n + k) (src.get dflt k)) dst

/-- The flip-flop state of a checkpoint takes its place. -/
def Hw.loadFlops (h : Hw) (d : Nat) (x : Flops) : Hw :=
  { h with
    pins := loadTable .init 192 d x.pins h.pins, pumps := loadTable .init 64 d x.pumps h.pumps,
    cans := loadTable .init 16 d x.cans h.cans, trks := loadTable .init 8 d x.trks h.trks,
    evts := h.evts.put .init d x.evt, swc := h.swc.put .init d x.swc, cis := h.cis.put .init d x.cis,
    ports := loadTable .init 4 d x.ports h.ports, trn := h.trn.put .init d x.trn, rings := h.rings.put .init d x.ring,
    ftm := if d = 0 then x.ftm else h.ftm }

/-- The core cycle a checkpoint was taken in is the current one. -/
def Hw.atCycle (h : Hw) (n : Nat) : Hw := { h with now := n }

/-- The die's remaining flip-flops: its core cycle, and the rest where the dump's layout is known. -/
def Hw.loadFreeRunning (h : Hw) (d : Nat) (ext : List Nat) : Hw :=
  match Config.flops ext with
  | some s => (h.atCycle (ext.headD 0)).loadFlops d s
  | none => h.atCycle (ext.headD 0)

/-- One CKPT record takes its place (R522): cells, Process Image RAM, registers, flip-flops. Queue descriptors follow from
the cells. -/
def loadCkpt (d : Nat) (r : JrnRec) (x : Hw × SMap Byte) : Hw × SMap Byte :=
  let unit := bits r.payload 4 34
  if low 4 r.payload = 0 then (x.1.loadCell d r, x.2)
  else if low 4 r.payload = 1 then x
  else if low 4 r.payload = 2 then (x.1, pirWrite x.2 d (4 * unit) (leBytes 4 (r.ext.headD 0)))
  else if unit < 2 ^ 19 then (x.1.setRegAt (d * 0x200000 + 4 * unit) (BitVec.ofNat 32 (r.ext.headD 0)), x.2)
  else (x.1.loadFreeRunning d r.ext, x.2)

/-- Every register of a die in the domain back at reset, and every queue empty, before a checkpoint is loaded. -/
def Hw.clearDomain (h : Hw) (d : Nat) : Hw :=
  let h := { h with regs := ⟨h.regs.entries.filter fun e => !(e.1 / 0x200000 == d && domainReg (e.1 % 0x200000))⟩ }
  each (h.liveQueues d) (fun q h => h.setCq d q { h.cq d q with cells := [] }) h

/-- Does the record at RSTART open a checkpoint of this node: MARK kind 5 with this image, node, variant, GEN and FWVER? -/
def Hw.markFits (h : Hw) (d : Nat) : Bool :=
  let i := h.rd d R.JRN_RSTART_INDEX
  let r := h.jrnRec d i
  h.recordFed d i && r.typ == 9 && low 4 r.payload == 5 && r.ext == h.markWords

/-- The checkpoint's records `rs`, and `first` the record after them, become the state of one die. -/
def loadRecords (d first : Nat) (rs : List JrnRec) (x : Hw × SMap Byte) : Hw × SMap Byte :=
  let y := each rs (loadCkpt d) (x.1.clearDomain d, x.2)
  ((y.1.setJrn d { y.1.jrn d with replayPos := first, lastCycle := y.1.now }).wr d R.JRN_STAT_STATE 6, y.2)

/-- The record after the mark that replay starts at. -/
def Hw.afterMark (h : Hw) (d : Nat) : Nat := (h.jrnRec d (h.rd d R.JRN_RSTART_INDEX)).next

/-- The records of the checkpoint after the mark, if the mark fits and the checkpoint is complete (R523). -/
def Hw.markRecords (h : Hw) (d : Nat) : Option (List JrnRec) :=
  if h.markFits d then h.ckptRecords d jrnSize (h.afterMark d) [] else none

/-- The records are loaded, or there are none. -/
def loadFound (d : Nat) (o : Option (List JrnRec)) (x : Hw × SMap Byte) : Hw × SMap Byte :=
  match o with
  | none => (x.1.flag d R.JRN_STAT_RMISM, x.2)
  | some rs => loadRecords d (x.1.afterMark d) rs x

/-- The load of one die: refused with RMISM where the mark differs or no complete checkpoint follows it (R523, R535). -/
def loadDie (d : Nat) (x : Hw × SMap Byte) : Hw × SMap Byte := loadFound d (x.1.markRecords d) x

/-- The dies that a write of JRN_RCTL acts on: every die where it is written on D0. -/
def Hw.rctlDies (h : Hw) (d : Nat) : List Nat := if d = 0 then List.range h.dies else [d]

/-- Replay control acts in Replay mode only, and CMD reports what was accepted. -/
def Hw.rctl (h : Hw) (d cmd : Nat) : Hw := if h.node.replay then each (h.rctlDies d) (fun e h => h.wr e R.JRN_RCTL_CMD cmd) h else h

/-- REPLAY_LOAD (R535) -/
def replayLoad (d : Nat) (x : Hw × SMap Byte) : Hw × SMap Byte :=
  if x.1.node.replay then each (x.1.rctlDies d) loadDie (x.1.rctl d 1, x.2) else x

def execReplayLoad (die : Die) (s : State) : Host.Outcome State Fault Refusal := s.onDieMem die (replayLoad die.val)

/-- A replaying die moves from one of some states to another. -/
def Hw.replayMove (h : Hw) (d : Nat) (src : List Nat) (dst : Nat) : Hw :=
  each (h.rctlDies d) (fun e h => if src.contains (h.rd e R.JRN_STAT_STATE) then h.wr e R.JRN_STAT_STATE dst else h) h

/-- REPLAY_RUN (R536): from Replay paused the domain runs. -/
def replayRun (d : Nat) (h : Hw) : Hw := if h.node.replay then (h.rctl d 2).replayMove d [6] 5 else h

def execReplayRun (die : Die) (s : State) : Host.Outcome State Fault Refusal := s.onDie die (replayRun die.val)

/-- REPLAY_PAUSE (R536) -/
def replayPause (d : Nat) (h : Hw) : Hw := if h.node.replay then (h.rctl d 3).replayMove d [5] 6 else h

def execReplayPause (die : Die) (s : State) : Host.Outcome State Fault Refusal := s.onDie die (replayPause die.val)

/-- REPLAY_CMD_RESERVED: ignored and recorded as an access violation; outside Replay mode a write is ignored. -/
def replayReserved (d : Nat) (o : Origin) (h : Hw) : Hw := if h.node.replay then h.violation d o 0xD0100 else h

def execReplayCmdReserved (die : Die) (origin : Origin) (s : State) : Host.Outcome State Fault Refusal :=
  s.onReg die origin 0xD0100 (replayReserved die.val origin)

/-- A write of JRN_RCTL: STOPEN and CONT, then the command. -/
def replayControl (d : Nat) (o : Origin) (w : Nat) (x : Hw × SMap Byte) : Hw × SMap Byte :=
  if x.1.node.replay then
    let h := each (x.1.rctlDies d) (fun e h => (h.wr e R.JRN_RCTL_STOPEN (bits w 3 1)).wr e R.JRN_RCTL_CONT (bits w 4 1)) x.1
    match low 3 w with
    | 0 => (h, x.2)
    | 1 => replayLoad d (h, x.2)
    | 2 => (replayRun d h, x.2)
    | 3 => (replayPause d h, x.2)
    | _ => (replayReserved d o h, x.2)
  else x

/-- One word of space 0x12 written in Replay mode (R532, R535). -/
def Hw.feedWord (h : Hw) (d i w : Nat) : Hw := h.setJrn d { h.jrn d with words := (h.jrn d).words.put 0 (i % jrnSize) (low 64 w) }

/-- REPLAY_FEED (R535): the bench host writes words from JRN_RFEED on and advances it. -/
def replayFeed (d : Nat) (ws : List Dword) (h : Hw) : Hw :=
  if h.node.replay then
    let i := h.rd d R.JRN_RFEED_INDEX
    let h := iter ws.length (fun k h => h.feedWord d (i + k) ((ws.getD k 0).toNat)) h
    h.wr d R.JRN_RFEED_INDEX ((i + ws.length) % jrnSize)
  else h

def execReplayFeed (die : Die) (words : List Dword) (s : State) : Host.Outcome State Fault Refusal :=
  s.onDie die (replayFeed die.val words)

/-- The cycle at which replay pauses. -/
def Hw.replayStopAt (h : Hw) : Nat := h.rd 0 R.JRN_RSTOPLO_VALUE + h.rd 0 R.JRN_RSTOPHI_VALUE * 2 ^ 32

/-- REPLAY_STOP (R536): the cycle count reaches RSTOP with STOPEN = 1. -/
def replayStop (h : Hw) : Hw :=
  if h.on 0 R.JRN_RCTL_STOPEN ∧ h.replayStopAt ≤ h.now then h.replayMove 0 [5] 6 else h

def execReplayStop (s : State) : Host.Outcome State Fault Refusal := s.on replayStop

/-- REPLAY_END (R537): MARK kind 7, a loss mark, or the last fed word with no further feed. -/
def replayEnd (d : Nat) (h : Hw) : Hw :=
  if h.rd d R.JRN_STAT_STATE = 5 then h.wr d R.JRN_STAT_STATE 7 else h

def execReplayEnd (die : Die) (s : State) : Host.Outcome State Fault Refusal := s.onDie die (replayEnd die.val)

end Sys2Proof.Machine
end

