-- ==== Sys2Proof/Machine/Access.lean ====
section
/-!
DEFINITION. Accesses by address (R11, R12, R27 to R35, R623): decoding, what the node state lets through, reads and plain
stores of every space. The access engine and the bridges stand in Machine/Engine.lean and Machine/Bridges.lean.
-/

namespace Sys2Proof.Machine

/-- Does a node ID name this node (R31)? -/
def Hw.isHere (h : Hw) (n : Nat) : Bool := n == 0 || n == h.nodeId

/-! ## Decoding (R27 to R29) -/

/-- The size of the image that space 0x01 returns: the loaded one, after an update the new one (R578). -/
def Hw.imageExtent (h : Hw) : Nat := if h.on 0 R.MGT_STAT_PENDING then leNat (h.norRead 8 4) else h.cfg.header.imgLen

/-- The extent of a space; a reserved space has none. -/
def Hw.extent (h : Hw) (space : Nat) : Nat :=
  match space with
  | 0x00 => 0x110000
  | 0x01 => h.imageExtent
  | 0x02 => 0x100000
  | 0x03 => 0x10800
  | 0x04 => 0x200000
  | 0x08 => 0x100000000
  | 0x10 => 0x20000
  | 0x11 => h.logCapacity
  | 0x12 => 0x400000
  | 0x18 => 0x10000
  | _ => 0

/-- Form A: 1, 2, 4 or 8 bytes naturally aligned, or a burst of up to 64 bytes within a 64-byte line. -/
def formA (off len : Nat) : Bool :=
  if len = 1 ∨ len = 2 ∨ len = 4 ∨ len = 8 then off % len == 0
  else decide (1 ≤ len) && decide (len ≤ 64) && off / 64 == (off + len - 1) / 64

/-- The forms of a queue window (R275, R276). -/
def Hw.windowForm (h : Hw) (d off len : Nat) (write : Bool) : Bool :=
  let q := off / 256
  let o := off % 256
  if o < 0x40 then o == 0 && len == (if h.isWord d q then 4 else 64) && h.dataOpen d q write
  else decide (o < 0x58) && o % 4 == 0 && len == 4

/-- Does the space accept this form? Spaces 0x01 and 0x11 take reads only, space 0x12 writes in Replay mode only (R532). -/
def Hw.formOk (h : Hw) (d space off len : Nat) (write : Bool) : Bool :=
  match space with
  | 0x00 => len == 4 && off % 4 == 0
  | 0x01 => !write
  | 0x03 => dataForm off len write && (decide (off < 0x10000) || formA off len)
  | 0x04 => h.windowForm d off len write
  | 0x08 => decide (d < 2) && (h.masterEntry d off).isSome && formA off len
  | 0x11 => !write
  | 0x12 => formA off len && (!write || h.node.replay)
  | _ => formA off len

/-- In Replay mode a read that would change the domain, and any write to it, is answered with ADR (R536). -/
def Hw.replayBars (h : Hw) (space off : Nat) (write : Bool) : Bool :=
  h.node.replay &&
    match space with
    | 0x00 => domainReg off && (write || readChanges off)
    | 0x02 => write
    | 0x03 => write
    | 0x04 => write || decide (off % 256 < 0x40) || off % 256 == 0x44 || off % 256 == 0x54
    | _ => false

/-- Is a request decoded (R29)? -/
def Hw.decodes (h : Hw) (d space off len : Nat) (write : Bool) (o : Origin) : Bool :=
  decide (d < h.dies) && decide (1 ≤ len) && decide (off + len ≤ h.extent space) && h.formOk d space off len write &&
    (space != 0x18 || o.isManagement) && !h.replayBars space off write

/-- What the node state lets through (R35): management is inside the node and always passes. -/
def Hw.permits (h : Hw) (o : Origin) (space off : Nat) (write : Bool) : Bool :=
  o.isManagement ||
    match h.node.state with
    | .run => true
    | .degraded => true
    | .safe => true
    | .quarantine => space == 0 && !write && [0x0, 0xC, 0x10].contains (off / 0x10000)
    | .night => false
    | _ => space == 0 && off / 0x10000 == 0

/-- The die that decodes a request: the owner for spaces 0x01 and 0x11 (R28), the die named, or where that die is absent the
die it entered by. -/
def Hw.decoder (h : Hw) (entry d space : Nat) : Nat :=
  if h.dies ≤ d then entry else if space = 0x01 ∨ space = 0x11 then h.node.owner else d

/-- Why an access is turned away: 1 ADR, 0x82 by the node state; 0 where it goes on. -/
def Hw.gate (h : Hw) (d space off len : Nat) (write : Bool) (o : Origin) : Nat :=
  if !h.decodes d space off len write o then 1 else if !h.permits o space off write then 0x82 else 0

/-- An access turned away is an access violation (R29, R432). -/
def Hw.turnAway (h : Hw) (entry d space off : Nat) (o : Origin) : Hw :=
  h.violation (h.decoder entry d space) o (space * 2 ^ 40 + off)

/-! ## Plain stores to registers (R12, R14, R16, R623) -/

/-- Does a plain store differ from the present value of an IMG or AMD field? -/
def Hw.storeDiffers (h : Hw) (d off w : Nat) : Bool :=
  match findReg off with
  | none => false
  | some r =>
    let m := (r.fields.filter fun f => f.cls == .img || f.cls == .amd).foldl (fun m f => m + (2 ^ f.w - 1) * 2 ^ f.lo) 0
    (w &&& m) != (h.viewReg d off &&& m)

/-- The W1C bits of class OPR, on which a plain store acts (R623). -/
def RegDesc.storeClears (r : RegDesc) : Nat :=
  (r.fields.filter fun f => f.acc == .w1c && f.cls == .opr).foldl (fun m f => m + (2 ^ f.w - 1) * 2 ^ f.lo) 0

/-- Ones written to W1C bits clear them; those of WLH_FLAGS at the Wellhouse as well. -/
def Hw.writeW1c (h : Hw) (d off w : Nat) : Hw :=
  match findReg off with
  | none => h
  | some r =>
    let m := r.storeClears &&& w
    if m = 0 then h
    else
      let h := h.clearBits ((if r.node then 0 else d) * 0x200000 + off) m
      if off = 0xA0044 then { h with wlh := { h.wlh with flags := h.wlh.flags - (h.wlh.flags &&& m) } } else h

/-- A write of a Pump command (R300). -/
def pumpCommand (d n cmd : Nat) (o : Origin) (h : Hw) : Hw :=
  match cmd with
  | 0 => h
  | 1 => pumpStartCmd d n h
  | 2 => pumpStopNow d n h
  | 3 => pumpStopAtBoundary d n h
  | 4 => pumpClear d n o h
  | _ => h.violation d o (0x40000 + 0x400 * n)

/-- A write of a CAN command; a STOP written so meets no reception but one that CAN_STAT.RXING shows (LOG 40). -/
def canCommand (d k cmd : Nat) (o : Origin) (h : Hw) : Hw :=
  match cmd with
  | 0 => h
  | 1 => canStart d k h
  | 2 => canStop d k false h
  | 3 => canRecover d k o h
  | 4 => canSleep d k h
  | 5 => canWake d k h
  | 6 => canAbort d k h
  | _ => canCmdReserved d k o h

/-- POP (R435): the oldest entry of the fault log goes; with COUNT = 0 nothing happens. -/
def popFault (d : Nat) (h : Hw) : Hw := if d < 2 then h.setHost d { h.host d with log := (h.host d).log.drop 1 } else h

/-- What a store does to the RW fields of class OPR of a register. -/
def writeOpr (d off w : Nat) (o : Origin) (x : Hw × SMap Byte) : Hw × SMap Byte :=
  let h := x.1
  let one := bit w 0
  if off = 0xC then (nodCommand (low 4 w) d o 0 h, x.2)
  else if 0x40000 ≤ off ∧ off < 0x50000 then (if off % 0x400 = 0 then pumpCommand d ((off - 0x40000) / 0x400) (low 3 w) o h else h, x.2)
  else if 0x500A0 ≤ off ∧ off < 0x500B8 then (h.writeOuts d ((off - 0x500A0) / 4) (2 ^ 32 - 1) w, x.2)
  else if 0x60000 ≤ off ∧ off < 0x68000 then (if off % 0x800 = 4 then canCommand d ((off - 0x60000) / 0x800) (low 3 w) o h else h, x.2)
  else if 0x74000 ≤ off ∧ off < 0x78000 then (entryArm d ((off - 0x74000) / 4) (bit w 10) false h, x.2)
  else if off = 0x90010 then (if bit w 8 then popFault d h else h, x.2)
  else if off = 0xB0018 then (h.wr 0 R.LDG_MARKLO_MARK w, x.2)
  else if off = 0xB001C then (archiveMark w false h, x.2)
  else if off = 0xC000C then (if one then evrClr d o h else h, x.2)
  else if off = 0xD0008 then (if one then jrnFreeze h else h, x.2)
  else if off = 0xD0100 then replayControl d o w x
  else if 0xD0104 ≤ off ∧ off < 0xD0114 then
    (if h.node.replay then h.setRegAt (d * 0x200000 + off) (BitVec.ofNat 32 (if off < 0xD010C then low 19 w else w)) else h, x.2)
  else if off = 0xE0020 then (if one then attestRequest d o h else h, x.2)
  else if 0xE0040 ≤ off ∧ off < 0xE0070 then (h.wr 0 R.VLT_ANONCE_NONCE w ((off - 0xE0040) / 4), x.2)
  else if off = 0xF0008 then (heartbeat d o (BitVec.ofNat 32 w) h, x.2)
  else if off = 0xF0014 then (updateData d o (BitVec.ofNat 32 w) h, x.2)
  else x

/-- A plain store to a register of die `d` (R623): every OPR and W1C part acts; a difference in an IMG or AMD field is an
access violation and is answered DENY. The blocks BRG and WLH lie on D0 and D1 (R34). -/
def writeReg (d off w : Nat) (o : Origin) (x : Hw × SMap Byte) : Nat × (Hw × SMap Byte) :=
  if (off / 0x10000 = 9 ∨ off / 0x10000 = 10) ∧ 2 ≤ d then (0, x)
  else
    let deny := x.1.storeDiffers d off w
    let y := writeOpr d off w o (x.1.writeW1c d off w, x.2)
    if deny then (2, (y.1.violation d o off, y.2)) else (0, y)

/-! ## Access results -/

/-- A journal record of a management access into the domain (R517): 0 write, 1 read of an RC field, 2 queue DATA read. -/
def Hw.journalMgmt (h : Hw) (d kind space off len data : Nat) (o : Origin) : Hw :=
  if o.isManagement then h.journal d 7 (kind + space * 2 ^ 3 + (2 ^ min len 4 - 1) * 2 ^ 8) [off, low 64 data] else h

/-- Is the offset of a space inside the replay domain? -/
def inDomain (space off : Nat) : Bool := if space = 0 then domainReg off else space == 2 || space == 3 || space == 4

/-- The bytes of a journal word range (R532). -/
def Hw.journalBytes (h : Hw) (d off len : Nat) : List Byte :=
  (List.range len).map fun k => (leBytes 8 ((h.jrn d).words.get 0 ((off + k) / 8))).getD ((off + k) % 8) 0

/-- A read of a window (R275). -/
def readQueue (d off : Nat) (u : Upset) (o : Origin) (h : Hw) : List Byte × Hw :=
  if off % 256 < 0x40 then readData d (off / 256) u (h.journalMgmt d 2 4 off 4 0 o)
  else
    let (w, h) := readWindow d (off / 256) (off % 256) h
    (leBytes 4 w, h)

/-- A free value in bytes: what an access to space 0x18 returns, whose layout the manual does not give (R549). -/
def Hw.freeBytes (h : Hw) (n : Nat) : List Byte × Hw :=
  let (v, h) := h.draw
  (leBytes n v.toNat, h)

/-- A read of the Process Image RAM. A word that holds a double-bit error raises MEM_UE on its use, and what it delivers is a
free value (R588, R589). -/
def readPir (d off len : Nat) (u : Upset) (x : Hw × SMap Byte) : List Byte × Hw :=
  let bs := pirRead x.2 d off len
  match u with
  | .uncorrectable w =>
    let (f, h) := (((x.1.journalErr d 2 (off / 8 + w.val) 1).raiseFault d 0x15 (low 13 (off / 8 + w.val)))).freeBytes 8
    (spliceAt bs (8 * w.val) f, h)
  | .corrected w => (bs, x.1.journalErr d 2 (off / 8 + w.val) 0)
  | _ => (bs, x.1)

/-- A decoded and permitted read. -/
def readSpace (d space off len : Nat) (o : Origin) (u : Upset) (x : Hw × SMap Byte) : List Byte × Hw :=
  let h := x.1
  match space with
  | 0x00 =>
    let h := if domainReg off && readChanges off then h.journalMgmt d 1 0 off 4 0 o else h
    let (w, h) := readReg d off h
    (leBytes 4 w, h)
  | 0x01 => (h.norRead off len, h)
  | 0x02 => readPir d off len u x
  | 0x03 => (wordSlice (h.dataWord d) off len, h)
  | 0x04 => readQueue d off u o h
  | 0x10 => (recorderBytes h d off len, h)
  | 0x11 => (ledgerBytes h off len, h)
  | 0x12 => (h.journalBytes d off len, h)
  | _ => h.freeBytes len

/-- A read by address on this node: its answer and what it does. Space 0x08 is read by the bridge (Machine/Bridges.lean). -/
def performRead (entry d space off len : Nat) (o : Origin) (u : Upset) (x : Hw × SMap Byte) : Reply × (Hw × SMap Byte) :=
  let g := x.1.gate d space off len false o
  if g = 0 then
    let (bs, h) := readSpace d space off len o u x
    (⟨0, bs⟩, (h, x.2))
  else (⟨g, []⟩, (x.1.turnAway entry d space off o, x.2))

/-- A write to a window (R262, R275, R630). -/
def writeQueue (d off : Nat) (bs : List Byte) (o : Origin) (u : Upset) (h : Hw) : Nat × Hw :=
  let q := off / 256
  if off % 256 < 0x40 then
    let (ok, h) := writeData d q o bs u h
    (if ok then 0 else 0x23, h)
  else if off % 256 = 0x40 then
    let w := leAt bs 0 4
    let h := if bit w 19 then h.qwr d q Q.QSTAT_UNDER 0 else h
    (0, if bit w 20 then h.qwr d q Q.QSTAT_QRESET 0 else h)
  else (0, h)

/-- Bytes written into the journal circle in Replay mode. -/
def Hw.writeJournal (h : Hw) (d off : Nat) (bs : List Byte) : Hw :=
  iter bs.length (fun k h =>
    let i := (off + k) / 8
    h.feedWord d i (leNat (spliceAt (leBytes 8 ((h.jrn d).words.get 0 i)) ((off + k) % 8) [bs.getD k 0]))) h

/-- A decoded and permitted write: its code and what it does. A write to the recorder changes nothing. -/
def writeSpace (d space off : Nat) (bs : List Byte) (o : Origin) (u : Upset) (x : Hw × SMap Byte) : Nat × (Hw × SMap Byte) :=
  let h := x.1
  match space with
  | 0x00 => writeReg d off (leAt bs 0 4) o x
  | 0x02 => (0, storePir d off bs x)
  | 0x03 => (0, (h.writeOuts d ((off - 0x20) / 8) (leAt bs 4 4) (leAt bs 0 4), x.2))
  | 0x04 =>
    let (c, h) := writeQueue d off bs o u h
    (c, (h, x.2))
  | 0x12 => (0, (h.writeJournal d off bs, x.2))
  | _ => (0, x)

/-- A write by address on this node. -/
def performWrite (entry d space off : Nat) (bs : List Byte) (o : Origin) (u : Upset) (x : Hw × SMap Byte) :
    Reply × (Hw × SMap Byte) :=
  let g := x.1.gate d space off bs.length true o
  if g = 0 then
    let h := if inDomain space off then x.1.journalMgmt d 0 space off bs.length (leNat bs) o else x.1
    let (c, y) := writeSpace d space off bs o u (h, x.2)
    (⟨c, []⟩, y)
  else (⟨g, []⟩, (x.1.turnAway entry d space off o, x.2))

/-! ## The Posted Write Fault Log (R434, R435) -/

/-- The log with an entry that finds it full: of two faults of one core cycle the lower TAG is logged (R451). -/
def lowerTag (l : List PwFault) (e : PwFault) : List PwFault :=
  match l.getLast? with
  | some f => if f.cycle = e.cycle ∧ e.tag < f.tag then l.dropLast ++ [e] else l
  | none => l

/-- A posted write of a bridge failed: an entry of its log, or OVF where 64 are held; sources 48 and 49 of R436. -/
def Hw.logPosted (h : Hw) (d : Nat) (e : PwFault) : Hw :=
  let x := h.host d
  if x.log.length < 64 then (h.setHost d { x with log := x.log ++ [e] }).raiseMsix d 48
  else ((h.setHost d { x with log := lowerTag x.log e }).bump d R.BRG_PWST_OVF).raiseMsix d 49

/-- PORT of R424: the die, and 8 for its backplane bridge. -/
def portCode (o : Origin) : Nat := match o with | .backplane d => low 3 d + 8 | _ => low 3 o.die

/-- The bridge that an origin names; none for management and the others. -/
def bridgeOf (o : Origin) : Option Nat := match o with | .host d => some d | .backplane d => some d | _ => none

/-- The end of a posted write of this node's own bridge or firmware: a failure past R35 goes into the bridge's log. -/
def Hw.endPosted (h : Hw) (o : Origin) (tag addr reqid code : Nat) : Hw :=
  match bridgeOf o with
  | some d => if code = 0 ∨ code = 0x82 then h else h.logPosted d ⟨addr, portCode o, reqid, code, h.fabricNs, tag, h.now⟩
  | none => h

end Sys2Proof.Machine
end

