-- ==== Sys2Proof/Machine/Amend.lean ====
section
/-!
DEFINITION. The amend transaction (R113 to R123): the cell's fields, the checks of R119 in their order, the entry, and what
an accepted amend of each AMD register does.
-/

namespace Sys2Proof.Machine

/-! ## What may be amended -/

/-- The bits of class AMD of the register at an offset. -/
def amdMask (off : Nat) : Nat :=
  match findReg off with
  | none => 0
  | some r => (r.fields.filter (·.cls == .amd)).foldl (fun m f => m + (2 ^ f.w - 1) * 2 ^ f.lo) 0

/-- The Pump of a program word, PMP_FLOW, PMP_LCCFG or line-code entry (R305). -/
def pumpProgramAt (off : Nat) : Option Nat :=
  if 0x40000 ≤ off ∧ off < 0x50000 then
    let o := off % 0x400
    if o = 0x10 ∨ o = 0x38 ∨ (0x80 ≤ o ∧ o < 0x200) then some ((off - 0x40000) / 0x400) else none
  else none

/-- Registers whose bits count as not of class AMD at present: a Pump's program while it is not Stopped (R305), a
controller's bit timing while it is not Off (R336), an event entry while it is in use (R394). -/
def Hw.amendOpen (h : Hw) (d off mask : Nat) : Bool :=
  match pumpProgramAt off with
  | some n => h.pumpState d n == 0 && !(h.pump d n).starting
  | none =>
    if 0x60000 ≤ off ∧ off < 0x68000 ∧ 0x10 ≤ off % 0x800 ∧ off % 0x800 ≤ 0x18 then h.canState d ((off - 0x60000) / 0x800) == 0
    else if 0x74000 ≤ off ∧ off < 0x78000 then mask &&& (2 ^ 32 - 1 - 2 ^ 9) == 0 || !h.on d R.PHS_EVTC_EN ((off - 0x74000) / 4)
    else if 0x78000 ≤ off ∧ off < 0x80000 then !h.on d R.PHS_EVTC_EN ((off - 0x78000) / 8)
    else true

/-- PROGWR and its event where an amend targets the program of a Pump that is not Stopped (R305). -/
def Hw.noteProgram (h : Hw) (d off : Nat) : Hw :=
  match pumpProgramAt off with
  | some n => (h.flag d R.PMP_ERR_PROGWR n).report d (0x20 + n) .amendResult off
  | none => h

/-- Encodings that a command register refuses with RANGE. -/
def Hw.commandOk (h : Hw) (d off w : Nat) : Bool :=
  if off = 0xA004C then w != 3
  else if off = 0xD000C then w == 0 || h.rd d R.JRN_STAT_STATE == 3
  else if off = 0xE0008 then h.mayRevoke (low 6 w)
  else if off = 0xF0010 then w != 2 || h.mgt.isOpen
  else if off = 0x100010 then faultCodes.contains w
  else true

/-- The key of the register at an offset: the node's one register lies with die 0. -/
def regKey (d off : Nat) : Nat :=
  match findReg off with
  | some r => (if r.node then 0 else d) * 0x200000 + off
  | none => d * 0x200000 + off

/-- Is the new word free of reserved and out-of-range encodings (R119)? -/
def Hw.amendInRange (h : Hw) (d off w : Nat) : Bool :=
  h.wordOk d off w && h.commandOk d off w && (h.setRegAt (regKey d off) (BitVec.ofNat 32 w)).amendRelationOk d off

/-- The first policy entry that permits an amend (R116). -/
def Hw.permitting (h : Hw) (d off : Nat) (o : Origin) : Option Policy :=
  h.cfg.policies.find? fun p =>
    bit p.dieMask d && bit p.origins o.code && decide (p.start ≤ off) && decide (off ≤ p.last) &&
      (o.code != 3 || (decide (p.ringMin ≤ o.node) && decide (o.node ≤ p.ringMax)))

/-- Does the permitting entry ask this origin for a MAC (R117)? -/
def Policy.needsMac (p : Policy) (o : Origin) : Bool := o.code == 3 || (p.macReq && (o.code == 1 || o.code == 2))

/-! ## The cell (R113) -/

/-- VER and the reserved bytes. -/
def amendFormat (bs : List Byte) : Bool :=
  leAt bs 2 1 == 1 && decide (leAt bs 3 1 ≤ 1) && leAt bs 6 2 == 0 && leAt bs 0x24 12 == 0

/-- KEYID, SEQNO and MAC against last_seq (R117, R119): 0 where they hold, else BADMAC or STALE. -/
def credential (o : Origin) (bs : List Byte) (h : Hw) : Nat × Hw :=
  let slot := leAt bs 4 2
  if 64 ≤ slot then (3, h)
  else
    let (k, h) := h.deliver h.node.owner slot 4
    match k with
    | none => (3, h)
    | some key =>
      if (hashBytes (Config.hmac384 key (slice bs 0 0x30))).take 16 ≠ slice bs 0x30 16 then (3, h)
      else
        match h.ldg.lastSeq.get none (o.code * 64 + slot) with
        | some n => (if leAt bs 8 8 ≤ n then 4 else 0, h)
        | none => (0, h)

/-- The target of a cell: its die and register offset. -/
def amendDie (bs : List Byte) : Nat := addrDie (leAt bs 0x10 8)

def amendOff (bs : List Byte) : Nat := addrOff (leAt bs 0x10 8)

/-- The word that the register holds once the masked bits are changed. -/
def Hw.amendWord (h : Hw) (bs : List Byte) : Nat :=
  let m := leAt bs 0x18 4
  let w := h.viewReg (amendDie bs) (amendOff bs)
  w - (w &&& m) + (leAt bs 0x1C 4 &&& m)

/-- Is the target a register of this node whose masked bits are all of class AMD? -/
def Hw.amendTarget (h : Hw) (bs : List Byte) : Bool :=
  let a := leAt bs 0x10 8
  let m := leAt bs 0x18 4
  h.isHere (addrNode a) && addrSpace a == 0 && addrOff a % 4 == 0 && decide (addrDie a < h.dies) &&
    decide (addrOff a < 0x110000) && m &&& amdMask (addrOff a) == m

/-- The checks that follow the credential: RANGE, COMPARE, then 0. -/
def Hw.amendValue (h : Hw) (bs : List Byte) : Nat :=
  let m := leAt bs 0x18 4
  if !h.amendInRange (amendDie bs) (amendOff bs) (h.amendWord bs) then 6
  else if bit (leAt bs 3 1) 0 ∧ h.viewReg (amendDie bs) (amendOff bs) &&& m ≠ leAt bs 0x20 4 &&& m then 7
  else 0

/-- Hold-up and the places of requested entries (R121, R491): none while the amend must wait, 1 for BUSY, 0 to go on. -/
def amendPlace (h : Hw) : Option Nat × Hw :=
  let h := h.checkpointIfDue
  (if h.requestedWaits then none else if h.holdupOk h.ldg.staging.length then some 0 else some 1, h)

/-- The checks from the policy on. -/
def amendPermitted (o : Origin) (bs : List Byte) (h : Hw) : Option Nat × Hw :=
  match h.permitting (amendDie bs) (amendOff bs) o with
  | none => (some 2, h)
  | some p =>
    if p.needsMac o && !h.on 0 R.LDG_STAT_READY then (none, h)
    else
      let (c, h) := if p.needsMac o then credential o bs h else (0, h)
      if c ≠ 0 then (some c, h)
      else if h.amendValue bs ≠ 0 then (some (h.amendValue bs), h)
      else amendPlace h

/-- The checks of R119, in order: the result code, or none while the cell waits in Q560. -/
def amendCheck (o : Origin) (bs : List Byte) (h : Hw) : Option Nat × Hw :=
  if !amendFormat bs then (some 9, h)
  else if !h.loaderState then (some 8, h)
  else if !h.amendTarget bs then (some 5, h)
  else if !h.amendOpen (amendDie bs) (amendOff bs) (leAt bs 0x18 4) then (some 5, h.noteProgram (amendDie bs) (amendOff bs))
  else amendPermitted o bs h

/-! ## What an accepted amend does -/

/-- A word of a Pump's program, of a line-code table, or of an event entry is rewritten: its parity error ends (R309, R397). -/
def Hw.rewritten (h : Hw) (d off : Nat) : Hw :=
  match pumpProgramAt off with
  | some n =>
    let o := off % 0x400
    let e := if 0x100 ≤ o then (o - 0x100) / 4 else if 0x80 ≤ o then 64 + (o - 0x80) / 4 else 80
    let x := h.pump d n
    h.setPump d n { x with bad := x.bad.filter (· != e) }
  | none =>
    if 0x74000 ≤ off ∧ off < 0x78000 then h.rewriteEntry d ((off - 0x74000) / 4)
    else if 0x78000 ≤ off ∧ off < 0x80000 then h.rewriteEntry d ((off - 0x78000) / 8)
    else h

/-- EN of an event entry: set, it initialises NEXT (R382); cleared, the entry is not pending any more. -/
def Hw.entryChanged (h : Hw) (d e : Nat) (was : Bool) : Hw :=
  if h.on d R.PHS_EVTC_EN e then (if was then h else h.initNext d e) else h.trimPending d

/-- A word of class AMD takes its new value, with what follows from it. -/
def Hw.amendStore (h : Hw) (d off w : Nat) : Hw :=
  let e := (off - 0x74000) / 4
  let was := h.on d R.PHS_EVTC_EN e
  let check := h.rd d R.MIO_PFLT_CHECK ((off - 0x51000) / 32)
  let h := (h.setRegAt (regKey d off) (BitVec.ofNat 32 w)).rewritten d off
  if 0x74000 ≤ off ∧ off < 0x78000 then h.entryChanged d e was
  else if 0x51000 ≤ off ∧ off < 0x52800 then
    let p := (off - 0x51000) / 32
    let h := if h.rd d R.MIO_PFLT_CHECK p = check then h else h.dropMeasure d p
    if h.rd d R.MIO_PTRIP_INCOND p = 1 then h.judgeGroup d p (h.rd d R.MIO_PTRIP_INGRP p) else h
  else if off = 0x80030 ∧ h.timeMaster then h.setInForce (h.rd 0 R.FTM_UTC_UTCOFF)
  else h

/-- The port commands of RNG_PCMD. -/
def portCommand (d p cmd : Nat) (h : Hw) : Hw :=
  match cmd with
  | 1 => retrain d p h
  | 2 => forceOff d p h
  | 3 => portRelease d p h
  | _ => h

/-- The update commands of MGT_UCMD. -/
def updateCommand (cmd : Nat) (h : Hw) : Hw :=
  match cmd with
  | 1 => updateStart h
  | 2 => updateCommit h
  | 3 => updateAbort h
  | _ => h

/-- The register at an offset is a command: a write of its value is an action. -/
def amendAct (d off w : Nat) (holds : Bool) (h : Hw) : Hw :=
  if 0x10108 ≤ off ∧ off < 0x10208 ∧ off % 0x40 = 8 then portCommand d ((off - 0x10108) / 0x40) w h
  else if off = 0x50040 then tripRelease d (low 16 w) h
  else if off = 0x8000C then (if w = 1 then ftmAccept h else h)
  else if off = 0xA004C then (if w = 0 then h else fieldCommand w h)
  else if off = 0xD000C then (if w = 1 then jrnRearm h else h)
  else if off = 0xE0008 then revokeSlot (low 6 w) h
  else if off = 0xE001C then (if w = 1 then tamperClear h else h)
  else if off = 0xF0010 then updateCommand w h
  else if off = 0x100010 then fltSclr w holds h
  else h.amendStore d off w

/-- The value that an action takes: the written ones alone where the field is W1C (R329) or reads 0. -/
def actedWord (off w m v : Nat) : Nat := if off = 0x50040 ∨ off = 0x8000C then v &&& m else w

/-- The kind 0x01 entry (R488). -/
def amendBody (o : Origin) (bs : List Byte) (mac : Bool) (old w : Nat) : LedgerBody :=
  ⟨1, o.code, if o.code = 3 then o.node else 0, o.die, if mac then leAt bs 4 2 else 0xFFFF, leAt bs 0 2,
   if mac then leAt bs 8 8 else 0, amendDie bs * 2 ^ 29 + amendOff bs, leAt bs 0x18 4, old, w⟩

/-- The result slot TAG[3:0] and the counts (R120). -/
def Hw.amendResult (h : Hw) (o : Origin) (bs : List Byte) (code lseq : Nat) : Hw :=
  let i := leAt bs 0 1 % 16
  let h := ((h.wr 0 R.NOD_AMDRESA_TAG (leAt bs 0 2) i).wr 0 R.NOD_AMDRESA_ORIGIN o.code i).wr 0 R.NOD_AMDRESA_CODE code i
  let h := h.wr 0 R.NOD_AMDRESB_LSEQ (low 32 lseq) i
  if code = 0 then h.bump 0 R.NOD_AMDCNT_ACCEPT else h.bump 0 R.NOD_AMDCNT_REFUSE

/-- An amend that passed every check: staged, then applied as a journaled management write (R119). -/
def amendAccept (o : Origin) (bs : List Byte) (holds : Bool) (h : Hw) : Hw :=
  let d := amendDie bs
  let off := amendOff bs
  let w := h.amendWord bs
  let mac := (h.permitting d off o).any (·.needsMac o)
  let lseq := h.ldg.nextLseq
  let h := if mac then { h with ldg.lastSeq := h.ldg.lastSeq.put none (o.code * 64 + leAt bs 4 2) (some (leAt bs 8 8)) } else h
  let h := h.stageNow (amendBody o bs mac (h.viewReg d off) w)
  let h := if domainReg off then h.journalMgmt d 0 0 off 4 w (.management h.node.owner) else h
  let m := leAt bs 0x18 4
  let h := if m = 0 then h else amendAct d off (actedWord off w m (leAt bs 0x1C 4)) holds h
  h.amendResult o bs 0 lseq

/-- The die whose Q560 the owner serves next: its own, else the lowest-numbered die that passes it a cell. -/
def Hw.amendFrom (h : Hw) : Option Nat :=
  (h.node.owner :: List.range h.dies).find? fun d => !(h.cq d 560).cells.isEmpty

/-- The origin of a cell by the path it came (R114): a window write's, else its source node over the ring. -/
def CCell.origin (c : CCell) : Origin := c.org.getD (.ring c.cell.snode)

/-- AMEND_CELL (R119): the owner takes the head of Q560. `holds` says whether the fault of a code written to FLT_SCLR still
holds. While no die performs the owner's functions, in the owner's management blackout (R123), and while a requested entry cannot be staged,
the cell waits. What the memories
answer of the queue comes first (R266 to R270). -/
def amendCell (holds : Bool) (u : Upset) (h : Hw) : Hw :=
  match h.amendFrom with
  | none => h
  | some q =>
    if h.mgt.headless ∨ h.rd h.node.owner R.MGT_STAT_PAIR = 3 then h
    else
      let h := (h.meet q 560 u).2
      match (h.cq q 560).cells with
      | [] => h
      | c :: _ =>
        let bs := c.cell.data
        match amendCheck c.origin bs h with
        | (none, h) => h
        | (some 0, h) => amendAccept c.origin bs holds (h.dropHead q 560)
        | (some code, h) => (h.dropHead q 560).amendResult c.origin bs code 0

def execAmendCell (holds : Bool) (inbox : Upset) (s : State) : Host.Outcome State Fault Refusal := s.on (amendCell holds inbox)

end Sys2Proof.Machine
end

