-- ==== Sys2Proof/Machine/Engine.lean ====
section
/-!
DEFINITION. The access engines of the dies (R423 to R426): access cells, requests performed or queued for a backplane, the
64-byte units held for locks (R445), answers; and the rows that make one access directly.
-/

namespace Sys2Proof.Machine

/-! ## Access cells (R424) -/

/-- The request that an access cell carries, with the origin of its path (R114). -/
def reqOf (c : CCell) : Req :=
  let f := leAt c.cell.data
  ⟨f 0 1, f 2 2, bit (f 4 1) 0, bit (f 4 1) 1, f 5 1, f 7 1, f 8 8, f 0x10 2, f 0x12 2, c.cell.snode, c.cell.sdie, c.origin,
   slice c.cell.data 0x20 (min 32 (f 5 1))⟩

/-- FLAGS of R424. -/
def flagBits (posted second : Bool) : Nat := b2n posted + 2 * b2n second

/-- An answer to a request's source, in two halves where the request came in two. -/
def Hw.answer (h : Hw) (d : Nat) (r : Req) (msg code : Nat) (data : List Byte) : Hw :=
  let one := fun k n second => blankCell 1 r.snode r.sdie 553 h.nodeId d
    (accessBytes msg r.tag (flagBits r.posted second) n code r.port (r.addr + k) r.reqid r.rnode (slice data k n))
  if r.len ≤ 32 then h.offer d 7 (one 0 r.len r.second)
  else (h.offer d 7 (one 0 32 false)).offer d 7 (one 32 (r.len - 32) true)

/-! ## Completions at the bridges -/

/-- A host request ends: status 0 successful, 1 Unsupported Request, 4 Completer Abort. -/
def Hw.hostEnd (h : Hw) (d tag reqid status : Nat) (data : List Byte) : Hw :=
  let x := h.host d
  h.setHost d { x with reads := x.reads.filter (fun r => !(r.tag == tag && r.reqid == reqid)), last := some ⟨tag, status, data⟩ }

/-- A host read fails (R431, R432): Unsupported Request where the node state refuses a piece, else Completer Abort. -/
def Hw.hostFail (h : Hw) (d tag reqid code : Nat) : Hw :=
  if code = 0x82 then h.hostEnd d tag reqid 1 [] else (h.hostEnd d tag reqid 4 []).bump d R.BRG_HCNT_CAERR

/-- The host read that waits for a piece. -/
def Hw.readOf (h : Hw) (d tag addr : Nat) : Option HostRead :=
  (h.host d).reads.find? fun r => r.pieces.any fun p => p.tag == tag && p.addr == addr && p.data.isNone

/-- A piece of a host read is answered: with its last piece the read completes, with a failing one it ends (R430, R431). -/
def Hw.hostFill (h : Hw) (d : Nat) (r : HostRead) (tag addr code : Nat) (data : List Byte) : Hw :=
  if code ≠ 0 then h.hostFail d r.tag r.reqid code
  else
    let ps := r.pieces.map fun p => if p.tag = tag ∧ p.addr = addr then { p with data := some (slice data 0 p.len) } else p
    if ps.all (·.data.isSome) then h.hostEnd d r.tag r.reqid 0 (ps.flatMap fun p => p.data.getD [])
    else
      let x := h.host d
      h.setHost d { x with reads := x.reads.map fun q => if q.tag = r.tag ∧ q.reqid = r.reqid then { q with pieces := ps } else q }

/-- A completion for the host port: one that names no waiting piece is discarded and counted (R431, R451). -/
def Hw.hostComplete (h : Hw) (d tag addr code : Nat) (data : List Byte) : Hw :=
  match h.readOf d tag addr with
  | some r => h.hostFill d r tag addr code data
  | none => h.bump d R.BRG_HCNT_LATECPL

/-- How an answer ends the slave cycle that waits for it. -/
def endCycle (b : Bp) (c : HeldCycle) (code : Nat) (data : List Byte) : Bp :=
  { b with held := none,
           last := if code ≠ 0 then .berr else .dtack (if c.kind % 2 = 0 then slice data 0 c.width else []),
           lock := if code ≠ 0 ∧ c.kind = 2 then none else b.lock }

/-- The prefetch slot of a tag. -/
def slotOf (b : Bp) (tag : Nat) : Option Nat :=
  (List.range 16).find? fun i => (b.slots.get none i).any fun s => s.tag == tag && s.got.isNone

/-- An answer for the backplane bridge (R441, R442, R445): it ends the cycle that waits for it or fills its slot. -/
def Hw.busComplete (h : Hw) (d tag code : Nat) (data : List Byte) : Hw :=
  let b := h.bp d
  match b.held with
  | some c =>
    if c.tag = tag then h.setBp d (endCycle b c code data)
    else
      match slotOf b tag with
      | some i => h.setBp d { b with slots := b.slots.upd none i fun s => s.map fun s => { s with got := some (code, data) } }
      | none => h
  | none =>
    match slotOf b tag with
    | some i => h.setBp d { b with slots := b.slots.upd none i fun s => s.map fun s => { s with got := some (code, data) } }
    | none => h

/-- Lock busy at the requester (R447): the lock read is to be sent again. -/
def Hw.lockIsBusy (h : Hw) (d tag : Nat) : Hw :=
  let b := h.bp d
  h.setBp d { b with lock := b.lock.map fun l => if l.tag = tag then { l with busy := true } else l }

/-! ## The end of a request -/

/-- A posted write that fails is answered by an error packet to its source (R425, R623). -/
def Hw.postedError (h : Hw) (d node : Nat) (r : Req) (c : Nat) : Hw :=
  h.errPacket d ⟨c, node, r.sdie, accessBytes 0x41 r.tag (flagBits true r.second) r.len 0 r.port r.addr r.reqid r.rnode [], h.fabricNs⟩

/-- A request ends with a code and data: its answer goes to the source (R426), a posted failure as an error packet (R425), a
request of this node's own bridge to that bridge, a row's own access into `reply`. -/
def finish (d : Nat) (r : Req) (code : Nat) (data : List Byte) (h : Hw) : Hw :=
  let c := if code = 0x82 then 2 else code
  match r.msg with
  | 0x40 => h.answer d r 0x42 c data
  | 0x44 => h.answer d r 0x42 c data
  | 0x41 =>
    if !r.posted then h.answer d r 0x43 c []
    else if c = 0 then h else h.postedError d r.snode r c
  | 0x45 => h.answer d r 0x43 c []
  | 0x80 => h.hostComplete (low 3 r.port) r.tag r.addr code data
  | 0x90 => h.busComplete (low 3 r.port) r.tag code data
  | 0x94 => h.busComplete (low 3 r.port) r.tag code data
  | 0x95 => h.busComplete (low 3 r.port) r.tag code []
  | 0x91 => if r.posted then h.endPosted r.org r.tag r.addr r.reqid code else h.busComplete (low 3 r.port) r.tag code []
  | 0x81 => h.endPosted r.org r.tag r.addr r.reqid code
  | _ =>
    let h := { h with reply := ⟨code, data⟩ }
    if r.posted then
      match r.org with
      | .ring n => if c = 0 then h else h.postedError d n r c
      | _ => h.endPosted r.org r.tag r.addr r.reqid code
    else h

/-- Lock busy (R446, R447), as a cell or to this node's own bridge. -/
def Hw.refuseLock (h : Hw) (d : Nat) (r : Req) : Hw :=
  if r.msg = 0x44 then h.answer d r 0x47 0 [] else h.lockIsBusy (low 3 r.port) r.tag

/-! ## Locks on units (R445) -/

def Hw.eng (h : Hw) (d : Nat) : Eng := h.engs.get .init d

def Hw.setEng (h : Hw) (d : Nat) (e : Eng) : Hw := { h with engs := h.engs.put .init d e }

/-- Does the request touch the 64-byte unit that a lock holds? -/
def Req.touches (r : Req) (l : UnitLock) : Bool :=
  addrDie l.addr == addrDie r.addr && addrSpace l.addr == addrSpace r.addr &&
    decide (addrOff r.addr / 64 ≤ addrOff l.addr / 64) && decide (addrOff l.addr / 64 ≤ (addrOff r.addr + r.len - 1) / 64)

/-- The lock, of any engine of the node, on a unit that a request touches. -/
def Hw.lockOn (h : Hw) (r : Req) : Option UnitLock :=
  ((List.range h.dies).flatMap fun d => (h.eng d).units).find? r.touches

/-- A lock ends at every engine. -/
def Hw.dropLock (h : Hw) (l : UnitLock) : Hw :=
  h.eachDie fun d h => h.setEng d { h.eng d with units := (h.eng d).units.filter (· != l) }

/-! ## Performing a request -/

/-- Perform a request on this node and end it. -/
def perform (d : Nat) (r : Req) (u : Upset) (x : Hw × SMap Byte) : Hw × SMap Byte :=
  let e := addrDie r.addr
  let s := addrSpace r.addr
  let o := addrOff r.addr
  let (a, y) := if r.isWrite then performWrite d e s o r.data r.org u x else performRead d e s o r.len r.org u x
  let y := (if r.isLockRead ∧ a.code = 0 then y.1.setEng d { y.1.eng d with units := (y.1.eng d).units ++ [r.lock] } else y.1, y.2)
  (finish d r a.code a.data y.1, y.2)

/-- The bus of a die's bridge is wanted by a local master that awaits a lock read (R446). -/
def Bp.awaitsLock (b : Bp) : Bool := b.held.any (·.kind == 2)

/-- Two lock reads meet (R446): the lower (node ID, die) keeps its bus. -/
def Hw.resolveLock (h : Hw) (d e : Nat) (r : Req) : Hw :=
  let b := h.bp e
  let other := (r.rnode, low 3 r.port)
  if h.nodeId < other.1 ∨ (h.nodeId = other.1 ∧ e ≤ other.2) then h.refuseLock d r
  else
    (h.setBp e { b with held := none, last := .retry, lock := none, waitAs := some r }).bump e R.BRG_BCNTB_LOCKRES

/-- A request for space 0x08 waits for the bus of its die's bridge (R443, R445). -/
def submitBus (d : Nat) (r : Req) (h : Hw) : Hw :=
  let e := addrDie r.addr
  let g := h.gate e 8 (addrOff r.addr) r.len r.isWrite r.org
  if g ≠ 0 then finish d r g [] (h.turnAway d e 8 (addrOff r.addr) r.org)
  else
    let b := h.bp e
    if r.isLockWrite then
      (if b.lockBy.any r.holds then h.setBp e { b with masters := ⟨r, []⟩ :: b.masters } else finish d r 5 [] h)
    else if r.isLockRead ∧ b.lockBy.isSome then h.refuseLock d r
    else if r.isLockRead ∧ b.awaitsLock then h.resolveLock d e r
    else h.setBp e { b with masters := b.masters ++ [⟨r, []⟩] }

/-- Is the loader writing the configuration NOR, so that a read of space 0x01 waits (R575)? -/
def Hw.norBusy (h : Hw) (r : Req) : Bool := addrSpace r.addr == 1 && !r.isWrite && h.mgt.isOpen && h.ustate == 3

/-- A request waits at the engine of die `d`. -/
def Hw.park (h : Hw) (d : Nat) (r : Req) : Hw := h.setEng d { h.eng d with parked := (h.eng d).parked ++ [r] }

/-- A request other than a lock write: it waits while another holds its unit or the NOR is being written, and a lock read on a held unit
is answered lock busy. -/
def submitPlain (d : Nat) (r : Req) (u : Upset) (x : Hw × SMap Byte) : Hw × SMap Byte :=
  let h := x.1
  if (h.lockOn r).isSome then (if r.isLockRead then h.refuseLock d r else h.park d r, x.2)
  else if h.norBusy r then (h.park d r, x.2)
  else perform d r u x

/-- The requests that waited are tried again, in their order. -/
def retryParked (x : Hw × SMap Byte) : Hw × SMap Byte :=
  iter x.1.dies (fun d x =>
    match (x.1.eng d).parked with
    | [] => x
    | r :: rs => each (r :: rs) (fun r x => submitPlain d r .clean x) (x.1.setEng d { x.1.eng d with parked := [] }, x.2)) x

/-- A request reaches the engine of die `d`. A lock write performs under its holder's lock and ends it; without the lock,
which LOCKTO has ended, it fails with code 0x05. -/
def submit (d : Nat) (r : Req) (u : Upset) (x : Hw × SMap Byte) : Hw × SMap Byte :=
  if addrSpace r.addr = 8 then (submitBus d r x.1, x.2)
  else if r.isLockWrite then
    match x.1.lockOn r with
    | some l => if r.holds l then retryParked (perform d r u (x.1.dropLock l, x.2)) else (finish d r 5 [] x.1, x.2)
    | none => (finish d r 5 [] x.1, x.2)
  else submitPlain d r u x

/-- A bridge with nothing left to do on its bus releases it (R437): when done, or where BP_BCLR_N asked for it. -/
def Hw.settleBus (h : Hw) (e : Nat) : Hw :=
  let b := h.bp e
  if b.lockBy.isSome ∨ (b.masters.head?.map (·.done.length)).getD 0 ≠ 0 then h
  else if b.clear ∨ (b.masters = [] ∧ ¬h.on e R.BRG_BCFG_RELMODE) ∨ h.on e R.BRG_BCFG_MODE then
    h.setBp e { b with bus := false, clear := false }
  else h

/-- An unlock (R445): the holder's bus or unit is released. -/
def unlock (r : Req) (x : Hw × SMap Byte) : Hw × SMap Byte :=
  let e := addrDie r.addr
  if addrSpace r.addr = 8 then
    let b := x.1.bp e
    (if b.lockBy.any r.holds then (x.1.setBp e { b with lockBy := none }).settleBus e else x.1, x.2)
  else
    match x.1.lockOn { r with len := 1 } with
    | some l => if r.holds l then retryParked (x.1.dropLock l, x.2) else x
    | none => x

/-! ## Taking cells from Q576 and Q553 -/

/-- MSG of a well-formed access cell; 0 for a cell with another VER. -/
def msgOf (c : CCell) : Nat := if leAt c.cell.data 1 1 = 1 then leAt c.cell.data 0 1 else 0

/-- Act on the head of a queue where it is a cell of the messages named: it leaves the queue. What its memories answer (R266 to R270)
comes first. -/
def takeCellOf (d q : Nat) (u : Upset) (msgs : List Nat) (f : Req → Hw × SMap Byte → Hw × SMap Byte) (x : Hw × SMap Byte) :
    Hw × SMap Byte :=
  let h := (x.1.meet d q u).2
  match (h.cq d q).cells with
  | [] => (h, x.2)
  | c :: _ => if msgs.contains (msgOf c) then f (reqOf c) (h.dropHead d q, x.2) else (h, x.2)

/-- A 64-byte access to a queue's DATA is one access: its first half waits for its second (R275, R424). -/
def isDataHalf (r : Req) : Bool := addrSpace r.addr == 4 && addrOff r.addr % 256 == 0 && r.len == 32 && !r.second

/-- The first half that a second half belongs to. -/
def Hw.firstHalf (h : Hw) (d : Nat) (r : Req) : Option Req :=
  if r.second then (h.eng d).halves.find? fun f => f.snode == r.snode && f.sdie == r.sdie && f.tag == r.tag && f.addr + 32 == r.addr
  else none

/-- A request from Q576: LEN from 1 to 32, else it is turned away with ADR. -/
def takeRequest (d : Nat) (u : Upset) (r : Req) (x : Hw × SMap Byte) : Hw × SMap Byte :=
  let h := x.1
  if r.len = 0 ∨ 32 < r.len then
    (finish d { r with len := min r.len 32 } 1 [] (h.turnAway d (addrDie r.addr) (addrSpace r.addr) (addrOff r.addr) r.org), x.2)
  else if isDataHalf r then (h.setEng d { h.eng d with halves := (h.eng d).halves ++ [r] }, x.2)
  else
    match h.firstHalf d r with
    | some f =>
      let e := h.eng d
      submit d { f with len := 32 + r.len, data := f.data ++ r.data } u (h.setEng d { e with halves := e.halves.filter (· != f) }, x.2)
    | none => submit d r u x

/-- READ_REQUEST (R426) -/
def execReadRequest (die : Die) (upset inbox : Upset) (s : State) : Host.Outcome State Fault Refusal :=
  s.onDieMem die (takeCellOf die.val 576 inbox [0x40] (takeRequest die.val upset))

/-- WRITE_REQUEST (R426) -/
def execWriteRequest (die : Die) (upset inbox : Upset) (s : State) : Host.Outcome State Fault Refusal :=
  s.onDieMem die (takeCellOf die.val 576 inbox [0x41] (takeRequest die.val upset))

/-- LOCK_READ (R445, R446) -/
def execLockRead (die : Die) (inbox : Upset) (s : State) : Host.Outcome State Fault Refusal :=
  s.onDieMem die (takeCellOf die.val 576 inbox [0x44] (takeRequest die.val .clean))

/-- LOCK_WRITE (R445) -/
def execLockWrite (die : Die) (inbox : Upset) (s : State) : Host.Outcome State Fault Refusal :=
  s.onDieMem die (takeCellOf die.val 576 inbox [0x45] (takeRequest die.val .clean))

/-- UNLOCK (R445) -/
def execUnlock (die : Die) (inbox : Upset) (s : State) : Host.Outcome State Fault Refusal :=
  s.onDieMem die (takeCellOf die.val 576 inbox [0x46] unlock)

/-- A completion from Q553 goes to the port that PORT names (R424). -/
def takeCompletion (d code : Nat) (r : Req) (h : Hw) : Hw :=
  if bit r.port 3 then h.busComplete d r.tag code r.data else h.hostComplete d r.tag r.addr code r.data

/-- A row that takes a cell from Q553 or Q576 and leaves the Process Image RAM alone; CODE of the cell goes with it. -/
def takeAnswer (d q : Nat) (u : Upset) (msgs : List Nat) (f : Nat → Req → Hw → Hw) (h : Hw) : Hw :=
  let h := (h.meet d q u).2
  match (h.cq d q).cells with
  | [] => h
  | c :: _ => if msgs.contains (msgOf c) then f (leAt c.cell.data 6 1) (reqOf c) (h.dropHead d q) else h

/-- READ_COMPLETION (R431, R441, R445) -/
def execReadCompletion (die : Die) (inbox : Upset) (s : State) : Host.Outcome State Fault Refusal :=
  s.onDie die (takeAnswer die.val 553 inbox [0x42] (takeCompletion die.val))

/-- WRITE_COMPLETION (R442, R445) -/
def execWriteCompletion (die : Die) (inbox : Upset) (s : State) : Host.Outcome State Fault Refusal :=
  s.onDie die (takeAnswer die.val 553 inbox [0x43] (takeCompletion die.val))

/-- LOCK_BUSY (R447) -/
def execLockBusy (die : Die) (inbox : Upset) (s : State) : Host.Outcome State Fault Refusal :=
  s.onDie die (takeAnswer die.val 553 inbox [0x47] fun _ r h => h.lockIsBusy die.val r.tag)

/-- The fabric time that the error packet at the head of Q553 carries. -/
def errorTime (h : Hw) (d : Nat) : Nat := ((h.cq d 553).cells.head?.map fun c => leAt c.cell.data 0x18 8).getD 0

/-- An error packet (R431, R434, R441): a posted write's goes into the log, another fails the request that it names. -/
def takeError (d ftime code : Nat) (r : Req) (h : Hw) : Hw :=
  if 2 ≤ d then h
  else if r.posted then h.logPosted d ⟨r.addr, low 4 r.port, r.reqid, code, ftime, r.tag, h.now⟩
  else if bit r.port 3 then h.busComplete d r.tag code []
  else
    match h.readOf d r.tag r.addr with
    | some q => h.hostFill d q r.tag r.addr code []
    | none => h

/-- ERROR_PACKET (R425, R434) -/
def execErrorPacket (die : Die) (inbox : Upset) (s : State) : Host.Outcome State Fault Refusal :=
  s.onDie die fun h =>
    let h := (h.meet die.val 553 inbox).2
    takeAnswer die.val 553 .clean [0x48] (takeError die.val (errorTime h die.val)) h

/-- BAD_ACCESS_CELL (R424): a cell of Q576 or Q553 whose MSG is no message of R424 or whose VER is not 0x01. -/
def badAccessCell (d q : Nat) (u : Upset) (h : Hw) : Hw :=
  let h := (h.meet d q u).2
  match (h.cq d q).cells with
  | [] => h
  | c :: _ => if 0x40 ≤ msgOf c ∧ msgOf c ≤ 0x48 then h else (h.dropHead d q).bump d R.BRG_HCNT_BADMSG

def execBadAccessCell (die : Die) (errors : Bool) (inbox : Upset) (s : State) : Host.Outcome State Fault Refusal :=
  s.onDie die (badAccessCell die.val (if errors then 553 else 576) inbox)

/-! ## Rows that make one access -/

/-- The request of a row. -/
def Hw.rowReq (h : Hw) (msg d space off len : Nat) (o : Origin) (posted : Bool) (bs : List Byte) : Req :=
  ⟨msg, 0, posted, false, len, portCode o, d * 2 ^ 45 + space * 2 ^ 40 + off, 0, h.nodeId, h.nodeId, h.entryOf o, o, bs⟩

/-- A row's read: the answer stays in `reply`. -/
def rowRead (d space off len : Nat) (o : Origin) (u : Upset) (x : Hw × SMap Byte) : Hw × SMap Byte :=
  submit (x.1.entryOf o) (x.1.rowReq 0xA0 d space off len o false []) u x

/-- A row's write. -/
def rowWrite (d space off : Nat) (bs : List Byte) (o : Origin) (posted : Bool) (u : Upset) (x : Hw × SMap Byte) : Hw × SMap Byte :=
  submit (x.1.entryOf o) (x.1.rowReq 0xA1 d space off bs.length o posted bs) u x

/-- RC_READ (R12, R13): a read of a register; its RC fields clear in the same access. -/
def execRcRead (die : Die) (origin : Origin) (offset : BitVec 21) (s : State) : Host.Outcome State Fault Refusal :=
  s.onMem (rowRead die.val 0 offset.toNat 4 origin .clean)

/-- REGISTER_WRITE (R623): a plain store to a register. -/
def execRegisterWrite (die : Die) (origin : Origin) (offset : BitVec 21) (value : Word) (posted : Bool) (s : State) :
    Host.Outcome State Fault Refusal :=
  s.onMem (rowWrite die.val 0 offset.toNat (leBytes 4 value.toNat) origin posted .clean)

/-- QGRANT_READ (R261) -/
def execQgrantRead (die : Die) (origin : Origin) (queue : Fin 8192) (s : State) : Host.Outcome State Fault Refusal :=
  s.onMem (rowRead die.val 4 (256 * queue.val + 0x44) 4 origin .clean)

/-- WINDOW_DATA_WRITE (R262, R275, R276): one cell, or one word of a word queue. -/
def execWindowDataWrite (die : Die) (origin : Origin) (queue : Fin 8192) (bytes : List Byte) (posted : Bool) (upset : Upset)
    (s : State) : Host.Outcome State Fault Refusal :=
  s.onMem (rowWrite die.val 4 (256 * queue.val) bytes origin posted upset)

/-- WINDOW_DATA_READ (R264, R265, R275 to R277): one cell, or one word of a word queue; `arrived`: what it finds has arrived
at the empty queue in this core cycle, which the read counts itself where a command of the cycle brought it. -/
def execWindowDataRead (die : Die) (origin : Origin) (queue : Fin 8192) (upset : Upset) (arrived : Bool) (s : State) :
    Host.Outcome State Fault Refusal :=
  s.onMem fun x =>
    let h := x.1.countArrival die.val queue.val
      (arrived && decide (die.val < x.1.dies) && x.1.dataOpen die.val queue.val false && !x.1.justFilled die.val queue.val)
    rowRead die.val 4 (256 * queue.val) (if h.isWord die.val queue.val then 4 else 64) origin upset (h, x.2)

/-- POP (R435) -/
def execPop (die : Die) (s : State) : Host.Outcome State Fault Refusal := s.onDie die (popFault die.val)

/-- A foreground read of the log NVM takes at most 256 bytes (R485). -/
def foregroundLen (len : Nat) : Nat := min len 256

/-- LEDGER_READ (R28, R484, R485): the owner answers, whichever die the address names. -/
def execLedgerRead (die : Die) (origin : Origin) (offset : BitVec 40) (len : Nat) (s : State) : Host.Outcome State Fault Refusal :=
  s.onMem (rowRead die.val 0x11 offset.toNat (foregroundLen len) origin .clean)

/-- IMAGE_SHADOW_READ (R28, R92, R578) -/
def execImageShadowRead (die : Die) (origin : Origin) (offset : BitVec 40) (len : Nat) (s : State) :
    Host.Outcome State Fault Refusal :=
  s.onMem (rowRead die.val 0x01 offset.toNat (foregroundLen len) origin .clean)

end Sys2Proof.Machine
end

