-- ==== Sys2Proof/Machine/Bridges.lean ====
section
/-!
DEFINITION. The host bridges (R427 to R436) and the backplane bridges (R437 to R451) of D0 and D1: the PCI Express endpoint,
slave windows, master cycles, locked sequences, the interrupter and strobe-bus mode.
-/

namespace Sys2Proof.Machine

/-! ## Sending -/

/-- May a bridge send an access to another node (R35)? -/
def Hw.maySend (h : Hw) : Bool := h.node.state == .run || h.node.state == .degraded || h.node.state == .safe

/-- An access cell from a bridge's port; an access to node 0xFFFF travels as a multicast on the ring of every die (R32, R424, LOG 63). -/
def Hw.sendAccess (h : Hw) (d : Nat) (o : Origin) (msg tag addr reqid : Nat) (posted second : Bool) (len : Nat) (data : List Byte) : Hw :=
  let bytes := accessBytes msg tag (flagBits posted second) len 0 (portCode o) addr reqid h.nodeId data
  let cell := if addrNode addr = 0xFFFF then { blankCell 1 0xFFFF 0 0x1FFF h.nodeId d bytes with mcast := true }
    else blankCell 1 (addrNode addr) (addrDie addr) 576 h.nodeId d bytes
  let h := h.offer d (match o with | .backplane _ => 5 | _ => 4) cell
  if addrNode addr = 0xFFFF then
    each ((List.range h.dies).filter fun e => e != d && (h.towardsDie d e).isSome && !(h.attached e).isEmpty) (fun e h => h.offer e 7 cell) h
  else h

/-- The pieces of up to 32 bytes in which an access travels (R424). -/
def halvesOf (addr len : Nat) : List (Nat × Nat) := if len ≤ 32 then [(addr, len)] else [(addr, 32), (addr + 32, len - 32)]

/-! ## Host memory requests (R428 to R432) -/

/-- The pieces of a request, split at 64-byte boundaries (R430). -/
def splitAt64 : Nat → Nat → Nat → List (Nat × Nat)
  | 0, _, _ => []
  | n + 1, off, len =>
    if len = 0 then []
    else
      let k := min len (64 - off % 64)
      (off, k) :: splitAt64 n (off + k) (len - k)

/-- The global address behind an offset of BAR0 or BAR2; none is a decode error of the window (R428, R429). -/
def Hw.barTarget (h : Hw) (d : Nat) (bar : Bar) (off : Nat) (write : Bool) : Option Nat :=
  match bar with
  | .bar0 => if off / 0x200000 < 8 then some (off / 0x200000 * 2 ^ 45 + off % 0x200000) else none
  | _ =>
    let s := off / 2 ^ 30
    if 256 ≤ s ∨ !h.on d R.BRG_WINA_VALID s ∨ (write ∧ h.on d R.BRG_WINA_RDONLY s) then none
    else some (h.rd d R.BRG_WINA_NODE s * 2 ^ 48 + h.rd d R.BRG_WINA_DIE s * 2 ^ 45 + h.rd d R.BRG_WINA_SPACE s * 2 ^ 40 +
      h.rd d R.BRG_WINB_OFFHI s * 2 ^ 30 + off % 2 ^ 30)

/-- A HOST record (R517): kind 0 posted write, 1 read, 2 Function Level Reset, 3 link up, 4 link down. -/
def Hw.journalHost (h : Hw) (d kind tag addr reqid len : Nat) (data : List Byte) : Hw :=
  h.journal d 4 (kind + low 10 tag * 2 ^ 3 + low 7 len * 2 ^ 13)
    ([low 64 addr, reqid] ++ (List.range ((data.length + 7) / 8)).map fun k => leAt data (8 * k) 8)

/-- Is a piece answered by this node: its own ID, or none? -/
def Hw.localAddr (h : Hw) (addr : Nat) : Bool := h.isHere (addrNode addr)

/-- One piece of a host read: its tag, address and length. -/
def readPiece (d tag reqid : Nat) (u : Upset) (t a n : Nat) (x : Hw × SMap Byte) : Hw × SMap Byte :=
  let h := x.1.journalHost d 1 tag a reqid n []
  if h.localAddr a then submit d ⟨0x80, t, false, false, n, portCode (.host d), a, reqid, h.nodeId, h.nodeId, d, .host d, []⟩ u (h, x.2)
  else if addrNode a = 0xFFFF then ((h.violation d (.host d) a).hostFail d tag reqid 1, x.2)
  else if !h.maySend then ((h.violation d (.host d) a).hostFail d tag reqid 0x82, x.2)
  else (each (halvesOf a n) (fun c h => h.sendAccess d (.host d) 0x40 t c.1 reqid false (c.1 != a) c.2 []) h, x.2)

/-- Issue a piece of a host read's plan. A request that has ended issues no further piece. -/
def issueRead (d tag reqid : Nat) (u : Upset) (p : Nat × Option Nat × Nat) (x : Hw × SMap Byte) : Hw × SMap Byte :=
  if !(x.1.host d).reads.any (fun r => r.tag == tag && r.reqid == reqid) then x
  else
    match p with
    | (_, none, _) => ((x.1.violation d (.host d)).hostFail d tag reqid 1, x.2)
    | (t, some a, n) => readPiece d tag reqid u t a n x

/-- The remote reads outstanding at a host port (R431). -/
def Hw.remoteReads (h : Hw) (d : Nat) : Nat :=
  ((h.host d).reads.filter fun r => r.pieces.any fun p => !h.localAddr p.addr).length

/-- The plan of a host read: tag, target and length of each piece. -/
def Hw.readPlan (h : Hw) (d : Nat) (bar : Bar) (off len : Nat) : List (Nat × Option Nat × Nat) :=
  let ps := splitAt64 (len / 64 + 2) off len
  (List.range ps.length).map fun k =>
    let p := ps.getD k (0, 0)
    (((h.host d).tagNext + k) % 2 ^ 16, h.barTarget d bar p.1 false, p.2)

/-- The waiting pieces of a plan: a remote one of 64 bytes waits for two answers. -/
def Hw.waitingFor (h : Hw) (plan : List (Nat × Option Nat × Nat)) : List Piece :=
  plan.flatMap fun p =>
    match p.2.1 with
    | none => []
    | some a => (if h.localAddr a then [(a, p.2.2)] else halvesOf a p.2.2).map fun c => ⟨p.1, c.1, c.2, none⟩

/-- A word of the MSI-X table of BAR4: three words of message, one of vector control (R428, R436). -/
def Msix.word (m : Msix) (k : Nat) : Nat :=
  if k % 4 = 3 then b2n (!m.unmasked.get false (k / 4)) else (m.table.get 0 k).toNat

/-- The bytes of BAR4: the table, the pending bits from 0x2000, zeros elsewhere. -/
def Msix.byte (m : Msix) (o : Nat) : Byte :=
  if o < 0x400 then BitVec.ofNat 8 (bits (m.word (o / 4)) (8 * (o % 4)) 8)
  else if 0x2000 ≤ o ∧ o < 0x2008 then
    BitVec.ofNat 8 ((List.range 8).foldl (fun a i => a + b2n (m.pba.get false ((o - 0x2000) * 8 + i)) * 2 ^ i) 0)
  else 0

/-- Send what is pending and no longer masked. -/
def Msix.release (m : Msix) : Msix :=
  iter 64 (fun v m =>
    if m.enabled && m.unmasked.get false v && m.pba.get false v then
      { m with pba := m.pba.put false v false, sent := m.sent.upd 0 v (· + 1) }
    else m) m

/-- A byte written to BAR4. -/
def Msix.writeByte (m : Msix) (o : Nat) (b : Byte) : Msix :=
  if o < 0x400 then
    if o / 4 % 4 = 3 then (if o % 4 = 0 then { m with unmasked := m.unmasked.put false (o / 16) (!b.getLsbD 0) } else m)
    else { m with table := m.table.upd 0 (o / 4) fun w => setBits w (8 * (o % 4)) 8 b.toNat }
  else m

/-- PCIE_MEMORY_READ (R428 to R432): BAR4 is answered at once; the others in pieces. Non-posted credit is withheld beyond 64
remote reads. -/
def hostRead (d : Nat) (bar : Bar) (off len tag reqid : Nat) (u : Upset) (x : Hw × SMap Byte) : Hw × SMap Byte :=
  let h := x.1
  if 2 ≤ d ∨ !h.on d R.BRG_HSTAT_LINKUP then x
  else if bar = .bar4 then
    let m := h.msix.get .init d
    (h.hostEnd d tag reqid 0 ((List.range len).map fun k => m.byte (off + k)), x.2)
  else
    let plan := h.readPlan d bar off len
    let waits := h.waitingFor plan
    if 64 ≤ h.remoteReads d ∧ (waits.any fun p => !h.localAddr p.addr) then x
    else if len = 0 then (h.hostEnd d tag reqid 0 [], x.2)
    else
      let p := h.host d
      let h := h.setHost d { p with reads := p.reads ++ [⟨tag, reqid, waits⟩], tagNext := (p.tagNext + plan.length) % 2 ^ 16 }
      each plan (issueRead d tag reqid u) (h, x.2)

def execPcieMemoryRead (die : Die) (bar : Bar) (offset : BitVec 40) (len : Nat) (tag : Fin 1024) (reqid : BitVec 16)
    (upset : Upset) (s : State) : Host.Outcome State Fault Refusal :=
  s.onDieMem die (hostRead die.val bar offset.toNat len tag.val reqid.toNat upset)

/-- A write performed by this node for its own bridge. -/
def writeHere (d : Nat) (o : Origin) (msg tag a reqid : Nat) (posted : Bool) (bs : List Byte) (u : Upset) (x : Hw × SMap Byte) :
    Hw × SMap Byte :=
  submit d ⟨msg, tag, posted, false, bs.length, portCode o, a, reqid, x.1.nodeId, x.1.nodeId, d, o, bs⟩ u x

/-- A write sent to another node, or to every node. -/
def Hw.sendWrite (h : Hw) (d : Nat) (o : Origin) (tag a reqid : Nat) (posted : Bool) (bs : List Byte) : Hw :=
  each (halvesOf a bs.length) (fun c h => h.sendAccess d o 0x41 tag c.1 reqid posted (c.1 != a) c.2 (slice bs (c.1 - a) c.2)) h

/-- One piece of a host write, to a global address. -/
def writePiece (d reqid : Nat) (u : Upset) (a : Nat) (bs : List Byte) (x : Hw × SMap Byte) : Hw × SMap Byte :=
  let p := x.1.host d
  let h := (x.1.journalHost d 0 0 a reqid bs.length bs).setHost d { p with tagNext := (p.tagNext + 1) % 2 ^ 16 }
  if h.localAddr a then writeHere d (.host d) 0x81 p.tagNext a reqid true bs u (h, x.2)
  else if !h.maySend then (h.violation d (.host d) a, x.2)
  else if addrNode a = 0xFFFF then writeHere d (.host d) 0x81 p.tagNext a reqid true bs u (h.sendWrite d (.host d) p.tagNext a reqid true bs, x.2)
  else (h.sendWrite d (.host d) p.tagNext a reqid true bs, x.2)

/-- Issue a piece of a host write (R429, R430, R432). -/
def issueWrite (d : Nat) (bar : Bar) (reqid : Nat) (u : Upset) (off : Nat) (bs : List Byte) (x : Hw × SMap Byte) : Hw × SMap Byte :=
  match x.1.barTarget d bar off true with
  | none => ((x.1.violation d (.host d)).endPosted (.host d) (x.1.host d).tagNext 0 reqid 1, x.2)
  | some a => writePiece d reqid u a bs x

/-- PCIE_MEMORY_WRITE (R428 to R432) -/
def hostWrite (d : Nat) (bar : Bar) (off : Nat) (bs : List Byte) (reqid : Nat) (u : Upset) (x : Hw × SMap Byte) : Hw × SMap Byte :=
  let h := x.1
  if 2 ≤ d ∨ !h.on d R.BRG_HSTAT_LINKUP then x
  else if bar = .bar4 then
    let m := iter bs.length (fun k m => m.writeByte (off + k) (bs.getD k 0)) (h.msix.get .init d)
    ({ h with msix := h.msix.put .init d m.release }, x.2)
  else each (splitAt64 (bs.length / 64 + 2) off bs.length) (fun c y => issueWrite d bar reqid u c.1 (slice bs (c.1 - off) c.2) y) x

def execPcieMemoryWrite (die : Die) (bar : Bar) (offset : BitVec 40) (bytes : List Byte) (reqid : BitVec 16) (upset : Upset)
    (s : State) : Host.Outcome State Fault Refusal :=
  s.onDieMem die (hostWrite die.val bar offset.toNat bytes reqid.toNat upset)

/-! ## Configuration, resets and the link (R427, R433) -/

/-- The Device ID of a variant (R427). -/
def deviceId : Part → Nat
  | .opr101 => 0x0101
  | .opr102 => 0x0102
  | .opr104 => 0x0104
  | .opr108 => 0x0108

/-- The writable bits of the words of the header that R427 and R428 fix; none for a word that neither states. -/
def headerMask (off : Nat) : Option Nat :=
  match off with
  | 0x00 => some 0
  | 0x04 => some 0x00000546
  | 0x10 => some 0xFF000000
  | 0x14 => some 0xFFFFFFFF
  | 0x18 => some 0
  | 0x1C => some 0xFFFFFFC0
  | 0x20 => some 0xFFFFC000
  | 0x24 => some 0xFFFFFFFF
  | 0x2C => some 0
  | 0x30 => some 0
  | _ => none

/-- The fixed bits of those words: IDs, capability list, BAR types, Subsystem IDs, no expansion ROM. -/
def headerFixed (p : Part) (off : Nat) : Nat :=
  match off with
  | 0x00 => deviceId p * 2 ^ 16 + 0x1F4C
  | 0x04 => 0x00100000
  | 0x10 => 0x4
  | 0x18 => 0xC
  | 0x20 => 0x4
  | _ => 0

/-- A word of the configuration space. The Class Code lies in the upper bytes of word 0x08; the MSI-X capability has 64
vectors in BAR4; every other word is one that the manual does not state. -/
def Hw.configWord (h : Hw) (d off : Nat) : Nat :=
  let w := (h.host d).config.get 0 off
  match headerMask off with
  | some m => (w.toNat &&& m) + headerFixed h.part off
  | none =>
    if off = 0x08 then low 8 (Config.pcieWord off w).toNat + 0x118000 * 2 ^ 8
    else if off = 0x34 then low 8 (Config.pcieWord off w).toNat
    else if off = Config.msixCap then (w.toNat &&& 0xC0000000) + 63 * 2 ^ 16 + (Config.pcieWord off w).toNat / 2 ^ 8 % 2 ^ 8 * 2 ^ 8 + 0x11
    else if off = Config.msixCap + 4 then 4
    else if off = Config.msixCap + 8 then 0x2000 + 4
    else (Config.pcieWord off w).toNat

/-- The bytes of a word that the byte enables let through. -/
def enabledMask (be : Nat) : Nat := (List.range 4).foldl (fun a i => if bit be i then a + 255 * 2 ^ (8 * i) else a) 0

/-- PCIE_CONFIGURATION (R427): a read completes with the word; a write changes the enabled bytes, and the MSI-X Enable and
Function Mask bits take effect. -/
def configAccess (d : Nat) (write : Bool) (off value be tag : Nat) (h : Hw) : Hw :=
  if 2 ≤ d ∨ !h.on d R.BRG_HSTAT_LINKUP then h
  else
    let x := h.host d
    if write then
      let m := enabledMask be
      let h := h.setHost d { x with config := x.config.upd 0 off fun w => BitVec.ofNat 32 (w.toNat - (w.toNat &&& m) + (value &&& m)),
                                    last := some ⟨tag, 0, []⟩ }
      if off = Config.msixCap then
        let s := h.msix.get .init d
        let w := ((h.host d).config.get 0 off).toNat
        { h with msix := h.msix.put .init d { s with enabled := bit w 31 && !bit w 30 }.release }
      else h
    else h.setHost d { x with last := some ⟨tag, 0, leBytes 4 (h.configWord d off)⟩ }

def execPcieConfiguration (die : Die) (write : Bool) (word : BitVec 10) (value : Word) (enables : BitVec 4) (tag : Fin 1024)
    (s : State) : Host.Outcome State Fault Refusal :=
  s.onDie die (configAccess die.val write (4 * word.toNat) value.toNat enables.toNat tag.val)

/-- UNSUPPORTED_REQUEST (R427): an I/O, AtomicOp or locked read request. -/
def unsupported (d tag : Nat) (h : Hw) : Hw :=
  if 2 ≤ d ∨ !h.on d R.BRG_HSTAT_LINKUP then h else h.setHost d { h.host d with last := some ⟨tag, 1, []⟩ }

def execUnsupportedRequest (die : Die) (tag : Fin 1024) (s : State) : Host.Outcome State Fault Refusal :=
  s.onDie die (unsupported die.val tag.val)

/-- The host link is down: HP's output queues are flushed and outstanding reads are abandoned (R433). -/
def Hw.hostLost (h : Hw) (d : Nat) : Hw :=
  let h := ((h.wr d R.BRG_HSTAT_LINKUP 0).wr d R.BRG_HSTAT_SPEED 0).wr d R.BRG_HSTAT_WIDTH 0
  (h.setHost d { h.host d with reads := [] }).flushPort d 4

/-- The configuration space and the MSI-X table are cleared (R433). -/
def Hw.clearFunction (h : Hw) (d : Nat) : Hw :=
  let m := h.msix.get .init d
  { (h.setHost d { h.host d with config := .empty }) with
      msix := h.msix.put .init d { m with enabled := false, unmasked := .empty, table := .empty } }

/-- FUNCTION_LEVEL_RESET (R433) -/
def functionReset (d : Nat) (h : Hw) : Hw :=
  if 2 ≤ d ∨ !h.on d R.BRG_HSTAT_LINKUP then h else (((h.journalHost d 2 0 0 0 0 []).hostLost d).clearFunction d)

def execFunctionLevelReset (die : Die) (s : State) : Host.Outcome State Fault Refusal := s.onDie die (functionReset die.val)

/-- HOST_LINK_DOWN (R433): DL_Active is left, or PERST_N falls, which is the fundamental reset of R427. -/
def hostLinkDown (d : Nat) (perst : Bool) (h : Hw) : Hw :=
  if 2 ≤ d then h
  else
    let h := if h.on d R.BRG_HSTAT_LINKUP then (h.journalHost d 4 0 0 0 0 []).hostLost d else h
    if perst then h.clearFunction d else h

def execHostLinkDown (die : Die) (perst : Bool) (s : State) : Host.Outcome State Fault Refusal :=
  s.onDie die (hostLinkDown die.val perst)

/-- HOST_LINK_UP (R433): SPEED 1 to 5; WIDTH 1, 2 or 4 lanes. -/
def hostLinkUp (d speed width : Nat) (h : Hw) : Hw :=
  if 2 ≤ d ∨ !h.on d R.BRG_HSTAT_ENABLED then h
  else (((h.journalHost d 3 0 0 0 0 []).wr d R.BRG_HSTAT_LINKUP 1).wr d R.BRG_HSTAT_SPEED (speed + 1)).wr d R.BRG_HSTAT_WIDTH (2 ^ width)

def execHostLinkUp (die : Die) (speed : Fin 5) (width : Fin 3) (s : State) : Host.Outcome State Fault Refusal :=
  s.onDie die (hostLinkUp die.val speed.val width.val)

/-- HOST_READ_TIMEOUT (R431, R451): 20 ms after the first request cell of a remote read; a completion in the same core cycle
is accepted and counts in MARGIN. -/
def hostReadTimeout (d tag : Nat) (completion : Bool) (h : Hw) : Hw :=
  match (h.host d).reads.find? fun r => r.tag == tag && r.pieces.any fun p => !h.localAddr p.addr with
  | none => h
  | some r =>
    if completion then h.bump d R.BRG_HCNT_MARGIN
    else (h.hostEnd d r.tag r.reqid 4 []).bump d R.BRG_HCNT_CATMO

def execHostReadTimeout (die : Die) (tag : Fin 1024) (completion : Bool) (s : State) : Host.Outcome State Fault Refusal :=
  s.onDie die (hostReadTimeout die.val tag.val completion)

/-! ## Slave windows (R437 to R440) -/

/-- Is the modifier a supervisory one; a program one? -/
def amSup (am : Nat) : Bool := bit am 2

def amProg (am : Nat) : Bool := am % 4 == 2

/-- Does a valid window accept the modifier and cover the address (R439)? -/
def Hw.windowTakes (h : Hw) (d w am sp a : Nat) : Bool :=
  h.on d R.BRG_SWA_VALID w && h.rd d R.BRG_SWA_ASP w == sp &&
    (if amSup am then h.on d R.BRG_SWA_SUP w else h.on d R.BRG_SWA_USR w) && (!amProg am || h.on d R.BRG_SWA_PROG w) &&
    decide (h.rd d R.BRG_SWB_BASE w ≤ a) && decide (a < h.rd d R.BRG_SWB_BASE w + 2 ^ h.rd d R.BRG_SWA_SIZESH w)

/-- A claimed cycle: the global address, and the window's LOCKEN, RDONLY and POSTW. -/
structure Claim where
  addr : Nat
  locken : Bool
  rdonly : Bool
  postw : Bool
deriving DecidableEq, Repr

/-- The window of R440 before the commit: A16 supervisory, 1 KiB at 0x400 × SLOT, onto the NOD block of D0. -/
def Hw.earlyClaim (h : Hw) (am a : Nat) : Option Claim :=
  if bit h.straps 6 ∧ am = 0x2D ∧ 0x400 * h.slotNo ≤ a ∧ a < 0x400 * h.slotNo + 0x400 then
    some ⟨a - 0x400 * h.slotNo, false, false, true⟩
  else none

/-- The window that claims a cycle (R437, R439, R440); unaligned transfers are not supported. -/
def Hw.claim (h : Hw) (d addr am width : Nat) : Option Claim :=
  match amSpace am with
  | none => none
  | some sp =>
    let a := busAddr sp addr
    if !h.busOn d ∨ h.on d R.BRG_BCFG_MODE ∨ a % width ≠ 0 then none
    else if !h.cfg.committed then h.earlyClaim am a
    else
      match (List.range 8).find? fun w => h.windowTakes d w am sp a with
      | none => none
      | some w =>
        some ⟨h.rd d R.BRG_SWC_NODE w * 2 ^ 48 + h.rd d R.BRG_SWC_DIE w * 2 ^ 45 + h.rd d R.BRG_SWC_SPACE w * 2 ^ 40 +
            (h.rd d R.BRG_SWC_OFFHI w * 2 ^ 32 + h.rd d R.BRG_SWD_OFFLO w + (a - h.rd d R.BRG_SWB_BASE w)) % 2 ^ 40,
          h.on d R.BRG_SWA_LOCKEN w, h.on d R.BRG_SWA_RDONLY w, h.on d R.BRG_SWA_POSTW w⟩

/-- A node state that permits less leaves disallowed addresses unanswered (R440). -/
def Hw.slaveMay (h : Hw) (d a : Nat) (write : Bool) : Bool :=
  if h.localAddr a then h.permits (.backplane d) (addrSpace a) (addrOff a) write else h.maySend

/-- A claimed and permitted cycle, else none: the cycle is not answered. -/
def Hw.answered (h : Hw) (d addr am width : Nat) (write : Bool) : Option Claim :=
  (h.claim d addr am width).filter fun c => h.slaveMay d c.addr write && !(write && c.rdonly)

/-- Is the target this die's own and answered directly (R441)? -/
def Hw.direct (h : Hw) (d a : Nat) : Bool :=
  h.localAddr a && addrDie a == d && [0, 2, 3, 4].contains (addrSpace a)

/-- A request of the local backplane goes to this node's engine or to another node: `msg` is the message of its cell; the
engine's own is 0x50 above it. -/
def busSend (d msg tag a am : Nat) (posted : Bool) (len : Nat) (bs : List Byte) (u : Upset) (x : Hw × SMap Byte) : Hw × SMap Byte :=
  let h := x.1
  if h.localAddr a then
    submit d ⟨msg + 0x50, tag, posted, false, len, portCode (.backplane d), a, am, h.nodeId, h.nodeId, d, .backplane d, bs⟩ u x
  else if addrNode a = 0xFFFF then
    if msg = 0x41 then
      submit d ⟨0x91, tag, posted, false, len, portCode (.backplane d), a, am, h.nodeId, h.nodeId, d, .backplane d, bs⟩ u
        (h.sendAccess d (.backplane d) msg tag a am true false len bs, x.2)
    else (h.busComplete d tag 1 [], x.2)
  else (h.sendAccess d (.backplane d) msg tag a am posted false len bs, x.2)

/-- The next tag of a backplane bridge. -/
def Hw.takeTag (h : Hw) (d : Nat) : Nat × Hw :=
  let b := h.bp d
  (b.tagNext, h.setBp d { b with tagNext := (b.tagNext + 1) % 2 ^ 16 })

def Hw.busAnswer (h : Hw) (d : Nat) (a : BpAnswer) : Hw := h.setBp d { h.bp d with last := a }

/-- The answer waits at the master's strobe (R441, RTYMODE 1): kind as in `HeldCycle`. -/
def holdCycle (d kind msg addr am width a : Nat) (bs : List Byte) (u : Upset) (x : Hw × SMap Byte) : Hw × SMap Byte :=
  let (t, h) := x.1.takeTag d
  let b := h.bp d
  busSend d msg t a am false width bs u (h.setBp d { b with held := some ⟨kind, addr, am, width, t⟩, last := .silent }, x.2)

/-- The slot that a retried cycle meets. -/
def findSlot (b : Bp) (wr : Bool) (addr am width : Nat) : Option Nat :=
  (List.range 16).find? fun i => (b.slots.get none i).any fun s => s.wr == wr && s.addr == addr && s.am == am && s.width == width

/-- A cycle in RTYMODE 0 (R441, R442): the slot's data, RETRY while it is in flight, or a new slot, lowest number first. -/
def slotCycle (d msg addr am width a : Nat) (bs : List Byte) (u : Upset) (x : Hw × SMap Byte) : Hw × SMap Byte :=
  let b := x.1.bp d
  let wr := msg == 0x41
  match findSlot b wr addr am width with
  | some i =>
    match (b.slots.get none i).bind (·.got) with
    | none => (x.1.busAnswer d .retry, x.2)
    | some (code, data) =>
      (x.1.setBp d { b with slots := b.slots.put none i none,
                            last := if code ≠ 0 then .berr else .dtack (if wr then [] else slice data 0 width) }, x.2)
  | none =>
    match (List.range 16).find? fun i => (b.slots.get none i).isNone with
    | none => ((x.1.busAnswer d .retry).bump d R.BRG_BCNTA_SLOTFULL, x.2)
    | some i =>
      let (t, h) := x.1.takeTag d
      let b := h.bp d
      busSend d msg t a am false width bs u
        (h.setBp d { b with slots := b.slots.put none i (some ⟨wr, addr, am, width, t, none⟩), last := .retry }, x.2)

/-- A lock read (R445): DTACK is withheld. -/
def lockCycle (d addr am width : Nat) (c : Claim) (u : Upset) (x : Hw × SMap Byte) : Hw × SMap Byte :=
  let b := x.1.bp d
  let h := x.1.setBp d { b with lock := some ⟨c.addr, width, b.tagNext, c.rdonly, false⟩, asLow := true }
  holdCycle d 2 0x44 addr am width c.addr [] u (h, x.2)

/-- A slave read (R440, R441, R445). While a cycle waits for its answer the master starts no other. -/
def slaveRead (d addr am width : Nat) (u : Upset) (x : Hw × SMap Byte) : Hw × SMap Byte :=
  let h := x.1
  if (h.bp d).held.isSome then x
  else
    match h.answered d addr am width false with
    | none => (h.busAnswer d .silent, x.2)
    | some c =>
      if c.locken then lockCycle d addr am width c u x
      else if h.direct d c.addr ∨ h.on d R.BRG_BCFG_RTYMODE then holdCycle d 0 0x40 addr am width c.addr [] u x
      else slotCycle d 0x40 addr am width c.addr [] u x

/-- SLAVE_READ (R441) -/
def execSlaveRead (die : Die) (addr : Word) (am : BitVec 6) (width : BusWidth) (upset : Upset) (s : State) :
    Host.Outcome State Fault Refusal :=
  s.onDieMem die (slaveRead die.val addr.toNat am.toNat width.bytes upset)

/-- SLAVE_LOCK_READ (R445): a read in a window with LOCKEN = 1. -/
def execSlaveLockRead (die : Die) (addr : Word) (am : BitVec 6) (width : BusWidth) (upset : Upset) (s : State) :
    Host.Outcome State Fault Refusal :=
  s.onDieMem die (slaveRead die.val addr.toNat am.toNat width.bytes upset)

/-- A slave write (R442). -/
def slaveWrite (d addr am width : Nat) (bs : List Byte) (u : Upset) (x : Hw × SMap Byte) : Hw × SMap Byte :=
  let h := x.1
  if (h.bp d).held.isSome then x
  else
    match h.answered d addr am width true with
    | none => (h.busAnswer d .silent, x.2)
    | some c =>
      if c.postw then
        let (t, h) := (h.busAnswer d (.dtack [])).takeTag d
        busSend d 0x41 t c.addr am true width bs u (h, x.2)
      else if h.direct d c.addr ∨ h.on d R.BRG_BCFG_RTYMODE then holdCycle d 1 0x41 addr am width c.addr bs u x
      else slotCycle d 0x41 addr am width c.addr bs u x

/-- SLAVE_WRITE (R442): byte k of the data goes to address + k. -/
def execSlaveWrite (die : Die) (addr : Word) (am : BitVec 6) (width : BusWidth) (data : Word) (upset : Upset) (s : State) :
    Host.Outcome State Fault Refusal :=
  s.onDieMem die (slaveWrite die.val addr.toNat am.toNat width.bytes (leBytes width.bytes data.toNat) upset)

/-- SLAVE_LOCK_WRITE (R445): the data strobe falls again with AS still held. -/
def slaveLockWrite (d data : Nat) (x : Hw × SMap Byte) : Hw × SMap Byte :=
  let h := x.1
  let b := h.bp d
  if !b.asLow ∨ b.held.isSome then x
  else
    match b.lock with
    | none => (h.busAnswer d .berr, x.2)
    | some l =>
      if l.rdonly then (h.busAnswer d .silent, x.2)
      else
        busSend d 0x45 l.tag l.addr 0 false l.width (leBytes l.width data) .clean
          (h.setBp d { b with held := some ⟨3, 0, 0, l.width, l.tag⟩, last := .silent }, x.2)

def execSlaveLockWrite (die : Die) (data : Word) (s : State) : Host.Outcome State Fault Refusal :=
  s.onDieMem die (slaveLockWrite die.val data.toNat)

/-- The bridge sends its unlock. -/
def sendUnlock (d : Nat) (l : LockOut) (x : Hw × SMap Byte) : Hw × SMap Byte :=
  let h := x.1
  if h.localAddr l.addr then
    unlock ⟨0x96, l.tag, false, false, l.width, portCode (.backplane d), l.addr, 0, h.nodeId, h.nodeId, d, .backplane d, []⟩ x
  else (h.sendAccess d (.backplane d) 0x46 l.tag l.addr 0 false false l.width [], x.2)

/-- AS_RELEASE (R445, R446): BP_AS_N rises. An unlock goes to the target of a lock; an incoming lock read that waited for it
now takes the bus before other accesses. -/
def asRelease (d : Nat) (x : Hw × SMap Byte) : Hw × SMap Byte :=
  let b := x.1.bp d
  let y := match b.lock with
    | some l => sendUnlock d l x
    | none => x
  let b := y.1.bp d
  let ms := match b.waitAs with
    | some r => ⟨r, []⟩ :: b.masters
    | none => b.masters
  (y.1.setBp d { b with lock := none, held := if b.lock.isSome then none else b.held, asLow := false, waitAs := none, masters := ms }, y.2)

def execAsRelease (die : Die) (s : State) : Host.Outcome State Fault Refusal := s.onDieMem die (asRelease die.val)

/-- LOCK_READ_RESEND (R447): 1 µs after lock busy, while the local cycle still waits. -/
def lockResend (d : Nat) (x : Hw × SMap Byte) : Hw × SMap Byte :=
  let b := x.1.bp d
  match b.lock with
  | some l =>
    if l.busy && b.awaitsLock then
      busSend d 0x44 l.tag l.addr 0 false l.width [] .clean (x.1.setBp d { b with lock := some { l with busy := false } }, x.2)
    else x
  | none => x

def execLockReadResend (die : Die) (s : State) : Host.Outcome State Fault Refusal := s.onDieMem die (lockResend die.val)

/-- HOLDMAX_EXPIRY (R441, R447, R451): the waiting cycle ends with BERR, a lock read that has no data with RETRY; data in the
same core cycle are given and count in MARGIN. -/
def holdmaxExpiry (d : Nat) (dataSame : Bool) (h : Hw) : Hw :=
  let b := h.bp d
  match b.held with
  | none => h
  | some c =>
    if dataSame then h.bump d R.BRG_HCNT_MARGIN
    else h.setBp d { b with held := none, last := if c.kind = 2 then .retry else .berr }

def execHoldmaxExpiry (die : Die) (dataSame : Bool) (s : State) : Host.Outcome State Fault Refusal :=
  s.onDie die (holdmaxExpiry die.val dataSame)

/-- SLOT_TIMEOUT (R441, R451): SLOTTO after a slot's data came; a retry in the same core cycle takes them and counts in
MARGIN. -/
def slotTimeout (d i : Nat) (retrySame : Bool) (h : Hw) : Hw :=
  let b := h.bp d
  if ((b.slots.get none i).bind (·.got)).isNone then h
  else if retrySame then h.bump d R.BRG_HCNT_MARGIN
  else (h.setBp d { b with slots := b.slots.put none i none }).bump d R.BRG_BCNTA_SLOTEXP

def execSlotTimeout (die : Die) (slot : Fin 16) (retrySame : Bool) (s : State) : Host.Outcome State Fault Refusal :=
  s.onDie die (slotTimeout die.val slot.val retrySame)

/-! ## The master side (R443, R444) -/

/-- MASTER_ACCESS (R443): an access of this node to space 0x08. -/
def execMasterAccess (die : Die) (origin : Origin) (offset : Word) (write posted : Bool) (bytes : List Byte) (s : State) :
    Host.Outcome State Fault Refusal :=
  s.onMem fun x =>
    submit (x.1.entryOf origin) (x.1.rowReq (if write then 0xA1 else 0xA0) die.val 8 offset.toNat bytes.length origin (write && posted)
      (if write then bytes else [])) .clean x

/-- BUS_GRANT (R437): the bridge that requests the bus drives its first waiting access. -/
def busGrant (e : Nat) (h : Hw) : Hw :=
  if h.busOn e && !h.on e R.BRG_BCFG_MODE && (h.running e).isSome then h.setBp e { h.bp e with bus := true } else h

def execBusGrant (die : Die) (s : State) : Host.Outcome State Fault Refusal := s.onDie die (busGrant die.val)

/-- A posted write that this bridge performed for its own node's host failed (R434); where the host is this die's own, its
entry stands already. -/
def Hw.logMaster (h : Hw) (e : Nat) (r : Req) (code : Nat) : Hw :=
  match r.org with
  | .host d =>
    if r.posted && r.msg != 0x41 && d != e && code != 0
    then h.logPosted e ⟨r.addr, portCode r.org, r.reqid, code, h.fabricNs, r.tag, h.now⟩ else h
  | _ => h

/-- The access that runs on the bus ends (R443 to R445): it leaves, a lock read that succeeds keeps the bus, a lock write ends
the lock; the requester gets its answer and the bridge releases its bus where nothing more is to do. -/
def Hw.endMaster (h : Hw) (e : Nat) (m : MasterReq) (code : Nat) (data : List Byte) : Hw :=
  let b := h.bp e
  let l := if m.req.isLockRead ∧ code = 0 then some m.req.lock else if m.req.isLockWrite then none else b.lockBy
  let g := h.setBp e { b with masters := b.masters.drop 1, lockBy := l }
  ((Sys2Proof.Machine.finish e m.req code data g).logMaster e m.req code).settleBus e

/-- One cycle ends on the bus (R443, R444). -/
def cycleEnd (e : Nat) (berr : Bool) (data : Nat) (h : Hw) : Hw :=
  match h.running e with
  | none => h
  | some m =>
    if !(h.bp e).bus then h
    else if berr then (h.bump e R.BRG_BCNTB_BERRM).endMaster e m 3 []
    else
      let k := h.cycleWidth e m
      let d := m.done ++ leBytes k data
      if m.req.len ≤ d.length then h.endMaster e m 0 (if m.req.isWrite then [] else d)
      else
        let b := h.bp e
        h.setBp e { b with masters := ⟨m.req, d⟩ :: b.masters.drop 1 }

/-- MASTER_CYCLE_END (R443, R444): DTACK with the data of a read, or BERR. -/
def execMasterCycleEnd (die : Die) (berr : Bool) (data : Word) (s : State) : Host.Outcome State Fault Refusal :=
  s.onDie die (cycleEnd die.val berr data.toNat)

/-- FETCH_TIMEOUT (R444, R449): no grant, or no DTACK, within FETCHTO. -/
def fetchTimeout (e : Nat) (h : Hw) : Hw :=
  match h.running e with
  | none => h
  | some m =>
    let h := (h.bump e R.BRG_BCNTB_BERRM).endMaster e m 4 []
    if (h.bp e).lockBy.isNone then h.setBp e { h.bp e with bus := false, clear := false } else h

def execFetchTimeout (die : Die) (s : State) : Host.Outcome State Fault Refusal := s.onDie die (fetchTimeout die.val)

/-- STROBE_BUS_ACCESS (R449): with MODE = 1 the bridge drives the next cycle of the waiting access; with ACKMODE = 1 the fixed
strobe ends it, else BP_DTACK_N does (MASTER_CYCLE_END). -/
def strobeAccess (e data : Nat) (h : Hw) : Hw :=
  if h.busOn e && h.on e R.BRG_BCFG_MODE && (h.running e).isSome then
    let h := h.setBp e { h.bp e with bus := true }
    if h.on e R.BRG_BCFG_ACKMODE then cycleEnd e false data h else h
  else h

def execStrobeBusAccess (die : Die) (data : Word) (s : State) : Host.Outcome State Fault Refusal :=
  s.onDie die (strobeAccess die.val data.toNat)

/-- BUS_CLEAR (R437, R451): BP_BCLR_N is honoured at the end of the current cycle or locked sequence. -/
def busClear (e : Nat) (h : Hw) : Hw :=
  let b := h.bp e
  if !b.bus then h
  else if (h.running e).isNone ∧ b.lockBy.isNone then h.setBp e { b with bus := false }
  else h.setBp e { b with clear := true }

def execBusClear (die : Die) (s : State) : Host.Outcome State Fault Refusal := s.onDie die (busClear die.val)

/-- LOCK_TIMEOUT (R445): LOCKTO after its lock read a bus or the n-th held unit is released; the holder is told with code
0x05. -/
def lockTimeout (d : Nat) (unitNo : Option Nat) (x : Hw × SMap Byte) : Hw × SMap Byte :=
  let h := x.1
  match unitNo with
  | none =>
    match (h.bp d).lockBy with
    | none => x
    | some l => (((h.setBp d { h.bp d with lockBy := none }).lockEnded d l |>.bump d R.BRG_BCNTB_LOCKTO).settleBus d, x.2)
  | some i =>
    match (h.eng d).units[i]? with
    | none => x
    | some l => retryParked (((h.dropLock l).lockEnded d l).bump d R.BRG_BCNTB_LOCKTO, x.2)

def execLockTimeout (die : Die) (unitNo : Option Nat) (s : State) : Host.Outcome State Fault Refusal :=
  s.onDieMem die (lockTimeout die.val unitNo)

/-! ## Interrupter and reset (R438, R448) -/

/-- INTERRUPT_ACKNOWLEDGE (R448): with BP_IACKIN_N low at LEVEL the bridge answers with STATID and releases BP_IRQ_N; any
other acknowledge it passes on. -/
def interruptAcknowledge (d level : Nat) (h : Hw) : Hw :=
  if h.irqLow d ∧ level = h.rd d R.BRG_BIRQ_LEVEL then
    let b := h.bp d
    h.setBp d { b with last := .dtack (leBytes 1 (h.rd d R.BRG_BIRQ_STATID)), acked := b.acked ||| h.irqSources d }
  else h.busAnswer d .silent

def execInterruptAcknowledge (die : Die) (level : Fin 8) (s : State) : Host.Outcome State Fault Refusal :=
  s.onDie die (interruptAcknowledge die.val level.val)

/-- BACKPLANE_SYSRESET (R241, R438): while BP_SYSRST_N is low the link of BP counts as down and the bridge drives nothing; its
cycles end, and an access that waits for the bus starts anew. -/
def backplaneSysreset (d : Nat) (low : Bool) (x : Hw × SMap Byte) : Hw × SMap Byte :=
  if 2 ≤ d then x
  else if low then
    let (h, pir) := asRelease d x
    let b := h.bp d
    let h := h.setBp d { b with held := none, last := .silent, bus := false, clear := false, lockBy := none,
                                masters := b.masters.map fun m => ⟨m.req, []⟩ }
    ({ h with sysRst := h.sysRst.put false d true }.flushPort d 5, pir)
  else ({ x.1 with sysRst := x.1.sysRst.put false d false }, x.2)

def execBackplaneSysreset (die : Die) (asserted : Bool) (s : State) : Host.Outcome State Fault Refusal :=
  s.onDieMem die (backplaneSysreset die.val asserted)

end Sys2Proof.Machine
end

