-- ==== Sys2Proof/Machine/Rerun.lean ====
section
/-!
DEFINITION. What time does by itself in one core cycle (LOG 9): the switch, the journal, an image being served; in Replay
running the journal's records of the cycle (R536, R537). With it the scrubber of the Process Image RAM (R589).
-/

namespace Sys2Proof.Machine

/-! ## The Process Image RAM scrubber (R589) -/

/-- PROCESS_IMAGE_SCRUB: the next 64-bit word; `finds` says what its check bits show, a corrected or a double-bit error. -/
def pirScrub (d : Nat) (finds : Option Bool) (h : Hw) : Hw :=
  let x := (h.cistern d).scrub
  let h := h.setScrub d { x with pirWord := (x.pirWord + 1) % 131072 }
  match finds with
  | none => h
  | some false => h.journalErr d 2 x.pirWord 0
  | some true => (h.journalErr d 2 x.pirWord 1).raiseFault d 0x15 (low 13 x.pirWord)

def execProcessImageScrub (die : Die) (double : Option Bool) (s : State) : Host.Outcome State Fault Refusal :=
  s.onDie die (pirScrub die.val double)

/-! ## Records as inputs (R517, R536) -/

/-- A FRAME record: the frame it tells of, its cell zeros where the record holds none (R518). -/
def JrnRec.frame (r : JrnRec) : Frame :=
  let a := r.ext.getD 0 0
  let b := r.ext.getD 1 0
  { ftype := if bits r.payload 5 3 = 4 then 2 else 1, klass := bits r.payload 2 2, mcast := bit r.payload 4, auth := false,
    lseq := bits a 42 8, ackseq := low 8 b, nak := bit b 8, csreq := bit b 41, fill := 0,
    credits := (List.range 4).map fun c => bits b (9 + 8 * c) 8, txcnt := 0, dnode := low 16 a, dq := bits r.payload 8 13,
    ddie := bits r.payload 21 3, snode := bits a 16 16, sdie := bits r.payload 24 3, hops := bits a 32 10,
    cell := if r.ext.length < 10 then List.replicate 64 0 else ((r.ext.drop 2).take 8).flatMap (leBytes 8) }

/-- A FRAME record takes effect: its status stands for the checks of R133, R165 and R172. -/
def replayFrame (d : Nat) (r : JrnRec) (h : Hw) : Hw :=
  let p := low 2 r.payload
  let f := r.frame
  let status := bits r.payload 5 3
  if h.rd d R.RNG_PSTAT_STATE p = 1 then
    if status = 1 then (h.bump d R.RNG_PERRA_FRMERR 1 p).score d p 8
    else if h.on d R.RNG_CFG_AUTHEN ∧ (h.port d p).sessionRx ≠ none then h.authResult d p status f
    else if status = 4 then trainingExchange d p f.cell h
    else h
  else match status with
  | 1 => ((h.bump d R.RNG_PERRA_FRMERR 1 p).discardFrame d p).score d p 8
  | 2 => ((h.bump d R.RNG_PERRC_TAGFAIL 1 p).discardFrame d p).score d p 32
  | 3 => (h.bump d R.RNG_PERRD_STOMPRX 1 p).setPort d p { h.port d p with csreqDue := true }
  | _ =>
    let h := (h.takeCredit d p f.credits).takeAck d p f.ackseq
    let h := if f.csreq then h.setPort d p { h.port d p with syncDue := true } else h
    let h := if f.nak then h.replay d p else h
    if f.ftype = 2 then (if leAt f.cell 0 2 = 0x0103 then h.applySync d p f.cell else h) else h.acceptCell d p f

/-- The bytes of a header segment from its record: 64 bytes, then the subscribed phase slots in their places. -/
def Hw.headerBytes (h : Hw) (d : Nat) (r : JrnRec) : List Byte :=
  let base := (r.ext.take 8).flatMap (leBytes 8) ++ List.replicate 192 0
  let slots := (h.train d).buckets.filter (·.kind == 3)
  iter slots.length (fun i l =>
    match slots[i]? with
    | some b => spliceAt l (0x40 + 16 * b.unit) (leBytes 8 (r.ext.getD (8 + 2 * i) 0) ++ leBytes 8 (r.ext.getD (9 + 2 * i) 0))
    | none => l) base

/-- The bytes of a bucket segment from its record: the committed units at the places that the die subscribes. -/
def Hw.bucketBytes (h : Hw) (d k segCnt : Nat) (r : JrnRec) : List Byte :=
  let units := (h.bucketsOf d 1 segCnt).flatMap fun b =>
    (List.range 62).filter fun i => decide (b.unit ≤ (k - 1) * 62 + i) && decide ((k - 1) * 62 + i < b.unit + b.len)
  iter units.length (fun n l => spliceAt l (4 * units.getD n 0) (leBytes 4 (bits (r.ext.getD (n / 2) 0) (32 * (n % 2)) 32)))
    (List.replicate 256 0)

/-- A TRAIN record: the start block comes with the header, the end block with the last segment; a segment that never arrived
leaves nothing. -/
def replayTrain (d : Nat) (r : JrnRec) (x : Hw × SMap Byte) : Hw × SMap Byte :=
  let p := low 2 r.payload
  let good := bits r.payload 14 2 == 0
  if bits r.payload 14 2 = 2 then x
  else if bit r.payload 16 then
    let h := trainStart d p 0 x.1
    match (h.train d).passages.get none p with
    | some g => headerSegment d p g (h.headerBytes d r) good (h, x.2)
    | none => (h, x.2)
  else
    match (x.1.train d).passages.get none p with
    | none => x
    | some g =>
      let n := (g.hdr.map (·.segCnt)).getD 0
      let y := bucketSegment d p g (x.1.bucketBytes d g.next n r) good x
      if n ≤ g.next then (trainEnd d p y.1, y.2) else y

/-- Outside Replay mode for one transaction: the domain takes a journaled one as it took it in the field. -/
def asField (f : Hw × SMap Byte → Hw × SMap Byte) (x : Hw × SMap Byte) : Hw × SMap Byte :=
  let y := f ({ x.1 with node.replay := false }, x.2)
  ({ y.1 with node.replay := true }, y.2)

/-- A HOST record: a piece of a write or read, a Function Level Reset, the link. -/
def replayHost (d : Nat) (r : JrnRec) (x : Hw × SMap Byte) : Hw × SMap Byte :=
  let a := r.ext.getD 0 0
  let q := low 16 (r.ext.getD 1 0)
  let n := bits r.payload 13 7
  let tag := bits r.payload 3 10
  match low 3 r.payload with
  | 0 => writePiece d q .clean a (slice ((r.ext.drop 2).flatMap (leBytes 8)) 0 n) x
  | 1 =>
    let p := x.1.host d
    let waits := (if x.1.localAddr a then [(a, n)] else halvesOf a n).map fun c => (⟨p.tagNext, c.1, c.2, none⟩ : Piece)
    let h := x.1.setHost d { p with reads := p.reads ++ [⟨tag, q, waits⟩], tagNext := (p.tagNext + 1) % 2 ^ 16 }
    readPiece d tag q .clean p.tagNext a n (h, x.2)
  | 2 => ((x.1.hostLost d).clearFunction d, x.2)
  | 3 => (x.1.wr d R.BRG_HSTAT_LINKUP 1, x.2)
  | 4 => (x.1.hostLost d, x.2)
  | _ => x

/-- A MGMT record: a management write, a read that clears, a DATA read. -/
def replayMgmt (d : Nat) (r : JrnRec) (x : Hw × SMap Byte) : Hw × SMap Byte :=
  let o : Origin := .management d
  let space := bits r.payload 3 5
  let off := r.ext.getD 0 0
  let n := (List.range 4).foldl (fun a i => a + b2n (bit (bits r.payload 8 4) i)) 0
  if low 3 r.payload = 0 then (writeSpace d space off (leBytes n (r.ext.getD 1 0)) o .clean x).2
  else ((readSpace d space off n o .clean x).2, x.2)

/-- The queue that holds a cell. -/
def Hw.queueOf (h : Hw) (d cell : Nat) : Option Nat :=
  (h.liveQueues d).find? fun q => (h.cq d q).cells.any (·.index == cell)

/-- An ERR record (R514): the recorded outcome is the outcome of the check in its cycle. -/
def replayErr (d : Nat) (r : JrnRec) (h : Hw) : Hw :=
  let unit := bits r.payload 4 30
  let outcome := bits r.payload 34 2
  match low 4 r.payload with
  | 0 =>
    if outcome = 0 then h.scrubCe d unit 0 else if outcome = 1 then h.scrubUe d unit 0
    else match h.queueOf d unit with
      | some q => h.linkParity d q true
      | none => h
  | 1 => h.resetQueue d unit 0x11
  | 2 => if outcome = 1 then h.raiseFault d 0x15 (low 13 unit) else h
  | 3 => entryScan d unit true false h
  | 4 => h.faultPump d unit true
  | 5 => h.canParity d unit
  | 6 => h.trackerFault d unit
  | 15 => if outcome = 3 then ((h.bump d R.PHS_EMISC_CALFAIL).raiseFault d 0x51 (unit / 3)).report d 0x90 .placerCal (unit / 3) else h
  | _ => h

/-- A PHASE record: what the tracker's pins gave it up to the tick. -/
def replayPhase (d : Nat) (r : JrnRec) (h : Hw) : Hw :=
  let t := low 3 r.payload
  let e := r.ext.getD 1 0
  h.setTrk d t { h.trk d t with count := signed 64 (r.ext.getD 0 0), edgeAt := h.now - low 32 e, edgesTick := bits e 32 16,
                                illegalTick := bits e 48 8, zTick := bit e 56 }

/-- A WELL record: the status word of the Wellhouse (R519). -/
def replayWell (d : Nat) (r : JrnRec) (h : Hw) : Hw :=
  let k := R.WLH_STAT_HSSTATE.key d 0 0
  h.setRegAt k (setBits (h.regAt k) 0 16 r.payload)

/-- A MARK: the window's end and a loss end the replay (R528, R537); the others are passed over. -/
def replayMark (d : Nat) (r : JrnRec) (h : Hw) : Hw :=
  if low 4 r.payload = 7 ∨ low 4 r.payload = 3 then h.wr d R.JRN_STAT_STATE 7 else h

/-- One record takes effect. -/
def replayRecord (d : Nat) (r : JrnRec) (x : Hw × SMap Byte) : Hw × SMap Byte :=
  match r.typ with
  | 1 => (pinTransition d (low 4 r.payload) (bits r.payload 20 16) x.1, x.2)
  | 2 => (replayFrame d r x.1, x.2)
  | 3 => replayTrain d r x
  | 4 => asField (replayHost d r) x
  | 5 => (replayPhase d r x.1, x.2)
  | 6 => (replayWell d r x.1, x.2)
  | 7 => asField (replayMgmt d r) x
  | 8 => (digest d x.1, x.2)
  | 9 => (replayMark d r x.1, x.2)
  | 0xB => (replayErr d r x.1, x.2)
  | 0xC => (if d = x.1.node.owner then secondEdge x.1 else x.1, x.2)
  | _ => x

/-- The core cycle of the next record of a die; a TIME record carries it. -/
def Hw.nextRecordAt (h : Hw) (d : Nat) : Nat :=
  let r := h.jrnRec d (h.jrn d).replayPos
  if r.typ = 0 then r.ext.headD 0 else (h.jrn d).lastCycle + r.dcyc

/-- Is a die's domain running? -/
def Hw.rerunning (h : Hw) (d : Nat) : Bool := h.rd d R.JRN_STAT_STATE == 5

/-- The records of this cycle, in their order. -/
def replayDue (d : Nat) : Nat → Hw × SMap Byte → Hw × SMap Byte
  | 0, x => x
  | n + 1, x =>
    let h := x.1
    let i := (h.jrn d).replayPos
    if h.rerunning d && h.recordFed d i && decide (h.nextRecordAt d ≤ h.now) then
      let r := h.jrnRec d i
      let y := replayRecord d r x
      replayDue d n (y.1.setJrn d { y.1.jrn d with replayPos := r.next, lastCycle := h.nextRecordAt d }, y.2)
    else x

/-! ## One core cycle -/

/-- The domain's own work of a core cycle: the pins, the pending events (R384), the switch of every die, the journal's SRAM, the
frames that R168 makes due, the Pumps; the count and fabric time advance by
0.8 ns × (1 + r). -/
def Hw.domainCycle (h : Hw) : Hw :=
  let h := h.eachDie fun d h => (h.sampleDie d).trimPending d
  let h := ((switchCycle h).eachDie fun d h => iter 4 (creditAdvance d) (h.jrnCycle d)).pumpClocks
  { h with now := h.now + 1, ftm.time := h.ftm.time + (2 ^ 50 + 4 * h.ftm.r).toNat }

/-- Does the replayed domain stand: not running, or a die's next record not yet fed (R536)? -/
def Hw.replayStands (h : Hw) : Bool :=
  (List.range h.dies).any fun d => !h.rerunning d || !h.recordFed d (h.jrn d).replayPos

/-- A core cycle of Replay mode. -/
def replayCycle (x : Hw × SMap Byte) : Hw × SMap Byte :=
  let h := replayStop x.1
  if h.replayStands then (h, x.2)
  else
    let y := iter h.dies (fun d y => replayDue d 4096 y) (h, x.2)
    (y.1.domainCycle, y.2)

/-- Has replay been set up: some die loading, running, paused or ended? -/
def Hw.inReplay (h : Hw) : Bool := h.node.replay && (List.range h.dies).any fun d => decide (4 ≤ h.rd d R.JRN_STAT_STATE)

/-- What one core cycle does with no command (LOG 9); accesses that waited are tried again (R575). Night has no core clock. -/
def tick (x : Hw × SMap Byte) : Hw × SMap Byte :=
  if x.1.node.state = .night then x
  else if x.1.inReplay then replayCycle x
  else retryParked (x.1.domainCycle.serveCell, x.2)

end Sys2Proof.Machine
end

