-- ==== Sys2Proof/Machine/Dispatch.lean ====
section
/-!
DEFINITION. One arm per command of spec/opcode_table.json.
-/

namespace Sys2Proof.Machine

/-- The meaning of every command: its effect on everything but the queue. -/
def exec (i : Instr) (s : State) : Host.Outcome State Fault Refusal :=
  match i with
  | .powerOnResetRelease straps slot nightVoid nightTicks => Sys2Proof.Machine.execPowerOnResetRelease straps slot nightVoid nightTicks s
  | .inputPowerLost => Sys2Proof.Machine.execInputPowerLost s
  | .porstNAssert => Sys2Proof.Machine.execPorstNAssert s
  | .norDiscovery romOk jedecOk sfdp => Sys2Proof.Machine.execNorDiscovery romOk jedecOk sfdp s
  | .imageHeader bytes => Sys2Proof.Machine.execImageHeader bytes s
  | .imageRecord first reread => Sys2Proof.Machine.execImageRecord first reread s
  | .endRecord first reread firmware supplies => Sys2Proof.Machine.execEndRecord first reread firmware supplies s
  | .keytreeUnwrap failed => Sys2Proof.Machine.execKeytreeUnwrap failed s
  | .builtInSelfTest fails trains => Sys2Proof.Machine.execBuiltInSelfTest fails trains s
  | .quarantineToDusk => Sys2Proof.Machine.execQuarantineToDusk s
  | .ringBootTimeout => Sys2Proof.Machine.execRingBootTimeout s
  | .bootRequest die port part node => Sys2Proof.Machine.execBootRequest die port part node s
  | .imageStreamCell server serverDie bytes => Sys2Proof.Machine.execImageStreamCell server serverDie bytes s
  | .nodCmdEnterSafe die origin same => Sys2Proof.Machine.execNodCmdEnterSafe die origin same s
  | .nodCmdResume die origin same => Sys2Proof.Machine.execNodCmdResume die origin same s
  | .nodCmdSleep die origin same => Sys2Proof.Machine.execNodCmdSleep die origin same s
  | .nodCmdDusk die origin same => Sys2Proof.Machine.execNodCmdDusk die origin same s
  | .nodCmdReset die origin same => Sys2Proof.Machine.execNodCmdReset die origin same s
  | .nodCmdReserved die origin value => Sys2Proof.Machine.execNodCmdReserved die origin value s
  | .ringWake die port => Sys2Proof.Machine.execRingWake die port s
  | .duskCanLimit => Sys2Proof.Machine.execDuskCanLimit s
  | .duskRecord count => Sys2Proof.Machine.execDuskRecord count s
  | .duskCopyLimit => Sys2Proof.Machine.execDuskCopyLimit s
  | .takeover => Sys2Proof.Machine.execTakeover s
  | .amendCell holds inbox => Sys2Proof.Machine.execAmendCell holds inbox s
  | .extest die shifted levels leaving => Sys2Proof.Machine.execExtest die shifted levels leaving s
  | .samplePreload die preload levels => Sys2Proof.Machine.execSamplePreload die preload levels s
  | .idcode die => Sys2Proof.Machine.execIdcode die s
  | .highz die => Sys2Proof.Machine.execHighz die s
  | .clamp die => Sys2Proof.Machine.execClamp die s
  | .bypass die code => Sys2Proof.Machine.execBypass die code s
  | .rply die => Sys2Proof.Machine.execRply die s
  | .mdbg die shifted => Sys2Proof.Machine.execMdbg die shifted s
  | .testLogicReset => Sys2Proof.Machine.execTestLogicReset s
  | .blockLockLoss die port lane => Sys2Proof.Machine.execBlockLockLoss die port lane s
  | .deskewLoss die port => Sys2Proof.Machine.execDeskewLoss die port s
  | .frameSilenceTimeout die port frameSame => Sys2Proof.Machine.execFrameSilenceTimeout die port frameSame s
  | .blockLock die port lane => Sys2Proof.Machine.execBlockLock die port lane s
  | .deskew die port => Sys2Proof.Machine.execDeskew die port s
  | .trainingExchange die port bytes => Sys2Proof.Machine.execTrainingExchange die port bytes s
  | .trainingAuthFrame die port bytes => Sys2Proof.Machine.execTrainingAuthFrame die port bytes s
  | .trainingTimeout die port => Sys2Proof.Machine.execTrainingTimeout die port s
  | .trainingRetry die port => Sys2Proof.Machine.execTrainingRetry die port s
  | .lesDecay die port => Sys2Proof.Machine.execLesDecay die port s
  | .offHoldExpiry die port => Sys2Proof.Machine.execOffHoldExpiry die port s
  | .offcntClear die port => Sys2Proof.Machine.execOffcntClear die port s
  | .retrain die port => Sys2Proof.Machine.execRetrain die port s
  | .forceOff die port => Sys2Proof.Machine.execForceOff die port s
  | .portRelease die port => Sys2Proof.Machine.execPortRelease die port s
  | .trainStartBlock die port residence => Sys2Proof.Machine.execTrainStartBlock die port residence s
  | .trainSegment die port bytes tamper => Sys2Proof.Machine.execTrainSegment die port bytes tamper s
  | .trainEndBlock die port => Sys2Proof.Machine.execTrainEndBlock die port s
  | .trainWindowExpiry die headerSame => Sys2Proof.Machine.execTrainWindowExpiry die headerSame s
  | .trainOriginate die => Sys2Proof.Machine.execTrainOriginate die s
  | .phaseLockedBound die boundarySame => Sys2Proof.Machine.execPhaseLockedBound die boundarySame s
  | .originationStart die headerSame => Sys2Proof.Machine.execOriginationStart die headerSame s
  | .cellFrame die port bytes abort blkErr cut => Sys2Proof.Machine.execCellFrame die port bytes abort blkErr cut s
  | .replayTimeout die port ackSame => Sys2Proof.Machine.execReplayTimeout die port ackSame s
  | .keepalive die port bytes => Sys2Proof.Machine.execKeepalive die port bytes s
  | .creditSync die port bytes => Sys2Proof.Machine.execCreditSync die port bytes s
  | .creditFrameDue die port => Sys2Proof.Machine.execCreditFrameDue die port s
  | .outputSelect die out upset => Sys2Proof.Machine.execOutputSelect die out upset s
  | .presenceSend die => Sys2Proof.Machine.execPresenceSend die s
  | .presenceCell die inbox => Sys2Proof.Machine.execPresenceCell die inbox s
  | .nodeAbsent die node => Sys2Proof.Machine.execNodeAbsent die node s
  | .errorPacketSend die => Sys2Proof.Machine.execErrorPacketSend die s
  | .multicastCopy die => Sys2Proof.Machine.execMulticastCopy die s
  | .multicastGiveUp die granted => Sys2Proof.Machine.execMulticastGiveUp die granted s
  | .lpMpRelink die mp upset dest => Sys2Proof.Machine.execLpMpRelink die mp upset dest s
  | .dieLinkSilence die dp => Sys2Proof.Machine.execDieLinkSilence die dp s
  | .clockMonitor die ppm => Sys2Proof.Machine.execClockMonitor die ppm s
  | .ftimeCompare die diff => Sys2Proof.Machine.execFtimeCompare die diff s
  | .writeBufferRelease die => Sys2Proof.Machine.execWriteBufferRelease die s
  | .forwardPresent die mp upset => Sys2Proof.Machine.execForwardPresent die mp upset s
  | .wordCellClose die queue joined => Sys2Proof.Machine.execWordCellClose die queue joined s
  | .creditReturnTimer die link => Sys2Proof.Machine.execCreditReturnTimer die link s
  | .creditReturnCell die upset => Sys2Proof.Machine.execCreditReturnCell die upset s
  | .qgrantRead die origin queue => Sys2Proof.Machine.execQgrantRead die origin queue s
  | .windowDataWrite die origin queue bytes posted upset => Sys2Proof.Machine.execWindowDataWrite die origin queue bytes posted upset s
  | .windowDataRead die origin queue upset arrived => Sys2Proof.Machine.execWindowDataRead die origin queue upset arrived s
  | .queueSweepEnd die queue => Sys2Proof.Machine.execQueueSweepEnd die queue s
  | .freeListRebuildEnd die bank => Sys2Proof.Machine.execFreeListRebuildEnd die bank s
  | .cellScrub die bank finds => Sys2Proof.Machine.execCellScrub die bank finds s
  | .linkRamScrub die bank bad trusted => Sys2Proof.Machine.execLinkRamScrub die bank bad trusted s
  | .descriptorScrub die differ => Sys2Proof.Machine.execDescriptorScrub die differ s
  | .pumpStart die pump => Sys2Proof.Machine.execPumpStart die pump s
  | .pumpStartEffect die pump => Sys2Proof.Machine.execPumpStartEffect die pump s
  | .pumpStopNow die pump => Sys2Proof.Machine.execPumpStopNow die pump s
  | .pumpStopAtBoundary die pump => Sys2Proof.Machine.execPumpStopAtBoundary die pump s
  | .pumpClear die pump origin => Sys2Proof.Machine.execPumpClear die pump origin s
  | .pumpCmdReserved die pump origin => Sys2Proof.Machine.execPumpCmdReserved die pump origin s
  | .stopBoundaryReached die pump limit => Sys2Proof.Machine.execStopBoundaryReached die pump limit s
  | .stopTimeout die pump => Sys2Proof.Machine.execStopTimeout die pump s
  | .nop die pump parity => Sys2Proof.Machine.execNop die pump parity s
  | .draw die pump parity upset => Sys2Proof.Machine.execDraw die pump parity upset s
  | .pour die pump parity => Sys2Proof.Machine.execPour die pump parity s
  | .gather die pump parity => Sys2Proof.Machine.execGather die pump parity s
  | .store die pump parity upset => Sys2Proof.Machine.execStore die pump parity upset s
  | .await die pump parity was => Sys2Proof.Machine.execAwait die pump parity was s
  | .loadx die pump parity => Sys2Proof.Machine.execLoadx die pump parity s
  | .loady die pump parity => Sys2Proof.Machine.execLoady die pump parity s
  | .loadxh die pump parity => Sys2Proof.Machine.execLoadxh die pump parity s
  | .loadyh die pump parity => Sys2Proof.Machine.execLoadyh die pump parity s
  | .moveOp die pump parity => Sys2Proof.Machine.execMove die pump parity s
  | .addOp die pump parity => Sys2Proof.Machine.execAdd die pump parity s
  | .xorOp die pump parity => Sys2Proof.Machine.execXor die pump parity s
  | .testOp die pump parity => Sys2Proof.Machine.execTest die pump parity s
  | .countLoad die pump parity => Sys2Proof.Machine.execCountLoad die pump parity s
  | .countLoadX die pump parity => Sys2Proof.Machine.execCountLoadX die pump parity s
  | .countDecrement die pump parity => Sys2Proof.Machine.execCountDecrement die pump parity s
  | .signal die pump parity => Sys2Proof.Machine.execSignal die pump parity s
  | .crcInit die pump parity => Sys2Proof.Machine.execCrcInit die pump parity s
  | .crcFeed die pump parity => Sys2Proof.Machine.execCrcFeed die pump parity s
  | .crcFinal die pump parity => Sys2Proof.Machine.execCrcFinal die pump parity s
  | .stuff die pump parity => Sys2Proof.Machine.execStuff die pump parity s
  | .codeEncode die pump parity => Sys2Proof.Machine.execCodeEncode die pump parity s
  | .codeDecode die pump parity => Sys2Proof.Machine.execCodeDecode die pump parity s
  | .halt die pump parity => Sys2Proof.Machine.execHalt die pump parity s
  | .illegalInstruction die pump parity => Sys2Proof.Machine.execIllegalInstruction die pump parity s
  | .shiftStageFree die pump bad => Sys2Proof.Machine.execShiftStageFree die pump bad s
  | .gatherDelivery die pump samples bad => Sys2Proof.Machine.execGatherDelivery die pump samples bad s
  | .awaitConditionMet die pump again bad => Sys2Proof.Machine.execAwaitConditionMet die pump again bad s
  | .awaitTimeout die pump holds bad => Sys2Proof.Machine.execAwaitTimeout die pump holds bad s
  | .storeCreditWaitEnd die pump upset bad => Sys2Proof.Machine.execStoreCreditWaitEnd die pump upset bad s
  | .pumpParityCheck die pump entry bad => Sys2Proof.Machine.execPumpParityCheck die pump entry bad s
  | .pinTransition die bank changed => Sys2Proof.Machine.execPinTransition die bank changed s
  | .qualifiedLevelChange die pins => Sys2Proof.Machine.execQualifiedLevelChange die pins s
  | .rangeOpenLimit die pin => Sys2Proof.Machine.execRangeOpenLimit die pin s
  | .pinTimeout die pin => Sys2Proof.Machine.execPinTimeout die pin s
  | .tripRelease die groups => Sys2Proof.Machine.execTripRelease die groups s
  | .mioOutWrite die word value => Sys2Proof.Machine.execMioOutWrite die word value s
  | .outmvWrite die word value mask => Sys2Proof.Machine.execOutmvWrite die word value mask s
  | .readbackSettleEnd die pin => Sys2Proof.Machine.execReadbackSettleEnd die pin s
  | .readbackMismatch die pin => Sys2Proof.Machine.execReadbackMismatch die pin s
  | .receiverMismatch die pin level => Sys2Proof.Machine.execReceiverMismatch die pin level s
  | .canStart die can => Sys2Proof.Machine.execCanStart die can s
  | .canStop die can receiving => Sys2Proof.Machine.execCanStop die can receiving s
  | .canRecover die can origin => Sys2Proof.Machine.execCanRecover die can origin s
  | .canSleep die can => Sys2Proof.Machine.execCanSleep die can s
  | .canWake die can => Sys2Proof.Machine.execCanWake die can s
  | .canAbort die can => Sys2Proof.Machine.execCanAbort die can s
  | .canCmdReserved die can origin => Sys2Proof.Machine.execCanCmdReserved die can origin s
  | .frameSelection die can upset => Sys2Proof.Machine.execFrameSelection die can upset s
  | .canFrameTransmitted die can tdcv => Sys2Proof.Machine.execCanFrameTransmitted die can tdcv s
  | .arbitrationLost die can => Sys2Proof.Machine.execArbitrationLost die can s
  | .canError die can lec exempt extra tdcv => Sys2Proof.Machine.execCanError die can lec exempt extra tdcv s
  | .canFrameReceived die can id dlc brs esi data parity limit => Sys2Proof.Machine.execCanFrameReceived die can id dlc brs esi data parity limit s
  | .integrationComplete die can => Sys2Proof.Machine.execIntegrationComplete die can s
  | .recoveryComplete die can => Sys2Proof.Machine.execRecoveryComplete die can s
  | .canWakeDominant die can ends => Sys2Proof.Machine.execCanWakeDominant die can ends s
  | .canWakeFrame die can id dlc data limit => Sys2Proof.Machine.execCanWakeFrame die can id dlc data limit s
  | .wakeErrorLimit die can frames => Sys2Proof.Machine.execWakeErrorLimit die can frames s
  | .canParityCheck die can bad => Sys2Proof.Machine.execCanParityCheck die can bad s
  | .trackerUpdate die trk parityBad => Sys2Proof.Machine.execTrackerUpdate die trk parityBad s
  | .gapLimit die trk arrival => Sys2Proof.Machine.execGapLimit die trk arrival s
  | .trackerSilence die trk arrival => Sys2Proof.Machine.execTrackerSilence die trk arrival s
  | .holdoverTimeout die trk arrival => Sys2Proof.Machine.execHoldoverTimeout die trk arrival s
  | .pacingRaise die trk => Sys2Proof.Machine.execPacingRaise die trk s
  | .entryScan die entry parityBad trackerBad => Sys2Proof.Machine.execEntryScan die entry parityBad trackerBad s
  | .eventCommit die entry => Sys2Proof.Machine.execEventCommit die entry s
  | .eventFire die entry => Sys2Proof.Machine.execEventFire die entry s
  | .eventCellPresent die => Sys2Proof.Machine.execEventCellPresent die s
  | .placerCalibration die ok => Sys2Proof.Machine.execPlacerCalibration die ok s
  | .entryArm die entry arm fires => Sys2Proof.Machine.execEntryArm die entry arm fires s
  | .trackerLiveRead die trk => Sys2Proof.Machine.execTrackerLiveRead die trk s
  | .delayRequestSend die port => Sys2Proof.Machine.execDelayRequestSend die port s
  | .delayRequest die port bytes turn => Sys2Proof.Machine.execDelayRequest die port bytes turn s
  | .delayResponse die port bytes stamp => Sys2Proof.Machine.execDelayResponse die port bytes stamp s
  | .secondEdge => Sys2Proof.Machine.execSecondEdge s
  | .ppsLoss edgeSame => Sys2Proof.Machine.execPpsLoss edgeSame s
  | .ftmAccept => Sys2Proof.Machine.execFtmAccept s
  | .utcOffsetChange => Sys2Proof.Machine.execUtcOffsetChange s
  | .calendarSet => Sys2Proof.Machine.execCalendarSet s
  | .ppsOutPulse => Sys2Proof.Machine.execPpsOutPulse s
  | .pcieMemoryRead die bar offset len tag reqid upset => Sys2Proof.Machine.execPcieMemoryRead die bar offset len tag reqid upset s
  | .pcieMemoryWrite die bar offset bytes reqid upset => Sys2Proof.Machine.execPcieMemoryWrite die bar offset bytes reqid upset s
  | .pcieConfiguration die write word value enables tag => Sys2Proof.Machine.execPcieConfiguration die write word value enables tag s
  | .unsupportedRequest die tag => Sys2Proof.Machine.execUnsupportedRequest die tag s
  | .functionLevelReset die => Sys2Proof.Machine.execFunctionLevelReset die s
  | .hostLinkDown die perst => Sys2Proof.Machine.execHostLinkDown die perst s
  | .hostLinkUp die speed width => Sys2Proof.Machine.execHostLinkUp die speed width s
  | .hostReadTimeout die tag completion => Sys2Proof.Machine.execHostReadTimeout die tag completion s
  | .readRequest die upset inbox => Sys2Proof.Machine.execReadRequest die upset inbox s
  | .writeRequest die upset inbox => Sys2Proof.Machine.execWriteRequest die upset inbox s
  | .readCompletion die inbox => Sys2Proof.Machine.execReadCompletion die inbox s
  | .writeCompletion die inbox => Sys2Proof.Machine.execWriteCompletion die inbox s
  | .lockRead die inbox => Sys2Proof.Machine.execLockRead die inbox s
  | .lockWrite die inbox => Sys2Proof.Machine.execLockWrite die inbox s
  | .unlock die inbox => Sys2Proof.Machine.execUnlock die inbox s
  | .lockBusy die inbox => Sys2Proof.Machine.execLockBusy die inbox s
  | .errorPacket die inbox => Sys2Proof.Machine.execErrorPacket die inbox s
  | .badAccessCell die errors inbox => Sys2Proof.Machine.execBadAccessCell die errors inbox s
  | .pop die => Sys2Proof.Machine.execPop die s
  | .slaveRead die addr am width upset => Sys2Proof.Machine.execSlaveRead die addr am width upset s
  | .slaveWrite die addr am width data upset => Sys2Proof.Machine.execSlaveWrite die addr am width data upset s
  | .slaveLockRead die addr am width upset => Sys2Proof.Machine.execSlaveLockRead die addr am width upset s
  | .slaveLockWrite die data => Sys2Proof.Machine.execSlaveLockWrite die data s
  | .asRelease die => Sys2Proof.Machine.execAsRelease die s
  | .lockTimeout die unitNo => Sys2Proof.Machine.execLockTimeout die unitNo s
  | .lockReadResend die => Sys2Proof.Machine.execLockReadResend die s
  | .holdmaxExpiry die dataSame => Sys2Proof.Machine.execHoldmaxExpiry die dataSame s
  | .slotTimeout die slot retrySame => Sys2Proof.Machine.execSlotTimeout die slot retrySame s
  | .masterAccess die origin offset write posted bytes => Sys2Proof.Machine.execMasterAccess die origin offset write posted bytes s
  | .masterCycleEnd die berr data => Sys2Proof.Machine.execMasterCycleEnd die berr data s
  | .fetchTimeout die => Sys2Proof.Machine.execFetchTimeout die s
  | .interruptAcknowledge die level => Sys2Proof.Machine.execInterruptAcknowledge die level s
  | .strobeBusAccess die data => Sys2Proof.Machine.execStrobeBusAccess die data s
  | .busClear die => Sys2Proof.Machine.execBusClear die s
  | .backplaneSysreset die asserted => Sys2Proof.Machine.execBackplaneSysreset die asserted s
  | .controlFrameSend die => Sys2Proof.Machine.execControlFrameSend die s
  | .measurementFrame die => Sys2Proof.Machine.execMeasurementFrame die s
  | .wlhLinkSilent die => Sys2Proof.Machine.execWlhLinkSilent die s
  | .wellhouseConversion volts shunts => Sys2Proof.Machine.execWellhouseConversion volts shunts s
  | .refclkQualified => Sys2Proof.Machine.execRefclkQualified s
  | .inputWindowEnter => Sys2Proof.Machine.execInputWindowEnter s
  | .inputWindowLeave above => Sys2Proof.Machine.execInputWindowLeave above s
  | .insertionDelayEnd => Sys2Proof.Machine.execInsertionDelayEnd s
  | .hotswapOn => Sys2Proof.Machine.execHotswapOn s
  | .powerGoodQualified timerStart => Sys2Proof.Machine.execPowerGoodQualified timerStart s
  | .faultTimerExpiry => Sys2Proof.Machine.execFaultTimerExpiry s
  | .faultTimerClear => Sys2Proof.Machine.execFaultTimerClear s
  | .fastTrip => Sys2Proof.Machine.execFastTrip s
  | .fastTripHoldEnd => Sys2Proof.Machine.execFastTripHoldEnd s
  | .retryWaitEnd => Sys2Proof.Machine.execRetryWaitEnd s
  | .retryCountClear => Sys2Proof.Machine.execRetryCountClear s
  | .powerGoodDrop => Sys2Proof.Machine.execPowerGoodDrop s
  | .overvoltageEvent => Sys2Proof.Machine.execOvervoltageEvent s
  | .reverseTurnOff feed => Sys2Proof.Machine.execReverseTurnOff feed s
  | .idealDiodeResume feed => Sys2Proof.Machine.execIdealDiodeResume feed s
  | .feedPresent feed => Sys2Proof.Machine.execFeedPresent feed s
  | .feedLost feed otherPresent => Sys2Proof.Machine.execFeedLost feed otherPresent s
  | .fieldFeedBad both => Sys2Proof.Machine.execFieldFeedBad both s
  | .bbmEnd => Sys2Proof.Machine.execBbmEnd s
  | .fieldReturn => Sys2Proof.Machine.execFieldReturn s
  | .fieldOvercurrent => Sys2Proof.Machine.execFieldOvercurrent s
  | .fieldResume => Sys2Proof.Machine.execFieldResume s
  | .fieldOff => Sys2Proof.Machine.execFieldOff s
  | .autoEntry frame => Sys2Proof.Machine.execAutoEntry frame s
  | .holdupFault reached => Sys2Proof.Machine.execHoldupFault reached s
  | .requestedEntryWaitEnd => Sys2Proof.Machine.execRequestedEntryWaitEnd s
  | .forcedEntryWaitEnd => Sys2Proof.Machine.execForcedEntryWaitEnd s
  | .ledgerPageWrite => Sys2Proof.Machine.execLedgerPageWrite s
  | .logNvmWriteDone readback => Sys2Proof.Machine.execLogNvmWriteDone readback s
  | .ledgerPageRetry => Sys2Proof.Machine.execLedgerPageRetry s
  | .lastSeqRebuild => Sys2Proof.Machine.execLastSeqRebuild s
  | .archiveMark hi sameCycle => Sys2Proof.Machine.execArchiveMark hi sameCycle s
  | .ledgerRead die origin offset len => Sys2Proof.Machine.execLedgerRead die origin offset len s
  | .imageShadowRead die origin offset len => Sys2Proof.Machine.execImageShadowRead die origin offset len s
  | .eventReport die => Sys2Proof.Machine.execEventReport die s
  | .recordWrite die => Sys2Proof.Machine.execRecordWrite die s
  | .recorderCopy aged => Sys2Proof.Machine.execRecorderCopy aged s
  | .evrClr die origin => Sys2Proof.Machine.execEvrClr die origin s
  | .clearRetry die => Sys2Proof.Machine.execClearRetry die s
  | .digest die => Sys2Proof.Machine.execDigest die s
  | .checkpointBegin => Sys2Proof.Machine.execCheckpointBegin s
  | .checkpointEnd die => Sys2Proof.Machine.execCheckpointEnd die s
  | .jrnFreeze die => Sys2Proof.Machine.execJrnFreeze die s
  | .freezeEffect => Sys2Proof.Machine.execFreezeEffect s
  | .postComplete die => Sys2Proof.Machine.execPostComplete die s
  | .jrnRearm => Sys2Proof.Machine.execJrnRearm s
  | .journalLossEnd die => Sys2Proof.Machine.execJournalLossEnd die s
  | .replayLoad die => Sys2Proof.Machine.execReplayLoad die s
  | .replayRun die => Sys2Proof.Machine.execReplayRun die s
  | .replayPause die => Sys2Proof.Machine.execReplayPause die s
  | .replayCmdReserved die origin => Sys2Proof.Machine.execReplayCmdReserved die origin s
  | .replayFeed die words => Sys2Proof.Machine.execReplayFeed die words s
  | .replayStop => Sys2Proof.Machine.execReplayStop s
  | .replayEnd die => Sys2Proof.Machine.execReplayEnd die s
  | .vaultCommand die origin offset slot engine => Sys2Proof.Machine.execVaultCommand die origin offset slot engine s
  | .engineRequest die slot engine goesOn => Sys2Proof.Machine.execEngineRequest die slot engine goesOn s
  | .entropyHealthFail => Sys2Proof.Machine.execEntropyHealthFail s
  | .vltRevoke slot => Sys2Proof.Machine.execVltRevoke slot s
  | .keySlotCheck die slot bad amended => Sys2Proof.Machine.execKeySlotCheck die slot bad amended s
  | .attestationRequest die origin => Sys2Proof.Machine.execAttestationRequest die origin s
  | .statementSigned => Sys2Proof.Machine.execStatementSigned s
  | .tamperSample holds => Sys2Proof.Machine.execTamperSample holds s
  | .tamperLogClear => Sys2Proof.Machine.execTamperLogClear s
  | .heartbeat die origin value => Sys2Proof.Machine.execHeartbeat die origin value s
  | .watchdogExpiry die beat => Sys2Proof.Machine.execWatchdogExpiry die beat s
  | .lockstepMismatch die => Sys2Proof.Machine.execLockstepMismatch die s
  | .pairRestart die => Sys2Proof.Machine.execPairRestart die s
  | .mirrorRebuild => Sys2Proof.Machine.execMirrorRebuild s
  | .updateStart => Sys2Proof.Machine.execUpdateStart s
  | .updateCommit => Sys2Proof.Machine.execUpdateCommit s
  | .updateAbort => Sys2Proof.Machine.execUpdateAbort s
  | .mgtUdata die origin value => Sys2Proof.Machine.execMgtUdata die origin value s
  | .norWriteComplete equal => Sys2Proof.Machine.execNorWriteComplete equal s
  | .holdupWaitTimeout => Sys2Proof.Machine.execHoldupWaitTimeout s
  | .handover accepts blackout => Sys2Proof.Machine.execHandover accepts blackout s
  | .handoverTimeout => Sys2Proof.Machine.execHandoverTimeout s
  | .ringBootWriteBack bytes => Sys2Proof.Machine.execRingBootWriteBack bytes s
  | .faultReport => Sys2Proof.Machine.execFaultReport s
  | .fltSclr code holds => Sys2Proof.Machine.execFltSclr code holds s
  | .restore => Sys2Proof.Machine.execRestore s
  | .rcRead die origin offset => Sys2Proof.Machine.execRcRead die origin offset s
  | .registerWrite die origin offset value posted => Sys2Proof.Machine.execRegisterWrite die origin offset value posted s
  | .pourGroupEmit die pump bad => Sys2Proof.Machine.execPourGroupEmit die pump bad s
  | .dieLinkTrained die dp => Sys2Proof.Machine.execDieLinkTrained die dp s
  | .currentLimitActive => Sys2Proof.Machine.execCurrentLimitActive s
  | .storeFetConduct => Sys2Proof.Machine.execStoreFetConduct s
  | .storeFetOff => Sys2Proof.Machine.execStoreFetOff s
  | .busGrant die => Sys2Proof.Machine.execBusGrant die s
  | .processImageScrub die double => Sys2Proof.Machine.execProcessImageScrub die double s
  | .entropyHealthPass => Sys2Proof.Machine.execEntropyHealthPass s
  | .supplyConditionChange die ok => Sys2Proof.Machine.execSupplyConditionChange die ok s
  | .temperatureConditionChange die ok => Sys2Proof.Machine.execTemperatureConditionChange die ok s

end Sys2Proof.Machine
end

