-- ==== Sys2Proof/Machine/Step.lean ====
section
/-!
DEFINITION. One step: the command at the front of the queue, or, with none waiting, one core cycle (LOG 9).
-/

namespace Sys2Proof.Machine

/-- The core cycle that passes while no command waits. -/
def State.idle (s : State) : State := { s with hw := (tick (s.hw, s.pir)).1, pir := (tick (s.hw, s.pir)).2 }

/-- Take the command at the front of the queue and run it on the state with the rest of the queue; on an empty queue one core
cycle passes. -/
def step (s : State) : Host.Outcome State Fault Refusal :=
  match s.pending with
  | [] => .next s.idle
  | c :: rest => exec c { s with pending := rest }

/-- The command that a word spells, put at the front of the queue. -/
def State.withFetchWord (s : State) (nbits w : Nat) : State :=
  match Sys2Proof.decodeTableWord nbits w with
  | some c => { s with pending := c :: s.pending }
  | none => s

end Sys2Proof.Machine
end

