-- ==== Sys2Proof/Safety.lean ====
section
/-!
DEFINITION. What statements about the node speak of: a die that can take commands, the canonical form of the Process Image
RAM, the memory that outlives power, and a command that completes.
-/

namespace Sys2Proof.Machine

/-- The node is powered and out of Night: a command of the core reaches it. -/
def State.awake (s : State) : Prop := s.hw.node.state ≠ .night

/-- Die `d` is in the package, and the node is out of Night. -/
def State.ready (s : State) (d : Die) : Prop := d.val < s.hw.dies ∧ s.awake

/-- Command `c` completes in state `s`, and what it leaves has `P`. -/
def Completes (c : Instr) (s : State) (P : State → Prop) : Prop := ∃ t, exec c s = .next t ∧ P t

/-- Command `c` completes in state `s`: the hardware becomes `g`, and the Process Image RAM and the queue stay. -/
def Gives (c : Instr) (s : State) (g : Hw) : Prop := exec c s = .next { s with hw := g }

/-- Command `c` completes in state `s`: the hardware becomes `g`, the Process Image RAM and the queue stay, and `g` has `P`. -/
def GivesWith (c : Instr) (s : State) (g : Hw) (P : Hw → Prop) : Prop := Gives c s g ∧ P g

/-- Command `c` completes in state `s`: the hardware and the Process Image RAM become `x`, and the queue stays. -/
def GivesBoth (c : Instr) (s : State) (x : Hw × SMap Byte) : Prop := exec c s = .next { s with hw := x.1, pir := x.2 }

/-- The canonical form of the Process Image RAM of the node's dies: addresses strictly rising, no listed byte 0. -/
def Memory.wf (m : SMap Byte) : Bool := m.wf 0

/-- What a loss of power leaves in place: the part and its grade, the one-time programmable memory, the log memory of the
Ledger and of the recorder, the NOR memory. -/
structure Lasting where
  part : Part
  grade : Grade
  otp : Otp
  logNvm : SMap Byte
  nor : SMap Byte

/-- What would last of this hardware state. -/
def Hw.lasting (h : Hw) : Lasting := ⟨h.part, h.grade, h.otp, h.logNvm, h.nor⟩

/-- But for the register file, the pins and the Pumps' own state, `g` is `h`. -/
def Hw.onlyPump (g h : Hw) : Prop := { g with regs := h.regs, pins := h.pins, pumps := h.pumps } = h

/-- Every register but those at the keys `ks` reads in `g` as in `h`. -/
def Hw.onlyAt (g h : Hw) (ks : List Nat) : Prop := ∀ k, k ∉ ks → g.regAt k = h.regAt k

/-! ## Pumps -/

/-- Pump `n` is Running at an instruction of the form `want` that is legal under the configuration as it stands, and the
entry's parity is good (R286, R308, R309). -/
def Hw.issuable (h : Hw) (d n : Nat) (want : Nat → Bool) : Prop :=
  h.pumpState d n = 1 ∧ (h.pump d n).bad.contains (h.rd d R.PMP_STAT_IP n) = false ∧ want (h.pumpWord d n) = true ∧
    h.illegalNow d n (h.pumpWord d n) = false

/-- ARG of the instruction at IP (R284). -/
def Hw.pumpArg (h : Hw) (d n : Nat) : Nat := low 16 (h.pumpWord d n)

/-- The hardware once the pin action of the instruction at IP is done (R285). -/
def Hw.pinned (h : Hw) (d n : Nat) : Hw := h.pinAction d n (bits (h.pumpWord d n) 21 6)

/-- The address after the instruction at IP where it does not jump (R286). -/
def Hw.nextIp (h : Hw) (d n : Nat) : Nat :=
  if h.rd d R.PMP_STAT_IP n = h.rd d R.PMP_FLOW_WRAPIP n then h.rd d R.PMP_FLOW_WRAPTO n else (h.rd d R.PMP_STAT_IP n + 1) % 64

/-- The hardware after the instruction's action `x`: the IN pins' sample at its boundary is the previous one for an edge (R294). -/
def Hw.issued (h : Hw) (d n : Nat) (x : Hw) : Hw := x.setPump d n { x.pump d n with prevIn := h.inSample d n }

/-- Pump `n` is Running at address `ip`. -/
def Hw.pumpAt (h : Hw) (d n ip : Nat) : Prop := h.pumpState d n = 1 ∧ h.rd d R.PMP_STAT_IP n = ip

/-! ## Kinds of commands -/

/-- The die at which a command is an event: one that the package does not have has no such event. -/
def namedDie : Instr → Option Die
  | .powerOnResetRelease .. | .inputPowerLost .. | .porstNAssert .. | .norDiscovery .. | .imageHeader .. | .imageRecord ..
  | .endRecord .. | .keytreeUnwrap .. | .builtInSelfTest .. | .quarantineToDusk .. | .ringBootTimeout ..
  | .imageStreamCell .. | .nodCmdEnterSafe .. | .nodCmdResume .. | .nodCmdSleep .. | .nodCmdDusk .. | .nodCmdReset ..
  | .nodCmdReserved .. | .duskCanLimit .. | .duskRecord .. | .duskCopyLimit .. | .takeover .. | .amendCell ..
  | .testLogicReset .. | .qgrantRead .. | .windowDataWrite .. | .windowDataRead .. | .pumpClear .. | .pumpCmdReserved ..
  | .canRecover .. | .canCmdReserved .. | .secondEdge .. | .ppsLoss .. | .ftmAccept .. | .utcOffsetChange ..
  | .calendarSet .. | .ppsOutPulse .. | .masterAccess .. | .wellhouseConversion .. | .refclkQualified ..
  | .inputWindowEnter .. | .inputWindowLeave .. | .insertionDelayEnd .. | .hotswapOn .. | .powerGoodQualified ..
  | .faultTimerExpiry .. | .faultTimerClear .. | .fastTrip .. | .fastTripHoldEnd .. | .retryWaitEnd .. | .retryCountClear ..
  | .powerGoodDrop .. | .overvoltageEvent .. | .reverseTurnOff .. | .idealDiodeResume .. | .feedPresent .. | .feedLost ..
  | .fieldFeedBad .. | .bbmEnd .. | .fieldReturn .. | .fieldOvercurrent .. | .fieldResume .. | .fieldOff .. | .autoEntry ..
  | .holdupFault .. | .requestedEntryWaitEnd .. | .forcedEntryWaitEnd .. | .ledgerPageWrite .. | .logNvmWriteDone ..
  | .ledgerPageRetry .. | .lastSeqRebuild .. | .archiveMark .. | .ledgerRead .. | .imageShadowRead .. | .recorderCopy ..
  | .evrClr .. | .checkpointBegin .. | .freezeEffect .. | .jrnRearm .. | .replayCmdReserved .. | .replayStop ..
  | .vaultCommand .. | .entropyHealthFail .. | .vltRevoke .. | .attestationRequest .. | .statementSigned ..
  | .tamperSample .. | .tamperLogClear .. | .heartbeat .. | .mirrorRebuild .. | .updateStart .. | .updateCommit ..
  | .updateAbort .. | .mgtUdata .. | .norWriteComplete .. | .holdupWaitTimeout .. | .handover .. | .handoverTimeout ..
  | .ringBootWriteBack .. | .faultReport .. | .fltSclr .. | .restore .. | .rcRead .. | .registerWrite ..
  | .currentLimitActive .. | .storeFetConduct .. | .storeFetOff .. | .entropyHealthPass .. => none
  | .bootRequest d .. | .ringWake d .. | .extest d .. | .samplePreload d .. | .idcode d | .highz d | .clamp d | .bypass d ..
  | .rply d | .mdbg d .. | .blockLockLoss d .. | .deskewLoss d .. | .frameSilenceTimeout d .. | .blockLock d ..
  | .deskew d .. | .trainingExchange d .. | .trainingAuthFrame d .. | .trainingTimeout d .. | .trainingRetry d ..
  | .lesDecay d .. | .offHoldExpiry d .. | .offcntClear d .. | .retrain d .. | .forceOff d .. | .portRelease d ..
  | .trainStartBlock d .. | .trainSegment d .. | .trainEndBlock d .. | .trainWindowExpiry d .. | .trainOriginate d
  | .phaseLockedBound d .. | .originationStart d .. | .cellFrame d .. | .replayTimeout d .. | .keepalive d ..
  | .creditSync d .. | .creditFrameDue d .. | .outputSelect d .. | .presenceSend d | .presenceCell d .. | .nodeAbsent d ..
  | .errorPacketSend d | .multicastCopy d | .multicastGiveUp d .. | .lpMpRelink d .. | .dieLinkSilence d ..
  | .clockMonitor d .. | .ftimeCompare d .. | .writeBufferRelease d | .forwardPresent d .. | .wordCellClose d ..
  | .creditReturnTimer d .. | .creditReturnCell d .. | .queueSweepEnd d .. | .freeListRebuildEnd d .. | .cellScrub d ..
  | .linkRamScrub d .. | .descriptorScrub d .. | .pumpStart d .. | .pumpStartEffect d .. | .pumpStopNow d ..
  | .pumpStopAtBoundary d .. | .stopBoundaryReached d .. | .stopTimeout d .. | .nop d .. | .draw d .. | .pour d ..
  | .gather d .. | .store d .. | .await d .. | .loadx d .. | .loady d .. | .loadxh d .. | .loadyh d .. | .moveOp d ..
  | .addOp d .. | .xorOp d .. | .testOp d .. | .countLoad d .. | .countLoadX d .. | .countDecrement d .. | .signal d ..
  | .crcInit d .. | .crcFeed d .. | .crcFinal d .. | .stuff d .. | .codeEncode d .. | .codeDecode d .. | .halt d ..
  | .illegalInstruction d .. | .shiftStageFree d .. | .gatherDelivery d .. | .awaitConditionMet d .. | .awaitTimeout d ..
  | .storeCreditWaitEnd d .. | .pumpParityCheck d .. | .pinTransition d .. | .qualifiedLevelChange d ..
  | .rangeOpenLimit d .. | .pinTimeout d .. | .tripRelease d .. | .mioOutWrite d .. | .outmvWrite d ..
  | .readbackSettleEnd d .. | .readbackMismatch d .. | .receiverMismatch d .. | .canStart d .. | .canStop d ..
  | .canSleep d .. | .canWake d .. | .canAbort d .. | .frameSelection d .. | .canFrameTransmitted d ..
  | .arbitrationLost d .. | .canError d .. | .canFrameReceived d .. | .integrationComplete d .. | .recoveryComplete d ..
  | .canWakeDominant d .. | .canWakeFrame d .. | .wakeErrorLimit d .. | .canParityCheck d .. | .trackerUpdate d ..
  | .gapLimit d .. | .trackerSilence d .. | .holdoverTimeout d .. | .pacingRaise d .. | .entryScan d .. | .eventCommit d ..
  | .eventFire d .. | .eventCellPresent d | .placerCalibration d .. | .entryArm d .. | .trackerLiveRead d ..
  | .delayRequestSend d .. | .delayRequest d .. | .delayResponse d .. | .pcieMemoryRead d .. | .pcieMemoryWrite d ..
  | .pcieConfiguration d .. | .unsupportedRequest d .. | .functionLevelReset d | .hostLinkDown d .. | .hostLinkUp d ..
  | .hostReadTimeout d .. | .readRequest d .. | .writeRequest d .. | .readCompletion d .. | .writeCompletion d ..
  | .lockRead d .. | .lockWrite d .. | .unlock d .. | .lockBusy d .. | .errorPacket d .. | .badAccessCell d .. | .pop d
  | .slaveRead d .. | .slaveWrite d .. | .slaveLockRead d .. | .slaveLockWrite d .. | .asRelease d | .lockTimeout d ..
  | .lockReadResend d | .holdmaxExpiry d .. | .slotTimeout d .. | .masterCycleEnd d .. | .fetchTimeout d
  | .interruptAcknowledge d .. | .strobeBusAccess d .. | .busClear d | .backplaneSysreset d .. | .controlFrameSend d
  | .measurementFrame d | .wlhLinkSilent d | .eventReport d | .recordWrite d | .clearRetry d | .digest d | .checkpointEnd d
  | .jrnFreeze d | .postComplete d | .journalLossEnd d | .replayLoad d | .replayRun d | .replayPause d | .replayFeed d ..
  | .replayEnd d | .engineRequest d .. | .keySlotCheck d .. | .watchdogExpiry d .. | .lockstepMismatch d | .pairRestart d
  | .pourGroupEmit d .. | .dieLinkTrained d .. | .busGrant d | .processImageScrub d .. | .supplyConditionChange d ..
  | .temperatureConditionChange d .. => some d

/-- Commands that reach the node in Night as well: power, the Wellhouse, the tamper inputs. -/
def actsInNight : Instr → Bool
  | .powerOnResetRelease .. | .wellhouseConversion .. | .refclkQualified .. | .inputWindowEnter .. | .inputWindowLeave ..
  | .insertionDelayEnd .. | .hotswapOn .. | .powerGoodQualified .. | .faultTimerExpiry .. | .faultTimerClear ..
  | .fastTrip .. | .fastTripHoldEnd .. | .retryWaitEnd .. | .retryCountClear .. | .powerGoodDrop .. | .overvoltageEvent ..
  | .reverseTurnOff .. | .idealDiodeResume .. | .feedPresent .. | .feedLost .. | .fieldFeedBad .. | .bbmEnd ..
  | .fieldReturn .. | .fieldOvercurrent .. | .autoEntry .. | .holdupFault .. | .tamperSample .. | .currentLimitActive ..
  | .storeFetConduct .. | .storeFetOff .. => true
  | _ => false

/-- Commands that can reach the Process Image RAM. -/
def reachesPir : Instr → Bool
  | .trainSegment .. | .qgrantRead .. | .windowDataWrite .. | .windowDataRead .. | .trackerUpdate .. | .pcieMemoryRead ..
  | .pcieMemoryWrite .. | .readRequest .. | .writeRequest .. | .lockRead .. | .lockWrite .. | .unlock .. | .slaveRead ..
  | .slaveWrite .. | .slaveLockRead .. | .slaveLockWrite .. | .asRelease .. | .lockTimeout .. | .lockReadResend ..
  | .masterAccess .. | .backplaneSysreset .. | .ledgerRead .. | .imageShadowRead .. | .checkpointBegin .. | .replayLoad ..
  | .rcRead .. | .registerWrite .. => true
  | _ => false

/-- Commands that can change the one-time programmable memory: the first start, and the adoption of a firmware. -/
def programsOtp : Instr → Bool
  | .powerOnResetRelease .. | .trainSegment .. | .handover .. | .handoverTimeout .. => true
  | _ => false

/-- Commands that can change the NOR memory: the reading of an image in Dawn shows what it holds; an amend, an update and a write-back write it. -/
def programsNor : Instr → Bool
  | .imageHeader .. | .imageRecord .. | .endRecord .. | .amendCell .. | .updateCommit .. | .norWriteComplete ..
  | .ringBootWriteBack .. => true
  | _ => false

/-- Commands that can change the log memory: the end of a page write, and the Dusk record. -/
def programsLog : Instr → Bool
  | .logNvmWriteDone .. | .duskRecord .. => true
  | _ => false

end Sys2Proof.Machine
end

