-- ==== Sys2Proof/Certificates/Slice0/Obligations.lean ====
section
/-!
DEFINITION. What is to be proved of the model. First the whole machine: a step, the state after reset, what no command changes.
Then rules of the specification that say one thing, in their own words. Then, family by family, for every command what it
answers: the state that the rules give, whole, under conditions on the state before and the operands alone, so that each of
these statements is a completion and a frame at once.
-/

open Sys2Proof Sys2Proof.Machine

/-! ## The whole machine -/

/-- The step of a block: the command at the front of the queue runs on the state with the rest of the queue. -/
def Obligations.StepRunsTheFrontCommand : Prop :=
  ∀ (s : State) (c : Instr) (rest : List Instr), s.pending = c :: rest → step s = exec c { s with pending := rest }

/-- The model's choice (LOG 9): with no command waiting one core cycle passes. In Night nothing changes; out of Night and out of a
running replay the domain's cycle goes by and the accesses that waited at the engines are tried again; where none waits, the Process
Image RAM stays. -/
def Obligations.StepOnAnEmptyQueue : Prop :=
  ∀ s : State, s.pending = [] →
    (∃ t, step s = .next t ∧ t.pending = []) ∧
    (s.hw.node.state = .night → step s = .next s) ∧
    (s.awake → s.hw.inReplay = false →
      let h := s.hw.domainCycle.serveCell
      let x := retryParked (h, s.pir)
      step s = .next { s with hw := x.1, pir := x.2 } ∧
      ((∀ d < h.dies, (h.eng d).parked = []) → step s = .next { s with hw := h }))

/-- R15, R23, R35, R68, R78 and the model's choices of LOG 2: right after power-on reset release the node is in Dawn, D0 owns
the node-level functions, the Process Image RAM lists nothing, no command waits, no test instruction is in force, no Pump and no
CAN controller runs, and registers read the values of their Reset columns (the revision code 0x21 of R3 among them). -/
def Obligations.ResetState : Prop :=
  let s := State.reset
  s.hw.node.state = .dawn ∧ s.hw.node.owner = 0 ∧ s.pir = .empty ∧ s.pending = [] ∧ s.hw.now = 0 ∧
    (∀ d, s.hw.tap d = .init) ∧ (∀ d < 2, ∀ n < 64, s.hw.pumpState d n = 0) ∧ (∀ d < 2, ∀ k < 16, s.hw.canState d k = 0) ∧
    s.hw.rd 0 R.NOD_IDENT_REV = 0x21 ∧ s.hw.dawnStep = 1

/-- A command never ends in a fault or a refusal: it completes in every state. An event at a die that the package does not have
(R1) changes nothing (the model's choice, LOG 14). -/
def Obligations.EveryCommandCompletes : Prop :=
  ∀ (c : Instr) (s : State),
    (∃ t, exec c s = .next t) ∧
    ∀ d, namedDie c = some d → s.hw.dies ≤ d.val → exec c s = .next s

/-- The frame of every command: the queue of waiting commands stays; a command that cannot reach the Process Image RAM leaves every
byte of it; in Night a command that does not reach the node in Night leaves the whole state. -/
def Obligations.CommandFrames : Prop :=
  ∀ (c : Instr) (s t : State), exec c s = .next t →
    t.pending = s.pending ∧
    (reachesPir c = false → ∀ d o n, pirRead t.pir d o n = pirRead s.pir d o n) ∧
    (s.hw.node.state = .night → actsInNight c = false → t = s)

/-- Every step keeps the canonical form of the Process Image RAM, from every state that has it. -/
def Obligations.ProcessImageStaysCanonical : Prop :=
  ∀ s t : State, step s = .next t → Memory.wf s.pir = true → Memory.wf t.pir = true

/-- The Process Image RAM of the state after reset has the canonical form. -/
def Obligations.ProcessImageCanonicalAtReset : Prop := Memory.wf State.reset.pir = true

/-- What outlasts power (R36, R68, R96, R488, R539): the part and its grade never change, and each of the one-time programmable memory,
the NOR memory and the log memory changes only by the commands that program it. -/
def Obligations.LastingMemory : Prop :=
  ∀ (c : Instr) (s t : State), exec c s = .next t →
    t.hw.part = s.hw.part ∧ t.hw.grade = s.hw.grade ∧
    (programsOtp c = false → t.hw.otp = s.hw.otp) ∧
    (programsNor c = false → t.hw.nor = s.hw.nor) ∧
    (programsLog c = false → t.hw.logNvm = s.hw.logNvm)

/-- In Night the hub dies have no power (R36, R452): a command other than the release of power-on reset changes the Wellhouse, the
always-powered domain and the supply of open values alone, and leaves the node in Night with all its registers. -/
def Obligations.NightIsolatesTheHubs : Prop :=
  ∀ (c : Instr) (s t : State), exec c s = .next t → s.hw.node.state = .night →
    (∀ straps slot void ticks, c ≠ .powerOnResetRelease straps slot void ticks) →
    t = { s with hw := { s.hw with wlh := t.hw.wlh, nightDom := t.hw.nightDom, freeCtr := t.hw.freeCtr } }

/-- A read of the Process Image RAM after a write of `bs` at offset `o` of die `d`: the bytes written, where they do not run past the
die's MiB; every other byte of every die as before. -/
def Obligations.ProcessImageReadAfterWrite : Prop :=
  ∀ (m : SMap Byte) (d o : Nat) (bs : List Byte), o + bs.length ≤ 2 ^ 20 →
    pirRead (pirWrite m d o bs) d o bs.length = bs ∧
    ∀ e a, a < 2 ^ 20 → (e ≠ d ∨ a < o ∨ o + bs.length ≤ a) → pirRead (pirWrite m d o bs) e a 1 = pirRead m e a 1

/-- R6, R7: a field of a register reads as written, modulo its width; every other field of that register, and every other register of
every die, reads as before. -/
def Obligations.FieldReadAfterWrite : Prop :=
  ∀ (h : Hw) (d : Nat) (F : Fld) (v i j : Nat), F.lo + F.w ≤ 32 →
    (h.wr d F v i j).rd d F i j = v % 2 ^ F.w ∧
    ∀ (e : Nat) (G : Fld) (k l : Nat), (G.key e k l ≠ F.key d i j ∨ G.lo + G.w ≤ F.lo ∨ F.lo + F.w ≤ G.lo) →
      (h.wr d F v i j).rd e G k l = h.rd e G k l

/-! ## Single rules -/

/-- R37: a sleep command that comes in Safe is refused, and the node stays in Safe: one that its origin may write is recorded as a
refused command, and one that it may not write as an access violation and as a refused command. It may be the first command of its core
cycle or come after the enter-Safe that has brought the node to Safe in that cycle. -/
def Obligations.SleepInSafeIsRefused : Prop :=
  ∀ (s : State) (die : Die) (o : Origin) (same : BitVec 7), s.ready die → s.hw.node.state = .safe →
    let h := s.hw
    (h.cmdAllowed o 3 = true → h.cmdNow = false ∨ (h.rd 0 R.NOD_CMD_CMD = 1 ∧ h.cmdTransition 1 = true) →
      GivesWith (.nodCmdSleep die o same) s (h.refuseCmd 3 o) fun t => t.node.state = .safe) ∧
    (h.cmdAllowed o 3 = false → h.cmdNow = false →
      GivesWith (.nodCmdSleep die o same) s ((h.violation die.val o 0xC).refuseCmd 3 o) fun t => t.node.state = .safe)

/-- R75: with IDCODE in its instruction register a die shifts out 0x2B10_15CB, 32 bits, the least significant first. -/
def Obligations.IdCode : Prop :=
  ∀ (s : State) (die : Die), s.ready die → Completes (.idcode die) s fun t =>
    t.hw.tapData die.val = (List.range 32).map fun k => bit 0x2B1015CB k

/-- R73: a code that is listed neither in R72 nor in R74 acts as BYPASS: the same data register, no instruction in force, no debug port;
but for the instruction register itself, everything is as under the code of BYPASS. -/
def Obligations.ReservedCodesBypass : Prop :=
  ∀ (s : State) (die : Die) (code : BitVec 6), s.ready die → code.toNat ∉ [0x00, 0x01, 0x02, 0x03, 0x04, 0x3F, 0x20, 0x21] →
    Completes (.bypass die code) s fun t => Completes (.bypass die 0x3F) s fun u =>
      { t with hw.taps := u.hw.taps } = u ∧ t.hw.tap die.val = { u.hw.tap die.val with ir := code.toNat } ∧
        t.hw.tapData die.val = u.hw.tapData die.val ∧ t.hw.tapData die.val = [false]

/-- R77, R79: EXTEST, HIGHZ and CLAMP are in force in Quarantine; loaded in any other state, or EXTEST in the core cycle in which the
node leaves Quarantine, the die acts as under BYPASS: but for the instruction register itself, everything is as under the code of
BYPASS. -/
def Obligations.BoundaryTestOnlyInQuarantine : Prop :=
  ∀ (s : State) (die : Die) (shifted levels : List (Nat × Bool)) (leaving : Bool), s.ready die →
    let actsAsBypass := fun (c : Instr) => Completes c s fun t => Completes (.bypass die 0x3F) s fun u =>
      { t with hw.taps := u.hw.taps } = u ∧ t.hw.tap die.val = { u.hw.tap die.val with ir := (t.hw.tap die.val).ir } ∧
        (t.hw.tap die.val).inForce = false ∧ t.hw.tapData die.val = u.hw.tapData die.val ∧ t.hw.tapData die.val = [false]
    (s.hw.node.state = .quarantine → ∀ c ∈ [Instr.extest die shifted levels false, .highz die, .clamp die],
      Completes c s fun t => (t.hw.tap die.val).inForce = true) ∧
    (s.hw.node.state ≠ .quarantine → ∀ c ∈ [Instr.extest die shifted levels leaving, .highz die, .clamp die], actsAsBypass c)

/-- R435: a 1 written to BRG_PWST.POP removes the oldest entry of the fault log, and the next one is what BRG_PWADRLO to BRG_PWTHI
read; with COUNT = 0 nothing changes. -/
def Obligations.PopRemovesTheOldestFault : Prop :=
  (∀ (d w : Nat) (o : Origin) (x : Hw × SMap Byte), writeOpr d 0x90010 w o x = if bit w 8 then (popFault d x.1, x.2) else x) ∧
  ∀ (s : State) (die : Die), s.ready die → die.val < 2 →
    let h := s.hw
    let d := die.val
    ((h.host d).log = [] → Completes (.pop die) s fun t => (∀ e, t.hw.host e = h.host e) ∧ { t with hw.hosts := h.hosts } = s) ∧
    (∀ e f rest, (h.host d).log = e :: f :: rest → Completes (.pop die) s fun t =>
      (t.hw.host d).log = f :: rest ∧
      (readReg d 0x90014 t.hw).1 = f.addr % 2 ^ 32 ∧ (readReg d 0x90018 t.hw).1 = f.addr / 2 ^ 32 % 2 ^ 32 ∧
      (readReg d 0x9001C t.hw).1 = f.port % 16 + f.code * 2 ^ 8 + f.reqid * 2 ^ 16 ∧
      (readReg d 0x90020 t.hw).1 = f.ftime % 2 ^ 32 ∧ (readReg d 0x90024 t.hw).1 = f.ftime / 2 ^ 32 % 2 ^ 32) ∧
    (∀ e, (h.host d).log = [e] → Completes (.pop die) s fun t => (t.hw.host d).log = [])

/-- R582: in a state that takes updates (R35) a START while an update is open is refused with BUSY, 0x0C, and the open update stays as
it was. -/
def Obligations.OpenUpdateRefusesStart : Prop :=
  ∀ s : State, s.hw.loaderState = true → s.hw.mgt.isOpen = true → Completes .updateStart s fun t =>
    t.hw.rd 0 R.MGT_USTAT_CODE = 0x0C ∧ t.hw.mgt = s.hw.mgt ∧ t.hw.ldg = s.hw.ldg

/-- R34: on a die without bridge pins the BRG block reads 0 and ignores writes; such are the dies from D2 on. -/
def Obligations.NoBridgeBlockBeyondD1 : Prop :=
  ∀ (d off w : Nat) (o : Origin) (x : Hw × SMap Byte), 2 ≤ d → 0x90000 ≤ off → off < 0xA0000 →
    readReg d off x.1 = (0, x.1) ∧ writeReg d off w o x = (0, x)

/-- R293: what CODE encode writes, CODE decode reads back. Where no two valid entries that can be met under the same previous symbol
share their symbols, decoding the encoded groups from the same previous symbol gives the data, the last symbol, and no error. -/
def Obligations.LineCodeRoundTrip : Prop :=
  ∀ (h : Hw) (d n x g v : Nat) (p q : Bool),
    let inw := h.rd d R.PMP_LCCFG_INW n
    let outw := h.rd d R.PMP_LCCFG_OUTW n
    let prev := h.on d R.PMP_LCCFG_PREV n
    let symbols := fun e => h.rd d R.PMP_LCT_OUTPAT n e % 2 ^ outw
    1 ≤ inw → 1 ≤ outw → inw + b2n prev ≤ 4 →
    (∀ e f, e < 16 → f < 16 → h.on d R.PMP_LCT_VALID n e = true → h.on d R.PMP_LCT_VALID n f = true →
      (prev = true → bit e inw = bit f inw) → symbols e = symbols f → e = f) →
    h.encodeGroups d n x g 0 p = some (v, q) →
    v < 2 ^ (outw * g) ∧ h.decodeGroups d n v g 0 p = (x % 2 ^ (inw * g), q, true)

/-- R292: the update with REFIN = 1 is the mirror of the update with REFIN = 0: on the reflected accumulator it gives the reflected
result, for every width, polynomial and bit. -/
def Obligations.CrcMirror : Prop :=
  ∀ (w poly acc : Nat) (b : Bool), 1 ≤ w → poly < 2 ^ w → acc < 2 ^ w →
    crcBit w poly true (reflectBits w acc) b = reflectBits w (crcBit w poly false acc b) ∧
    reflectBits w (reflectBits w acc) = acc ∧ crcBit w poly false acc b < 2 ^ w

/-! ## Flow Pumps -/

/-- R284 to R287, R286 (the next address), R292, R293, R303: in a Running Pump a legal instruction of one of these forms completes:
its register takes its value, the Pump goes on at the next address, and but for the register file, the pins and the Pumps' own
stages nothing of the hardware changes; in the register file nothing but the instruction's register, PMP_STAT and PMP_CNT. -/
def Obligations.PumpRegisterInstructions : Prop :=
  ∀ (s : State) (die : Die) (pump : Fin 64), s.ready die →
    let h := s.hw
    let d := die.val
    let n := pump.val
    let a := h.pumpArg d n
    let q := h.pinned d n
    let result := fun (c : Instr) (F : Fld) (v : Nat) =>
      Completes c s fun t => t.hw.rd d F n = v ∧ t.hw.pumpAt d n (h.nextIp d n) ∧ t.hw.onlyPump h ∧
        t.hw.onlyAt h [F.key d n 0, R.PMP_STAT_IP.key d n 0, R.PMP_CNT_PCT.key d n 0]
    (h.issuable d n (isOp 0x06) → result (.loadx die pump .good) R.PMP_X_VALUE a) ∧
    (h.issuable d n (isOp 0x07) → result (.loady die pump .good) R.PMP_Y_VALUE a) ∧
    (h.issuable d n (isOp 0x08) → result (.loadxh die pump .good) R.PMP_X_VALUE (low 16 (h.rd d R.PMP_X_VALUE n) + a * 2 ^ 16)) ∧
    (h.issuable d n (isOp 0x09) → result (.loadyh die pump .good) R.PMP_Y_VALUE (low 16 (h.rd d R.PMP_Y_VALUE n) + a * 2 ^ 16)) ∧
    (h.issuable d n (isOp 0x0A) →
      let v := q.pumpSource d n (bits a 10 3)
      (bits a 13 3 = 0 → result (.moveOp die pump .good) R.PMP_X_VALUE (low 32 v)) ∧
      (bits a 13 3 = 1 → result (.moveOp die pump .good) R.PMP_Y_VALUE (low 32 v)) ∧
      (bits a 13 3 = 2 → result (.moveOp die pump .good) R.PMP_GS_VALUE (low 32 v)) ∧
      (bits a 13 3 = 3 → result (.moveOp die pump .good) R.PMP_PS_VALUE (low 32 v)) ∧
      (bits a 13 3 = 4 → result (.moveOp die pump .good) R.PMP_CNT_LC (low 16 v)) ∧
      (bits a 13 3 = 5 → result (.moveOp die pump .good) R.PMP_CRCACC_VALUE (low 32 (low (h.rd d R.PMP_CRCCFG_WIDTH n) v)))) ∧
    (h.issuable d n (isOp 0x0B) → result (.addOp die pump .good) (xyField a)
      (low 32 (h.rd d (xyField a) n + if bit a 14 then q.pumpSource d n (bits a 11 3) else toTwos 32 (signed 14 (low 14 a))))) ∧
    (h.issuable d n (isOp 0x0C) → result (.xorOp die pump .good) (xyField a)
      (low 32 (h.rd d (xyField a) n ^^^ if bit a 14 then q.pumpSource d n (bits a 11 3) else low 14 a)))

/-- R287, R290, R292, R293, R296, R303: the counting, CRC, line-code, control and signal instructions in a Running Pump. Each
completes: its register or stage state takes its value and the Pump goes on where the instruction sends it; a legal encode
instruction finds an entry for every group. Beside PMP_STAT and PMP_CNT only the registers named here change. -/
def Obligations.PumpCountCodeAndControl : Prop :=
  ∀ (s : State) (die : Die) (pump : Fin 64), s.ready die →
    let h := s.hw
    let d := die.val
    let n := pump.val
    let a := h.pumpArg d n
    let q := h.pinned d n
    let goes := fun (c : Instr) (ip : Nat) (also : List Nat) (P : Hw → Prop) =>
      Completes c s fun t => P t.hw ∧ t.hw.pumpAt d n ip ∧ t.hw.onlyPump h ∧
        t.hw.onlyAt h (also ++ [R.PMP_STAT_IP.key d n 0, R.PMP_CNT_PCT.key d n 0])
    (h.issuable d n (isOp 0x00) → goes (.nop die pump .good) (h.nextIp d n) [] fun g => g.rd d R.PMP_CNT_LC n = h.rd d R.PMP_CNT_LC n) ∧
    (h.issuable d n (isOp 0x0D) →
      goes (.testOp die pump .good) (if q.testHolds d n (bits a 11 5) (bits a 6 5) then low 6 a else h.nextIp d n) [] fun g =>
        g.rd d R.PMP_CNT_LC n = h.rd d R.PMP_CNT_LC n) ∧
    (h.issuable d n (isForm 0x0E 0) → goes (.countLoad die pump .good) (h.nextIp d n) [] fun g => g.rd d R.PMP_CNT_LC n = low 14 a) ∧
    (h.issuable d n (isForm 0x0E 1) → goes (.countLoadX die pump .good) (h.nextIp d n) [] fun g =>
      g.rd d R.PMP_CNT_LC n = low 16 (h.rd d R.PMP_X_VALUE n)) ∧
    (h.issuable d n (isForm 0x0E 2) →
      let lc := h.rd d R.PMP_CNT_LC n - 1
      goes (.countDecrement die pump .good) (if lc = 0 then h.nextIp d n else low 6 a) [] fun g => g.rd d R.PMP_CNT_LC n = lc) ∧
    (h.issuable d n (isOp 0x0F) → goes (.signal die pump .good) (h.nextIp d n)
      ((List.range 64).flatMap fun m => [R.PMP_PEND_SIGP.key d m 0, R.PMP_ERR_SIGOVR.key d m 0]) fun g =>
      bit (h.rd d R.PMP_SIGSUB_SUB n) (low 5 a) = true → bit (g.rd d R.PMP_PEND_SIGP n) (low 5 a) = true) ∧
    (h.issuable d n (isForm 0x10 0) → goes (.crcInit die pump .good) (h.nextIp d n) [R.PMP_CRCACC_VALUE.key d n 0] fun g =>
      g.rd d R.PMP_CRCACC_VALUE n = h.rd d R.PMP_CRCINIT_VALUE n) ∧
    (h.issuable d n (isForm 0x10 1) → goes (.crcFeed die pump .good) (h.nextIp d n) [R.PMP_CRCACC_VALUE.key d n 0] fun g =>
      g.rd d R.PMP_CRCACC_VALUE n = low 32 ((feedBits (q.pumpSource d n (bits a 10 3)) (bitCount a) (h.on d R.PMP_CRCCFG_REFIN n)).foldl
        (crcBit (h.rd d R.PMP_CRCCFG_WIDTH n) (h.rd d R.PMP_CRCPOLY_POLY n) (h.on d R.PMP_CRCCFG_REFIN n)) (h.rd d R.PMP_CRCACC_VALUE n))) ∧
    (h.issuable d n (isForm 0x10 2) → goes (.crcFinal die pump .good) (h.nextIp d n) [R.PMP_X_VALUE.key d n 0] fun g =>
      g.rd d R.PMP_X_VALUE n = h.rd d R.PMP_CRCACC_VALUE n ^^^ h.rd d R.PMP_CRCXOR_VALUE n) ∧
    (h.issuable d n (isOp 0x11) → goes (.stuff die pump .good) (h.nextIp d n) [] fun g =>
      (bit a 0 = true → (g.pump d n).pourRun = 0) ∧ (bit a 1 = true → (g.pump d n).gathRun = 0 ∧ (g.pump d n).flag = false ∧
          (g.pump d n).abort = false)) ∧
    (h.issuable d n (isCode false) → ∃ v p, h.encodeGroups d n (h.rd d R.PMP_X_VALUE n) (bits a 1 5) 0 (h.pump d n).enc = some (v, p) ∧
      goes (.codeEncode die pump .good) (h.nextIp d n) [R.PMP_PS_VALUE.key d n 0] fun g => g.rd d R.PMP_PS_VALUE n = low 32 v ∧
          (g.pump d n).enc = p) ∧
    (h.issuable d n (isCode true) →
      let r := h.decodeGroups d n (h.rd d R.PMP_GS_VALUE n) (bits a 1 5) 0 (h.pump d n).dec
      goes (.codeDecode die pump .good) (h.nextIp d n) [R.PMP_X_VALUE.key d n 0] fun g =>
        g.rd d R.PMP_X_VALUE n = low 32 r.1 ∧ (g.pump d n).dec = r.2.1 ∧ (g.pump d n).codeErr = !r.2.2) ∧
    (h.issuable d n (isOp 0x1F) → goes (.halt die pump .good) (h.nextIp d n) [] fun g => g.rd d R.PMP_STAT_STOPPEND n = 1)

/-- R287 to R289, R294 to R298, R300, R308, R309: the Pump instructions that use the stages, the queues and the waits, and the
boundaries at which a wait ends, or finds a register with bad parity (R278, R308). Each gives the hardware named here, or a Pump that stands
where the rule says. -/
def Obligations.PumpStagesAndWaits : Prop :=
  ∀ (s : State) (die : Die) (pump : Fin 64), s.ready die →
    let h := s.hw
    let d := die.val
    let n := pump.val
    let a := h.pumpArg d n
    let q := h.pinned d n
    let stat := [R.PMP_STAT_IP.key d n 0, R.PMP_CNT_PCT.key d n 0]
    let signals := [R.PMP_PEND_SIGP.key d n 0, R.PMP_PHPEND_PHP.key d n 0]
    -- DRAW: a word from IN0 or IN1 to PS or X; of an empty queue the underrun flag; a reset found on the dequeue returns the last value
    (h.issuable d n (isOp 0x01) → ∀ u,
      let F := if bit a 1 then R.PMP_X_VALUE else R.PMP_PS_VALUE
      let iq := pumpQ n (b2n (bit a 0))
      let m := (q.countArrival d iq (q.justFilled d iq)).meet d iq u
      let g := if m.2.queueEmpty d iq then m.2.flag d (if bit a 0 then R.PMP_ERR_UNDR1 else R.PMP_ERR_UNDR0) n else m.2
      let x : Word × Hw := if m.1 then (BitVec.ofNat 32 (leAt (m.2.cq d iq).last 0 4), m.2) else g.takeWord d iq
      let y := h.issued d n ((x.2.wr d F x.1.toNat n).finish d n none)
      Gives (.draw die pump .good u) s y ∧ y.rd d F n = x.1.toNat) ∧
    -- POUR: the idle stage takes PS and emits its first group; a busy one makes the Pump wait
    (h.issuable d n (isOp 0x02) → (h.pump d n).pour = none →
      Gives (.pour die pump .good) s (h.issued d n (((q.loadPour d n a).emit d n).finish d n none))) ∧
    (h.issuable d n (isOp 0x02) → (h.pump d n).pour ≠ none → Completes (.pour die pump .good) s fun t =>
      t.hw.pumpState d n = 2 ∧ (t.hw.pump d n).wait = some .pour ∧ t.hw.onlyPump h ∧ t.hw.onlyAt h stat) ∧
    -- GATHER: the idle stage takes its first sample; a collecting one makes the Pump wait
    (h.issuable d n (isOp 0x03) → (h.pump d n).gather = none →
      Gives (.gather die pump .good) s (h.issued d n (((q.armGather d n a).takeSample d n (q.inSample d n)).finish d n none))) ∧
    (h.issuable d n (isOp 0x03) → (h.pump d n).gather ≠ none → Completes (.gather die pump .good) s fun t =>
      t.hw.pumpState d n = 2 ∧ (t.hw.pump d n).wait = some .gather ∧ t.hw.onlyPump h ∧ t.hw.onlyAt h stat) ∧
    -- AWAIT: it completes, times out in its first cycle, or waits
    (h.issuable d n (isOp 0x05) → ∀ was, Completes (.await die pump .good was) s fun t =>
      t.hw.onlyPump h ∧ t.hw.onlyAt h (R.PMP_CNTA_MARGIN.key d n 0 :: signals ++ stat) ∧
      if q.awaitHolds d n a was then t.hw.pumpAt d n (h.nextIp d n)
      else if q.firstTimeout d n a then t.hw.pumpAt d n (low 6 a)
      else t.hw.pumpState d n = 2 ∧ (t.hw.pump d n).wait = some .await) ∧
    ((h.pump d n).wait = some .await → h.awaitSees d n a = true → ∀ again, Completes (.awaitConditionMet die pump again false) s fun t =>
      t.hw.pumpAt d n (h.nextIp d n) ∧ (t.hw.pump d n).wait = none ∧ t.hw.onlyPump h ∧ t.hw.onlyAt h (signals ++ stat)) ∧
    ((h.pump d n).wait = some .await → bit a 7 = true → Completes (.awaitTimeout die pump false false) s fun t =>
      t.hw.pumpAt d n (low 6 a) ∧ (t.hw.pump d n).wait = none ∧ t.hw.onlyPump h ∧ t.hw.onlyAt h stat) ∧
    -- an illegal word faults the Pump
    (h.pumpState d n = 1 → (h.pump d n).bad.contains (h.rd d R.PMP_STAT_IP n) = false → h.illegalNow d n (h.pumpWord d n) = true →
      Gives (.illegalInstruction die pump .good) s (h.faultPump d n false)) ∧
    -- the stages' boundaries
    ((h.pump d n).wait = some .pour → (h.pump d n).pour = none →
      Gives (.shiftStageFree die pump false) s ((h.loadPour d n a).finish d n none)) ∧
    ((h.pump d n).wait = some .gather → (h.pump d n).gather = none →
      Gives (.shiftStageFree die pump false) s ((h.armGather d n a).finish d n none)) ∧
    Gives (.pourGroupEmit die pump false) s (h.emit d n) ∧
    (∀ samples, Gives (.gatherDelivery die pump samples false) s
      ((each (samples.map (·.toNat)) (fun x g => g.takeSample d n (x &&& g.inMask d n)) h).deliverGather d n)) ∧
    -- a STORE that waited for credit stores its word
    (∀ k w u, (h.pump d n).wait = some (.store k w) → (h.localWord d (pumpQ n k) w u).1 = true →
      Gives (.storeCreditWaitEnd die pump u false) s ((h.localWord d (pumpQ n k) w u).2.finish d n none)) ∧
    -- a register or stage that a boundary uses fails its parity: the Pump faults
    ((h.pump d n).wait = some .await → (∀ again, Gives (.awaitConditionMet die pump again true) s (h.faultPump d n true)) ∧
      ∀ holds, Gives (.awaitTimeout die pump holds true) s (h.faultPump d n true)) ∧
    ((h.pump d n).pour.isSome = true → Gives (.pourGroupEmit die pump true) s (h.faultPump d n true)) ∧
    ((h.pump d n).gather.isSome = true → ∀ samples, Gives (.gatherDelivery die pump samples true) s (h.faultPump d n true)) ∧
    (((h.pump d n).wait = some .pour ∧ (h.pump d n).pour = none) ∨ ((h.pump d n).wait = some .gather ∧ (h.pump d n).gather = none) →
      Gives (.shiftStageFree die pump true) s (h.faultPump d n true)) ∧
    (∀ k w u, (h.pump d n).wait = some (.store k w) → Gives (.storeCreditWaitEnd die pump u true) s (h.faultPump d n true))

/-- R281, R282, R298, R300, R302 to R304, R308, R309: STORE, and the commands and boundaries that start, stop, clear and check a Pump.
STOP-NOW keeps X, Y, GS, PS, LC and the CRC accumulator. -/
def Obligations.PumpStoreAndCommands : Prop :=
  ∀ (s : State) (die : Die) (pump : Fin 64), s.ready die →
    let h := s.hw
    let d := die.val
    let n := pump.val
    let a := h.pumpArg d n
    let q := h.pinned d n
    let stat := [R.PMP_STAT_IP.key d n 0, R.PMP_CNT_PCT.key d n 0]
    let ctl := R.PMP_CTL_CMD.key d n 0
    -- STORE: the word is taken at issue and shown to the taps; it enters the queue, is discarded, or waits
    (h.issuable d n (isOp 0x04) → ∀ u,
      let w := q.storeValue d n a
      let x := (q.storeTaken d n a).localWord d (pumpQ n (2 + a % 2)) w u
      (x.1 = true → Gives (.store die pump .good u) s (h.issued d n (x.2.finish d n none))) ∧
      (x.1 = false → x.2.on d R.PMP_CTL_STOREMODE n = true → Gives (.store die pump .good u) s
        (h.issued d n (((x.2.flag d (if a % 2 = 1 then R.PMP_ERR_DROP1 else R.PMP_ERR_DROP0) n).bump d R.PMP_CNTB_DROPCR 1 n).finish d n none))) ∧
      (x.1 = false → x.2.on d R.PMP_CTL_STOREMODE n = false → Gives (.store die pump .good u) s
        (h.issued d n ((x.2.bump d R.PMP_CNTA_STALLS 1 n).pumpWaits d n (.store (2 + a % 2) w))))) ∧
    (h.engineRuns = true → h.pumpState d n = 0 → (h.pump d n).bad = [] → Completes (.pumpStart die pump) s fun t =>
      t.hw.rd d R.PMP_STAT_IP n = h.rd d R.PMP_FLOW_STARTIP n ∧ (t.hw.pump d n).starting = true ∧ t.hw.rd d R.PMP_PEND_SIGP n = 0 ∧
      t.hw.rd d R.PMP_PHPEND_PHP n = 0 ∧ t.hw.rd d R.PMP_CNT_GCT n = 0 ∧ (t.hw.pump d n).pourRun = 0 ∧ (t.hw.pump d n).gathRun = 0 ∧
      (t.hw.pump d n).flag = false ∧ (t.hw.pump d n).abort = false ∧ (t.hw.pump d n).acc = 0 ∧ (t.hw.pump d n).enc = h.on d R.PMP_LCCFG_ENCP0 n ∧
      (t.hw.pump d n).dec = h.on d R.PMP_LCCFG_DECP0 n ∧ t.hw.onlyPump h ∧
      t.hw.onlyAt h ([ctl, R.PMP_PEND_SIGP.key d n 0, R.PMP_PHPEND_PHP.key d n 0] ++ stat)) ∧
    ((h.pump d n).starting = true → h.pumpState d n = 0 → Completes (.pumpStartEffect die pump) s fun t =>
      t.hw.pumpState d n = 1 ∧ (t.hw.pump d n).starting = false ∧ t.hw.rd d R.PMP_STAT_IP n = h.rd d R.PMP_STAT_IP n ∧
      (let sum := (h.pump d n).acc + h.rd d R.PMP_DIV_FRAC n
       (t.hw.pump d n).acc = sum % 256 ∧ (t.hw.pump d n).clk = 5 * (h.rd d R.PMP_DIV_INT n + sum / 256)) ∧
      t.hw.onlyPump h ∧ t.hw.onlyAt h stat) ∧
    (h.pumpState d n ≠ 3 → Completes (.pumpStopNow die pump) s fun t =>
      t.hw.pumpState d n = 0 ∧ (t.hw.pump d n).pour = none ∧ (t.hw.pump d n).gather = none ∧ t.hw.rd d R.PMP_CNT_PCT n = 0 ∧
      t.hw.rd d R.PMP_CNT_GCT n = 0 ∧ t.hw.onlyPump h ∧ t.hw.onlyAt h (ctl :: stat) ∧
      ∀ F ∈ [R.PMP_X_VALUE, R.PMP_Y_VALUE, R.PMP_GS_VALUE, R.PMP_PS_VALUE, R.PMP_CNT_LC, R.PMP_CRCACC_VALUE],
        t.hw.rd d F n = h.rd d F n) ∧
    (h.pumpState d n = 1 ∨ h.pumpState d n = 2 → Gives (.pumpStopAtBoundary die pump) s
      ((h.wr d R.PMP_CTL_CMD 3 n).flag d R.PMP_STAT_STOPPEND n)) ∧
    (h.pumpState d n = 3 → ∀ o, Gives (.pumpClear die pump o) s ((h.wr d R.PMP_CTL_CMD 4 n).wr d R.PMP_STAT_STATE 0 n)) ∧
    (h.pumpState d n ≠ 3 → ∀ o, Gives (.pumpClear die pump o) s (h.violation d o (0x40000 + 0x400 * n))) ∧
    (∀ o, Gives (.pumpCmdReserved die pump o) s (h.violation d o (0x40000 + 0x400 * n))) ∧
    (h.on d R.PMP_STAT_STOPPEND n = true → h.pumpState d n = 1 → h.midShift d n = false → ∀ l,
      Completes (.stopBoundaryReached die pump l) s fun t =>
        t.hw.pumpState d n = 0 ∧ t.hw.onlyPump h ∧ t.hw.onlyAt h (R.PMP_CNTA_MARGIN.key d n 0 :: stat)) ∧
    (h.on d R.PMP_STAT_STOPPEND n = true → Gives (.stopTimeout die pump) s
      (((h.stopPump d n).flag d R.PMP_ERR_STOPTMO n).report d (0x20 + n) .pumpStopTimeout)) ∧
    (∀ e, Gives (.pumpParityCheck die pump e true) s ((h.markBad d n e.val).faultPump d n true)) ∧
    (∀ e, Gives (.pumpParityCheck die pump e false) s h)

/-- R308, R309: a parity error, of the word at IP or of the Pump's registers, puts a Running Pump in Faulted, whichever instruction
was to issue; an illegal instruction does so too. The stages empty, as under STOP-NOW; PARITY or ILLOP is set, FIP holds IP, and
PMP_PAR (0x20) or PMP_ILL (0x21) is raised of the die and the Pump. A word with bad parity stays marked so. -/
def Obligations.PumpErrorsFault : Prop :=
  ∀ (s : State) (die : Die) (pump : Fin 64), s.ready die →
    let h := s.hw
    let d := die.val
    let n := pump.val
    let ip := h.rd d R.PMP_STAT_IP n
    let faulted := fun (t : State) (code : Nat) =>
      t.hw.pumpState d n = 3 ∧ t.hw.rd d R.PMP_ERR_FIP n = ip ∧ (t.hw.pump d n).pour = none ∧ (t.hw.pump d n).gather = none ∧
      t.hw.flt.reports = h.flt.reports ++ [⟨d, code, n, h.now, false⟩]
    let instructions := fun (p : Parity) (was : Option Bool) (u : Upset) =>
      [Instr.nop die pump p, .draw die pump p u, .pour die pump p, .gather die pump p, .store die pump p u, .await die pump p was,
       .loadx die pump p, .loady die pump p, .loadxh die pump p, .loadyh die pump p, .moveOp die pump p, .addOp die pump p,
       .xorOp die pump p, .testOp die pump p, .countLoad die pump p, .countLoadX die pump p, .countDecrement die pump p,
       .signal die pump p, .crcInit die pump p, .crcFeed die pump p, .crcFinal die pump p, .stuff die pump p,
       .codeEncode die pump p, .codeDecode die pump p, .halt die pump p, .illegalInstruction die pump p]
    h.pumpState d n = 1 →
    (∀ was u, ∀ c ∈ instructions .word was u, Completes c s fun t =>
      faulted t 0x20 ∧ t.hw.on d R.PMP_ERR_PARITY n = true ∧ ip ∈ (t.hw.pump d n).bad) ∧
    (∀ was u, ∀ c ∈ instructions .reg was u, (h.pump d n).bad.contains ip = false → Completes c s fun t =>
      faulted t 0x20 ∧ t.hw.on d R.PMP_ERR_PARITY n = true) ∧
    ((h.pump d n).bad.contains ip = false → h.illegalNow d n (h.pumpWord d n) = true →
      Completes (.illegalInstruction die pump .good) s fun t => faulted t 0x21 ∧ t.hw.on d R.PMP_ERR_ILLOP n = true)

/-! ## Dawn and the test access port -/

/-- R82, R83, R86, R90 to R98, R107, R533: release into Dawn, and what each step of Dawn reads from the configuration NOR. -/
def Obligations.DawnReleaseAndNor : Prop :=
  (∀ (s : State) straps slot void ticks, s.hw.node.state = .night → s.hw.wlh.pg = true → s.hw.wlh.off = false →
    Completes (.powerOnResetRelease straps slot void ticks) s fun t =>
      t.hw.node.state = .dawn ∧ t.hw.straps = straps.toNat ∧ t.hw.slotNo = slot.toNat ∧ t.hw.now = 0) ∧
  ∀ s : State, s.awake → s.hw.node.state = .dawn → s.hw.dawn.ringBoot = false →
    let h := s.hw
    let k := h.selectReplay.wr 0 R.NOD_DAWN_STEP 3
    (h.dawnStep = 1 → ∀ jedec sfdp, Gives (.norDiscovery false jedec sfdp) s ((h.wr 0 R.NOD_DAWN_STEP 2).dawnFail 0x0D 0)) ∧
    (h.dawnStep = 1 → k.rd 0 R.NOD_STRAP_BOOT = 3 → ∀ jedec sfdp, Gives (.norDiscovery true jedec sfdp) s k.ringBoot) ∧
    (h.dawnStep = 1 → k.rd 0 R.NOD_STRAP_BOOT ≠ 3 → ∀ jedec sfdp, jedec = false ∨ sfdp = none →
      Gives (.norDiscovery true jedec sfdp) s (k.dawnFail 0x01 0)) ∧
    (h.dawnStep = 1 → k.rd 0 R.NOD_STRAP_BOOT ≠ 3 → ∀ tables,
      let boot := k.rd 0 R.NOD_STRAP_BOOT
      let g := (k.wr 0 R.NOD_DAWN_SRC (bootSource boot)).wr 0 R.NOD_DAWN_DTR (b2n (norMode boot tables == .m144d))
      GivesWith (.norDiscovery true true (some tables)) s { g.wr 0 R.NOD_DAWN_STEP 4 with norIf := norReading boot tables } fun t =>
        t.dawnStep = 4 ∧ t.rd 0 R.NOD_DAWN_SRC = bootSource boot ∧ t.rd 0 R.NOD_DAWN_DTR = b2n (norMode boot tables == .m144d) ∧
        t.norIf.mhz = bootMhz boot ∧ t.norIf.capacity = tables.capacity ∧ t.norIf.addrBytes = (if 16777216 < tables.capacity then 4 else 3) ∧
        (boot = 2 → t.norIf.mode = .m111) ∧ (t.norIf.mode = .m144d → boot = 1)) ∧
    (h.dawnStep = 4 → ∀ bytes, let b := slice bytes 0 512
      let code := (h.norWrite 0 b).judgeHeader b
      (code ≠ 0 → Gives (.imageHeader bytes) s ((h.norWrite 0 b).dawnFail code 0)) ∧
      (code = 0 → GivesWith (.imageHeader bytes) s { (h.norWrite 0 b).wr 0 R.NOD_DAWN_STEP 5 with dawn.header := some (headerOf b) }
        fun t => t.dawnStep = 5)) ∧
    (h.dawnStep = 5 → ∀ first reread, readTwice first reread = none →
      Gives (.imageRecord first reread) s (h.dawnFail 0x08 (recordSeq reread))) ∧
    (h.dawnStep = 5 → ∀ first reread x ws, readTwice first reread = some (x, ws) → x.1.typ ≠ 0xFF →
      Gives (.imageRecord first reread) s ((h.norWrite h.nextRecord (rawRecord ws)).holdRecord x (rawRecord ws))) ∧
    (h.dawnStep = 5 → ∀ first reread x ws hd fw sup, readTwice first reread = some (x, ws) → x.1.typ = 0xFF → h.dawn.header = some hd →
      Gives (.endRecord first reread fw sup) s (((h.norWrite h.nextRecord (rawRecord ws)).norWrite hd.fwOff (slice fw 0 hd.fwLen)).endImage
        x hd (sup.map fun y => (y.1.val, y.2.1.val, y.2.2.val)))) ∧
    (h.dawnStep = 5 → ∀ first reread hd fw sup, readTwice first reread = none → h.dawn.header = some hd →
      Gives (.endRecord first reread fw sup) s (h.dawnFail 0x08 (recordSeq reread)))

/-- R72 to R79: each instruction of the test access port completes: EXTEST, SAMPLE_PRELOAD, IDCODE, HIGHZ, CLAMP, BYPASS, RPLY and
MDBG at a die, TEST_LOGIC_RESET at every die. EXTEST, HIGHZ and CLAMP are in force only in Quarantine, MDBG connects and RPLY shows its
bit only while debug access is open, a code listed in no table acts as BYPASS, and Test-Logic-Reset ends every instruction. Each says what
the die's data register shifts out. -/
def Obligations.TestAccessPort : Prop :=
  (∀ (s : State) (die : Die), s.ready die →
    let h := s.hw
    let d := die.val
    let quarantined : Bool := h.node.state == .quarantine
    let frame := fun g : Hw => { g with taps := h.taps, pins := h.pins } = h ∧ ∀ e, e ≠ d → g.tap e = h.tap e
    let scanned := fun (g : Hw) (shifted levels : List (Nat × Bool)) => (g.tap d).captured = h.capturePins d levels ∧
      (g.tap d).boundary = each (shifted.filter fun x => decide (x.1 < boundaryCells d)) (fun x m => m.put false x.1 x.2) (h.tap d).boundary ∧
      g.tapData d = (List.range (boundaryCells d)).map fun k => (h.capturePins d levels).get false k
    (∀ shifted levels leaving, Completes (.extest die shifted levels leaving) s fun t =>
      frame t.hw ∧ (t.hw.tap d).ir = 0x00 ∧ (t.hw.tap d).inForce = (quarantined && !leaving) ∧ (t.hw.tap d).mdbg = false ∧
      (quarantined = true → leaving = false → scanned t.hw shifted levels) ∧ ((quarantined && !leaving) = false → t.hw.tapData d = [false])) ∧
    (∀ x ∈ [(Instr.highz die, 0x03), (.clamp die, 0x04)], Completes x.1 s fun t =>
      frame t.hw ∧ (t.hw.tap d).ir = x.2 ∧ (t.hw.tap d).inForce = quarantined ∧ (t.hw.tap d).mdbg = false ∧ t.hw.tapData d = [false]) ∧
    (Completes (.idcode die) s fun t => frame t.hw ∧ (t.hw.tap d).ir = 0x02 ∧ (t.hw.tap d).inForce = false ∧ (t.hw.tap d).mdbg = false ∧
      t.hw.tapData d = (List.range 32).map fun k => bit 0x2B1015CB k) ∧
    (Completes (.rply die) s fun t => frame t.hw ∧ (t.hw.tap d).ir = 0x20 ∧ (t.hw.tap d).inForce = false ∧ (t.hw.tap d).mdbg = false ∧
      t.hw.tapData d = (if d = 0 ∧ h.debugOpen = true then [h.node.replay] else [false])) ∧
    (∀ shifted, Completes (.mdbg die shifted) s fun t => frame t.hw ∧ (t.hw.tap d).ir = 0x21 ∧ (t.hw.tap d).inForce = false ∧
      (t.hw.tap d).mdbg = h.debugOpen ∧ (t.hw.tap d).mdbgData = (if h.debugOpen then shifted.toNat else (h.tap d).mdbgData) ∧
      t.hw.tapData d = (if h.debugOpen then (List.range 64).map fun k => bit shifted.toNat k else [false])) ∧
    (∀ preload levels, Completes (.samplePreload die preload levels) s fun t => frame t.hw ∧ (t.hw.tap d).ir = 0x01 ∧
      (t.hw.tap d).inForce = false ∧ (t.hw.tap d).mdbg = false ∧ scanned t.hw preload levels) ∧
    (∀ code, Completes (.bypass die code) s fun t => frame t.hw ∧ (t.hw.tap d).inForce = false ∧ (t.hw.tap d).mdbg = false ∧
      t.hw.tapData d = [false])) ∧
  (∀ s : State, s.awake → GivesWith .testLogicReset s (Hw.refreshAll { s.hw with taps := .empty }) fun t => ∀ d, t.tap d = .init)

/-- R85, R86, R93 to R95, R106, R110, R534, R539 to R551: the key tree, the self-test, the ring boot and the image server. -/
def Obligations.DawnLaterSteps : Prop :=
  ∀ s : State, s.awake →
    let h := s.hw
    (h.node.state = .dawn → h.dawnStep = 7 → ∀ failed : List Die, (∃ d ∈ failed, d.val < h.dies) →
      Gives (.keytreeUnwrap failed) s (h.dawnFail 0x0D 0)) ∧
    (h.node.state = .dawn → h.dawnStep = 7 → ∀ failed : List Die, (∀ d ∈ failed, h.dies ≤ d.val) →
      (h.loadTree.1 = false → Gives (.keytreeUnwrap failed) s (h.loadTree.2.dawnFail 0x0A 0)) ∧
      (h.loadTree.1 = true → 
        let g := h.loadTree.2
        let x := ((g.wr 0 R.VLT_STAT_TREEOK 1).wr 0 R.VLT_STAT_CACHEOK (b2n g.vlt.cacheUsed)).wr 0 R.VLT_STAT_ENTOK (b2n (!g.vlt.entFail))
        GivesWith (.keytreeUnwrap failed) s (x.wr 0 R.NOD_DAWN_STEP 8) fun t => t.dawnStep = 8 ∧ t.rd 0 R.VLT_STAT_TREEOK = 1 ∧
        t.rd 0 R.VLT_STAT_CACHEOK = b2n h.loadTree.2.vlt.cacheUsed ∧ t.rd 0 R.VLT_STAT_ENTOK = b2n (!h.loadTree.2.vlt.entFail))) ∧
    (h.node.state = .dawn → h.dawnStep = 8 → ∀ fails : List (Die × BitVec 8), ∀ trains,
      let failOf := fun (d : Nat) => (((fails.map fun x => (x.1.val, x.2.toNat)).find? fun f => f.1 == d).map (·.2)).getD 0
      let k := h.eachDie fun d g => (g.wr d R.NOD_BIST_FAIL (failOf d)).wr d R.NOD_BIST_DONE 1
      ((∃ d < h.dies, failOf d ≠ 0) → Gives (.builtInSelfTest fails trains) s (k.dawnFail 0x0D 0)) ∧
      ((∀ d < h.dies, failOf d = 0) → h.node.replay = true → Gives (.builtInSelfTest fails trains) s k.enterReplay) ∧
      ((∀ d < h.dies, failOf d = 0) → h.node.replay = false →
        let g := (k.wr 0 R.NOD_DAWN_STEP 9).eachDie fun d x => iter 4 (fun p x => x.portAtNine d p) x
        Gives (.builtInSelfTest fails trains) s (if trains then g else g.report g.node.owner 0x01 .awaitingTrain))) ∧
    (h.node.state = .dawn → h.dawn.ringBoot = true → h.cfg.committed = false → Gives .ringBootTimeout s (h.dawnFail 0x0C 0)) ∧
    (∀ (die : Die) port part node e, die.val < h.dies → h.portUp die.val port.val = true →
      h.node.state = .run ∨ h.node.state = .degraded ∨ h.node.state = .safe → h.cfg.serving = none →
      h.cfg.serves.find? (fun e => bit e.partMask part.maskBit) = some e →
      Gives (.bootRequest die port part node) s { h with cfg.serving := some (node.toNat, e.off, e.off + e.len) }) ∧
    (h.node.state = .dawn → h.dawn.ringBoot = true → h.cfg.committed = false → ∀ server die bytes,
      h.dawn.server.getD (server.toNat, die.val) = (server.toNat, die.val) →
      Gives (.imageStreamCell server die bytes) s { h with dawn := { h.dawn with
        server := some (server.toNat, die.val), streamLen := h.dawn.streamLen + 64,
        streamed := iter 64 (fun k m => m.put 0xFF (h.dawn.streamLen + k) (bytes.getD k 0)) h.dawn.streamed } }.workStream)

/-! ## Node state, management pairs, faults and amends -/

/-- R29, R36 to R38, R40, R45, R118, R624, R625: the commands of NOD_CMD. A command that its origin may not write is an access violation,
and a refused command too where it has no transition; one with no transition from the present state, or overruled by what else comes in
its core cycle, is refused and recorded; an accepted one acts, and NOD_CMD.CMD holds it; what was accepted in the core cycle already acts
once. A write to a die that is not present is answered ADR and recorded. -/
def Obligations.NodeCommands : Prop :=
  ∀ (s : State) (die : Die) (o : Origin) (same : BitVec 7), s.awake →
    let h := s.hw
    let k := same.toNat
    let cmds : List (Instr × Nat) := [(.nodCmdEnterSafe die o same, 1), (.nodCmdResume die o same, 2), (.nodCmdSleep die o same, 3),
      (.nodCmdDusk die o same, 4), (.nodCmdReset die o same, 5)]
    let accepted := fun (c : Nat) =>
      h.cmdAllowed o c = true ∧ (h.cmdNow && h.rd 0 R.NOD_CMD_CMD == c) = false ∧ h.cmdTransition c = true ∧ h.cmdOverruled k c = false
    (h.dies ≤ die.val → (∀ x ∈ cmds, Gives x.1 s (h.noSuchDie o 0xC)) ∧ ∀ v, Gives (.nodCmdReserved die o v) s (h.noSuchDie o 0xC)) ∧
    (die.val < h.dies →
      (∀ x ∈ cmds, h.cmdAllowed o x.2 = false →
        let g := h.violation die.val o 0xC
        Gives x.1 s (if g.cmdTransition x.2 then g else g.refuseCmd x.2 o)) ∧
      (∀ x ∈ cmds, h.cmdAllowed o x.2 = true → (h.cmdNow && h.rd 0 R.NOD_CMD_CMD == x.2) = true → Gives x.1 s h) ∧
      (∀ x ∈ cmds, h.cmdAllowed o x.2 = true → (h.cmdNow && h.rd 0 R.NOD_CMD_CMD == x.2) = false →
        h.cmdTransition x.2 = false ∨ h.cmdOverruled k x.2 = true →
        Gives x.1 s (h.report h.node.owner 0x00 .cmdRefused (x.2 + h.node.state.code * 2 ^ 8) o.code)) ∧
      (accepted 1 → Gives (.nodCmdEnterSafe die o same) s ({ h.acceptCmd 1 with node.safeCmd := true }.enterSafe 3)) ∧
      (accepted 2 → Gives (.nodCmdResume die o same) s (h.acceptCmd 2).leaveSafe) ∧
      (accepted 3 → Gives (.nodCmdSleep die o same) s (h.acceptCmd 3).enterSleep) ∧
      (accepted 4 → let g := h.acceptCmd 4
        Gives (.nodCmdDusk die o same) s ((if bit k 0 then g.report g.node.owner 0x00 .safeCause else g).enterDusk 4)) ∧
      (accepted 5 → Gives (.nodCmdReset die o same) s (h.acceptCmd 5).resetCommand) ∧
      (∀ c, (h.acceptCmd c).rd 0 R.NOD_CMD_CMD = low 4 c) ∧
      (∀ v, Gives (.nodCmdReserved die o v) s (h.violation die.val o 0xC)))

/-- R35, R36, R112, R124, R506, R507, R619, R626: what else moves the node between its states: a ring wake, the loss of both
feeds in Quarantine, the steps of Dusk, the loss of input power in Dawn, PORST_N. Night keeps what power does not hold. -/
def Obligations.NodeTransitions : Prop :=
  ∀ s : State, s.awake →
    let h := s.hw
    (∀ (die : Die) port, die.val < h.dies → h.node.state = .sleep → port.val ∈ h.attached die.val →
      Gives (.ringWake die port) s { h with node.woken := true }) ∧
    (h.node.state = .quarantine → h.wlh.bothLost = true → Gives .quarantineToDusk s (h.enterDusk 0x61)) ∧
    (h.node.state = .dusk → Gives .duskCanLimit s h.cansOff) ∧
    (∀ n, Gives (.duskRecord n) s (duskRecord n h).duskCheck) ∧
    (∀ op rb, h.ldg.op = some op → op.recs = [] → Gives (.logNvmWriteDone rb) s (ledgerReadback h op rb).duskCheck) ∧
    (∀ op rb, h.ldg.op = some op → op.recs ≠ [] → Gives (.logNvmWriteDone rb) s (recorderReadback h op).duskCheck) ∧
    (h.node.state = .dusk → GivesWith .duskCopyLimit s h.duskEnd fun t => t.node.state = .night ∧ t.wlh.off = true ∧ t.wlh.gate = false ∧
      t.wlh.store = false ∧ t.logNvm = h.logNvm ∧ t.otp = h.otp ∧ t.nor = h.nor) ∧
    (h.node.state = .dawn → GivesWith .inputPowerLost s
      (Hw.enterNight { h with wlh := { h.wlh with pg := false, store := false } }) fun t => t.node.state = .night ∧ t.wlh.pg = false ∧
      t.logNvm = h.logNvm ∧ t.otp = h.otp ∧ t.nor = h.nor ∧ t.ldg.staging = [] ∧ t.dawn.held = []) ∧
    GivesWith .porstNAssert s h.enterNight fun t => t.node.state = .night ∧ t.logNvm = h.logNvm ∧ t.otp = h.otp ∧ t.nor = h.nor ∧
      t.ldg.staging = [] ∧ t.nightDom.cal = h.calendar

/-- R24, R25, R565 to R569: the management pairs. A heartbeat is the firmware's own; a stop of a pair is reported, a restart ends
its masked fault, a full copy raises the mirror, and D1 takes over behind its fence. -/
def Obligations.ManagementPairs : Prop :=
  ∀ (s : State) (die : Die), s.ready die →
    let h := s.hw
    let d := die.val
    (∀ v, GivesWith (.heartbeat die (.management d) v) s (h.wr d R.MGT_HBEAT_COUNT v.toNat) fun t =>
      t.rd d R.MGT_HBEAT_COUNT = v.toNat) ∧
    (∀ o v, o ≠ .management d → Gives (.heartbeat die o v) s (h.violation d o 0xF0008)) ∧
    (∀ v : Word, GivesWith (.watchdogExpiry die (some v)) s ((h.wr d R.MGT_HBEAT_COUNT v.toNat).bump d R.MGT_CNT_MARGIN) fun t =>
      t.rd d R.MGT_HBEAT_COUNT = v.toNat ∧ t.rd d R.MGT_CNT_MARGIN = satAdd R.MGT_CNT_MARGIN.w (h.rd d R.MGT_CNT_MARGIN) 1) ∧
    (h.pairRuns d = true → Gives (.watchdogExpiry die none) s (h.stopPair d 0x91)) ∧
    (h.pairRuns d = true ∨ h.rd d R.MGT_STAT_PAIR = 3 → Gives (.lockstepMismatch die) s ((h.bump d R.MGT_CNT_LOCKERR).stopPair d 0x90)) ∧
    (h.rd d R.MGT_STAT_PAIR = 2 → h.mgt.headless = false →
      let k := (h.wr d R.MGT_STAT_PAIR 1).bump d R.MGT_CNT_RESTART
      let g := { k with mgt.restarts := h.mgt.restarts.upd 0 d (· + 1) }.report h.node.owner 0x03 .pairRestarted d
      Gives (.pairRestart die) s ((g.endFault d 0x90 d).endFault d 0x91 d)) ∧
    (1 < h.dies → h.node.owner = 0 → h.cfg.committed = true → h.pairRuns 1 = true → h.pairRuns 0 = true →
      Gives .mirrorRebuild s (h.eachDie fun e g => g.wr e R.MGT_STAT_MIRROR 1)) ∧
    (h.node.fenced = true → h.mgt.takeoverDue = true → h.node.owner = 0 → h.pairRuns 1 = true →
      let us := (h.now - h.mgt.detectAt.getD h.now) / 1250
      let g := { h with node := { h.node with owner := 1 }, mgt := { h.mgt with headless := false, takeoverDue := false } }.abandonStatement
      let g := (g.eachDie fun e g => g.flag e R.NOD_STATE_TAKEOVER).report 1 0x03 .takeover us
      Gives .takeover s (g.stageForced (ledgerBody 0x08 (.management 1) 0 us 0 0 0 (some 1))).checkGuar)

/-- R585, R595 to R600: a report of a fault, earliest first, is counted, captured and recorded, and reacted to from Dawn step 10
on; the end of a Safe cause; a restore; the monitors of supply and temperature. -/
def Obligations.FaultResponse : Prop :=
  ∀ s : State, s.awake →
    let h := s.hw
    (∀ r rest, firstFault h.flt.reports = some (r, rest) →
      let k := { h with flt.reports := rest }
      let k := if sameCycle r rest then k.bump r.die R.FLT_TOTAL_MARGIN else k
      let k := (k.captureFault r).recordFault r
      Gives .faultReport s (if k.node.stepTen then k.react r else { k with flt.deferred := k.flt.deferred ++ [r] })) ∧
    (∀ (code : BitVec 8) holds, code.toNat ∈ faultCodes → h.flt.reports = [] → (holds || h.flt.present.any (·.1 == code.toNat)) = false →
      Gives (.fltSclr code holds) s
        { h.wr 0 R.FLT_SCLR_CODE code.toNat with flt.safeCodes := h.flt.safeCodes.filter (· != code.toNat) }.checkGuar) ∧
    (∀ code d unit, (h.flt.restoreDue.find? fun x => h.pairRuns x.2.1) = some (code, d, unit) → h.restoreCount code d unit < 3 →
      let n := h.restoreCount code d unit + 1
      let g := { h with flt.restoreDue := h.flt.restoreDue.erase (code, d, unit) }
      let g := { g with flt.restores := (code, d, unit, n) :: h.flt.restores.filter fun x => x.1 != code || x.2.1 != d || x.2.2.1 != unit }
      Gives .restore s (((g.restoreUnit code d unit).bump d R.FLT_CODE_RESTORES 1 code).stageForced
        (ledgerBody 0x0B (.management d) (code + d * 2 ^ 8 + unit * 2 ^ 16) (restoreWords code) n 0 0))) ∧
    (∀ (die : Die) ok, die.val < h.dies → Gives (.supplyConditionChange die ok) s
      { h with flt.supplyOk := h.flt.supplyOk.put true die.val ok }.checkGuar) ∧
    (∀ (die : Die) ok, die.val < h.dies → Gives (.temperatureConditionChange die ok) s
      { h with flt.tempOk := h.flt.tempOk.put true die.val ok }.checkGuar)

/-- R113 to R121, R270, R491: the owner takes the cell at the head of Q560, after what the memories answer of the queue. A cell that fails a
check is answered with its result code
and does nothing else, one that must wait stays (in the management blackout of R123 too), one that passes every check is staged and applied. -/
def Obligations.Amends : Prop :=
  ∀ (s : State) (holds : Bool) (u : Upset) (q : Nat) (c : CCell) (rest : List CCell), s.awake →
    let h := (s.hw.meet q 560 u).2
    let x := amendCheck c.origin c.cell.data h
    (s.hw.mgt.headless = true ∨ s.hw.rd s.hw.node.owner R.MGT_STAT_PAIR = 3 → Gives (.amendCell holds u) s s.hw) ∧
    (s.hw.amendFrom = some q → (h.cq q 560).cells = c :: rest → s.hw.mgt.headless = false → s.hw.rd s.hw.node.owner R.MGT_STAT_PAIR ≠ 3 →
    (x.1 = none → Gives (.amendCell holds u) s x.2) ∧
    (∀ code, x.1 = some code → code ≠ 0 → Gives (.amendCell holds u) s ((x.2.dropHead q 560).amendResult c.origin c.cell.data code 0)) ∧
    (x.1 = some 0 → Gives (.amendCell holds u) s (amendAccept c.origin c.cell.data holds (x.2.dropHead q 560))) ∧
    -- the first checks of R119, in order
    (amendFormat c.cell.data = false → x.1 = some 9) ∧
    (amendFormat c.cell.data = true → h.loaderState = false → x.1 = some 8) ∧
    (amendFormat c.cell.data = true → h.loaderState = true → h.amendTarget c.cell.data = false → x.1 = some 5) ∧
    (amendFormat c.cell.data = true → h.loaderState = true → h.amendTarget c.cell.data = true →
      h.amendOpen (amendDie c.cell.data) (amendOff c.cell.data) (leAt c.cell.data 0x18 4) = false → x.1 = some 5) ∧
    (amendFormat c.cell.data = true → h.loaderState = true → h.amendTarget c.cell.data = true →
      h.amendOpen (amendDie c.cell.data) (amendOff c.cell.data) (leAt c.cell.data 0x18 4) = true →
      h.permitting (amendDie c.cell.data) (amendOff c.cell.data) c.origin = none → x.1 = some 2))

/-! ## The ring: ports, links and trains -/

/-- R132 to R139, R176: the states of a ring port: decay of the error score, Off and its ends, the port commands, the losses of lock
and of frames, training and its retry. Any other state leaves the port as it is. -/
def Obligations.RingPorts : Prop :=
  ∀ (s : State) (die : Die) (port : Fin 4), s.ready die →
    let h := s.hw
    let d := die.val
    let p := port.val
    let st := h.rd d R.RNG_PSTAT_STATE p
    let attached := (h.attached d).contains p
    let keptOff := (h.port d p).forcedOff = true ∨ (h.rd d R.RNG_LES_REARM ≠ 0 ∧ h.rd d R.RNG_LES_REARM ≤ h.rd d R.RNG_PSTAT_OFFCNT p)
    ((h.port d p).scored = true → Gives (.lesDecay die port) s (h.setPort d p { h.port d p with scored := false })) ∧
    ((h.port d p).scored = false → Gives (.lesDecay die port) s ((h.wr d R.RNG_PSTAT_LES (h.rd d R.RNG_PSTAT_LES p - 1) p).judgeScore d p)) ∧
    (st = 4 → (h.port d p).forcedOff = false → h.rd d R.RNG_LES_REARM = 0 ∨ h.rd d R.RNG_PSTAT_OFFCNT p < h.rd d R.RNG_LES_REARM →
      let g := h.wr d R.RNG_PSTAT_LES (h.rd d R.RNG_LES_PASSTH) p
      Gives (.offHoldExpiry die port) s ((g.setPort d p { h.port d p with leavingOff := true }).enterTraining d p)) ∧
    (st = 4 → (h.port d p).forcedOff = true → Gives (.offHoldExpiry die port) s h) ∧
    (st = 2 → Gives (.offcntClear die port) s (h.wr d R.RNG_PSTAT_OFFCNT 0 p)) ∧
    (attached = false ∨ (st = 4 ∧ keptOff) → Gives (.retrain die port) s (h.wr d R.RNG_PCMD_CMD 1 p)) ∧
    (attached = true → st = 4 → ¬keptOff → Gives (.retrain die port) s
      (((h.wr d R.RNG_PCMD_CMD 1 p).setPort d p { h.port d p with leavingOff := true }).enterTraining d p)) ∧
    (attached = true → st = 2 ∨ st = 3 → Gives (.retrain die port) s (((h.wr d R.RNG_PCMD_CMD 1 p).leaveUp d p 1).enterTraining d p)) ∧
    (attached = true → st = 0 ∨ st = 1 → Gives (.retrain die port) s ((h.wr d R.RNG_PCMD_CMD 1 p).enterTraining d p)) ∧
    (let g := h.wr d R.RNG_PCMD_CMD 2 p
      let x := if h.portUp d p = true then g.leaveUp d p 4 else g.movePort d p 4
      GivesWith (.forceOff die port) s (x.setPort d p { x.port d p with forcedOff := true, retryWait := false }) fun t =>
        (t.port d p).forcedOff = true ∧ (t.port d p).retryWait = false) ∧
    (st = 4 → attached = false → Gives (.portRelease die port) s
      ((((h.wr d R.RNG_PCMD_CMD 3 p).wr d R.RNG_PSTAT_OFFCNT 0 p).setPort d p { h.port d p with forcedOff := false }).movePort d p 0)) ∧
    (st = 4 → attached = true → Gives (.portRelease die port) s
      ((((h.wr d R.RNG_PCMD_CMD 3 p).wr d R.RNG_PSTAT_OFFCNT 0 p).setPort d p { h.port d p with leavingOff := true }).enterTraining d p)) ∧
    (st ≠ 4 → GivesWith (.portRelease die port) s ((h.wr d R.RNG_PCMD_CMD 3 p).wr d R.RNG_PSTAT_OFFCNT 0 p) fun t =>
      t.rd d R.RNG_PSTAT_OFFCNT p = 0 ∧ t.rd d R.RNG_PSTAT_STATE p = st) ∧
    (st = 2 ∨ st = 3 → ∀ lane, Gives (.blockLockLoss die port lane) s
      (((h.wr d R.RNG_PSTAT_LES (min 1023 (h.rd d R.RNG_PSTAT_LES p + 64)) p).setPort d p { h.port d p with scored := true }).linkLoss d p)) ∧
    (st = 1 → ∀ lane : Fin 4, bit (h.rd d R.RNG_PSTAT_LOCK p) lane.val = true → Gives (.blockLockLoss die port lane) s
      (((h.wr d R.RNG_PSTAT_LOCK (h.rd d R.RNG_PSTAT_LOCK p &&& (15 - 2 ^ lane.val)) p).setPort d p
        { h.port d p with deskewed := false }).score d p 64)) ∧
    (st = 2 ∨ st = 3 → Gives (.deskewLoss die port) s
      ((((h.leaveUp d p 0).bump d R.RNG_PERRD_LINKLOSS 1 p).raiseFault d 0x01 p).enterTraining d p)) ∧
    (st = 2 ∨ st = 3 → Gives (.frameSilenceTimeout die port false) s (h.linkLoss d p)) ∧
    Gives (.frameSilenceTimeout die port true) s (h.bump d R.RNG_EXCNT_MARGIN) ∧
    (st = 1 → ∀ lane, GivesWith (.blockLock die port lane) s
      (h.wr d R.RNG_PSTAT_LOCK (h.rd d R.RNG_PSTAT_LOCK p ||| 2 ^ lane.val) p) fun t =>
      t.rd d R.RNG_PSTAT_LOCK p = low 4 (h.rd d R.RNG_PSTAT_LOCK p ||| 2 ^ lane.val) ∧ t.rd d R.RNG_PSTAT_STATE p = 1) ∧
    (st = 1 → Gives (.trainingTimeout die port) s
      (((h.setPort d p { h.port d p with retryWait := true, deskewed := false }).wr d R.RNG_PSTAT_LOCK 0 p).movePort d p 0)) ∧
    (st = 0 → (h.port d p).retryWait = true → (h.attached d).contains p = true → Gives (.trainingRetry die port) s (h.enterTraining d p))

/-- R182 to R186, R194: presence cells and the ring map. -/
def Obligations.Presence : Prop :=
  ∀ (s : State) (die : Die), s.ready die →
    let h := s.hw
    let d := die.val
    (h.nodeId ≠ 0 → h.attached d ≠ [] → h.node.state ≠ .sleep → Gives (.presenceSend die) s
      (let g := h.setRing d { h.ring d with pseq := ((h.ring d).pseq + 1) % 65536 }
       g.offer d 7 (g.presenceCell d))) ∧
    (h.node.state = .sleep → Gives (.presenceSend die) s h) ∧
    (∀ u, let g := (h.meet d 552 u).2
      (∀ c rest, (g.cq d 552).cells = c :: rest → Gives (.presenceCell die u) s ((g.dropHead d 552).applyPresence d c.cell.data)) ∧
      ((g.cq d 552).cells = [] → Gives (.presenceCell die u) s g)) ∧
    -- one of its own is discarded, and so is one older than what has been heard of its sender
    (∀ c, h.ownCell d c = true ∨ staleCell (h.ring d).heard (presenceOf c h.now) = true → h.applyPresence d c = h) ∧
    (∀ node : BitVec 16, ((h.ring d).heard.any fun x => x.node == node.toNat) = true → Gives (.nodeAbsent die node) s
      (((h.setRing d { h.ring d with heard := (h.ring d).heard.filter fun x => x.node != node.toNat }).buildMap d).report d 0x0C .nodeAbsent node.toNat)) ∧
    (∀ node : BitVec 16, ((h.ring d).heard.any fun x => x.node == node.toNat) = false → Gives (.nodeAbsent die node) s h)

/-- R161 to R173, R228: a frame leaves and arrives on a ring port, and the training exchange. A clean frame applies its credit
before its NAK; the expected cell is taken, another asks for a replay once; a failed check discards, and ends in an Abort block every
copy that was being cut through. A credit sync that the peer asked for goes first; a sleeping node takes no frame. -/
def Obligations.LinkFrames : Prop :=
  ∀ (s : State) (die : Die) (port : Fin 4), s.ready die →
    let h := s.hw
    let d := die.val
    let p := port.val
    let x := h.port d p
    (∀ (o : Fin 10) u c, o.val < 4 → h.chooseClass d o.val = some c →
      let m := (h.countWaits d o.val c).meet d (outQueue o.val c) u
      m.1 = false → (m.2.cq d (outQueue o.val c)).cells ≠ [] → Gives (.outputSelect die o u) s (m.2.sendRing d o.val c)) ∧
    (∀ (o : Fin 10) u c, 8 ≤ o.val → h.chooseClass d o.val = some c →
      let m := (h.countWaits d o.val c).meet d (outQueue o.val c) u
      m.1 = false → (m.2.cq d (outQueue o.val c)).cells ≠ [] → Gives (.outputSelect die o u) s (m.2.sendDie d o.val c)) ∧
    (∀ (o : Fin 10) u, h.chooseClass d o.val = none → Gives (.outputSelect die o u) s h) ∧
    (x.outstanding ≠ [] → h.portUp d p = true →
      let g := h.setPort d p { x with retries := x.retries + 1 }
      (x.retries + 1 < h.rd d R.RNG_LES_RETRYMAX → Gives (.replayTimeout die port false) s ((g.replay d p).score d p 16)) ∧
      (h.rd d R.RNG_LES_RETRYMAX ≤ x.retries + 1 →
        let k := g.wr d R.RNG_PSTAT_LES (min 1023 (h.rd d R.RNG_PSTAT_LES p + 16)) p
        Gives (.replayTimeout die port false) s ((k.setPort d p { k.port d p with scored := true }).linkLoss d p))) ∧
    (h.portUp d p = true → x.syncDue = true →
      Gives (.creditFrameDue die port) s ((h.setPort d p { x with syncDue := false }).emitFrame d p (h.controlFrame d (creditSyncMsg x)))) ∧
    (h.portUp d p = true → x.syncDue = false → Gives (.creditFrameDue die port) s (h.sendControl d p [0x01])) ∧
    (∀ bytes abort blk cut,
      let k := h.blockErrors d p blk
      let g := k.receive d p bytes abort
      let sent := cut.map (·.val)
      (h.node.state = .sleep → Gives (.cellFrame die port bytes abort blk cut) s h) ∧
      (h.node.state ≠ .sleep → h.rd d R.RNG_PSTAT_STATE p = 1 →
        Gives (.cellFrame die port bytes abort blk cut) s (k.trainingFrame d p bytes abort)) ∧
      (h.node.state ≠ .sleep → h.portUp d p = true → h.rd d R.RNG_PSTAT_STATE p ≠ 1 →
        (k.portUp d p = false → Gives (.cellFrame die port bytes abort blk cut) s (k.stompFrame d p (parseFrame bytes) sent)) ∧
        (k.portUp d p = true →
          (∀ f, g.1 = some f → f.ftype = 1 → Gives (.cellFrame die port bytes abort blk cut) s (g.2.acceptCell d p f)) ∧
          (∀ f, g.1 = some f → f.ftype ≠ 1 → Gives (.cellFrame die port bytes abort blk cut) s g.2) ∧
          (g.1 = none → Gives (.cellFrame die port bytes abort blk cut) s (g.2.stompFrame d p (parseFrame bytes) sent))))) ∧
    (h.portUp d p = true → ∀ bytes, Gives (.keepalive die port bytes) s (h.receive d p bytes false).2) ∧
    (h.portUp d p = true → ∀ bytes f, (h.receive d p bytes false).1 = some f → f.ftype = 2 → leAt f.cell 0 2 = 0x0103 →
      Gives (.creditSync die port bytes) s ((h.receive d p bytes false).2.applySync d p f.cell)) ∧
    (h.rd d R.RNG_PSTAT_STATE p = 1 → h.rd d R.RNG_PSTAT_LOCK p = 15 → (h.attached d).contains p = true →
      let sent := (List.range 4).foldl (fun (m : SMap Nat) c => m.put 0 c (h.rd d R.SWC_INRES_RES p c)) .empty
      Gives (.deskew die port) s ((h.setPort d p { x with deskewed := true, grants := sent }).sendControl d p (h.exchangeMsg d p))) ∧
    (¬(h.rd d R.RNG_PSTAT_STATE p = 1 ∧ h.rd d R.RNG_PSTAT_LOCK p = 15 ∧ (h.attached d).contains p = true) → Gives (.deskew die port) s h)

/-- R133, R134, R136, R175, R548: the peer's training exchange and its first frame under the session key: each arrival is journaled, each
failure counted and scored. -/
def Obligations.LinkTraining : Prop :=
  ∀ (s : State) (die : Die) (port : Fin 4), s.ready die →
    let h := s.hw
    let d := die.val
    let p := port.val
    let x := h.port d p
    h.rd d R.RNG_PSTAT_STATE p = 1 →
    (∀ bytes, (frameCrcOk bytes && (parseFrame bytes).ftype == 2) = false → Gives (.trainingExchange die port bytes) s
      ((h.journalFrame d p 1 (parseFrame bytes)).trainingFrame d p bytes false)) ∧
    (x.deskewed = true → h.rd d R.RNG_PSTAT_LOCK p = 15 → (h.attached d).contains p = true → ∀ bytes,
      let f := parseFrame bytes
      let m := f.cell
      frameCrcOk bytes = true → f.ftype = 2 → leAt m 0 2 = 0x0102 →
      let h := h.journalFrame d p 4 f
      let why := h.exchangeDiffers d p m
      let g := ((h.wr d R.RNG_PPEER_NODE (leAt m 2 2) p).wr d R.RNG_PPEER_PORT (bits (leAt m 4 1) 3 2) p).wr d R.RNG_PPEER_RING (leAt m 5 1) p
      (why ≠ 0 → x.lastFailure = some why →
        Gives (.trainingExchange die port bytes) s ((g.setPort d p { x with lastFailure := some why }).trainingFailed d p)) ∧
      (why ≠ 0 → x.lastFailure ≠ some why → Gives (.trainingExchange die port bytes) s
        (((g.report d (8 + p) .portTraining why).setPort d p { x with lastFailure := some why }).trainingFailed d p)) ∧
      (why = 0 →
        let k := g.setPort d p { x with peerDie := bits (leAt m 4 1) 0 3, peerPow := low 24 (leAt m 10 4), peerCnt := leAt m 14 2 }
        let k := iter 4 (fun c h => h.wr d R.RNG_PCRED_INIT (leAt m (0x10 + 2 * c) 2) p c) k
        Gives (.trainingExchange die port bytes) s (if k.on d R.RNG_CFG_AUTHEN then
          (let y := k.deriveSession d p
           if (y.port d p).sessionTx = none then y.trainingFailed d p else y.sendControl d p [0x01])
          else k.trainingComplete d p))) ∧
    (h.on d R.RNG_CFG_AUTHEN = true → x.sessionRx ≠ none → ∀ bytes,
      let f := parseFrame bytes
      (frameCrcOk bytes = true → tagOk true x f bytes = true →
        let g := h.journalFrame d p 4 f
        Gives (.trainingAuthFrame die port bytes) s
          (((g.setPort d p { x with rxLast := some f.txcnt, rxEpoch := rxEpochOf x f.txcnt }).wr d R.RNG_PSTAT_AUTHOK 1 p).trainingComplete d p)) ∧
      (frameCrcOk bytes = false → Gives (.trainingAuthFrame die port bytes) s
        (((h.journalFrame d p 1 f).bump d R.RNG_PERRA_FRMERR 1 p).score d p 8)) ∧
      (frameCrcOk bytes = true → tagOk true x f bytes = false →
        let g := ((h.journalFrame d p 2 f).bump d R.RNG_PERRC_TAGFAIL 1 p).score d p 32
        (x.lastFailure = some 16 → Gives (.trainingAuthFrame die port bytes) s
          ((g.setPort d p { g.port d p with lastFailure := some 16 }).trainingFailed d p)) ∧
        (x.lastFailure ≠ some 16 →
          let k := g.report d (8 + p) .portAuthFail 16
          Gives (.trainingAuthFrame die port bytes) s ((k.setPort d p { k.port d p with lastFailure := some 16 }).trainingFailed d p))))

/-- R141, R143, R146, R156 to R160, R200 to R204: a train's passage, its segments, which alone reach the Process Image RAM, the window
that expires, and the starts of trains: at the period, or in phase-locked mode at a boundary of the tracker's estimate. -/
def Obligations.Trains : Prop :=
  ∀ (s : State) (die : Die) (port : Fin 4), s.ready die →
    let h := s.hw
    let d := die.val
    let p := port.val
    (h.portUp d p = true → h.node.state ≠ .sleep → ∀ res : BitVec 20, 
      let g := h.trainArrives d p
      Gives (.trainStartBlock die port res) s (g.setTrain d { g.train d with passages := (g.train d).passages.put none p (some
        { startTime := g.ftm.time, startCycle := g.now, residence := res.toNat, dirn := expressRing p,
          onward := g.leavesBy d p, unchanged := false, next := 0, hdr := none, lastOut := [] }) })) ∧
    Gives (.trainEndBlock die port) s (h.setTrain d { h.train d with passages := (h.train d).passages.put none p none }) ∧
    (∀ bytes tamper,
      let k := if tamper = true ∧ h.node.state = .dawn then h.dawnFail 0x0F 0 else h
      (∀ g, (k.train d).passages.get none p = some g →
        let crcOk := crc32c (slice bytes 0 248) == BitVec.ofNat 32 (leAt bytes 248 4)
        let clean := leAt bytes 252 4 == 0
        let y := if g.next = 0 then headerSegment d p g bytes (crcOk && clean) (k, s.pir) else bucketSegment d p g bytes (crcOk && clean) (k, s.pir)
        exec (.trainSegment die port bytes tamper) s = .next { s with hw := y.1.countSegment d p crcOk clean, pir := y.2 }) ∧
      ((k.train d).passages.get none p = none → Gives (.trainSegment die port bytes tamper) s k)) ∧
    ((h.train d).windowOpen = true → Gives (.trainWindowExpiry die true) s ((h.bump d R.RNG_EXCNT_MARGIN).timeWindowMargin d)) ∧
    ((h.train d).windowOpen = true →
      let g := ((h.bump d R.RNG_MISS_CONSEC).bump d R.RNG_MISS_TOTAL).timeWindowMissed d
      (g.rd d R.RNG_MISS_CONSEC ≤ g.rd d R.NOD_STATE_HOLD → Gives (.trainWindowExpiry die false) s g) ∧
      (g.rd d R.NOD_STATE_HOLD < g.rd d R.RNG_MISS_CONSEC → g.node.state = .run ∨ g.node.state = .degraded →
        Gives (.trainWindowExpiry die false) s ({ g with node.safeTrains := true }.enterSafe 1))) ∧
    (h.on d R.RNG_CMSTAT_ORIG = true → h.on d R.RNG_PLOCK_PLEN = false →
      Gives (.trainOriginate die) s (h.startTrain d (h.rd d R.RNG_PLOCK_PLEN))) ∧
    (h.on d R.RNG_CMSTAT_ORIG = true → h.on d R.RNG_PLOCK_PLEN = true →
      let st := h.trkState d (h.rd d R.RNG_PLOCK_TRACKER)
      (h.boundaryNo d ≠ (h.train d).phaseAt → st ≠ 3 → st ≠ 4 → Gives (.trainOriginate die) s (h.startTrain d (h.rd d R.RNG_PLOCK_PLEN))) ∧
      (h.boundaryNo d = (h.train d).phaseAt ∨ st = 3 ∨ st = 4 → Gives (.trainOriginate die) s h)) ∧
    (h.on d R.RNG_CMSTAT_ORIG = false → Gives (.trainOriginate die) s h) ∧
    (h.on d R.RNG_CMSTAT_ORIG = true → h.on d R.RNG_PLOCK_PLEN = true →
      let st := h.trkState d (h.rd d R.RNG_PLOCK_TRACKER)
      (st = 3 ∨ st = 4 → ∀ b, Gives (.phaseLockedBound die b) s ((h.startTrain d 5).flag d R.RNG_EXSTAT_PLHOLD)) ∧
      (st ≠ 3 → st ≠ 4 → Gives (.phaseLockedBound die true) s ((h.startTrain d 1).bump d R.PHS_EMISC_MARGIN)) ∧
      (st ≠ 3 → st ≠ 4 → Gives (.phaseLockedBound die false) s ((h.startTrain d 3).flag d R.RNG_EXSTAT_PLSLIP))) ∧
    (h.mayOriginate d = true →
      let t := h.train d
      let g := h.setTrain d { t with
          cycle := if t.everRun then t.accepted.getD 0 + 1 else 0, lastStart := 0, phaseAt := h.boundaryNo d, carry := .empty,
                                     captured := [], capturedCycle := 0, passedReverse := .empty }
      let g := (g.wr d R.RNG_CMSTAT_ORIG 1).report d 0x0C .originationStart
      let g := if t.everRun then (g.flag d R.RNG_CMSTAT_TOOK).raiseFault d 0x02 0 else g
      Gives (.originationStart die false) s (if g.timeMaster then g.setInForce (g.rd g.node.owner R.FTM_UTC_UTCOFF) else if g.onSrcRing d then g.enterHoldover else g)) ∧
    Gives (.originationStart die true) s h

/-! ## Switch, die links and fabric time -/

/-- R22, R221, R228, R231, R236 to R241, R588: the switch's multicast, the forwarding engines, the relink at LP and MP, error packets, and the
die links. -/
def Obligations.SwitchCommands : Prop :=
  ∀ (s : State) (die : Die), s.ready die →
    let h := s.hw
    let d := die.val
    Gives (.multicastCopy die) s (matchCycle d h) ∧
    (∀ m rest, (h.switch d).mcs = m :: rest → m.owed ≠ [] →
      let n : McCell := { m with owed := [], gaveUp := m.gaveUp ++ m.owed }
      let g := h.residue d n
      Gives (.multicastGiveUp die none) s ((g.setSwitch d { g.switch d with mcs := n :: rest }).finishMulticast d)) ∧
    ((h.switch d).mcs = [] → ∀ o, Gives (.multicastGiveUp die o) s h) ∧
    (∀ mp u, Gives (.forwardPresent die mp u) s (forwardPresent d mp u h)) ∧
    (∀ (mp : Bool) u dest c,
      let o := if mp then 7 else 6
      h.chooseClass d o = some c →
      let m := (h.countWaits d o c).meet d (outQueue o c) u
      (m.1 = true → Gives (.lpMpRelink die mp u dest) s m.2) ∧
      (m.1 = false → Gives (.lpMpRelink die mp u dest) s (m.2.relinkHead d o c dest))) ∧
    (∀ p rest, h.errs.get [] d = p :: rest → Gives (.errorPacketSend die) s
      (({ h with errs := h.errs.put [] d rest } : Hw).offer d 7 (blankCell 0 p.node p.die 553 h.nodeId d (errorBytes p)))) ∧
    (∀ dp : Fin 2, h.dieLinkUp d dp.val = true →
      let e := (h.dieLinkPeer d dp.val).1
      let ep := (h.dieLinkPeer d dp.val).2
      let g : Hw := { h with dieLinkDown := (h.dieLinkDown.put false (d * 2 + dp.val) true).put false (e * 2 + ep) true }
      Gives (.dieLinkSilence die dp) s
        ((((g.flushPort d (8 + dp.val)).flushPort e (8 + ep)).raiseFault d 0x03 dp.val).raiseFault e 0x03 ep)) ∧
    (∀ dp : Fin 2,
      let e := (h.dieLinkPeer d dp.val).1
      let ep := (h.dieLinkPeer d dp.val).2
      let g : Hw := { h with dieLinkDown := (h.dieLinkDown.put false (d * 2 + dp.val) false).put false (e * 2 + ep) false }
      Gives (.dieLinkTrained die dp) s ((((g.grantDie d dp.val e ep).grantDie e ep d dp.val).endFault d 0x03 dp.val).endFault e 0x03 ep))

/-- R406 to R411, R414, R416, R418 to R420, R422, R588: fabric time: the second edge and its loss, the steps of the offset, the calendar
and PPS_OUT, the delay exchange, the checks of the clocks. -/
def Obligations.FabricTime : Prop :=
  ∀ s : State, s.awake →
    let h := s.hw
    let second := 1000000000 * unitsPerNs
    -- a second edge of PPS_IN, less PPSDLY: a UTCAT reached by then applies first; on a stepped clock it is an input against the nearest
    -- second; a label that
    -- waits is paired
    (h.timeMaster = true → h.on h.node.owner R.FTM_CFG_PPSSRC = false →
      let k := (h.eachDie fun e g => g.journal e 0xC 0).reachUtcAt
      let t := k.ftm.time - k.rd k.node.owner R.FTM_REFDLY_PPSDLY * unitsPerNs
      let g := { k with ftm.lastEdge := some t, ftm.lastInput := k.now }
      let x := g.timeInput ((((t + second / 2) / second * second : Nat) : Int) - (t : Int)) second true
      (g.on 0 R.FTM_STAT_STEPPED = true → (g.ftm.label = none → Gives .secondEdge s x) ∧
        ∀ utc o, g.ftm.label = some (utc, o) → Gives .secondEdge s (x.pairLabel utc o)) ∧
      (g.on 0 R.FTM_STAT_STEPPED = false → (g.ftm.label = none → Gives .secondEdge s g) ∧
        ∀ utc o, g.ftm.label = some (utc, o) → Gives .secondEdge s (g.pairLabel utc o))) ∧
    (h.timeMaster = false → Gives .secondEdge s h) ∧
    (h.timeMaster = true → GivesWith (.ppsLoss true) s (h.bump 0 R.FTM_CNT_MARGIN) fun t =>
      t.rd 0 R.FTM_CNT_MARGIN = min (h.rd 0 R.FTM_CNT_MARGIN + 1) (2 ^ R.FTM_CNT_MARGIN.w - 1) ∧ t.tstate = h.tstate) ∧
    (h.timeMaster = true → Gives (.ppsLoss false) s (((h.flag 0 R.FTM_STAT_PPSLOSS).report h.node.owner 0x98 .ppsLoss 0).enterHoldover)) ∧
    (h.on 0 R.FTM_STAT_STEPPED = true → Gives .ftmAccept s (h.setTstate 3)) ∧
    (h.on 0 R.FTM_STAT_STEPPED = false → Gives .ftmAccept s h) ∧
    (let u := h.rd h.node.owner R.FTM_UTCAT_UTCAT
      let due := h.timeMaster = true ∧ u ≠ 0 ∧ u ≠ h.ftm.utcDone ∧ u ≤ h.fabricNs / 1000000000
      (due →
        let g : Hw := { h with ftm.utcDone := u }
        let n := g.rd h.node.owner R.FTM_LEAP_NEXTOFF
        Gives .utcOffsetChange s ((g.setInForce n).report h.node.owner 0x98 .utcChange n)) ∧
      (¬due → Gives .utcOffsetChange s h)) ∧
    (h.timeValid = true → Gives .calendarSet s h.setCalendar) ∧
    (h.timeValid = true → Gives .ppsOutPulse s { h with ftm.ppsUntil := h.now + 125000000 }) ∧
    (h.timeValid = false → Gives .calendarSet s h ∧ Gives .ppsOutPulse s h) ∧
    (∀ (die : Die) (port : Fin 4), die.val < h.dies → h.portUp die.val port.val = true →
      let d := die.val
      let p := port.val
      let n := (h.ftm.kseq.get 0 (d * 4 + p) + 1) % 65536
      Gives (.delayRequestSend die port) s (({ h with ftm.kseq := h.ftm.kseq.put 0 (d * 4 + p) n } : Hw).sendControl d p
        ([0x01, 0x01] ++ leBytes 2 n ++ List.replicate 4 0 ++ leBytes 8 h.rawStamp)) ∧
      (∀ bytes turn m, (h.controlMsg d p bytes).1 = some m → leAt m 0 2 = 0x0101 → Gives (.delayRequest die port bytes turn) s
        ((h.controlMsg d p bytes).2.sendControl d p ([0x01, 0x02] ++ slice m 2 2 ++ List.replicate 4 0 ++ slice m 8 8 ++ leBytes 4 turn.toNat))) ∧
      (∀ bytes stamp m, (h.controlMsg d p bytes).1 = some m → leAt m 0 2 = 0x0201 → leAt m 0x10 4 ≤ 20000 →
        let g := (h.controlMsg d p bytes).2
        g.portUp d p = true → Gives (.delayResponse die port bytes stamp) s (g.addDelay d p
          (((stamp.toNat : Int) - (leAt m 8 8 : Int) - (leAt m 0x10 4 : Int)).fdiv 2 + g.rdInt d R.FTM_PASYM_ASYM p)))) ∧
    (∀ (die : Die) (diff : Int), die.val < h.dies →
      (die.val ≠ h.sourceDie → 64 < diff.natAbs → Gives (.ftimeCompare die diff) s (h.raiseFault die.val 0x04 0)) ∧
      (diff.natAbs ≤ 64 → Gives (.ftimeCompare die diff) s h) ∧
      (10000 < diff.natAbs → Gives (.clockMonitor die diff) s (h.raiseFault die.val 0x05 0)) ∧
      (diff.natAbs ≤ 10000 → Gives (.clockMonitor die diff) s h))

/-! ## Cistern and accesses -/

/-- R247, R258 to R260, R267 to R272, R277: the Cistern's write buffer, sweeps and rebuilds, credit returns, word cells, scrubs. -/
def Obligations.CisternUpkeep : Prop :=
  ∀ (s : State) (die : Die), s.ready die →
    let h := s.hw
    let d := die.val
    -- the oldest held write, its frame's last cell: with a place it is linked, else it takes the cell allocated for it
    (∀ w rest, (h.cistern d).wbuf = w :: rest → w.more = false →
      (w.placed = true → Gives (.writeBufferRelease die) s
        ((h.setCistern d { h.cistern d with wbuf := rest }).linkTail d w.queue w.cell)) ∧
      (w.placed = false → (h.allocate d).1 = none → Gives (.writeBufferRelease die) s (h.allocate d).2) ∧
      (w.placed = false → ∀ i, (h.allocate d).1 = some i →
        let g := (h.allocate d).2
        let v : HeldWrite := { w with cell := { w.cell with index := i }, placed := true }
        let k := g.setCistern d { g.cistern d with wbuf := v :: rest }
        Gives (.writeBufferRelease die) s ((k.setCistern d { k.cistern d with wbuf := rest }).linkTail d w.queue v.cell))) ∧
    -- with more of its frame behind it, it is linked together with them
    (∀ w rest, (h.cistern d).wbuf = w :: rest → w.more = true → ((headGroup (w :: rest)).all (·.placed)) = true →
      let g := headGroup (w :: rest)
      Gives (.writeBufferRelease die) s (each g (fun v k => k.linkTail d v.queue v.cell)
        (h.setCistern d { h.cistern d with wbuf := (w :: rest).drop g.length }))) ∧
    ((h.cistern d).wbuf = [] → Gives (.writeBufferRelease die) s h) ∧
    (∀ q : Fin 8192, let x := h.cq d q.val
      Gives (.queueSweepEnd die q) s (each x.old (fun c g => g.freeCell d c) (h.setCq d q.val { x with
          old := [], sweeping := false, given := false }))) ∧
    (∀ b : Fin 16, (h.bank d b.val).rebuilding = true → GivesWith (.freeListRebuildEnd die b) s
      (h.setBank d b.val (h.bank d b.val).rebuilt) fun t => t.bank d b.val = (h.bank d b.val).rebuilt) ∧
    (∀ l : Fin 512, h.on d R.CIS_LINKB_VALID l.val = true → Gives (.creditReturnTimer die l) s (h.sendReturn d l.val)) ∧
    (∀ l : Fin 512, h.on d R.CIS_LINKB_VALID l.val = false → Gives (.creditReturnTimer die l) s h) ∧
    (∀ u, let h := (h.meet d 554 u).2
      ((h.cq d 554).cells = [] → Gives (.creditReturnCell die u) s h) ∧
      (∀ c rest, (h.cq d 554).cells = c :: rest → leAt c.cell.data 0 2 = 0x0120 →
        let g := h.dropHead d 554
        (∀ q, g.returnTarget d c.cell = some q → Gives (.creditReturnCell die u) s (g.applyReturn d q c.cell)) ∧
        (g.returnTarget d c.cell = none → Gives (.creditReturnCell die u) s (g.bump d R.CIS_MARGIN_NORET)))) ∧
    (∀ (q : Fin 8192) c, h.openTail d q.val = some c → Gives (.wordCellClose die q none) s (h.closeTail d q.val)) ∧
    (∀ (q : Fin 8192) c w, h.openTail d q.val = some c →
      let g := (h.fillTail d q.val c w).bump d R.CIS_MARGIN_MARGIN
      ((g.openTail d q.val).isSome = true → Gives (.wordCellClose die q (some w)) s (g.closeTail d q.val)) ∧
      ((g.openTail d q.val).isSome = false → Gives (.wordCellClose die q (some w)) s g)) ∧
    (h.on d R.CIS_CFG_SCRUBEN = false → ∀ b finds bad trusted differ, Gives (.cellScrub die b finds) s h ∧
      Gives (.linkRamScrub die b bad trusted) s h ∧ Gives (.descriptorScrub die differ) s h) ∧
    (h.on d R.CIS_CFG_SCRUBEN = true → ∀ b : Fin 16,
      let x := (h.cistern d).scrub
      let line := x.cellLine.get 0 b.val
      let row := x.linkRow.get 0 b.val
      let k := h.setScrub d { x with linkRow := x.linkRow.put 0 b.val ((row + 1) % 12288) }
      let bad := ((k.bump d R.CIS_FLIST_LPARERR).raiseFault d 0x13 ((k.holder d (row * 16 + b.val)).getD 0)).journalErr d 0 (row * 16 + b.val) 2
      (∀ finds, Gives (.cellScrub die b finds) s
        ((each finds (fun f g => g.scrubFind d b.val line f) ((h.noteBank d b.val).setScrub d { x with
            corrected := keepMarks x b.val line finds })).nextLine d b.val line)) ∧
      (∀ trusted, Gives (.linkRamScrub die b false trusted) s k) ∧
      (∀ q, k.holder d (row * 16 + b.val) = some q → Gives (.linkRamScrub die b true true) s (bad.resetQueue d q 0x11)) ∧
      (∀ q, k.holder d (row * 16 + b.val) = some q → Gives (.linkRamScrub die b true false) s
        (((bad.takeOut d (row * 16 + b.val)).retireOut d (row * 16 + b.val)).resetQueue d q 0x11)) ∧
      (∀ trusted, k.holder d (row * 16 + b.val) = none → Gives (.linkRamScrub die b true trusted) s
        ((bad.takeOut d (row * 16 + b.val)).retireOut d (row * 16 + b.val))) ∧
      let desc := h.setScrub d { x with descQueue := (x.descQueue + 1) % 8192 }
      (x.descQueue + 1 ≠ 8192 → Gives (.descriptorScrub die false) s desc) ∧
      (x.descQueue + 1 ≠ 8192 → Gives (.descriptorScrub die true) s ((desc.journalErr d 1 x.descQueue 2).resetQueue d x.descQueue 0x11)) ∧
      (x.descQueue + 1 = 8192 → Gives (.descriptorScrub die false) s (desc.bump d R.CIS_SCRUB_DESCPASS)))

/-- R266 to R270, R424 to R426, R431, R434, R435, R441 to R447: an access cell at the head of Q576 or Q553, once its memories have
answered, leaves its queue and is acted on. A cell of another message stays for the row that is its own. -/
def Obligations.AccessCells : Prop :=
  ∀ (s : State) (die : Die), s.ready die →
    let d := die.val
    (∀ u v c rest,
      let h := (s.hw.meet d 576 v).2
      (h.cq d 576).cells = c :: rest →
      let x := (h.dropHead d 576, s.pir)
      (msgOf c = 0x40 → GivesBoth (.readRequest die u v) s (takeRequest d u (reqOf c) x)) ∧
      (msgOf c = 0x41 → GivesBoth (.writeRequest die u v) s (takeRequest d u (reqOf c) x)) ∧
      (msgOf c = 0x44 → GivesBoth (.lockRead die v) s (takeRequest d .clean (reqOf c) x)) ∧
      (msgOf c = 0x45 → GivesBoth (.lockWrite die v) s (takeRequest d .clean (reqOf c) x)) ∧
      (msgOf c = 0x46 → GivesBoth (.unlock die v) s (unlock (reqOf c) x)) ∧
      (msgOf c ≠ 0x40 → Gives (.readRequest die u v) s h) ∧
      (msgOf c < 0x40 ∨ 0x48 < msgOf c → Gives (.badAccessCell die false v) s ((h.dropHead d 576).bump d R.BRG_HCNT_BADMSG))) ∧
    (∀ v c rest,
      let h := (s.hw.meet d 553 v).2
      (h.cq d 553).cells = c :: rest →
      let g := h.dropHead d 553
      let code := leAt c.cell.data 6 1
      (msgOf c = 0x42 → Gives (.readCompletion die v) s (takeCompletion d code (reqOf c) g)) ∧
      (msgOf c = 0x43 → Gives (.writeCompletion die v) s (takeCompletion d code (reqOf c) g)) ∧
      (msgOf c = 0x47 → Gives (.lockBusy die v) s (g.lockIsBusy d (reqOf c).tag)) ∧
      (msgOf c = 0x48 → Gives (.errorPacket die v) s (takeError d (leAt c.cell.data 0x18 8) code (reqOf c) g)) ∧
      (msgOf c < 0x40 ∨ 0x48 < msgOf c → Gives (.badAccessCell die true v) s (g.bump d R.BRG_HCNT_BADMSG))) ∧
    (d < 2 → Gives (.pop die) s (s.hw.setHost d { s.hw.host d with log := (s.hw.host d).log.drop 1 }))

/-- R12, R13, R28, R29, R261 to R265, R425, R426, R485, R623: the rows that make one access, where no lock holds its unit: the access is
performed and its code and bytes stand in `reply`; one that names a die not present is answered ADR (code 1) and recorded as an access
violation; a posted write from another node that fails is answered by an error packet. A read of the image waits while the NOR is written (R575). -/
def Obligations.SingleAccesses : Prop :=
  ∀ s : State, s.awake →
    let h := s.hw
    let reads := fun (c : Instr) (d space off len : Nat) (o : Origin) (u : Upset) (g : Hw) =>
      g.lockOn (g.rowReq 0xA0 d space off len o false []) = none →
      let y := performRead (g.entryOf o) d space off len o u (g, s.pir)
      GivesBoth c s ({ y.2.1 with reply := ⟨y.1.code, y.1.data⟩ }, y.2.2) ∧
      (h.dies ≤ d → y = (⟨1, []⟩, (g.violation (g.decoder (g.entryOf o) d space) o (space * 2 ^ 40 + off), s.pir)))
    let writes := fun (c : Instr) (d space off : Nat) (bs : List Byte) (o : Origin) (u : Upset) =>
      h.lockOn (h.rowReq 0xA1 d space off bs.length o false bs) = none →
      let y := performWrite (h.entryOf o) d space off bs o u (h, s.pir)
      GivesBoth c s ({ y.2.1 with reply := ⟨y.1.code, y.1.data⟩ }, y.2.2) ∧
      (h.dies ≤ d → y = (⟨1, []⟩, (h.violation (h.decoder (h.entryOf o) d space) o (space * 2 ^ 40 + off), s.pir)))
    (∀ (die : Die) o,
      (∀ off, reads (.rcRead die o off) die.val 0 off.toNat 4 o .clean h) ∧
      (∀ off v, writes (.registerWrite die o off v false) die.val 0 off.toNat (leBytes 4 v.toNat) o .clean) ∧
      (∀ q : Fin 8192, reads (.qgrantRead die o q) die.val 4 (256 * q.val + 0x44) 4 o .clean h) ∧
      (∀ (q : Fin 8192) bs u, writes (.windowDataWrite die o q bs false u) die.val 4 (256 * q.val) bs o u) ∧
      (∀ (q : Fin 8192) u arrived,
        let g := h.countArrival die.val q.val
          (arrived && decide (die.val < h.dies) && h.dataOpen die.val q.val false && !h.justFilled die.val q.val)
        reads (.windowDataRead die o q u arrived) die.val 4 (256 * q.val) (if g.isWord die.val q.val then 4 else 64) o u g)) ∧
    (∀ (die : Die) n off v,
      let bs := leBytes 4 v.toNat
      let r := h.rowReq 0xA1 die.val 0 off.toNat bs.length (.ring n) true bs
      h.lockOn r = none →
      let y := performWrite (h.entryOf (.ring n)) die.val 0 off.toNat bs (.ring n) .clean (h, s.pir)
      let g : Hw := { y.2.1 with reply := ⟨y.1.code, y.1.data⟩ }
      (y.1.code = 0 → GivesBoth (.registerWrite die (.ring n) off v true) s (g, y.2.2)) ∧
      (y.1.code ≠ 0 → GivesBoth (.registerWrite die (.ring n) off v true) s
        (g.postedError (h.entryOf (.ring n)) n r (if y.1.code = 0x82 then 2 else y.1.code), y.2.2))) ∧
    (∀ (die : Die) o off len, reads (.ledgerRead die o off len) die.val 0x11 off.toNat (min len 256) o .clean h) ∧
    (∀ (die : Die) o off len,
      let r := h.rowReq 0xA0 die.val 0x01 off.toNat (min len 256) o false []
      ((h.mgt.isOpen && h.ustate == 3) = false → reads (.imageShadowRead die o off len) die.val 0x01 off.toNat (min len 256) o .clean h) ∧
      ((h.mgt.isOpen && h.ustate == 3) = true → h.lockOn r = none →
        GivesBoth (.imageShadowRead die o off len) s (h.park (h.entryOf o) r, s.pir)))

/-! ## Pins, phase and events -/

/-- R318 to R323, R326 to R330, R332, R333, R590: the pins: outputs, trip release, a sample cycle with its input chain, timeout, open
measure and readback, synchronised changes. -/
def Obligations.Pins : Prop :=
  ∀ (s : State) (die : Die), s.ready die →
    let h := s.hw
    let d := die.val
    (∀ (w : Fin 6) v, Gives (.mioOutWrite die w v) s (h.writeOuts d w.val (2 ^ 32 - 1) v.toNat)) ∧
    (∀ (w : Fin 6) v m, Gives (.outmvWrite die w v m) s (h.writeOuts d w.val m.toNat v.toNat)) ∧
    (∀ (w : Fin 6) v, Gives (.outmvWrite die w v 0) s h) ∧
    -- a trip group whose condition does not hold in this sample cycle is released where a 1 is written to its bit; others stay
    (∀ (groups : BitVec 16), let k := h.sampleDie d
      Completes (.tripRelease die groups) s fun t => { t.hw with regs := k.regs, pins := k.pins } = k ∧
      t.hw.onlyAt k [R.MIO_TRIPST_LATCHED.key d 0 0] ∧ ∀ g < 16, bit (t.hw.rd d R.MIO_TRIPST_LATCHED) g = (bit (k.rd d R.MIO_TRIPST_LATCHED) g &&
        !(bit groups.toNat g && !k.groupHolds d g))) ∧
    (∀ pin : Fin 192, ∀ c ∈ [Instr.qualifiedLevelChange die [pin], .rangeOpenLimit die pin, .pinTimeout die pin,
        .readbackSettleEnd die pin, .readbackMismatch die pin],
      let p := pin.val
      let y := h.pin d p
      let level := y.sync != h.on d R.MIO_PCFG_INV p
      let filt := h.rd d R.MIO_PFLT_FILT p
      let g1 := h.chainStep d p
      let y1 := g1.pin d p
      let ch := if g1.chainOut d p != y1.qual then [p] else []
      let g2 := qualifiedChange d ch g1
      let x := g2.pin d p
      let edge := ch.contains p && g2.activeEdge d p x.qual
      let tmo := g2.rd d R.MIO_PTMO_TMO p
      let g3 := g2.timeoutStep d p edge
      let m := g3.pin d p
      let g4 := g3.openLimit d p
      let k := if g4.rd d R.MIO_PCFG_FUNC p = 6 then g4.refreshPin d p else g4
      let z := k.pin d p
      let g5 := k.readbackStep d p
      (h.sampleDue d p = false → Gives c s h) ∧
      (h.sampleDue d p = true → Gives c s g5) ∧
      -- the chain: polarity, the glitch filter, the last five filter outputs, of which three decide with MAJ = 1
      y1.hist = (y.filt :: y.hist).take 5 ∧ y1.sampledAt = some h.now ∧
      (filt = 0 → y1.filt = level) ∧
      (filt ≠ 0 → y.run < filt → y1.filt = y.filt ∧ y1.run = if level == y.filt then 0 else y.run + 1) ∧
      (filt ≠ 0 → filt ≤ y.run → y1.filt = !y.filt) ∧
      g1.chainOut d p = (if h.on d R.MIO_PFLT_MAJ p then decide (3 ≤ y1.hist.count true) else y1.filt) ∧
      -- the timeout of an input pin: an edge where the count would reach TMO prevents it
      (g2.guarded = true → g2.node.state ≠ .dawn → g2.isInput d p = true → tmo ≠ 0 → ∀ n, x.tmo = some n → x.tmoFired = false → tmo ≤ n + 1 →
        (edge = true → g3 = (g2.setPin d p { x with tmo := some 0, tmoFired := false }).bump d R.MIO_MARGIN_MARGIN) ∧
        (edge = false → g3 = ((((g2.setPin d p { x with tmo := some (n + 1), tmoFired := true }).flag d R.MIO_PSTAT_TMOERR p).bump d
          R.MIO_PTMO_VIOL 1 p).report d 0x80 .pinTimeout p).tripOn d p 4)) ∧
      -- an open interval or width that has passed MAX closes as MAX + 1
      (m.openAt = none → g4 = g3) ∧
      (g3.guarded = true → g3.isInput d p = true → g3.rd d R.MIO_PFLT_CHECK p = 1 ∨ g3.rd d R.MIO_PFLT_CHECK p = 2 → ∀ t, m.openAt = some t →
        g3.rd d R.MIO_PRNG_MAX p < g3.tickOf d p - t →
        g4 = (g3.setPin d p { m with openAt := none }).closeMeasure d p (g3.rd d R.MIO_PRNG_MAX p + 1)) ∧
      -- readback: RBSET sample cycles of settling, then one report for each episode of mismatch
      (k.on d R.MIO_PCFG_RBEN p = true → k.rd d R.MIO_PCFG_MODE p ≠ 0 → k.configured = true → z.drvAt ≠ some k.now →
        (z.rbArmed = false → g5 = k.setPin d p { z with settle := z.settle - 1, rbArmed := decide (z.settle ≤ 1) }) ∧
        (z.rbArmed = true → z.drv = none → g5 = k) ∧
        (z.rbArmed = true → ∀ v, z.drv = some v →
          (z.sync = v → g5 = k.setPin d p { z with rbBad := false }) ∧
          (z.sync ≠ v → z.rbBad = true → g5 = k) ∧
          (z.sync ≠ v → z.rbBad = false → g5 = ((((k.setPin d p { z with rbBad := true }).flag d R.MIO_PSTAT_RBERR p).bump d
            R.MIO_MARGIN_RBCNT).raiseFault d 0x30 p).report d 0x80 .pinReadback p)))) ∧
    (∀ pins, Gives (.qualifiedLevelChange die pins) s (samplePins d (pins.map (·.val)) h)) ∧
    (∀ pin : Fin 192, h.rd d R.MIO_PCFG_FUNC pin.val ≠ 0 → ∀ level,
      let g := h.raiseFault d 0x31 pin.val
      ((h.pin d pin.val).sync = level → Gives (.receiverMismatch die pin level) s g) ∧
      ((h.pin d pin.val).sync ≠ level → Gives (.receiverMismatch die pin level) s (pinTransition d (pin.val / 16) (2 ^ (pin.val % 16)) g))) ∧
    (∀ (b : Fin 12) changed, Gives (.pinTransition die b changed) s (pinTransition d b.val changed.toNat h))

/-- R368 to R375, R397: the phase trackers: an update tick, whose sample record alone reaches the Process Image RAM; the losses of
source, which an arrival in the same cycle prevents; pacing; the latched read. -/
def Obligations.PhaseTrackers : Prop :=
  ∀ (s : State) (die : Die) (trk : Fin 8), s.ready die →
    let h := s.hw
    let d := die.val
    let t := trk.val
    let live := h.trkState d t ≠ 0 ∧ h.trkState d t ≠ 5
    (h.updateDue d t = false → ∀ bad, GivesBoth (.trackerUpdate die trk bad) s (h, s.pir)) ∧
    (h.updateDue d t = true → ∀ bad g, (live → bad = true → g = h.trackerFault d t) → (live → bad = false → g = h.trackerTick d t) →
      (¬live → g = h) →
      (g.rd d R.PHS_TPIO_PIOFF t = 0 → GivesBoth (.trackerUpdate die trk bad) s (g, s.pir)) ∧
      (g.rd d R.PHS_TPIO_PIOFF t ≠ 0 →
        GivesBoth (.trackerUpdate die trk bad) s (storePir d (16 * g.rd d R.PHS_TPIO_PIOFF t) (g.sampleRecord d t) (g, s.pir)))) ∧
    (h.trkState d t = 2 → h.rd d R.PHS_TLOS_GAP t ≠ 0 → h.rd d R.PHS_TCFG_SRC t = 1 ∨ h.rd d R.PHS_TCFG_SRC t = 3 →
      h.gapPassed d t = true →
      Gives (.gapLimit die trk false) s ((h.flag d R.PHS_TSTAT_GAPERR t).loseSource d t) ∧
      Gives (.gapLimit die trk true) s (h.bump d R.PHS_TCNT_MARGIN 1 t)) ∧
    (h.trkState d t = 2 → h.rd d R.PHS_TLOS_LOSTO t ≠ 0 →
      Gives (.trackerSilence die trk false) s ((h.flag d R.PHS_TSTAT_SILENT t).loseSource d t) ∧
      Gives (.trackerSilence die trk true) s (h.bump d R.PHS_TCNT_MARGIN 1 t)) ∧
    (h.trkState d t = 3 → Gives (.holdoverTimeout die trk false) s (h.stopTracker d t) ∧
      Gives (.holdoverTimeout die trk true) s (h.bump d R.PHS_TCNT_MARGIN 1 t)) ∧
    (h.trkState d t ≠ 2 ∨ h.gapPassed d t = false → ∀ a, Gives (.gapLimit die trk a) s h) ∧
    (h.trkState d t ≠ 2 → ∀ a, Gives (.trackerSilence die trk a) s h) ∧
    (h.trkState d t ≠ 3 → ∀ a, Gives (.holdoverTimeout die trk a) s h) ∧
    (h.rd d R.PHS_TPACE_PACE t ≠ 0 → live → GivesWith (.pacingRaise die trk) s
      (h.phaseRaise d (h.rd d R.PHS_TCFG_PUMP t) (h.rd d R.PHS_TCFG_PCH t)) fun u => u.rd d R.PMP_PHPEND_PHP (h.rd d R.PHS_TCFG_PUMP t) =
        low R.PMP_PHPEND_PHP.w (h.rd d R.PMP_PHPEND_PHP (h.rd d R.PHS_TCFG_PUMP t) ||| 2 ^ h.rd d R.PHS_TCFG_PCH t)) ∧
    (Completes (.trackerLiveRead die trk) s fun u => { u.hw with regs := h.regs } = h ∧
      u.hw.onlyAt h [R.PHS_TPHLO_VALUE.key d t 0, R.PHS_TPHHI_VALUE.key d t 0, R.PHS_TVEL_VALUE.key d t 0, R.PHS_TRAW_VALUE.key d t 0] ∧
      u.hw.rd d R.PHS_TPHLO_VALUE t = h.estimate d t % 2 ^ 32 ∧ u.hw.rd d R.PHS_TVEL_VALUE t = toTwos 32 (velOf (h.trk d t).w) % 2 ^ 32 ∧
      u.hw.rd d R.PHS_TRAW_VALUE t = toTwos 32 (h.trk d t).count % 2 ^ 32)

/-- R382 to R388, R390, R391, R392, R396, R397, R399, R591: the event engine: a commit, a firing, an event cell, the scan of an entry, arming and
disarming, the calibration of a placer. -/
def Obligations.EventEngine : Prop :=
  ∀ (s : State) (die : Die) (entry : Fin 4096), s.ready die →
    let h := s.hw
    let d := die.val
    let e := entry.val
    let g := h.trimPending d
    -- a pending crossing ahead by no more than 256 core cycles is committed for its predicted time
    (∀ n, (g.evt d).next.get none e = some n →
      let due := (g.evt d).pending.contains e = true ∧ 0 < g.toCross d e n ∧ g.toCross d e n ≤ g.speed d e * 256
      (due → Gives (.eventCommit die entry) s (g.commitAt d e n
        ((((g.now * 4 : Nat) + (2 * g.toCross d e n * 4 + g.speed d e).fdiv (2 * g.speed d e)) / 5).toNat))) ∧
      (¬due → Gives (.eventCommit die entry) s g)) ∧
    ((g.evt d).next.get none e = none → Gives (.eventCommit die entry) s g) ∧
    -- a committed event fires in its core cycle and not before, behind those of lower entries with the same Tc
    (∀ c, (h.evt d).committed.find? (·.entry == e) = some c →
      (h.now < c.tc * 5 / 4 → Gives (.eventFire die entry) s h) ∧
      (c.tc * 5 / 4 ≤ h.now → sameInstant (h.evt d).committed c = [] →
        Gives (.eventFire die entry) s ((h.setEvt d { h.evt d with committed := (h.evt d).committed.erase c }).fire d c)) ∧
      (c.tc * 5 / 4 ≤ h.now → Gives (.eventFire die entry) s
        ((each (sameInstant (h.evt d).committed c) (fun c k => k.fireCommit d c) h).fireCommit d c))) ∧
    ((h.evt d).committed.find? (·.entry == e) = none → Gives (.eventFire die entry) s h) ∧
    (∀ c rest, (h.evt d).cells = c :: rest → h.mayPresent d 6 c.klass = true →
      Gives (.eventCellPresent die) s ((h.setEvt d { h.evt d with cells := rest }).present d 6 ⟨c, none⟩)) ∧
    (∀ c rest, (h.evt d).cells = c :: rest → h.mayPresent d 6 c.klass = false → Gives (.eventCellPresent die) s h) ∧
    -- the scan: it completes whatever it meets
    (∀ bad trkBad, ∃ t, exec (.entryScan die entry bad trkBad) s = .next t) ∧
    (∀ trkBad, ((g.evt d).bad.contains e = false → Gives (.entryScan die entry true trkBad) s
      ((((g.journalErr d 3 e 2).setEvt d { g.evt d with bad := e :: (g.evt d).bad, pending := (g.evt d).pending.filter (· != e) }).raiseFault d 0x50 (8 + e)).report d 0x90 .trackerError e)) ∧
      ((g.evt d).bad.contains e = true → Gives (.entryScan die entry true trkBad) s g)) ∧
    (h.entryLive d e = true → Gives (.entryScan die entry false true) s (h.trackerFault d (h.rd d R.PHS_EVTC_TRK e))) ∧
    (let x := g.evt d
      let stays := g.entryLive d e = false ∨ (x.committed.any (·.entry == e)) = true
      (stays ∨ x.next.get none e = none → Gives (.entryScan die entry false false) s g) ∧
      (¬stays → ∀ n, x.next.get none e = some n →
        let near := g.crossingNear d e n = true ∧ x.pending.contains e = false ∧ x.pending.length < 64
        (0 < g.toCross d e n → near → Gives (.entryScan die entry false false) s (g.setPending d (x.pending ++ [e]))) ∧
        (0 < g.toCross d e n → ¬near → Gives (.entryScan die entry false false) s g) ∧
        (g.toCross d e n ≤ 0 → g.edgeBank d e = none →
          let k := if x.pending.contains e then g.setPending d (x.pending.filter (· != e)) else g
          Gives (.entryScan die entry false false) s
            (k.fire d ⟨e, n, g.coreNs, true, velOf (k.trk d (k.rd d R.PHS_EVTC_TRK e)).w⟩)) ∧
        (g.toCross d e n ≤ 0 → ∀ b, g.edgeBank d e = some b →
          let tc := (placeEdge x.edges b g.coreNs).1
          let j := g.noteEdge d b tc
          let k := if x.pending.contains e then j.setPending d (x.pending.filter (· != e)) else j
          Gives (.entryScan die entry false false) s (k.fire d ⟨e, n, tc, true, velOf (k.trk d (k.rd d R.PHS_EVTC_TRK e)).w⟩)))) ∧
    (h.on d R.PHS_EVTC_ARM e = true → Gives (.entryArm die entry true false) s (h.flag d R.PHS_EVTC_ARM e)) ∧
    (h.on d R.PHS_EVTC_ARM e = false → Gives (.entryArm die entry true false) s ((h.flag d R.PHS_EVTC_ARM e).initNext d e)) ∧
    (let k := if h.on d R.PHS_EVTC_ARM e then h.flag d R.PHS_EVTC_ARM e else (h.flag d R.PHS_EVTC_ARM e).initNext d e;
      Gives (.entryArm die entry true true) s (eventFire d e k)) ∧
    (∀ fires, Gives (.entryArm die entry false fires) s ((h.wr d R.PHS_EVTC_ARM 0 e).trimPending d)) ∧
    (((h.evt d).edges.filter fun x => x.1 == (h.evt d).placer / 3 && decide (h.coreNs ≤ x.2)).length < 3 →
      let k := h.setEvt d { h.evt d with placer := ((h.evt d).placer + 1) % 36 }
      Gives (.placerCalibration die true) s (k.journalErr d 15 (h.evt d).placer 0) ∧
      Gives (.placerCalibration die false) s ((((k.journalErr d 15 (h.evt d).placer 3).bump d R.PHS_EMISC_CALFAIL).raiseFault d 0x51 ((h.evt d).placer / 3)).report d 0x90 .placerCal ((h.evt d).placer / 3)))

/-! ## CAN controllers -/

/-- R347, R353 to R356, R359: the commands of a CAN controller and the ends of integration, recovery and sleep. -/
def Obligations.CanCommands : Prop :=
  ∀ (s : State) (die : Die) (can : Fin 16), s.ready die →
    let h := s.hw
    let d := die.val
    let k := can.val
    let st := h.canState d k
    (h.canRuns d k = true → st = 0 → (h.can d k).stopping = false →
        GivesWith (.canStart die can) s ((h.wr d R.CAN_CMD_CMD 1 k).integrate d k) fun t =>
      t.canState d k = 1 ∧ t.rd d R.CAN_CMD_CMD k = 1 ∧ (t.can d k).tx = none ∧ (t.can d k).stopping = false ∧ t.rd d R.CAN_STAT_TXING k = 0) ∧
    (st ≠ 0 → Gives (.canStart die can) s (h.wr d R.CAN_CMD_CMD 1 k)) ∧
    (st = 2 → (h.can d k).tx ≠ none → ∀ receiving, GivesWith (.canStop die can receiving) s
      ((h.wr d R.CAN_CMD_CMD 2 k).setCan d k { h.can d k with stopping := true }) fun t => (t.can d k).stopping = true ∧ t.canState d k = 2) ∧
    (st = 2 → (h.can d k).tx = none → h.on d R.CAN_STAT_RXING k = false → GivesWith (.canStop die can false) s
      (((h.wr d R.CAN_CMD_CMD 2 k).setCan d k { h.can d k with stopping := true }).settleStop d k) fun t =>
      (t.can d k).stopping = false ∧ t.canState d k = 0) ∧
    -- a frame being received completes first
    (st = 2 → (h.can d k).tx = none → GivesWith (.canStop die can true) s
      (((h.wr d R.CAN_CMD_CMD 2 k).flag d R.CAN_STAT_RXING k).setCan d k { h.can d k with stopping := true }) fun t =>
      (t.can d k).stopping = true ∧ t.canState d k = 2 ∧ t.rd d R.CAN_STAT_RXING k = 1) ∧
    (st = 3 ∨ st = 4 → (∀ receiving, Gives (.canStop die can receiving) s (h.wr d R.CAN_CMD_CMD 2 k)) ∧
        Gives (.canSleep die can) s (h.wr d R.CAN_CMD_CMD 4 k)) ∧
    (st = 3 → ∀ o, GivesWith (.canRecover die can o) s ((h.wr d R.CAN_CMD_CMD 3 k).setCanState d k 4) fun t =>
      t.canState d k = 4 ∧ t.rd d R.CAN_CMD_CMD k = 3) ∧
    (st ≠ 3 → ∀ o, Gives (.canRecover die can o) s (h.violation d o (0x60004 + 0x800 * k))) ∧
    (∀ o, Gives (.canCmdReserved die can o) s (h.violation d o (0x60004 + 0x800 * k))) ∧
    (h.canRuns d k = true → st ≠ 3 → st ≠ 4 → Gives (.canSleep die can) s ((h.wr d R.CAN_CMD_CMD 4 k).canSleepNow d k)) ∧
    (st = 5 → Gives (.canWake die can) s ((h.wr d R.CAN_CMD_CMD 5 k).canWakeUp d k 0)) ∧
    (st ≠ 5 → Gives (.canWake die can) s (h.wr d R.CAN_CMD_CMD 5 k)) ∧
    Gives (.canAbort die can) s (((h.wr d R.CAN_CMD_CMD 6 k).abortQueue d k 0 (h.can d k).tx).abortQueue d k 1 (h.can d k).tx) ∧
    (st = 1 → GivesWith (.integrationComplete die can) s (h.setCanState d k 2) fun t => t.canState d k = 2) ∧
    (st ≠ 1 → Gives (.integrationComplete die can) s h) ∧
    (st = 4 → GivesWith (.recoveryComplete die can) s
      (((((h.wr d R.CAN_ERR_TEC 0 k).wr d R.CAN_ERR_REC 0 k).setCanState d k 2).wr d R.CAN_STAT_EWARN 0 k).wr d R.CAN_STAT_CONF 0 k) fun t =>
      t.canState d k = 2 ∧ t.rd d R.CAN_ERR_TEC k = 0 ∧ t.rd d R.CAN_ERR_REC k = 0 ∧ t.rd d R.CAN_STAT_CONF k = 0 ∧ t.rd d R.CAN_STAT_EWARN k = 0) ∧
    (st = 5 → h.on d R.CAN_WKCFG_WAKEMODE k = false → Gives (.canWakeDominant die can false) s (h.canWakeUp d k 1) ∧
      Gives (.canWakeDominant die can true) s ((h.bump d R.CAN_CNTC_MARGIN 1 k).canWakeUp d k 1)) ∧
    (st = 5 → h.on d R.CAN_WKCFG_WAKEMODE k = true → ∀ (id : Word) (dlc : BitVec 4) data, bit id.toNat 31 = false →
      let g := h.wr d R.CAN_WKCFG_WKERR (h.rd d R.CAN_WKCFG_WKERR k - 1) k
      (g.wakeMatch d k id.toNat dlc.toNat data = true → ∀ l, Gives (.canWakeFrame die can id dlc data l) s (g.canWakeUp d k 2)) ∧
      (g.wakeMatch d k id.toNat dlc.toNat data = false → Gives (.canWakeFrame die can id dlc data true) s (g.canWakeUp d k 3) ∧
        Gives (.canWakeFrame die can id dlc data false) s g)) ∧
    (st = 5 → h.on d R.CAN_WKCFG_WAKEMODE k = true → ∀ n,
      let e := min 32 (h.rd d R.CAN_WKCFG_WKERR k + n)
      (e = 32 → Gives (.wakeErrorLimit die can n) s ((h.wr d R.CAN_WKCFG_WKERR 32 k).canWakeUp d k 3)) ∧
      (e ≠ 32 → GivesWith (.wakeErrorLimit die can n) s (h.wr d R.CAN_WKCFG_WKERR e k) fun t =>
        t.rd d R.CAN_WKCFG_WKERR k = e ∧ t.canState d k = 5)) ∧
    Gives (.canParityCheck die can true) s (h.canParity d k) ∧
    Gives (.canParityCheck die can false) s h

/-- R339, R342, R343, R346, R348 to R352, R354: the frames of a CAN controller: selection, a frame sent, arbitration lost, an error, a
frame received. -/
def Obligations.CanFrames : Prop :=
  ∀ (s : State) (die : Die) (can : Fin 16), s.ready die →
    let h := s.hw
    let d := die.val
    let k := can.val
    (h.canSends d k = true → (h.can d k).tx = none → ∀ upset,
      let g := (h.meet d (canQ k (if (h.cq d (canQ k 1)).cells.isEmpty then 0 else 1)) upset).2
      let g := Hw.cleanQueue d k 1 (g.cq d (canQ k 1)).cells.length g
      let g := Hw.cleanQueue d k 0 (g.cq d (canQ k 0)).cells.length g
      (g.selectable d k 1 = true → GivesWith (.frameSelection die can upset) s
        ((g.setCan d k { g.can d k with tx := some 1 }).flag d R.CAN_STAT_TXING k) fun t => (t.can d k).tx = some 1 ∧ t.rd d R.CAN_STAT_TXING k = 1) ∧
      (g.selectable d k 1 = false → g.selectable d k 0 = true → GivesWith (.frameSelection die can upset) s
        ((g.setCan d k { g.can d k with tx := some 0 }).flag d R.CAN_STAT_TXING k) fun t => (t.can d k).tx = some 0 ∧ t.rd d R.CAN_STAT_TXING k = 1) ∧
      (g.selectable d k 1 = false → g.selectable d k 0 = false → Gives (.frameSelection die can upset) s g)) ∧
    ((h.can d k).tx ≠ none → ∀ upset, Gives (.frameSelection die can upset) s h) ∧
    (∀ i, (h.can d k).tx = some i → Gives (.arbitrationLost die can) s ((h.failTx d k).flag d R.CAN_STAT_RXING k)) ∧
    ((h.can d k).tx = none → Gives (.arbitrationLost die can) s h ∧ ∀ v, Gives (.canFrameTransmitted die can v) s h) ∧
    (∀ i c rest v, (h.can d k).tx = some i → h.headCells d (canQ k i) = c :: rest →
      let more := if frameCells c = 2 then rest.take 1 else []
      let g := (((h.measureTdc d k v).endTx d k).dropFrame d k i).bump d R.CAN_CNTA_TXOK 1 k
      Gives (.canFrameTransmitted die can v) s ((((g.sentOk d k).echoSent d k c more).loopSent d k (h.rd d R.CAN_STAT_CONF k == 1)
          c more).settleStop d k)) ∧
    (h.canState d k = 2 → (h.can d k).tx.isSome = true → ∀ (lec : Fin 7) exempt extra,
      let g := h.wr d R.CAN_FLAGS_LEC lec.val k
      g.counts d k = true →
      let x := g.wr d R.CAN_ERR_TEC (min 256 (g.rd d R.CAN_ERR_TEC k + (if exempt then 0 else 8) + 8 * extra)) k
      Gives (.canError die can lec exempt extra none) s ((((x.failTx d k).wr d R.CAN_STAT_RXING 0 k).confine d k).settleStop d k)) ∧
    (h.canState d k ≠ 2 → ∀ lec exempt extra v, Gives (.canError die can lec exempt extra v) s h) ∧
    (h.canState d k = 2 → ∀ (id : Word) (dlc : BitVec 4) brs esi data limit,
      Gives (.canFrameReceived die can id dlc brs esi data true limit) s (h.canParity d k) ∧
      (bit id.toNat 31 = true → h.on d R.CAN_CFG_FDEN k = false →
        Gives (.canFrameReceived die can id dlc brs esi data false limit) s (h.fdUnexpected d k)) ∧
      (bit id.toNat 31 = false ∨ h.on d R.CAN_CFG_FDEN k = true → Gives (.canFrameReceived die can id dlc brs esi data false false) s
        (((((h.recDown d k).wr d R.CAN_STAT_RXING 0 k).deliverFrame d k id.toNat dlc.toNat brs esi data).settleStop d k)))) ∧
    (h.canState d k ≠ 2 → ∀ id dlc brs esi data parity limit, Gives (.canFrameReceived die can id dlc brs esi data parity limit) s h)

/-! ## Host ports and backplane bridges -/

/-- R427 to R433, R436, R451: the commands of a host port: memory requests in pieces, BAR4, configuration, resets, the link and the read
timer. -/
def Obligations.HostRequests : Prop :=
  ∀ (s : State) (die : Die), s.ready die → die.val < 2 →
    let h := s.hw
    let d := die.val
    let x := h.host d
    let m := h.msix.get .init d
    (h.on d R.BRG_HSTAT_LINKUP = true →
      (∀ (off : BitVec 40) len (tag : Fin 1024) (reqid : BitVec 16) u, Gives (.pcieMemoryRead die .bar4 off len tag reqid u) s
        (h.hostEnd d tag.val reqid.toNat 0 ((List.range len).map fun k => m.byte (off.toNat + k)))) ∧
      (∀ bar (off : BitVec 40) len (tag : Fin 1024) (reqid : BitVec 16) u, bar ≠ .bar4 → 0 < len → h.remoteReads d < 64 →
        let plan := h.readPlan d bar off.toNat len
        let g := h.setHost d { x with reads := x.reads ++ [⟨tag.val, reqid.toNat, h.waitingFor plan⟩],
                                      tagNext := (x.tagNext + plan.length) % 2 ^ 16 }
        GivesBoth (.pcieMemoryRead die bar off len tag reqid u) s (each plan (issueRead d tag.val reqid.toNat u) (g, s.pir))) ∧
      (∀ (off : BitVec 40) bytes (reqid : BitVec 16) u, Gives (.pcieMemoryWrite die .bar4 off bytes reqid u) s
        { h with msix := h.msix.put .init d (iter bytes.length (fun k m => m.writeByte (off.toNat + k) (bytes.getD k 0)) m).release }) ∧
      (∀ bar (off : BitVec 40) (bytes : List Byte) (reqid : BitVec 16) u, bar ≠ .bar4 → 0 < bytes.length →
        off.toNat % 64 + bytes.length ≤ 64 →
        (h.barTarget d bar off.toNat true = none → Gives (.pcieMemoryWrite die bar off bytes reqid u) s
          ((h.violation d (.host d)).endPosted (.host d) x.tagNext 0 reqid.toNat 1)) ∧
        (∀ a, h.barTarget d bar off.toNat true = some a → GivesBoth (.pcieMemoryWrite die bar off bytes reqid u) s
          (writePiece d reqid.toNat u a bytes (h, s.pir)))) ∧
      (∀ v be tag, Gives (.pcieConfiguration die false 0 v be tag) s
        (h.setHost d { x with last := some ⟨tag.val, 0, leBytes 4 (deviceId h.part * 2 ^ 16 + 0x1F4C)⟩ })) ∧
      (∀ (word : BitVec 10) v be tag, Gives (.pcieConfiguration die false word v be tag) s
        (h.setHost d { x with last := some ⟨tag.val, 0, leBytes 4 (h.configWord d (4 * word.toNat))⟩ })) ∧
      (∀ (word : BitVec 10) (v : Word) (tag : Fin 1024), 4 * word.toNat ≠ Config.msixCap →
        Completes (.pcieConfiguration die true word v 0xF tag) s fun t =>
          { t.hw with hosts := h.hosts } = h ∧ (∀ e, e ≠ d → t.hw.host e = h.host e) ∧
          (t.hw.host d).config.get 0 (4 * word.toNat) = v ∧ (t.hw.host d).last = some ⟨tag.val, 0, []⟩) ∧
      (∀ tag, Gives (.unsupportedRequest die tag) s (h.setHost d { x with last := some ⟨tag.val, 1, []⟩ })) ∧
      Gives (.functionLevelReset die) s (((h.journalHost d 2 0 0 0 0 []).hostLost d).clearFunction d) ∧
      Gives (.hostLinkDown die false) s ((h.journalHost d 4 0 0 0 0 []).hostLost d) ∧
      Gives (.hostLinkDown die true) s (((h.journalHost d 4 0 0 0 0 []).hostLost d).clearFunction d)) ∧
    (h.on d R.BRG_HSTAT_ENABLED = true → ∀ (speed : Fin 5) (width : Fin 3), GivesWith (.hostLinkUp die speed width) s
      ((((h.journalHost d 3 0 0 0 0 []).wr d R.BRG_HSTAT_LINKUP 1).wr d R.BRG_HSTAT_SPEED (speed.val + 1)).wr d R.BRG_HSTAT_WIDTH (2 ^ width.val))
          fun t =>
      t.rd d R.BRG_HSTAT_LINKUP = 1 ∧ t.rd d R.BRG_HSTAT_SPEED = speed.val + 1 ∧ t.rd d R.BRG_HSTAT_WIDTH = 2 ^ width.val) ∧
    (h.on d R.BRG_HSTAT_ENABLED = false → ∀ speed width, Gives (.hostLinkUp die speed width) s h) ∧
    (∀ r rest (tag : Fin 1024), x.reads = r :: rest → r.tag = tag.val → (r.pieces.any fun p => !h.localAddr p.addr) = true →
      Gives (.hostReadTimeout die tag true) s (h.bump d R.BRG_HCNT_MARGIN) ∧
      Gives (.hostReadTimeout die tag false) s ((h.hostEnd d r.tag r.reqid 4 []).bump d R.BRG_HCNT_CATMO))

/-- R437 to R442, R445 to R447, R451: the cycles of a backplane master at a bridge's slave side. -/
def Obligations.SlaveCycles : Prop :=
  ∀ (s : State) (die : Die), s.ready die →
    let h := s.hw
    let d := die.val
    let b := h.bp d
    let p := s.pir
    (b.held = none → ∀ (addr : Word) (am : BitVec 6) (wd : BusWidth) u,
      let a := addr.toNat
      let m := am.toNat
      let w := wd.bytes
      (h.answered d a m w false = none → Gives (.slaveRead die addr am wd u) s (h.busAnswer d .silent)) ∧
      (∀ c, h.answered d a m w false = some c →
        (c.locken = true → ∀ i ∈ [Instr.slaveRead die addr am wd u, .slaveLockRead die addr am wd u],
          GivesBoth i s (busSend d 0x44 b.tagNext c.addr m false w [] u
            (h.setBp d { b with tagNext := (b.tagNext + 1) % 2 ^ 16, held := some ⟨2, a, m, w, b.tagNext⟩, last := .silent,
                                lock := some ⟨c.addr, w, b.tagNext, c.rdonly, false⟩, asLow := true }, p))) ∧
        (c.locken = false → h.direct d c.addr = true ∨ h.on d R.BRG_BCFG_RTYMODE = true →
          GivesBoth (.slaveRead die addr am wd u) s (busSend d 0x40 b.tagNext c.addr m false w [] u
            (h.setBp d { b with tagNext := (b.tagNext + 1) % 2 ^ 16, held := some ⟨0, a, m, w, b.tagNext⟩, last := .silent }, p))) ∧
        (c.locken = false → h.direct d c.addr = false → h.on d R.BRG_BCFG_RTYMODE = false →
          (∀ i, findSlot b false a m w = some i → (b.slots.get none i).bind (·.got) = none →
            Gives (.slaveRead die addr am wd u) s (h.busAnswer d .retry)) ∧
          (∀ i data, findSlot b false a m w = some i → (b.slots.get none i).bind (·.got) = some (0, data) →
            Gives (.slaveRead die addr am wd u) s
              (h.setBp d { b with slots := b.slots.put none i none, last := .dtack (slice data 0 w) })) ∧
          (∀ i code data, findSlot b false a m w = some i → (b.slots.get none i).bind (·.got) = some (code, data) → code ≠ 0 →
            Gives (.slaveRead die addr am wd u) s (h.setBp d { b with slots := b.slots.put none i none, last := .berr })) ∧
          (findSlot b false a m w = none → ((List.range 16).find? fun i => (b.slots.get none i).isNone) = none →
            Gives (.slaveRead die addr am wd u) s ((h.busAnswer d .retry).bump d R.BRG_BCNTA_SLOTFULL)) ∧
          (∀ i, findSlot b false a m w = none → ((List.range 16).find? fun i => (b.slots.get none i).isNone) = some i →
            GivesBoth (.slaveRead die addr am wd u) s (busSend d 0x40 b.tagNext c.addr m false w [] u
              (h.setBp d { b with tagNext := (b.tagNext + 1) % 2 ^ 16, last := .retry,
                                  slots := b.slots.put none i (some ⟨false, a, m, w, b.tagNext, none⟩) }, p))))) ∧
      (∀ v : Word, let bs := leBytes w v.toNat
        (h.answered d a m w true = none → Gives (.slaveWrite die addr am wd v u) s (h.busAnswer d .silent)) ∧
        (∀ c, h.answered d a m w true = some c →
          (c.postw = true → GivesBoth (.slaveWrite die addr am wd v u) s (busSend d 0x41 b.tagNext c.addr m true w bs u
            (h.setBp d { b with tagNext := (b.tagNext + 1) % 2 ^ 16, last := .dtack [] }, p))) ∧
          (c.postw = false → h.direct d c.addr = true ∨ h.on d R.BRG_BCFG_RTYMODE = true →
            GivesBoth (.slaveWrite die addr am wd v u) s (busSend d 0x41 b.tagNext c.addr m false w bs u
              (h.setBp d { b with tagNext := (b.tagNext + 1) % 2 ^ 16, held := some ⟨1, a, m, w, b.tagNext⟩, last := .silent }, p)))))) ∧
    (b.asLow = true → b.held = none → ∀ v : Word,
      (b.lock = none → Gives (.slaveLockWrite die v) s (h.busAnswer d .berr)) ∧
      (∀ l, b.lock = some l → l.rdonly = true → Gives (.slaveLockWrite die v) s (h.busAnswer d .silent)) ∧
      (∀ l, b.lock = some l → l.rdonly = false → GivesBoth (.slaveLockWrite die v) s
        (busSend d 0x45 l.tag l.addr 0 false l.width (leBytes l.width v.toNat) .clean
          (h.setBp d { b with held := some ⟨3, 0, 0, l.width, l.tag⟩, last := .silent }, p)))) ∧
    (b.lock = none → b.waitAs = none → Gives (.asRelease die) s (h.setBp d { b with lock := none, asLow := false, waitAs := none })) ∧
    (∀ q, b.lock = none → b.waitAs = some q → Gives (.asRelease die) s
      (h.setBp d { b with lock := none, asLow := false, waitAs := none, masters := ⟨q, []⟩ :: b.masters })) ∧
    (∀ l, b.lock = some l → l.busy = true → b.awaitsLock = true → GivesBoth (.lockReadResend die) s
      (busSend d 0x44 l.tag l.addr 0 false l.width [] .clean (h.setBp d { b with lock := some { l with busy := false } }, p))) ∧
    (∀ l, b.lock = some l → l.busy = false → Gives (.lockReadResend die) s h) ∧
    (∀ c, b.held = some c → Gives (.holdmaxExpiry die true) s (h.bump d R.BRG_HCNT_MARGIN) ∧
      (c.kind = 2 → Gives (.holdmaxExpiry die false) s (h.setBp d { b with held := none, last := .retry })) ∧
      (c.kind ≠ 2 → Gives (.holdmaxExpiry die false) s (h.setBp d { b with held := none, last := .berr }))) ∧
    (b.held = none → ∀ same, Gives (.holdmaxExpiry die same) s h) ∧
    (∀ (i : Fin 16) x, (b.slots.get none i.val).bind (·.got) = some x → Gives (.slotTimeout die i true) s (h.bump d R.BRG_HCNT_MARGIN) ∧
      Gives (.slotTimeout die i false) s ((h.setBp d { b with slots := b.slots.put none i.val none }).bump d R.BRG_BCNTA_SLOTEXP)) ∧
    (∀ i : Fin 16, (b.slots.get none i.val).bind (·.got) = none → ∀ same, Gives (.slotTimeout die i same) s h)

/-- R437, R438, R443 to R445, R448, R449, R451: the master side of a backplane bridge, its locks, its interrupter, and BP_SYSRST_N. -/
def Obligations.MasterCycles : Prop :=
  ∀ (s : State) (die : Die), s.ready die →
    let h := s.hw
    let d := die.val
    let b := h.bp d
    (∀ o (off : Word) write posted bytes,
      let q := h.rowReq (if write = true then 0xA1 else 0xA0) d 8 off.toNat bytes.length o (write && posted) (if write = true then bytes else [])
      (h.gate d 8 off.toNat bytes.length write o = 0 → Gives (.masterAccess die o off write posted bytes) s
        (h.setBp d { b with masters := b.masters ++ [⟨q, []⟩] })) ∧
      (h.gate d 8 off.toNat bytes.length write o ≠ 0 → posted = false → Gives (.masterAccess die o off write posted bytes) s
        { h.turnAway (h.entryOf o) d 8 off.toNat o with reply := ⟨h.gate d 8 off.toNat bytes.length write o, []⟩ })) ∧
    (h.busOn d = true → h.on d R.BRG_BCFG_MODE = false → (h.running d).isSome = true →
      Gives (.busGrant die) s (h.setBp d { b with bus := true })) ∧
    (h.running d = none → Gives (.busGrant die) s h ∧ ∀ v, Gives (.strobeBusAccess die v) s h ∧ ∀ e, Gives (.masterCycleEnd die e v) s h ∧
      Gives (.fetchTimeout die) s h) ∧
    (∀ m, h.running d = some m → b.bus = true →
      (∀ v, Gives (.masterCycleEnd die true v) s ((h.bump d R.BRG_BCNTB_BERRM).endMaster d m 3 [])) ∧
      (∀ v : Word,
        let k := h.cycleWidth d m
        let got := m.done ++ leBytes k v.toNat
        (m.req.len ≤ got.length → Gives (.masterCycleEnd die false v) s (h.endMaster d m 0 (if m.req.isWrite then [] else got))) ∧
        (got.length < m.req.len → Gives (.masterCycleEnd die false v) s
          (h.setBp d { b with masters := ⟨m.req, got⟩ :: b.masters.drop 1 })))) ∧
    (∀ m, h.running d = some m →
      let g := (h.bump d R.BRG_BCNTB_BERRM).endMaster d m 4 []
      (g.bp d).lockBy = none → Gives (.fetchTimeout die) s (g.setBp d { g.bp d with bus := false, clear := false })) ∧
    (h.busOn d = true → h.on d R.BRG_BCFG_MODE = true → (h.running d).isSome = true → ∀ v : Word,
      let g := h.setBp d { b with bus := true }
      (h.on d R.BRG_BCFG_ACKMODE = true → Gives (.strobeBusAccess die v) s (cycleEnd d false v.toNat g)) ∧
      (h.on d R.BRG_BCFG_ACKMODE = false → Gives (.strobeBusAccess die v) s g)) ∧
    (b.bus = false → Gives (.busClear die) s h) ∧
    (b.bus = true → h.running d = none → b.lockBy = none → Gives (.busClear die) s (h.setBp d { b with bus := false })) ∧
    (b.bus = true → (h.running d).isSome = true ∨ b.lockBy ≠ none → Gives (.busClear die) s (h.setBp d { b with clear := true })) ∧
    (b.lockBy = none → Gives (.lockTimeout die none) s h) ∧
    (∀ l, b.lockBy = some l → Gives (.lockTimeout die none) s
      ((((h.setBp d { b with lockBy := none }).lockEnded d l).bump d R.BRG_BCNTB_LOCKTO).settleBus d)) ∧
    (∀ i l, (h.eng d).units[i]? = some l → GivesBoth (.lockTimeout die (some i)) s
      (retryParked (((h.dropLock l).lockEnded d l).bump d R.BRG_BCNTB_LOCKTO, s.pir))) ∧
    (h.irqLow d = true → ∀ n : Fin 8, n.val = h.rd d R.BRG_BIRQ_LEVEL → Gives (.interruptAcknowledge die n) s
      (h.setBp d { b with last := .dtack (leBytes 1 (h.rd d R.BRG_BIRQ_STATID)), acked := b.acked ||| h.irqSources d })) ∧
    (∀ n : Fin 8, h.irqLow d = false ∨ n.val ≠ h.rd d R.BRG_BIRQ_LEVEL → Gives (.interruptAcknowledge die n) s (h.busAnswer d .silent)) ∧
    (d < 2 → Gives (.backplaneSysreset die false) s { h with sysRst := h.sysRst.put false d false } ∧
      (∀ l, b.lock = some l → h.localAddr l.addr = false → b.waitAs = none → Gives (.asRelease die) s
        ((h.sendAccess d (.backplane d) 0x46 l.tag l.addr 0 false false l.width []).setBp d
          { b with lock := none, held := none, asLow := false, waitAs := none })) ∧
      (b.lock = none → b.waitAs = none → Gives (.backplaneSysreset die true) s
        (Hw.flushPort { h with
          bps := (h.setBp d { b with asLow := false, held := none, last := .silent, bus := false, clear := false, lockBy := none,
                                     lock := none, waitAs := none, masters := b.masters.map fun m => ⟨m.req, []⟩ }).bps,
          sysRst := h.sysRst.put false d true } d 5)))

/-! ## The Wellhouse -/

/-- R455, R458 to R465, R467, R475, R476, R480: the hot-swap channel, power-good, the ideal diodes and the store FET, in every node
state, Night included. -/
def Obligations.HotSwap : Prop :=
  ∀ s : State,
    let h := s.hw
    let w := h.wlh
    Gives .refclkQualified s { h with wlh := { w with refclk := true } } ∧
    (w.inWindow = false → w.hs = 0 ∨ w.hs = 5 → Gives .inputWindowEnter s { h with wlh := { w with inWindow := true, hs := 1 } }) ∧
    (w.inWindow = false → w.hs ≠ 0 → w.hs ≠ 5 → Gives .inputWindowEnter s { h with wlh := { w with inWindow := true } }) ∧
    (w.inWindow = true → Gives .inputWindowEnter s h) ∧
    (w.inWindow = true → w.hs = 1 ∨ w.hs = 2 → ∀ above, Gives (.inputWindowLeave above) s
      { h with wlh := { w with inWindow := false, hs := 0, gate := false } }) ∧
    (w.inWindow = true → w.hs = 3 → Gives (.inputWindowLeave true) s h ∧
      Gives (.inputWindowLeave false) s { h with wlh := { w with inWindow := false } }) ∧
    (w.hs = 1 → w.inWindow = true → Gives .insertionDelayEnd s { h with wlh := { w with hs := 2, gate := true, hold := false } }) ∧
    (w.hs ≠ 1 → Gives .insertionDelayEnd s h) ∧
    (w.hs = 2 → w.hold = false → Gives .hotswapOn s { h with wlh := { w with hs := 3, limit := false } }) ∧
    (w.hs ≠ 2 → Gives .hotswapOn s h) ∧
    (w.hs = 3 → w.timer = false → Gives (.powerGoodQualified false) s { h with wlh := { w with pg := true, off := false } }) ∧
    (w.timer = true → ∀ b, Gives (.powerGoodQualified b) s h) ∧
    Gives (.powerGoodQualified true) s h ∧
    (w.gate = true → Gives .currentLimitActive s { h with wlh := { w with limit := true, timer := true } } ∧
      Gives .fastTrip s { h with wlh := { w with hold := true, limit := true, timer := true, fastCnt := min (w.fastCnt + 1) 255,
                                                 flags := w.flags ||| 2 } }) ∧
    (w.gate = false → Gives .currentLimitActive s h ∧ Gives .fastTrip s h) ∧
    (w.hold = false → Gives .faultTimerClear s { h with wlh := { w with limit := false, timer := false } }) ∧
    (w.hold = true → Gives .faultTimerClear s h) ∧
    Gives .fastTripHoldEnd s { h with wlh := { w with hold := false } } ∧
    (w.timer = true → w.hs = 2 ∨ w.hs = 3 → w.pg = false → ∀ again : Bool, (again = true ↔ h.wconf R.WLH_INTIM_RETRY = 1 ∧ w.retry < 3) →
      Gives .faultTimerExpiry s { h with wlh := { w with gate := false, limit := false, timer := false, hold := false,
                                                         hs := if again = true then 4 else 5, flags := w.flags ||| 1 } }) ∧
    (w.timer = true → w.hs = 2 ∨ w.hs = 3 → w.pg = true → ∀ again : Bool, (again = true ↔ h.wconf R.WLH_INTIM_RETRY = 1 ∧ w.retry < 3) →
      let x : Wlh := { w with
          gate := false, limit := false, timer := false, hold := false, hs := if again = true then 4 else 5, flags := w.flags ||| 1 }
      GivesWith .faultTimerExpiry s (Hw.powerDrop { h with wlh := x }) fun t =>
        t.wlh.pg = false ∧ t.wlh.gate = false ∧ t.wlh.timer = false ∧ t.node.state = .night) ∧
    (w.timer = false → Gives .faultTimerExpiry s h) ∧
    (w.hs = 4 → w.inWindow = true → Gives .retryWaitEnd s
      { h with wlh := { w with retry := min 3 (w.retry + 1), hs := 2, gate := true, hold := false } }) ∧
    (w.hs ≠ 4 → Gives .retryWaitEnd s h) ∧
    (w.pg = true → Gives .retryCountClear s { h with wlh := { w with retry := 0 } } ∧ GivesWith .powerGoodDrop s h.powerDrop fun t =>
      t.wlh.pg = false ∧ t.wlh.store = false ∧ t.wlh.hs = w.hs ∧ t.wlh.gate = w.gate ∧ t.node.state = .night) ∧
    (w.pg = false → Gives .retryCountClear s h ∧ Gives .powerGoodDrop s h) ∧
    (w.hs = 3 → Gives .overvoltageEvent s { h with wlh := { w with flags := w.flags ||| 4 } }) ∧
    (w.hs ≠ 3 → Gives .overvoltageEvent s h) ∧
    Gives (.reverseTurnOff 0) s { h with
        wlh := { w with a := { w.a with diode := false }, revCnt := min (w.revCnt + 1) 255, flags := w.flags ||| 32 } } ∧
    Gives (.reverseTurnOff 1) s { h with
        wlh := { w with b := { w.b with diode := false }, revCnt := min (w.revCnt + 1) 255, flags := w.flags ||| 64 } } ∧
    Gives (.idealDiodeResume 0) s { h with wlh := { w with a := { w.a with diode := true } } } ∧
    Gives (.idealDiodeResume 1) s { h with wlh := { w with b := { w.b with diode := true } } } ∧
    (w.pg = true → w.off = false → Gives .storeFetConduct s { h with wlh := { w with store := true } }) ∧
    (w.pg = false → Gives .storeFetConduct s h) ∧
    Gives .storeFetOff s { h with wlh := { w with store := false } } ∧
    Gives (.holdupFault true) s { h with wlh := { w with margin := min (w.margin + 1) 255 } } ∧
    (w.pg = false → Gives (.holdupFault false) s h) ∧
    (w.pg = true → Gives (.holdupFault false) s (Hw.wlhFault { h with wlh := { w with flags := w.flags ||| 1024 } } 0x63 0))

/-- R452 to R454, R466, R468 to R474, R477, R478, R480: conversions, the frames of the links, AUTO, and the field feeds. -/
def Obligations.FeedsAndFrames : Prop :=
  ∀ s : State,
    let h := s.hw
    let w := h.wlh
    (∀ volts shunts,
      let g := wlhConvert (volts.map (·.toNat)) shunts h
      (g.wlh.auto = false ∨ g.wlh.bothLost = false → Gives (.wellhouseConversion volts shunts) s g) ∧
      (g.wlh.auto = true → g.wlh.bothLost = true → g.wlh.off = false → (volts.map (·.toNat)).getD 3 0 ≤ 8 * g.wconf R.WLH_HUV_VMIN →
        
        let x : Hw := { g with wlh := { g.wlh with off := true } };
        GivesWith (.wellhouseConversion volts shunts) s (if g.node.state = .night then x else x.enterNight) fun t => t.node.state = .night ∧
            t.wlh.off = true)) ∧
    (∀ die : Die, s.ready die →
      let d := die.val
      (let m := h.frameMirror d
       let x : Hw := { m with wlh := { m.wlh with frameAt := m.wlh.frameAt.put none d (some m.now) } }
       let new := h.wlhStat % 2 ^ 16
       let y := whenDo (new != (h.regAt (R.WLH_STAT_HSSTATE.key d 0 0)).toNat % 2 ^ 16) (fun g => g.journal d 6 new) x;
       d < 2 → Gives (.measurementFrame die) s ((y.endFault 0 0x60 d).endFault 1 0x60 d).checkGuar) ∧
      (d < 2 →
        (h.frameMirror d).rd d R.WLH_PF2_P = low 32 (w.sample.powers.getD 3 0) ∧
        (h.frameMirror d).rd d R.WLH_VAB_VLO = low 16 (w.sample.volts.getD 0 0) ∧
        (h.frameMirror d).rd d R.WLH_HUE_E = low 24 w.sample.energy ∧ (h.frameMirror d).wlh = w) ∧
      (2 ≤ d → Gives (.measurementFrame die) s h ∧ Gives (.controlFrameSend die) s h ∧ Gives (.wlhLinkSilent die) s h) ∧
      (d < 2 → d ≠ h.node.owner ∨ w.auto = false → w.bothLost = false → Gives (.controlFrameSend die) s h) ∧
      (d < 2 → d = h.node.owner → w.auto = true →
        let g := Hw.report { h with wlh := { w with auto := false } } h.node.owner 0xA8 .wlhLink d
        Gives (.controlFrameSend die) s ((g.raiseFault g.node.owner 0x60 d).sendWlhConf.fieldSelect).standingLoss) ∧
      (let g := (Hw.copyFlags { h with wlh := { w with flags := w.flags ||| 2 ^ (12 + d) } }).raiseFault d 0x60 d;
       d < 2 → Gives (.wlhLinkSilent die) s (if 1 < g.dies then g.raiseFault (1 - d) 0x60 d else g))) ∧
    Gives (.autoEntry true) s { h with wlh := { w with margin := min (w.margin + 1) 255 } } ∧
    (let g : Hw := { h with wlh := { w with auto := true, flags := w.flags ||| 2 ^ 11 } };
      (g.fieldAllowed = true → Gives (.autoEntry false) s g) ∧ (g.fieldAllowed = false → Gives (.autoEntry false) s g.fieldsOff) ∧
      (h.wconf R.WLH_FCFG_FAUTO = 1 → g.fieldAllowed = false)) ∧
    (w.fsel = 0 → ∀ both, Gives (.fieldFeedBad both) s h) ∧
    (w.fsel = 1 ∨ w.fsel = 2 → Gives (.fieldFeedBad true) s (Hw.checkFieldLoss { h with
      wlh := { w with f1 := { w.f1 with good := false }, f2 := { w.f2 with good := false }, fsel := 0, ftarget := none, fbreak := true } })) ∧
    (w.fsel = 1 → w.f2.good = true → Gives (.fieldFeedBad false) s (Hw.wlhFault { h with
      wlh := { w with f1 := { w.f1 with good := false }, fsel := 0, ftarget := some 2, fbreak := true } } 0x62 0)) ∧
    (w.fsel = 2 → w.f1.good = true → Gives (.fieldFeedBad false) s (Hw.wlhFault { h with
      wlh := { w with f2 := { w.f2 with good := false }, fsel := 0, ftarget := some 1, fbreak := true } } 0x62 1)) ∧
    (w.fbreak = true → Gives .bbmEnd s (Hw.fieldSelect { h with wlh := { w with fbreak := false } })) ∧
    (w.fbreak = false → Gives .bbmEnd s h) ∧
    (h.wconf R.WLH_FCFG_FRETEN = 1 → w.fsel = otherField h.preferred → w.fieldGood h.preferred = true →
      Gives .fieldReturn s { h with wlh := { w with fsel := 0, fbreak := true, ftarget := some h.preferred } }) ∧
    (h.wconf R.WLH_FCFG_FRETEN ≠ 1 → Gives .fieldReturn s h) ∧
    (w.fsel ≠ 0 → Gives .fieldOvercurrent s (Hw.wlhFault { h with
      wlh := { w with fsel := 0, ftarget := none, fbreak := true, foclat := true, flags := w.flags ||| 2 ^ 9 } } 0x62 (w.fsel - 1))) ∧
    (w.fsel = 0 → w.ftarget = none → Gives .fieldOvercurrent s h) ∧
    (s.awake → Gives .fieldResume s (Hw.fieldSelect (Hw.copyFlags { h.wr 0 R.WLH_FCMD_CMD 1 with
        wlh := { w with foclat := false, foff := false, flags := w.flags &&& (2 ^ 14 - 1 - 2 ^ 9) } })) ∧
      GivesWith .fieldOff s (Hw.fieldsOff { h.wr 0 R.WLH_FCMD_CMD 2 with wlh := { w with foff := true } }) fun t =>
        t.wlh.foff = true ∧ t.wlh.fsel = 0 ∧ t.wlh.ftarget = none ∧ t.rd 0 R.WLH_FCMD_CMD = 2)

/-- R468, R480, R560, R561: feeds present and lost, and the samples of the tamper sources. -/
def Obligations.FeedsAndTamper : Prop :=
  ∀ (s : State),
    let h := s.hw
    let w := h.wlh
    (∀ f : Fin 2, let g : Hw := { h with wlh := w.setFeed f.val { w.feed f.val with ever := true, ok := true } };
      (h.node.state = .night → Gives (.feedPresent f) s g) ∧
      (s.awake → w.bothLost = false → Gives (.feedPresent f) s (g.endFault g.node.owner 0x61 f.val).checkGuar) ∧
      (s.awake → w.bothLost = true → ((g.endFault g.node.owner 0x61 f.val).wlh.feed (1 - f.val)).ever = true →
        Gives (.feedPresent f) s ((g.endFault g.node.owner 0x61 f.val).raiseFeed (1 - f.val)).checkGuar)) ∧
    (∀ f : Fin 2, (w.feed f.val).ok = false → ∀ other, Gives (.feedLost f other) s h) ∧
    (∀ f : Fin 2, (w.feed f.val).ok = true →
      let g : Hw := { h with wlh := { w.setFeed f.val { w.feed f.val with ok := false } with flags := w.flags ||| 2 ^ (3 + f.val) } };
      ((w.feed (1 - f.val)).ok = true → Gives (.feedLost f false) s (g.raiseFeed f.val)) ∧
      ((w.feed (1 - f.val)).ok = false → s.awake → Gives (.feedLost f false) s g.standingLoss) ∧
      (h.node.state = .night → Gives (.feedLost f false) s g)) ∧
    (∀ holds, let n := h.nightDom
      let runs := tamperRuns n.tampCfg n.tampRun holds
      let g : Hw := { h with nightDom := { n with tampRun := runs } };
      (h.node.state = .night → tamperAlarms runs = [] → Gives (.tamperSample holds) s g) ∧
      (s.awake → tamperAlarms runs = [] → Gives (.tamperSample holds) s (g.wr 0 R.VLT_STAT_TAMPNOW (b2n (runs.any (0 < ·))))) ∧
      (∀ i, s.awake → tamperAlarms runs = [i] → Gives (.tamperSample holds) s
        (tamperAct i ((g.wr 0 R.VLT_STAT_TAMPNOW (b2n (runs.any (0 < ·)))).tamperEntry i))))

/-! ## Vault, Ledger, recorder and journal -/

/-- R540, R547, R549, R552 to R557, R562, R592: key requests and the access of the management pair, revocations, the entropy source,
the attestation statement and the clearing of the tamper log. -/
def Obligations.VaultCommands : Prop :=
  ∀ s : State, s.awake →
    let h := s.hw
    let own := h.node.owner
    (∀ die : Die, die.val < h.dies →
      let d := die.val
      (∀ (slot : Fin 64) (e : Fin 6),
        let k := h.keySlot d slot.val
        let u := h.vlt.inUse.filter fun x => x.1 != d * 8 + e.val
        -- in Dusk only the ledger's MAC has its key
        let mayHave := h.node.state ≠ .dusk ∨ e.val = 2
        (h.node.state = .dusk → e.val ≠ 2 →
          let g : Hw := { h with vlt := { h.vlt with inUse := u } };
          (∀ goesOn, Gives (.engineRequest die slot e goesOn) s g) ∧
          ∀ o (off : BitVec 40), o.isManagement = true → off.toNat ≤ 0xFFFF → Gives (.vaultCommand die o off slot e) s g) ∧
        (mayHave → k.valid = true → k.revoked = false → bit k.engines e.val = true →
          Gives (.engineRequest die slot e true) s { h with vlt := { h.vlt with inUse := u ++ [(d * 8 + e.val, slot.val)] } } ∧
          Gives (.engineRequest die slot e false) s { h with vlt := { h.vlt with inUse := u } } ∧
          (∀ o (off : BitVec 40), o.isManagement = true → off.toNat ≤ 0xFFFF →
            Gives (.vaultCommand die o off slot e) s { h with vlt := { h.vlt with inUse := u } })) ∧
        (mayHave → k.valid = false ∨ k.revoked = true ∨ bit k.engines e.val = false → ∀ goesOn,
          let g := ((h.flag 0 R.VLT_ERR_ENGREF).wr 0 R.VLT_ERR_LASTSLOT slot.val).report d 0xC0 .vaultError slot.val
          GivesWith (.engineRequest die slot e goesOn) s { g with vlt := { h.vlt with inUse := u } } fun t =>
            t.rd 0 R.VLT_ERR_ENGREF = 1 ∧ t.rd 0 R.VLT_ERR_LASTSLOT = slot.val) ∧
        (∀ o (off : BitVec 40), o.isManagement = false ∨ 0xFFFF < off.toNat → Gives (.vaultCommand die o off slot e) s (h.violation d o off.toNat))) ∧
      (∀ slot : Fin 64,
        let k := h.keySlot d slot.val
        let slots := h.family d slot.val
        let x := Hw.revokeOn d slots (0, h)
        (k.valid = true → k.revoked = false → Gives (.keySlotCheck die slot true false) s (x.2.afterRevoke d 3 slot.val slots x.1)) ∧
        (k.valid = false ∨ k.revoked = true → ∀ bad am, Gives (.keySlotCheck die slot bad am) s h) ∧
        (∀ am, Gives (.keySlotCheck die slot false am) s h) ∧ (∀ bad, Gives (.keySlotCheck die slot bad true) s h)) ∧
      (∀ o,
        (o.isManagement = false → h.node.state ≠ .run → h.node.state ≠ .degraded → h.node.state ≠ .safe →
          Gives (.attestationRequest die o) s (h.violation d o 0xE0020)) ∧
        (o.isManagement = true ∨ h.node.state = .run ∨ h.node.state = .degraded ∨ h.node.state = .safe →
          (h.vlt.producing = true → Gives (.attestationRequest die o) s (h.wr 0 R.VLT_ASTAT_REASON 1)) ∧
          (h.attestRefusal = 0 → 
            let g : Hw := { h with vlt := { h.vlt with producing := true, statement := [] } };
            GivesWith (.attestationRequest die o) s (((g.wr 0 R.VLT_ASTAT_STATE 1).wr 0 R.VLT_ASTAT_REASON 0).wr 0 R.VLT_ASTAT_LEN 0) fun t =>
              t.rd 0 R.VLT_ASTAT_STATE = 1 ∧ t.rd 0 R.VLT_ASTAT_REASON = 0 ∧ t.rd 0 R.VLT_ASTAT_LEN = 0) ∧
          (2 ≤ h.attestRefusal → GivesWith (.attestationRequest die o) s
            ((h.wr 0 R.VLT_ASTAT_STATE 3).wr 0 R.VLT_ASTAT_REASON h.attestRefusal) fun t =>
            t.rd 0 R.VLT_ASTAT_STATE = 3 ∧ t.rd 0 R.VLT_ASTAT_REASON = h.attestRefusal)))) ∧
    (∀ slot : Fin 64,
      let slots := h.family own slot.val
      let x := iter h.dies (fun d x => Hw.revokeOn d slots x) (0, h.wr 0 R.VLT_REVOKE_SLOT slot.val)
      (h.mayRevoke slot.val = true → Gives (.vltRevoke slot) s (x.2.afterRevoke x.2.node.owner 2 slot.val slots x.1)) ∧
      (h.mayRevoke slot.val = false → Gives (.vltRevoke slot) s h) ∧ (slot.val < 2 → h.mayRevoke slot.val = false)) ∧
    (let g := ((h.flag 0 R.VLT_ERR_ENT).wr 0 R.VLT_STAT_ENTOK 0).raiseFault own 0x80 0
      let g : Hw := { g with vlt := { g.vlt with entFail := true } }
      (g.vlt.producing = false → Gives .entropyHealthFail s g) ∧
      (g.vlt.producing = true → Gives .entropyHealthFail s
        (({ g with vlt := { g.vlt with producing := false } } : Hw).wr 0 R.VLT_ASTAT_STATE 3 |>.wr 0 R.VLT_ASTAT_REASON 4))) ∧
    (let g : Hw := { h.wr 0 R.VLT_STAT_ENTOK 1 with vlt := { h.vlt with entFail := false } };
      (h.nightDom.nightKey ≠ 0 → GivesWith .entropyHealthPass s g (fun t => t.rd 0 R.VLT_STAT_ENTOK = 1)) ∧
      (h.nightDom.nightKey = 0 → GivesWith .entropyHealthPass s g.drawNightKey (fun t => t.rd 0 R.VLT_STAT_ENTOK = 1))) ∧
    (h.vlt.producing = false → Gives .statementSigned s h) ∧
    (h.vlt.producing = true →
      let whole := h.statementBody ++ tlv 0xFF (Config.ecdsaSign (h.keySlot own 0).key h.statementBody h.draw.1.toNat)
      let g : Hw := { h.draw.2 with vlt := { h.vlt with producing := false, statement := whole, lastSigned := some h.now } }
      let g := (g.wr 0 R.VLT_ASTAT_STATE 2).wr 0 R.VLT_ASTAT_LEN whole.length
      Gives .statementSigned s (g.stageRequested (keyEntry 6 0 (leAt g.nonce 0 4) whole.length 0 0 own))) ∧
    (let g : Hw := { h with nightDom := { h.nightDom with log := [], tampRun := [] } };
      Gives .tamperLogClear s (g.showTamper.stageRequested (keyEntry 5 0 h.nightDom.log.length 0 0 0 g.showTamper.node.owner)))

/-- R484, R491, R492, R498, R499, R509: the page writes of the log NVM, the entries that wait, the archive mark, and the rebuild of
last_seq. -/
def Obligations.LedgerCommands : Prop :=
  ∀ s : State, s.awake →
    let h := s.hw
    let l := h.ldg
    (∀ e rest, l.staging = e :: rest → l.op = none → l.retry = none → h.mgt.headless = false →
      let p := e.slot * 64 / h.pageBytes
      let es := l.staging.takeWhile fun x => x.slot * 64 / h.pageBytes == p
      let g := wrapEntries es h
      Gives .ledgerPageWrite s { g with ldg := { g.ldg with op := some ⟨p, es.map (·.lseq), [], 1⟩, wpHigh := true } }) ∧
    (l.staging = [] ∨ l.op ≠ none ∨ l.retry ≠ none ∨ h.mgt.headless = true → Gives .ledgerPageWrite s h) ∧
    (∀ p, l.retry = some p → l.op = none → Gives .ledgerPageRetry s
      { h with ldg := { l with op := some { p with writes := 1 }, retry := none, wpHigh := true } }) ∧
    (l.retry = none ∨ l.op ≠ none → Gives .ledgerPageRetry s h) ∧
    (l.waiting = [] → Gives .requestedEntryWaitEnd s h) ∧
    (∀ b rest, l.waiting = b :: rest → l.staging.length < 20 → l.forced = [] → l.nextLseq % 1024 ≠ 0 → h.mgt.headless = false →
      h.holdupOk l.staging.length = true → Gives .requestedEntryWaitEnd s
        (drainWaiting 63 (Hw.stageNow { h with ldg := { l with waiting := rest } } b))) ∧
    (l.forced = [] → Gives .forcedEntryWaitEnd s h) ∧
    (24 ≤ l.staging.length → Gives .forcedEntryWaitEnd s h) ∧
    (∀ b rest, l.forced = b :: rest → l.staging.length < 24 → l.nextLseq % 1024 ≠ 0 → h.mgt.headless = false → Gives .forcedEntryWaitEnd s
      (drainForced 63 (Hw.stageOne { h with ldg := { l with forced := rest } } b))) ∧
    (∀ hi : Word,
      let g := h.wr 0 R.LDG_MARKHI_MARK hi.toNat
      let g : Hw := { g with ldg := { l with mark := h.rd 0 R.LDG_MARKLO_MARK + hi.toNat * 2 ^ 32 } }
      (g.nearFull = false → Gives (.archiveMark hi false) s g ∧ Gives (.archiveMark hi true) s (g.bump 0 R.LDG_CNT_MARGIN)) ∧
      (g.nearFull = true → g.on 0 R.LDG_STAT_NEARFULL = false → Gives (.archiveMark hi false) s
        ((g.flag 0 R.LDG_STAT_NEARFULL).report (g.flag 0 R.LDG_STAT_NEARFULL).node.owner 0xB0 .ledgerFull))) ∧
    (∀ use : List SlotView, (latestSet (ledgerViews h) = none → use = ledgerViews h) →
      (∀ a b, latestSet (ledgerViews h) = some (a, b) → use = (ledgerViews h).filter (afterSet a b)) →
      Gives .lastSeqRebuild s (Hw.flag { h with ldg := { l with lastSeq := use.foldl noteSeq .empty } } 0 R.LDG_STAT_READY))

/-- R500, R502, R503, R506 to R508: the intake of reports, the records, their copies and their clearing, and the Dusk record. -/
def Obligations.RecorderCommands : Prop :=
  ∀ s : State, s.awake →
    let h := s.hw
    (∀ die : Die, die.val < h.dies →
      let d := die.val
      let r := h.rcd d
      (r.pending = [] → Gives (.eventReport die) s h) ∧
      (∀ x, r.pending = [x] → r.input.length < 64 → Gives (.eventReport die) s (h.setRcd d
        { r with pending := [], lossNext := false, input := r.input ++ [if r.lossNext = true then { x with flags := x.flags + 8 } else x] })) ∧
      (∀ x, r.pending = [x] → 64 ≤ r.input.length → Gives (.eventReport die) s
        ((h.setRcd d { r with pending := [], lossNext := true }).bump d R.EVR_CNT_DROPPED)) ∧
      (r.input = [] → Gives (.recordWrite die) s h) ∧
      (∀ x rest, r.input = x :: rest →
        let sq := h.rd d R.EVR_SEQ_VALUE % 0xFFFFFFFF + 1
        bit x.flags 0 = false → bit x.flags 2 = false → r.slots.get none ((sq - 1) % 4096) = none →
        Gives (.recordWrite die) s ((h.setRcd d { r with input := rest, slots := r.slots.put none ((sq - 1) % 4096) (some ⟨sq, x⟩),
                                                         uncopied := r.uncopied ++ [sq] }).wr d R.EVR_SEQ_VALUE sq)) ∧
      (∀ x rest, r.input = x :: rest → Gives (.recordWrite die) s (writeRecord d x (h.setRcd d { r with input := rest }))) ∧
      (∀ o, r.clrOrigin = some o → (∀ o', Gives (.evrClr die o') s h) ∧
        (h.mgt.headless = true → Gives (.clearRetry die) s h) ∧
        (h.mgt.headless = false → h.ldg.nextLseq % 1024 ≠ 0 →
          (h.requestedWaits = true → Gives (.clearRetry die) s h) ∧
          (h.requestedWaits = false → h.holdupOk h.ldg.staging.length = true → Gives (.clearRetry die) s (applyClear d o h)) ∧
          (h.requestedWaits = false → h.holdupOk h.ldg.staging.length = false → Gives (.clearRetry die) s
            ((h.setRcd d { r with clrOrigin := none }).wr d R.EVR_CLR_CLRST 2)))) ∧
      (r.clrOrigin = none → Gives (.clearRetry die) s h ∧
        ∀ o, Gives (.evrClr die o) s (tryClear d ((h.setRcd d { r with clrOrigin := some o }).wr d R.EVR_CLR_CLRST 1)))) ∧
    (let u := uncopiedAll h
      let per := h.pageBytes / 32
      (∀ aged, u = [] ∨ h.ldg.op ≠ none ∨ h.holdupOk h.ldg.staging.length = false ∨ h.node.replay = true ∨
        (h.node.state = .dusk ∧ h.ldg.staging ≠ []) → Gives (.recorderCopy aged) s h) ∧
      (∀ aged, u ≠ [] → aged = true ∨ per ≤ u.length → h.ldg.op = none → h.holdupOk h.ldg.staging.length = true →
        h.mgt.headless = false → h.node.replay = false → h.node.state ≠ .dusk ∨ h.ldg.staging = [] →
        let n := min u.length (per - h.ldg.copyPos % per)
        Gives (.recorderCopy aged) s { h with ldg := { h.ldg with op := some ⟨(recArea h + h.ldg.copyPos * 32) / h.pageBytes, [],
            (List.range n).map fun i => (h.ldg.copyPos + i, u.getD i (0, 0)), 1⟩, wpHigh := true } })) ∧
    (h.node.state ≠ .dusk ∨ h.ldg.staging ≠ [] ∨ h.ldg.op ≠ none → ∀ n, Gives (.duskRecord n) s h.duskCheck) ∧
    (h.node.state = .dusk → h.ldg.staging = [] → h.ldg.op = none → h.mgt.headless = false → ∀ n,
      let d := h.node.owner
      let g := writeRecord d (h.stampReport d 0x00 .duskRecord (uncopiedAll h).length 0) h
      let g := copyNow (d, g.rd d R.EVR_SEQ_VALUE) g
      Gives (.duskRecord n) s (each ((duskOrder g).take n) copyNow g).duskCheck)

/-- R519, R521 to R524, R528 to R530, R537, R538: digests, checkpoints, the end of a loss, freezes and re-arming. -/
def Obligations.JournalCommands : Prop :=
  ∀ s : State, s.awake →
    let h := s.hw
    (∀ die : Die, die.val < h.dies →
      let d := die.val
      let j := h.jrn d
      let st := h.rd d R.JRN_STAT_STATE
      (st = 5 → Gives (.digest die) s ((h.compareDigest d).setJrn d { (h.compareDigest d).jrn d with pirWrites := [] })) ∧
      -- digests and checkpoints are taken at a digest boundary only
      (st ≠ 5 → h.now % 1250000 ≠ 0 → Gives (.digest die) s h) ∧
      (st ≠ 5 → h.now % 1250000 = 0 → h.journaling d = false → Gives (.digest die) s (h.setJrn d { j with pirWrites := [] })) ∧
      (st ≠ 5 → h.now % 1250000 = 0 → h.journaling d = true →
        let k := h.wr d R.JRN_RATE_RATEHW (max (h.rd d R.JRN_RATE_RATEHW) (min j.bytesMs 0xFFFFFF))
        let g := k.setJrn d { k.jrn d with bytesMs := 0 }
        let g := (g.journalWell d).journal d 8 0 (pairWords ((g.digestWords d).map (·.toNat)))
        Gives (.digest die) s (g.setJrn d { g.jrn d with pirWrites := [] })) ∧
      (h.on d R.JRN_STAT_CKOPEN = false ∨ h.journaling d = false → Gives (.checkpointEnd die) s h) ∧
      (h.on d R.JRN_STAT_CKOPEN = true → h.journaling d = true →
        let ws := j.ckptWords
        let f := (h.jrnClose d).jrnFlush d
        let g := each ws (fun w h => h.jrnStore d w) f
        let g := g.setJrn d { g.jrn d with ckptWords := [], bytesMs := (g.jrn d).bytesMs + 8 * ws.length }
        (f.on d R.JRN_CFG_MODE = false → Gives (.checkpointEnd die) s
          (((g.wr d R.JRN_STAT_CKOPEN 0).journal d 9 6).wr d R.JRN_CKLAST_INDEX (g.jrn d).ckptIndex)) ∧
        (f.on d R.JRN_CFG_MODE = true → jrnSize < (f.jrn d).undrained + ws.length + 2 → Gives (.checkpointEnd die) s (f.beginLoss d))) ∧
      (j.inLoss = true → h.journaling d = true → j.buffer.length + 3 ≤ 2048 → h.on d R.JRN_CFG_MODE = false →
        Gives (.journalLossEnd die) s ((h.setJrn d { j with inLoss := false, ckptDue := true }).journal d 9 4)) ∧
      (j.inLoss = false → Gives (.journalLossEnd die) s h) ∧
      Gives (.jrnFreeze die) s (h.triggerFreeze ⟨1, 0, 0, 0⟩) ∧
      -- the window ends once POST x 64 KiB stand behind the freeze mark
      (st = 2 → (h.jrnClose d).postWritten d = true → let g := ((((h.jrnClose d).journal d 9 7).jrnClose d).jrnFlush d)
        Gives (.postComplete die) s (((g.setJrn d { g.jrn d with ckptWords := [] }).wr d R.JRN_STAT_STATE 3).wr d R.JRN_STAT_CKOPEN 0)) ∧
      (st ≠ 2 ∨ (h.jrnClose d).postWritten d = false → Gives (.postComplete die) s h)) ∧
    (h.now % 1250000 = 0 → ((List.range h.dies).any fun d => h.ckptNow d) = true →
        GivesBoth .checkpointBegin s (iter h.dies beginCheckpoint (h, s.pir))) ∧
    (h.now % 1250000 ≠ 0 ∨ ((List.range h.dies).any fun d => h.ckptNow d) = false → Gives .checkpointBegin s h) ∧
    (h.freeze = none → Gives .freezeEffect s h) ∧
    (∀ f, h.freeze = some f → h.now < f.cycle + 4 → Gives .freezeEffect s h) ∧
    (∀ f, h.freeze = some f → f.cycle + 4 ≤ h.now → Gives .freezeEffect s (Hw.eachDie { h with freeze := none } (freezeDie f))) ∧
    (∀ f d, h.rd d R.JRN_STAT_STATE = 2 ∨ h.rd d R.JRN_STAT_STATE = 3 → freezeDie f d h = h.bump d R.JRN_CNT_FRZIGN) ∧
    Gives .jrnRearm s (h.eachDie fun d g => if g.rd d R.JRN_STAT_STATE = 3 then
      (if (h.freeze.any fun f => f.cycle == h.now) = true then ((g.clearWindow d).startJournal d).bump d R.JRN_CNT_MARGIN
       else (g.clearWindow d).startJournal d) else g)

/-- R532, R535 to R537, R589: the commands of Replay mode, and the scrubber of the Process Image RAM. -/
def Obligations.ReplayCommands : Prop :=
  ∀ s : State, s.awake →
    let h := s.hw
    (∀ die : Die, die.val < h.dies →
      let d := die.val
      (h.node.replay = false → Gives (.replayLoad die) s h ∧ Gives (.replayRun die) s h ∧ Gives (.replayPause die) s h ∧
        (∀ o, Gives (.replayCmdReserved die o) s h) ∧ ∀ ws, Gives (.replayFeed die ws) s h) ∧
      (h.node.replay = true →
        GivesBoth (.replayLoad die) s (each (h.rctlDies d) loadDie (h.rctl d 1, s.pir)) ∧
        (d ≠ 0 → h.rd d R.JRN_STAT_STATE = 6 → Gives (.replayRun die) s
          ((h.wr d R.JRN_RCTL_CMD 2).wr d R.JRN_STAT_STATE 5)) ∧
        (d ≠ 0 → h.rd d R.JRN_STAT_STATE = 5 → Gives (.replayPause die) s
          ((h.wr d R.JRN_RCTL_CMD 3).wr d R.JRN_STAT_STATE 6)) ∧
        (d ≠ 0 → h.rd d R.JRN_STAT_STATE ≠ 6 → Gives (.replayRun die) s (h.wr d R.JRN_RCTL_CMD 2)) ∧
        (∀ o, Gives (.replayCmdReserved die o) s (h.violation d o 0xD0100)) ∧
        (∀ w, GivesWith (.replayFeed die [w]) s
          ((h.feedWord d (h.rd d R.JRN_RFEED_INDEX) w.toNat).wr d R.JRN_RFEED_INDEX ((h.rd d R.JRN_RFEED_INDEX + 1) % jrnSize)) fun t =>
          (t.jrn d).words.get 0 (h.rd d R.JRN_RFEED_INDEX % jrnSize) = w.toNat ∧
          t.rd d R.JRN_RFEED_INDEX = (h.rd d R.JRN_RFEED_INDEX + 1) % jrnSize)) ∧
      (h.rd d R.JRN_STAT_STATE = 5 → Gives (.replayEnd die) s (h.wr d R.JRN_STAT_STATE 7)) ∧
      (h.rd d R.JRN_STAT_STATE ≠ 5 → Gives (.replayEnd die) s h) ∧
      (let x := (h.cistern d).scrub
        let g := h.setScrub d { x with pirWord := (x.pirWord + 1) % 131072 }
        Gives (.processImageScrub die none) s g ∧ Gives (.processImageScrub die (some false)) s (g.journalErr d 2 x.pirWord 0) ∧
        Gives (.processImageScrub die (some true)) s ((g.journalErr d 2 x.pirWord 1).raiseFault d 0x15 (low 13 x.pirWord)))) ∧
    (h.on 0 R.JRN_RCTL_STOPEN = true → h.replayStopAt ≤ h.now → Gives .replayStop s
      (each (List.range h.dies) (fun e g => if g.rd e R.JRN_STAT_STATE = 5 then g.wr e R.JRN_STAT_STATE 6 else g) h)) ∧
    (h.on 0 R.JRN_RCTL_STOPEN = false ∨ h.now < h.replayStopAt → Gives .replayStop s h)

/-! ## Updates -/

/-- R572 to R579, R581 to R583: the update transaction, the handover of the dies, and the write-back of a ring-booted image. -/
def Obligations.UpdateCommands : Prop :=
  ∀ s : State, s.awake →
    let h := s.hw
    let m := h.mgt
    let own := h.node.owner
    (h.loaderState = false → Gives .updateStart s h) ∧
    (h.loaderState = true → m.isOpen = true → Gives .updateStart s ((h.wr 0 R.MGT_UCMD_CMD 1).wr 0 R.MGT_USTAT_CODE 0x0C)) ∧
    (h.loaderState = true → m.isOpen = false →
      let g := h.wr 0 R.MGT_UCMD_CMD 1
      let g : Hw := { g with mgt := { m with isOpen := true, staged := .empty, stagedLen := 0, norDone := false, handed := [],
                                             readbackFails := 0, oldFw := g.rd own R.MGT_VER_FWVER } }
      let g := ((g.wr 0 R.MGT_USTAT_USTATE 1).wr 0 R.MGT_USTAT_CODE 0).wr 0 R.MGT_ULEN_BYTES 0
      let x := g.stageRequested (g.updateBody 1 0 0)
      Gives .updateStart s (x.report g.node.owner 0x03 .updateEvent 0x100)) ∧
    (∀ die : Die, die.val < h.dies → ∀ o v,
      (m.isOpen = false ∨ h.ustate ≠ 1 → Gives (.mgtUdata die o v) s (h.violation die.val o 0xF0014)) ∧
      (m.isOpen = true → h.ustate = 1 → h.stageFull = true → Gives (.mgtUdata die o v) s (h.endUpdate 0x01)) ∧
      (m.isOpen = true → h.ustate = 1 → h.stageFull = false → 
        let x := iter 4 (fun k x => x.put 0 (m.stagedLen + k) ((leBytes 4 v.toNat).getD k 0)) m.staged
        Gives (.mgtUdata die o v) s (Hw.wr { h with
            mgt := { m with staged := x, stagedLen := m.stagedLen + 4 } } 0 R.MGT_ULEN_BYTES (m.stagedLen + 4)))) ∧
    (m.isOpen = false ∨ h.ustate ≠ 1 → Gives .updateCommit s h) ∧
    (m.isOpen = true → h.ustate = 1 →
      let g := (h.wr 0 R.MGT_UCMD_CMD 2).wr 0 R.MGT_USTAT_USTATE 2
      (g.judgeUpdate ≠ 0 → Gives .updateCommit s (g.endUpdate g.judgeUpdate)) ∧
      (g.judgeUpdate = 0 → Gives .updateCommit s (g.wr 0 R.MGT_USTAT_USTATE 3).eraseHeader)) ∧
    (m.isOpen = false → Gives .updateAbort s (h.wr 0 R.MGT_UCMD_CMD 3)) ∧
    (m.isOpen = true → Gives .updateAbort s ((h.wr 0 R.MGT_UCMD_CMD 3).endUpdate 0x0B)) ∧
    (∀ eq, m.isOpen = false ∨ h.ustate ≠ 3 → Gives (.norWriteComplete eq) s h ∧ Gives .holdupWaitTimeout s h) ∧
    (m.isOpen = true → h.ustate = 3 → Gives .holdupWaitTimeout s (h.endUpdate 0x09) ∧
      (let g := h.eraseHeader;
        (∀ eq, g.mgt.norDone = false ∨ g.holdupOk g.ldg.staging.length = false → Gives (.norWriteComplete eq) s g) ∧
        (g.mgt.norDone = true → g.holdupOk g.ldg.staging.length = true →
          (1 ≤ g.mgt.readbackFails → Gives (.norWriteComplete false) s (g.endUpdate 0x0A)) ∧
          (g.mgt.readbackFails = 0 → Gives (.norWriteComplete false) s { g with mgt := { g.mgt with readbackFails := 1 } }) ∧
          (let x := (g.norWrite 0 (g.stagedAt 0 g.mgt.stagedLen)).eachDie fun d g => g.flag d R.MGT_STAT_PENDING
            let y := x.stageRequested (x.updateBody 2 0 0)
            Gives (.norWriteComplete true) s (((y.report x.node.owner 0x03 .updateEvent 0x200).wr 0 R.MGT_USTAT_USTATE 4).showHandover))))) ∧
    (∀ a b, m.isOpen = false ∨ h.ustate ≠ 4 → Gives (.handover a b) s h ∧ Gives .handoverTimeout s h) ∧
    (∀ d, m.isOpen = true → h.ustate = 4 → h.nextHandover = some d →
      let x := headerOf (h.stagedAt 0 512)
      let g : Hw := { h with mgt := { m with handed := m.handed ++ [d] } }
      let at' := fun n => g.wr 0 R.MGT_USTAT_BLACKMAX (max (g.rd 0 R.MGT_USTAT_BLACKMAX) n);
      (∀ b : BitVec 16, let y := at' (min 65535 b.toNat)
        let z := (y.runFirmware d x (y.stagedAt x.fwOff x.fwLen))
        let z := z.stageRequested (y.updateBody 3 0 d)
        Gives (.handover true b) s (z.finishUpdate z.allAdopted) ∧
        Gives (.handover false b) s ((y.handoverFails d x).finishUpdate (y.handoverFails d x).allAdopted)) ∧
      Gives .handoverTimeout s (((at' 25000).handoverFails d x).finishUpdate false)) ∧
    (∀ bytes, h.loaderState = false ∨ h.node.replay = true ∨ h.rd 0 R.NOD_DAWN_SRC ≠ 3 ∨ h.on 0 R.MGT_CFG_RBWB = false ∨ m.isOpen = true →
      Gives (.ringBootWriteBack bytes) s h) ∧
    (∀ bytes, h.loaderState = true → h.node.replay = false → h.rd 0 R.NOD_DAWN_FALLBACK ≠ 0 → h.rd 0 R.NOD_DAWN_SRC = 3 →
      h.on 0 R.MGT_CFG_RBWB = true → m.isOpen = false →
      let hd := h.cfg.header
      let body := slice bytes 0x200 (hd.imgLen - 0x200)
      let g := (h.norWrite 0 (List.replicate 512 0xFF)).norWrite 0x200 body
      (hashBytes (Config.sha384 body) ≠ slice bytes 0x30 48 ∨ slice bytes 0x30 48 ≠ hd.imgHash → Gives (.ringBootWriteBack bytes) s g) ∧
      (hashBytes (Config.sha384 body) = slice bytes 0x30 48 → slice bytes 0x30 48 = hd.imgHash → g.holdupOk g.ldg.staging.length = true →
        let w := fun i => leAt hd.imgHash (4 * i) 4;
        Gives (.ringBootWriteBack bytes) s ((g.norWrite 0 (slice bytes 0 512)).stageRequested
          (ledgerBody 0x05 .loader (6 + hd.fwVer * 2 ^ 32 + hd.fwVer * 2 ^ 48) (w 0) (w 1) (w 2) (w 3)
              (some (g.norWrite 0 (slice bytes 0 512)).node.owner)))))
end

