-- ==== Sys2Proof/Laws/Map.lean ====
section
/-!
SUPPORT. Laws of the sparse map: what a key reads as after a write, and that a write keeps the canonical form.
-/

namespace Sys2Proof.Machine

variable {β : Type}

/-! ## Reads and writes -/

theorem lookupKey_removeKey_self (k : Nat) (l : List (Nat × β)) : lookupKey k (removeKey k l) = none := by
  induction l with
  | nil => rfl
  | cons x l ih =>
    obtain ⟨a, b⟩ := x
    simp only [removeKey]
    split
    · exact ih
    · rename_i h
      simp [lookupKey, h, ih]

theorem lookupKey_removeKey_of_ne {k j : Nat} (l : List (Nat × β)) (h : j ≠ k) :
    lookupKey j (removeKey k l) = lookupKey j l := by
  induction l with
  | nil => rfl
  | cons x l ih =>
    obtain ⟨a, b⟩ := x
    simp only [removeKey]
    split
    · rename_i e
      subst e
      simp [lookupKey, Ne.symm h, ih]
    · simp only [lookupKey, ih]

theorem lookupKey_insertKey_self (k : Nat) (v : β) (l : List (Nat × β)) (h : lookupKey k l = none) :
    lookupKey k (insertKey k v l) = some v := by
  induction l with
  | nil => simp [insertKey, lookupKey]
  | cons x l ih =>
    obtain ⟨a, b⟩ := x
    simp only [lookupKey] at h
    split at h
    · cases h
    · rename_i e
      simp only [insertKey]
      split
      · simp [lookupKey]
      · simp [lookupKey, e, ih h]

theorem lookupKey_insertKey_of_ne {k j : Nat} (v : β) (l : List (Nat × β)) (h : j ≠ k) :
    lookupKey j (insertKey k v l) = lookupKey j l := by
  induction l with
  | nil => simp [insertKey, lookupKey, Ne.symm h]
  | cons x l ih =>
    obtain ⟨a, b⟩ := x
    simp only [insertKey]
    split
    · simp [lookupKey, Ne.symm h]
    · simp only [lookupKey, ih]

/-- A read after a write of the same key gives the value written. -/
@[simp] theorem SMap.get_put_self [DecidableEq β] (dflt : β) (m : SMap β) (k : Nat) (v : β) : (m.put dflt k v).get dflt k = v := by
  unfold SMap.put SMap.get
  split
  · rename_i e
    simp [lookupKey_removeKey_self, e]
  · simp [lookupKey_insertKey_self k v _ (lookupKey_removeKey_self k _)]

/-- A write leaves what every other key reads as. -/
theorem SMap.get_put_of_ne [DecidableEq β] (dflt e : β) (m : SMap β) {k j : Nat} (v : β) (h : j ≠ k) :
    (m.put dflt k v).get e j = m.get e j := by
  unfold SMap.put SMap.get
  split
  · rw [lookupKey_removeKey_of_ne _ h]
  · rw [lookupKey_insertKey_of_ne _ _ h, lookupKey_removeKey_of_ne _ h]

theorem SMap.get_put [DecidableEq β] (dflt : β) (m : SMap β) (k j : Nat) (v : β) :
    (m.put dflt k v).get dflt j = if j = k then v else m.get dflt j := by
  split
  · rename_i e; subst e; simp
  · rename_i e; exact SMap.get_put_of_ne _ _ _ _ e

theorem removeKey_absent (k : Nat) (l : List (Nat × β)) (a : lookupKey k l = none) : removeKey k l = l := by
  induction l with
  | nil => rfl
  | cons x l ih =>
    obtain ⟨j, b⟩ := x
    simp only [lookupKey] at a
    split at a
    · cases a
    · rename_i e
      simp only [removeKey, if_neg e, ih a]

theorem removeKey_insertKey (k : Nat) (v : β) (l : List (Nat × β)) : removeKey k (insertKey k v l) = removeKey k l := by
  induction l with
  | nil => simp [insertKey, removeKey]
  | cons x l ih =>
    obtain ⟨j, b⟩ := x
    simp only [insertKey]
    split
    · simp [removeKey]
    · simp only [removeKey, ih]

/-- Of two writes of the same key the later stands. -/
theorem SMap.put_put [DecidableEq β] (dflt : β) (m : SMap β) (k : Nat) (v w : β) :
    (m.put dflt k v).put dflt k w = m.put dflt k w := by
  have e : removeKey k (m.put dflt k v).entries = removeKey k m.entries := by
    have a := removeKey_absent k _ (lookupKey_removeKey_self k m.entries)
    unfold SMap.put
    split
    · exact a
    · exact (removeKey_insertKey k v _).trans a
  generalize hg : m.put dflt k v = n at e
  unfold SMap.put
  rw [e]

@[simp] theorem SMap.get_empty (dflt : β) (k : Nat) : (SMap.empty : SMap β).get dflt k = dflt := rfl

/-! ## The canonical form -/

theorem entriesWf_mono [DecidableEq β] {dflt : β} {lo hi : Nat} (l : List (Nat × β)) (h : lo ≤ hi) (w : entriesWf dflt hi l = true) :
    entriesWf dflt lo l = true := by
  cases l with
  | nil => rfl
  | cons x l =>
    obtain ⟨a, b⟩ := x
    simp only [entriesWf, Bool.and_eq_true, decide_eq_true_eq] at w ⊢
    exact ⟨⟨by omega, w.1.2⟩, w.2⟩

theorem entriesWf_removeKey [DecidableEq β] {dflt : β} (k : Nat) (l : List (Nat × β)) :
    ∀ lo, entriesWf dflt lo l = true → entriesWf dflt lo (removeKey k l) = true := by
  induction l with
  | nil => intro lo h; exact h
  | cons x l ih =>
    obtain ⟨a, b⟩ := x
    intro lo w
    simp only [entriesWf, Bool.and_eq_true, decide_eq_true_eq] at w
    simp only [removeKey]
    split
    · exact entriesWf_mono _ (by omega) (ih _ w.2)
    · simp only [entriesWf, Bool.and_eq_true, decide_eq_true_eq]
      exact ⟨w.1, ih _ w.2⟩

theorem entriesWf_insertKey [DecidableEq β] {dflt : β} {k : Nat} {v : β} (hv : v ≠ dflt) (l : List (Nat × β)) :
    ∀ lo, lo ≤ k → lookupKey k l = none → entriesWf dflt lo l = true → entriesWf dflt lo (insertKey k v l) = true := by
  induction l with
  | nil => intro lo h _ _; simp [insertKey, entriesWf, h, hv]
  | cons x l ih =>
    obtain ⟨a, b⟩ := x
    intro lo hk hn w
    simp only [entriesWf, Bool.and_eq_true, decide_eq_true_eq] at w
    simp only [lookupKey] at hn
    split at hn
    · cases hn
    · rename_i ne
      simp only [insertKey]
      split
      · rename_i lt
        simp only [entriesWf, Bool.and_eq_true, decide_eq_true_eq]
        exact ⟨⟨hk, hv⟩, ⟨by omega, w.1.2⟩, w.2⟩
      · simp only [entriesWf, Bool.and_eq_true, decide_eq_true_eq]
        exact ⟨w.1, ih _ (by omega) hn w.2⟩

/-- A write keeps the canonical form. -/
theorem SMap.wf_put [DecidableEq β] {dflt : β} {m : SMap β} (k : Nat) (v : β) (w : m.wf dflt = true) : (m.put dflt k v).wf dflt = true := by
  unfold SMap.put SMap.wf at *
  split
  · exact entriesWf_removeKey k _ 0 w
  · rename_i hv
    exact entriesWf_insertKey hv _ 0 (Nat.zero_le k) (lookupKey_removeKey_self k _) (entriesWf_removeKey k _ 0 w)

theorem SMap.wf_empty [DecidableEq β] (dflt : β) : (SMap.empty : SMap β).wf dflt = true := rfl

/-! ## Folds -/

/-- What every step of a fold keeps, the fold keeps. -/
theorem foldl_keeps {α γ : Type} (P : α → Prop) (f : α → γ → α) (hf : ∀ a c, P a → P (f a c)) (l : List γ) :
    ∀ a, P a → P (l.foldl f a) := by
  induction l with
  | nil => intro a h; exact h
  | cons c l ih => intro a h; exact ih _ (hf a c h)

theorem iter_keeps {α : Type} (P : α → Prop) (n : Nat) (f : Nat → α → α) (hf : ∀ i a, P a → P (f i a)) (a : α) (h : P a) :
    P (iter n f a) := foldl_keeps P _ (fun a i => hf i a) _ a h

theorem each_keeps {α γ : Type} (P : α → Prop) (l : List γ) (f : γ → α → α) (hf : ∀ c a, P a → P (f c a)) (a : α) (h : P a) :
    P (each l f a) := foldl_keeps P _ (fun a c => hf c a) _ a h

theorem iter_succ {α : Type} (n : Nat) (f : Nat → α → α) (a : α) : iter (n + 1) f a = f n (iter n f a) := by
  simp [iter, List.range_succ]

@[simp] theorem iter_zero {α : Type} (f : Nat → α → α) (a : α) : iter 0 f a = a := rfl

@[simp] theorem each_nil {α γ : Type} (f : γ → α → α) (a : α) : each [] f a = a := rfl

@[simp] theorem each_cons {α γ : Type} (f : γ → α → α) (c : γ) (l : List γ) (a : α) : each (c :: l) f a = each l f (f c a) := rfl

end Sys2Proof.Machine
end

