-- ==== Sys2Proof/Laws/Regs.lean ====
section
/-!
SUPPORT. Laws of the register file: what a field reads as after a write of a field, and which registers the shared operations
leave alone.
-/

namespace Sys2Proof.Machine

/-! ## Bit fields -/

theorem bits_lt (n lo w : Nat) : bits n lo w < 2 ^ w := Nat.mod_lt _ (Nat.two_pow_pos w)

theorem low_lt (w n : Nat) : low w n < 2 ^ w := Nat.mod_lt _ (Nat.two_pow_pos w)

@[simp] theorem low_of_lt {w n : Nat} (h : n < 2 ^ w) : low w n = n := Nat.mod_eq_of_lt h

/-- A number as its bits above a field, the field, and those below it. -/
theorem split_field (n lo w : Nat) : n = n / 2 ^ (lo + w) * 2 ^ (lo + w) + bits n lo w * 2 ^ lo + n % 2 ^ lo := by
  have h1 := Nat.div_add_mod n (2 ^ lo)
  have h2 := Nat.div_add_mod (n / 2 ^ lo) (2 ^ w)
  have h3 : n / 2 ^ lo / 2 ^ w = n / 2 ^ (lo + w) := by rw [Nat.div_div_eq_div_mul, ← Nat.pow_add]
  unfold bits
  rw [h3] at h2
  have e : n / 2 ^ (lo + w) * 2 ^ (lo + w) = 2 ^ lo * (2 ^ w * (n / 2 ^ (lo + w))) := by
    rw [Nat.pow_add]; ring
  rw [e]
  calc n = 2 ^ lo * (n / 2 ^ lo) + n % 2 ^ lo := h1.symm
    _ = 2 ^ lo * (2 ^ w * (n / 2 ^ (lo + w)) + n / 2 ^ lo % 2 ^ w) + n % 2 ^ lo := by rw [h2]
    _ = _ := by ring

/-- The number that a field write leaves. -/
theorem setBits_sum (n lo w v : Nat) :
    n - bits n lo w * 2 ^ lo + low w v * 2 ^ lo = n / 2 ^ (lo + w) * 2 ^ (lo + w) + low w v * 2 ^ lo + n % 2 ^ lo := by
  have h := split_field n lo w
  omega

theorem field_sum_lt (a b lo w : Nat) (hb : b < 2 ^ w) (c : Nat) (hc : c < 2 ^ lo) :
    b * 2 ^ lo + c < 2 ^ (lo + w) ∧ (a * 2 ^ (lo + w) + b * 2 ^ lo + c) / 2 ^ (lo + w) = a := by
  have h1 : b * 2 ^ lo + c < 2 ^ (lo + w) := by
    have : (b + 1) * 2 ^ lo ≤ 2 ^ w * 2 ^ lo := Nat.mul_le_mul_right _ hb
    rw [Nat.pow_add, Nat.mul_comm (2 ^ lo)]
    have e : (b + 1) * 2 ^ lo = b * 2 ^ lo + 2 ^ lo := by ring
    omega
  refine ⟨h1, ?_⟩
  have : a * 2 ^ (lo + w) + b * 2 ^ lo + c = 2 ^ (lo + w) * a + (b * 2 ^ lo + c) := by ring
  rw [this, Nat.mul_add_div (Nat.two_pow_pos _), Nat.div_eq_of_lt h1, Nat.add_zero]

theorem setBits_toNat {r : Word} {lo w : Nat} (v : Nat) (hw : lo + w ≤ 32) :
    (setBits r lo w v).toNat = r.toNat / 2 ^ (lo + w) * 2 ^ (lo + w) + low w v * 2 ^ lo + r.toNat % 2 ^ lo := by
  unfold setBits
  rw [setBits_sum, BitVec.toNat_ofNat, Nat.mod_eq_of_lt]
  have h1 := field_sum_lt (r.toNat / 2 ^ (lo + w)) (low w v) lo w (low_lt w v) (r.toNat % 2 ^ lo) (Nat.mod_lt _ (Nat.two_pow_pos lo))
  have h2 : r.toNat < 2 ^ 32 := r.isLt
  have hp : (2 : Nat) ^ 32 = 2 ^ (32 - (lo + w)) * 2 ^ (lo + w) := by
    rw [← Nat.pow_add]; congr 1; omega
  have h4 : r.toNat / 2 ^ (lo + w) < 2 ^ (32 - (lo + w)) := by
    apply Nat.div_lt_of_lt_mul
    rw [Nat.mul_comm, ← hp]; exact h2
  have h5 : (r.toNat / 2 ^ (lo + w) + 1) * 2 ^ (lo + w) ≤ 2 ^ (32 - (lo + w)) * 2 ^ (lo + w) := Nat.mul_le_mul_right _ h4
  rw [← hp] at h5
  have e : (r.toNat / 2 ^ (lo + w) + 1) * 2 ^ (lo + w) = r.toNat / 2 ^ (lo + w) * 2 ^ (lo + w) + 2 ^ (lo + w) := by ring
  rw [e] at h5
  rw [Nat.add_assoc]
  exact Nat.lt_of_lt_of_le (Nat.add_lt_add_left h1.1 _) h5

/-- A field reads as the low bits of what was written into it. -/
theorem bits_setBits_self {r : Word} {lo w : Nat} (v : Nat) (hw : lo + w ≤ 32) :
    bits (setBits r lo w v).toNat lo w = v % 2 ^ w := by
  rw [setBits_toNat v hw]
  unfold bits
  have hc : r.toNat % 2 ^ lo < 2 ^ lo := Nat.mod_lt _ (Nat.two_pow_pos lo)
  have e : r.toNat / 2 ^ (lo + w) * 2 ^ (lo + w) + low w v * 2 ^ lo + r.toNat % 2 ^ lo =
      2 ^ lo * (2 ^ w * (r.toNat / 2 ^ (lo + w)) + low w v) + r.toNat % 2 ^ lo := by
    rw [Nat.pow_add]; ring
  rw [e, Nat.mul_add_div (Nat.two_pow_pos lo), Nat.div_eq_of_lt hc, Nat.add_zero, Nat.mul_add_mod, Nat.mod_eq_of_lt (low_lt w v)]
  rfl

/-- A field above the one written reads as before. -/
theorem bits_setBits_above {r : Word} {lo w : Nat} (v lo' w' : Nat) (hw : lo + w ≤ 32) (h : lo + w ≤ lo') :
    bits (setBits r lo w v).toNat lo' w' = bits r.toNat lo' w' := by
  rw [setBits_toNat v hw]
  unfold bits
  have hs := field_sum_lt (r.toNat / 2 ^ (lo + w)) (low w v) lo w (low_lt w v) (r.toNat % 2 ^ lo) (Nat.mod_lt _ (Nat.two_pow_pos lo))
  have e : (2 : Nat) ^ lo' = 2 ^ (lo + w) * 2 ^ (lo' - (lo + w)) := by
    rw [← Nat.pow_add]; congr 1; omega
  rw [e, ← Nat.div_div_eq_div_mul, ← Nat.div_div_eq_div_mul, hs.2]

/-- A field below the one written reads as before. -/
theorem bits_setBits_below {r : Word} {lo w : Nat} (v lo' w' : Nat) (hw : lo + w ≤ 32) (h : lo' + w' ≤ lo) :
    bits (setBits r lo w v).toNat lo' w' = bits r.toNat lo' w' := by
  rw [setBits_toNat v hw]
  have key : ∀ n, bits n lo' w' = bits (n % 2 ^ lo) lo' w' := by
    intro n
    unfold bits
    have e : (2 : Nat) ^ lo = 2 ^ (lo' + w') * 2 ^ (lo - (lo' + w')) := by
      rw [← Nat.pow_add]; congr 1; omega
    have h1 : n % 2 ^ (lo' + w') / 2 ^ lo' = n / 2 ^ lo' % 2 ^ w' := by
      rw [Nat.pow_add, Nat.mod_mul_right_div_self]
    have h2 : n % 2 ^ lo % 2 ^ (lo' + w') / 2 ^ lo' = n % 2 ^ lo / 2 ^ lo' % 2 ^ w' := by
      rw [Nat.pow_add, Nat.mod_mul_right_div_self]
    rw [← h1, ← h2, e, Nat.mod_mul_right_mod]
  rw [key, key r.toNat]
  congr 1
  have e : r.toNat / 2 ^ (lo + w) * 2 ^ (lo + w) + low w v * 2 ^ lo + r.toNat % 2 ^ lo =
      2 ^ lo * (2 ^ w * (r.toNat / 2 ^ (lo + w)) + low w v) + r.toNat % 2 ^ lo := by
    rw [Nat.pow_add]; ring
  rw [e, Nat.mul_add_mod, Nat.mod_mod]

/-! ## Registers -/

@[simp] theorem regAt_setRegAt_self (h : Hw) (k : Nat) (v : Word) : (h.setRegAt k v).regAt k = v := by
  simp [Hw.regAt, Hw.setRegAt]

theorem regAt_setRegAt_of_ne (h : Hw) {k j : Nat} (v : Word) (e : j ≠ k) : (h.setRegAt k v).regAt j = h.regAt j := by
  simp only [Hw.regAt, Hw.setRegAt]
  exact SMap.get_put_of_ne _ _ _ _ e

/-- A field reads as what was written into it. -/
theorem rd_wr_self (h : Hw) (d : Nat) (F : Fld) (v i j : Nat) (hw : F.lo + F.w ≤ 32) :
    (h.wr d F v i j).rd d F i j = v % 2 ^ F.w := by
  simp only [Hw.rd, Hw.wr, regAt_setRegAt_self]
  exact bits_setBits_self v hw

theorem regAt_wr_of_ne (h : Hw) (d : Nat) (F : Fld) (v i j : Nat) {k : Nat} (e : k ≠ F.key d i j) :
    (h.wr d F v i j).regAt k = h.regAt k := regAt_setRegAt_of_ne h _ e

/-- A field of another register reads as before. -/
theorem rd_wr_of_key_ne (h : Hw) (d : Nat) (F : Fld) (v i j e : Nat) (G : Fld) (k l : Nat) (ne : G.key e k l ≠ F.key d i j) :
    (h.wr d F v i j).rd e G k l = h.rd e G k l := by
  simp only [Hw.rd, regAt_wr_of_ne h d F v i j ne]

/-- Another field of the same register reads as before. -/
theorem rd_wr_of_field_ne (h : Hw) (d : Nat) (F : Fld) (v i j e : Nat) (G : Fld) (k l : Nat) (hk : G.key e k l = F.key d i j)
    (hw : F.lo + F.w ≤ 32) (ne : F.lo + F.w ≤ G.lo ∨ G.lo + G.w ≤ F.lo) :
    (h.wr d F v i j).rd e G k l = h.rd e G k l := by
  simp only [Hw.rd, Hw.wr, hk, regAt_setRegAt_self]
  rcases ne with ne | ne
  · exact bits_setBits_above v _ _ hw ne
  · exact bits_setBits_below v _ _ hw ne

/-- A one-bit field is set after its flag is set. -/
theorem on_flag_self (h : Hw) (d : Nat) (F : Fld) (i j : Nat) (hw : F.lo + F.w ≤ 32) (h1 : 1 ≤ F.w) :
    (h.flag d F i j).rd d F i j = 1 := by
  rw [Hw.flag, rd_wr_self h d F 1 i j hw, Nat.mod_eq_of_lt]
  exact Nat.one_lt_two_pow (by omega)

/-- A count goes up by one until it stops at its largest value. -/
theorem rd_bump_self (h : Hw) (d : Nat) (F : Fld) (n i j : Nat) (hw : F.lo + F.w ≤ 32) :
    (h.bump d F n i j).rd d F i j = min (h.rd d F i j + n) (2 ^ F.w - 1) := by
  rw [Hw.bump, rd_wr_self h d F _ i j hw, Nat.mod_eq_of_lt]
  · rfl
  · have := Nat.two_pow_pos F.w
    unfold satAdd
    omega

/-- Two fields of one table, in different registers of the same instance strides. -/
def Fld.apart (F G : Fld) : Bool := F.node == G.node && F.s1 == G.s1 && F.s2 == G.s2 && F.addr != G.addr

/-- Two fields of one register that share no bit. -/
def Fld.beside (F G : Fld) : Bool :=
  F.node == G.node && F.s1 == G.s1 && F.s2 == G.s2 && F.addr == G.addr && decide (F.lo + F.w ≤ 32) &&
    (decide (F.lo + F.w ≤ G.lo) || decide (G.lo + G.w ≤ F.lo))

/-- A field of another register of the same instance reads as before. -/
theorem rd_wr_apart (h : Hw) (d : Nat) (F G : Fld) (v i j : Nat) (a : F.apart G = true) :
    (h.wr d F v i j).rd d G i j = h.rd d G i j := by
  simp only [Fld.apart, Bool.and_eq_true, beq_iff_eq, bne_iff_ne] at a
  obtain ⟨⟨⟨a1, a2⟩, a3⟩, a4⟩ := a
  apply rd_wr_of_key_ne
  simp only [Fld.key, a1, a2, a3]
  omega

/-- A field beside the one written reads as before. -/
theorem rd_wr_beside (h : Hw) (d : Nat) (F G : Fld) (v i j : Nat) (a : F.beside G = true) :
    (h.wr d F v i j).rd d G i j = h.rd d G i j := by
  simp only [Fld.beside, Bool.and_eq_true, beq_iff_eq, decide_eq_true_eq, Bool.or_eq_true] at a
  obtain ⟨⟨⟨⟨⟨a1, a2⟩, a3⟩, a4⟩, a5⟩, a6⟩ := a
  exact rd_wr_of_field_ne h d F v i j d G i j (by simp only [Fld.key, a1, a2, a3, a4]) a5 a6

/-- The field written reads as the value's low bits. -/
theorem rd_wr (h : Hw) (d : Nat) (F : Fld) (v i j : Nat) (hw : decide (F.lo + F.w ≤ 32) = true) :
    (h.wr d F v i j).rd d F i j = low F.w v := rd_wr_self h d F v i j (of_decide_eq_true hw)

/-- A register file that is the same reads the same. -/
theorem rd_congr {g h : Hw} (e : g.regs = h.regs) (e1 : g.straps = h.straps) (e2 : g.grade = h.grade) (d : Nat) (F : Fld) (i j : Nat) :
    g.rd d F i j = h.rd d F i j := by
  simp only [Hw.rd, Hw.regAt, e, e1, e2]

end Sys2Proof.Machine
end

