-- ==== Sys2Proof/Laws/State.lean ====
section
/-!
SUPPORT. What the shared operations change: for each, that it changes nothing but the components named, and from that one
rewriting rule for every component that it leaves.
-/

namespace Sys2Proof.Machine

/-- A register write changes the register file only. -/
theorem setRegAt_only (h : Hw) (k : Nat) (v : Word) :
    ∃ x0, h.setRegAt k v = { h with regs := x0 } := by
  exact ⟨_, rfl⟩

@[simp] theorem setRegAt_frame (h : Hw) (k : Nat) (v : Word) :
    (h.setRegAt k v).part = h.part ∧ (h.setRegAt k v).grade = h.grade ∧ (h.setRegAt k v).straps = h.straps ∧
    (h.setRegAt k v).slotNo = h.slotNo ∧ (h.setRegAt k v).otp = h.otp ∧ (h.setRegAt k v).nightDom = h.nightDom ∧
    (h.setRegAt k v).logNvm = h.logNvm ∧ (h.setRegAt k v).nor = h.nor ∧ (h.setRegAt k v).qregs = h.qregs ∧
    (h.setRegAt k v).node = h.node ∧ (h.setRegAt k v).dawn = h.dawn ∧ (h.setRegAt k v).norIf = h.norIf ∧
    (h.setRegAt k v).cfg = h.cfg ∧
    (h.setRegAt k v).taps = h.taps ∧ (h.setRegAt k v).rcds = h.rcds ∧ (h.setRegAt k v).ldg = h.ldg ∧
    (h.setRegAt k v).jrns = h.jrns ∧ (h.setRegAt k v).freeze = h.freeze ∧ (h.setRegAt k v).vlt = h.vlt ∧
    (h.setRegAt k v).mgt = h.mgt ∧ (h.setRegAt k v).flt = h.flt ∧ (h.setRegAt k v).ftm = h.ftm ∧
    (h.setRegAt k v).msix = h.msix ∧ (h.setRegAt k v).errs = h.errs ∧ (h.setRegAt k v).queues = h.queues ∧
    (h.setRegAt k v).cis = h.cis ∧ (h.setRegAt k v).swc = h.swc ∧ (h.setRegAt k v).ports = h.ports ∧
    (h.setRegAt k v).trn = h.trn ∧ (h.setRegAt k v).rings = h.rings ∧ (h.setRegAt k v).dieLinkDown = h.dieLinkDown ∧
    (h.setRegAt k v).sysRst = h.sysRst ∧ (h.setRegAt k v).pins = h.pins ∧ (h.setRegAt k v).trks = h.trks ∧
    (h.setRegAt k v).evts = h.evts ∧ (h.setRegAt k v).cans = h.cans ∧ (h.setRegAt k v).pumps = h.pumps ∧
    (h.setRegAt k v).wlh = h.wlh ∧ (h.setRegAt k v).ehi = h.ehi ∧ (h.setRegAt k v).reply = h.reply ∧
    (h.setRegAt k v).engs = h.engs ∧ (h.setRegAt k v).hosts = h.hosts ∧ (h.setRegAt k v).bps = h.bps ∧
    (h.setRegAt k v).now = h.now ∧ (h.setRegAt k v).freeCtr = h.freeCtr := by
  obtain ⟨x0, e⟩ := setRegAt_only h k v
  rw [e]
  repeat' constructor

/-- A field write changes the register file only. -/
theorem wr_only (h : Hw) (d : Nat) (F : Fld) (v i j : Nat) :
    ∃ x0, h.wr d F v i j = { h with regs := x0 } := by
  exact ⟨_, rfl⟩

@[simp] theorem wr_frame (h : Hw) (d : Nat) (F : Fld) (v i j : Nat) :
    (h.wr d F v i j).part = h.part ∧ (h.wr d F v i j).grade = h.grade ∧ (h.wr d F v i j).straps = h.straps ∧
    (h.wr d F v i j).slotNo = h.slotNo ∧ (h.wr d F v i j).otp = h.otp ∧ (h.wr d F v i j).nightDom = h.nightDom ∧
    (h.wr d F v i j).logNvm = h.logNvm ∧ (h.wr d F v i j).nor = h.nor ∧ (h.wr d F v i j).qregs = h.qregs ∧
    (h.wr d F v i j).node = h.node ∧ (h.wr d F v i j).dawn = h.dawn ∧ (h.wr d F v i j).norIf = h.norIf ∧
    (h.wr d F v i j).cfg = h.cfg ∧
    (h.wr d F v i j).taps = h.taps ∧ (h.wr d F v i j).rcds = h.rcds ∧ (h.wr d F v i j).ldg = h.ldg ∧
    (h.wr d F v i j).jrns = h.jrns ∧ (h.wr d F v i j).freeze = h.freeze ∧ (h.wr d F v i j).vlt = h.vlt ∧
    (h.wr d F v i j).mgt = h.mgt ∧ (h.wr d F v i j).flt = h.flt ∧ (h.wr d F v i j).ftm = h.ftm ∧
    (h.wr d F v i j).msix = h.msix ∧ (h.wr d F v i j).errs = h.errs ∧ (h.wr d F v i j).queues = h.queues ∧
    (h.wr d F v i j).cis = h.cis ∧ (h.wr d F v i j).swc = h.swc ∧ (h.wr d F v i j).ports = h.ports ∧
    (h.wr d F v i j).trn = h.trn ∧ (h.wr d F v i j).rings = h.rings ∧ (h.wr d F v i j).dieLinkDown = h.dieLinkDown ∧
    (h.wr d F v i j).sysRst = h.sysRst ∧ (h.wr d F v i j).pins = h.pins ∧ (h.wr d F v i j).trks = h.trks ∧
    (h.wr d F v i j).evts = h.evts ∧ (h.wr d F v i j).cans = h.cans ∧ (h.wr d F v i j).pumps = h.pumps ∧
    (h.wr d F v i j).wlh = h.wlh ∧ (h.wr d F v i j).ehi = h.ehi ∧ (h.wr d F v i j).reply = h.reply ∧
    (h.wr d F v i j).engs = h.engs ∧ (h.wr d F v i j).hosts = h.hosts ∧ (h.wr d F v i j).bps = h.bps ∧
    (h.wr d F v i j).now = h.now ∧ (h.wr d F v i j).freeCtr = h.freeCtr := by
  obtain ⟨x0, e⟩ := wr_only h d F v i j
  rw [e]
  repeat' constructor

/-- A count changes the register file only. -/
theorem bump_only (h : Hw) (d : Nat) (F : Fld) (n i j : Nat) :
    ∃ x0, h.bump d F n i j = { h with regs := x0 } := by
  exact ⟨_, rfl⟩

@[simp] theorem bump_frame (h : Hw) (d : Nat) (F : Fld) (n i j : Nat) :
    (h.bump d F n i j).part = h.part ∧ (h.bump d F n i j).grade = h.grade ∧ (h.bump d F n i j).straps = h.straps ∧
    (h.bump d F n i j).slotNo = h.slotNo ∧ (h.bump d F n i j).otp = h.otp ∧ (h.bump d F n i j).nightDom = h.nightDom ∧
    (h.bump d F n i j).logNvm = h.logNvm ∧ (h.bump d F n i j).nor = h.nor ∧ (h.bump d F n i j).qregs = h.qregs ∧
    (h.bump d F n i j).node = h.node ∧ (h.bump d F n i j).dawn = h.dawn ∧ (h.bump d F n i j).norIf = h.norIf ∧
    (h.bump d F n i j).cfg = h.cfg ∧
    (h.bump d F n i j).taps = h.taps ∧ (h.bump d F n i j).rcds = h.rcds ∧ (h.bump d F n i j).ldg = h.ldg ∧
    (h.bump d F n i j).jrns = h.jrns ∧ (h.bump d F n i j).freeze = h.freeze ∧ (h.bump d F n i j).vlt = h.vlt ∧
    (h.bump d F n i j).mgt = h.mgt ∧ (h.bump d F n i j).flt = h.flt ∧ (h.bump d F n i j).ftm = h.ftm ∧
    (h.bump d F n i j).msix = h.msix ∧ (h.bump d F n i j).errs = h.errs ∧ (h.bump d F n i j).queues = h.queues ∧
    (h.bump d F n i j).cis = h.cis ∧ (h.bump d F n i j).swc = h.swc ∧ (h.bump d F n i j).ports = h.ports ∧
    (h.bump d F n i j).trn = h.trn ∧ (h.bump d F n i j).rings = h.rings ∧ (h.bump d F n i j).dieLinkDown = h.dieLinkDown ∧
    (h.bump d F n i j).sysRst = h.sysRst ∧ (h.bump d F n i j).pins = h.pins ∧ (h.bump d F n i j).trks = h.trks ∧
    (h.bump d F n i j).evts = h.evts ∧ (h.bump d F n i j).cans = h.cans ∧ (h.bump d F n i j).pumps = h.pumps ∧
    (h.bump d F n i j).wlh = h.wlh ∧ (h.bump d F n i j).ehi = h.ehi ∧ (h.bump d F n i j).reply = h.reply ∧
    (h.bump d F n i j).engs = h.engs ∧ (h.bump d F n i j).hosts = h.hosts ∧ (h.bump d F n i j).bps = h.bps ∧
    (h.bump d F n i j).now = h.now ∧ (h.bump d F n i j).freeCtr = h.freeCtr := by
  obtain ⟨x0, e⟩ := bump_only h d F n i j
  rw [e]
  repeat' constructor

/-- A flag changes the register file only. -/
theorem flag_only (h : Hw) (d : Nat) (F : Fld) (i j : Nat) :
    ∃ x0, h.flag d F i j = { h with regs := x0 } := by
  exact ⟨_, rfl⟩

@[simp] theorem flag_frame (h : Hw) (d : Nat) (F : Fld) (i j : Nat) :
    (h.flag d F i j).part = h.part ∧ (h.flag d F i j).grade = h.grade ∧ (h.flag d F i j).straps = h.straps ∧
    (h.flag d F i j).slotNo = h.slotNo ∧ (h.flag d F i j).otp = h.otp ∧ (h.flag d F i j).nightDom = h.nightDom ∧
    (h.flag d F i j).logNvm = h.logNvm ∧ (h.flag d F i j).nor = h.nor ∧ (h.flag d F i j).qregs = h.qregs ∧
    (h.flag d F i j).node = h.node ∧ (h.flag d F i j).dawn = h.dawn ∧ (h.flag d F i j).norIf = h.norIf ∧
    (h.flag d F i j).cfg = h.cfg ∧
    (h.flag d F i j).taps = h.taps ∧ (h.flag d F i j).rcds = h.rcds ∧ (h.flag d F i j).ldg = h.ldg ∧
    (h.flag d F i j).jrns = h.jrns ∧ (h.flag d F i j).freeze = h.freeze ∧ (h.flag d F i j).vlt = h.vlt ∧
    (h.flag d F i j).mgt = h.mgt ∧ (h.flag d F i j).flt = h.flt ∧ (h.flag d F i j).ftm = h.ftm ∧
    (h.flag d F i j).msix = h.msix ∧ (h.flag d F i j).errs = h.errs ∧ (h.flag d F i j).queues = h.queues ∧
    (h.flag d F i j).cis = h.cis ∧ (h.flag d F i j).swc = h.swc ∧ (h.flag d F i j).ports = h.ports ∧
    (h.flag d F i j).trn = h.trn ∧ (h.flag d F i j).rings = h.rings ∧ (h.flag d F i j).dieLinkDown = h.dieLinkDown ∧
    (h.flag d F i j).sysRst = h.sysRst ∧ (h.flag d F i j).pins = h.pins ∧ (h.flag d F i j).trks = h.trks ∧
    (h.flag d F i j).evts = h.evts ∧ (h.flag d F i j).cans = h.cans ∧ (h.flag d F i j).pumps = h.pumps ∧
    (h.flag d F i j).wlh = h.wlh ∧ (h.flag d F i j).ehi = h.ehi ∧ (h.flag d F i j).reply = h.reply ∧
    (h.flag d F i j).engs = h.engs ∧ (h.flag d F i j).hosts = h.hosts ∧ (h.flag d F i j).bps = h.bps ∧
    (h.flag d F i j).now = h.now ∧ (h.flag d F i j).freeCtr = h.freeCtr := by
  obtain ⟨x0, e⟩ := flag_only h d F i j
  rw [e]
  repeat' constructor

/-- A free value advances its counter only. -/
theorem draw_only (h : Hw) :
    ∃ x0, h.draw.2 = { h with freeCtr := x0 } := by
  exact ⟨_, rfl⟩

@[simp] theorem draw_frame (h : Hw) :
    (h.draw.2).part = h.part ∧ (h.draw.2).grade = h.grade ∧ (h.draw.2).straps = h.straps ∧ (h.draw.2).slotNo = h.slotNo ∧
    (h.draw.2).otp = h.otp ∧ (h.draw.2).nightDom = h.nightDom ∧ (h.draw.2).logNvm = h.logNvm ∧ (h.draw.2).nor = h.nor ∧
    (h.draw.2).regs = h.regs ∧ (h.draw.2).qregs = h.qregs ∧ (h.draw.2).node = h.node ∧ (h.draw.2).dawn = h.dawn ∧
    (h.draw.2).norIf = h.norIf ∧
    (h.draw.2).cfg = h.cfg ∧ (h.draw.2).taps = h.taps ∧ (h.draw.2).rcds = h.rcds ∧ (h.draw.2).ldg = h.ldg ∧
    (h.draw.2).jrns = h.jrns ∧ (h.draw.2).freeze = h.freeze ∧ (h.draw.2).vlt = h.vlt ∧ (h.draw.2).mgt = h.mgt ∧
    (h.draw.2).flt = h.flt ∧ (h.draw.2).ftm = h.ftm ∧ (h.draw.2).msix = h.msix ∧ (h.draw.2).errs = h.errs ∧
    (h.draw.2).queues = h.queues ∧ (h.draw.2).cis = h.cis ∧ (h.draw.2).swc = h.swc ∧ (h.draw.2).ports = h.ports ∧
    (h.draw.2).trn = h.trn ∧ (h.draw.2).rings = h.rings ∧ (h.draw.2).dieLinkDown = h.dieLinkDown ∧
    (h.draw.2).sysRst = h.sysRst ∧ (h.draw.2).pins = h.pins ∧ (h.draw.2).trks = h.trks ∧ (h.draw.2).evts = h.evts ∧
    (h.draw.2).cans = h.cans ∧ (h.draw.2).pumps = h.pumps ∧ (h.draw.2).wlh = h.wlh ∧ (h.draw.2).ehi = h.ehi ∧
    (h.draw.2).reply = h.reply ∧ (h.draw.2).engs = h.engs ∧ (h.draw.2).hosts = h.hosts ∧ (h.draw.2).bps = h.bps ∧
    (h.draw.2).now = h.now := by
  obtain ⟨x0, e⟩ := draw_only h
  rw [e]
  repeat' constructor

/-- A recorder is replaced alone. -/
theorem setRcd_only (h : Hw) (d : Nat) (r : Rcd) :
    ∃ x0, h.setRcd d r = { h with rcds := x0 } := by
  exact ⟨_, rfl⟩

@[simp] theorem setRcd_frame (h : Hw) (d : Nat) (r : Rcd) :
    (h.setRcd d r).part = h.part ∧ (h.setRcd d r).grade = h.grade ∧ (h.setRcd d r).straps = h.straps ∧
    (h.setRcd d r).slotNo = h.slotNo ∧ (h.setRcd d r).otp = h.otp ∧ (h.setRcd d r).nightDom = h.nightDom ∧
    (h.setRcd d r).logNvm = h.logNvm ∧ (h.setRcd d r).nor = h.nor ∧ (h.setRcd d r).regs = h.regs ∧
    (h.setRcd d r).qregs = h.qregs ∧ (h.setRcd d r).node = h.node ∧ (h.setRcd d r).dawn = h.dawn ∧
    (h.setRcd d r).norIf = h.norIf ∧ (h.setRcd d r).cfg = h.cfg ∧
    (h.setRcd d r).taps = h.taps ∧ (h.setRcd d r).ldg = h.ldg ∧ (h.setRcd d r).jrns = h.jrns ∧
    (h.setRcd d r).freeze = h.freeze ∧ (h.setRcd d r).vlt = h.vlt ∧ (h.setRcd d r).mgt = h.mgt ∧ (h.setRcd d r).flt = h.flt ∧
    (h.setRcd d r).ftm = h.ftm ∧ (h.setRcd d r).msix = h.msix ∧ (h.setRcd d r).errs = h.errs ∧
    (h.setRcd d r).queues = h.queues ∧ (h.setRcd d r).cis = h.cis ∧ (h.setRcd d r).swc = h.swc ∧
    (h.setRcd d r).ports = h.ports ∧ (h.setRcd d r).trn = h.trn ∧ (h.setRcd d r).rings = h.rings ∧
    (h.setRcd d r).dieLinkDown = h.dieLinkDown ∧ (h.setRcd d r).sysRst = h.sysRst ∧ (h.setRcd d r).pins = h.pins ∧
    (h.setRcd d r).trks = h.trks ∧ (h.setRcd d r).evts = h.evts ∧ (h.setRcd d r).cans = h.cans ∧
    (h.setRcd d r).pumps = h.pumps ∧ (h.setRcd d r).wlh = h.wlh ∧ (h.setRcd d r).ehi = h.ehi ∧ (h.setRcd d r).reply = h.reply ∧
    (h.setRcd d r).engs = h.engs ∧ (h.setRcd d r).hosts = h.hosts ∧ (h.setRcd d r).bps = h.bps ∧ (h.setRcd d r).now = h.now ∧
    (h.setRcd d r).freeCtr = h.freeCtr := by
  obtain ⟨x0, e⟩ := setRcd_only h d r
  rw [e]
  repeat' constructor

/-- A report of an event changes the recorder and its count of dropped reports. -/
theorem report_only (h : Hw) (d c : Nat) (k : EventKind) (x o : Nat) :
    ∃ x0 x1, h.report d c k x o = { h with rcds := x0, regs := x1 } := by
  simp only [Hw.report]
  split <;> exact ⟨_, _, rfl⟩

@[simp] theorem report_frame (h : Hw) (d c : Nat) (k : EventKind) (x o : Nat) :
    (h.report d c k x o).part = h.part ∧ (h.report d c k x o).grade = h.grade ∧ (h.report d c k x o).straps = h.straps ∧
    (h.report d c k x o).slotNo = h.slotNo ∧ (h.report d c k x o).otp = h.otp ∧ (h.report d c k x o).nightDom = h.nightDom ∧
    (h.report d c k x o).logNvm = h.logNvm ∧ (h.report d c k x o).nor = h.nor ∧ (h.report d c k x o).qregs = h.qregs ∧
    (h.report d c k x o).node = h.node ∧ (h.report d c k x o).dawn = h.dawn ∧ (h.report d c k x o).norIf = h.norIf ∧
    (h.report d c k x o).cfg = h.cfg ∧
    (h.report d c k x o).taps = h.taps ∧ (h.report d c k x o).ldg = h.ldg ∧ (h.report d c k x o).jrns = h.jrns ∧
    (h.report d c k x o).freeze = h.freeze ∧ (h.report d c k x o).vlt = h.vlt ∧ (h.report d c k x o).mgt = h.mgt ∧
    (h.report d c k x o).flt = h.flt ∧ (h.report d c k x o).ftm = h.ftm ∧ (h.report d c k x o).msix = h.msix ∧
    (h.report d c k x o).errs = h.errs ∧ (h.report d c k x o).queues = h.queues ∧ (h.report d c k x o).cis = h.cis ∧
    (h.report d c k x o).swc = h.swc ∧ (h.report d c k x o).ports = h.ports ∧ (h.report d c k x o).trn = h.trn ∧
    (h.report d c k x o).rings = h.rings ∧ (h.report d c k x o).dieLinkDown = h.dieLinkDown ∧
    (h.report d c k x o).sysRst = h.sysRst ∧ (h.report d c k x o).pins = h.pins ∧ (h.report d c k x o).trks = h.trks ∧
    (h.report d c k x o).evts = h.evts ∧ (h.report d c k x o).cans = h.cans ∧ (h.report d c k x o).pumps = h.pumps ∧
    (h.report d c k x o).wlh = h.wlh ∧ (h.report d c k x o).ehi = h.ehi ∧ (h.report d c k x o).reply = h.reply ∧
    (h.report d c k x o).engs = h.engs ∧ (h.report d c k x o).hosts = h.hosts ∧ (h.report d c k x o).bps = h.bps ∧
    (h.report d c k x o).now = h.now ∧ (h.report d c k x o).freeCtr = h.freeCtr := by
  obtain ⟨x0, x1, e⟩ := report_only h d c k x o
  rw [e]
  repeat' constructor

/-- An access violation is a report. -/
theorem violation_only (h : Hw) (d : Nat) (o : Origin) (a : Nat) :
    ∃ x0 x1, h.violation d o a = { h with rcds := x0, regs := x1 } := by
  exact report_only h d 0x02 .accessViolation a o.code

@[simp] theorem violation_frame (h : Hw) (d : Nat) (o : Origin) (a : Nat) :
    (h.violation d o a).part = h.part ∧ (h.violation d o a).grade = h.grade ∧ (h.violation d o a).straps = h.straps ∧
    (h.violation d o a).slotNo = h.slotNo ∧ (h.violation d o a).otp = h.otp ∧ (h.violation d o a).nightDom = h.nightDom ∧
    (h.violation d o a).logNvm = h.logNvm ∧ (h.violation d o a).nor = h.nor ∧ (h.violation d o a).qregs = h.qregs ∧
    (h.violation d o a).node = h.node ∧ (h.violation d o a).dawn = h.dawn ∧ (h.violation d o a).norIf = h.norIf ∧
    (h.violation d o a).cfg = h.cfg ∧
    (h.violation d o a).taps = h.taps ∧ (h.violation d o a).ldg = h.ldg ∧ (h.violation d o a).jrns = h.jrns ∧
    (h.violation d o a).freeze = h.freeze ∧ (h.violation d o a).vlt = h.vlt ∧ (h.violation d o a).mgt = h.mgt ∧
    (h.violation d o a).flt = h.flt ∧ (h.violation d o a).ftm = h.ftm ∧ (h.violation d o a).msix = h.msix ∧
    (h.violation d o a).errs = h.errs ∧ (h.violation d o a).queues = h.queues ∧ (h.violation d o a).cis = h.cis ∧
    (h.violation d o a).swc = h.swc ∧ (h.violation d o a).ports = h.ports ∧ (h.violation d o a).trn = h.trn ∧
    (h.violation d o a).rings = h.rings ∧ (h.violation d o a).dieLinkDown = h.dieLinkDown ∧
    (h.violation d o a).sysRst = h.sysRst ∧ (h.violation d o a).pins = h.pins ∧ (h.violation d o a).trks = h.trks ∧
    (h.violation d o a).evts = h.evts ∧ (h.violation d o a).cans = h.cans ∧ (h.violation d o a).pumps = h.pumps ∧
    (h.violation d o a).wlh = h.wlh ∧ (h.violation d o a).ehi = h.ehi ∧ (h.violation d o a).reply = h.reply ∧
    (h.violation d o a).engs = h.engs ∧ (h.violation d o a).hosts = h.hosts ∧ (h.violation d o a).bps = h.bps ∧
    (h.violation d o a).now = h.now ∧ (h.violation d o a).freeCtr = h.freeCtr := by
  obtain ⟨x0, x1, e⟩ := violation_only h d o a
  rw [e]
  repeat' constructor

/-- A fault report waits with the fault manager. -/
theorem raiseFault_only (h : Hw) (d c u : Nat) :
    ∃ x0, h.raiseFault d c u = { h with flt := x0 } := by
  exact ⟨_, rfl⟩

@[simp] theorem raiseFault_frame (h : Hw) (d c u : Nat) :
    (h.raiseFault d c u).part = h.part ∧ (h.raiseFault d c u).grade = h.grade ∧ (h.raiseFault d c u).straps = h.straps ∧
    (h.raiseFault d c u).slotNo = h.slotNo ∧ (h.raiseFault d c u).otp = h.otp ∧ (h.raiseFault d c u).nightDom = h.nightDom ∧
    (h.raiseFault d c u).logNvm = h.logNvm ∧ (h.raiseFault d c u).nor = h.nor ∧ (h.raiseFault d c u).regs = h.regs ∧
    (h.raiseFault d c u).qregs = h.qregs ∧ (h.raiseFault d c u).node = h.node ∧ (h.raiseFault d c u).dawn = h.dawn ∧
    (h.raiseFault d c u).norIf = h.norIf ∧
    (h.raiseFault d c u).cfg = h.cfg ∧ (h.raiseFault d c u).taps = h.taps ∧ (h.raiseFault d c u).rcds = h.rcds ∧
    (h.raiseFault d c u).ldg = h.ldg ∧ (h.raiseFault d c u).jrns = h.jrns ∧ (h.raiseFault d c u).freeze = h.freeze ∧
    (h.raiseFault d c u).vlt = h.vlt ∧ (h.raiseFault d c u).mgt = h.mgt ∧ (h.raiseFault d c u).ftm = h.ftm ∧
    (h.raiseFault d c u).msix = h.msix ∧ (h.raiseFault d c u).errs = h.errs ∧ (h.raiseFault d c u).queues = h.queues ∧
    (h.raiseFault d c u).cis = h.cis ∧ (h.raiseFault d c u).swc = h.swc ∧ (h.raiseFault d c u).ports = h.ports ∧
    (h.raiseFault d c u).trn = h.trn ∧ (h.raiseFault d c u).rings = h.rings ∧
    (h.raiseFault d c u).dieLinkDown = h.dieLinkDown ∧ (h.raiseFault d c u).sysRst = h.sysRst ∧
    (h.raiseFault d c u).pins = h.pins ∧ (h.raiseFault d c u).trks = h.trks ∧ (h.raiseFault d c u).evts = h.evts ∧
    (h.raiseFault d c u).cans = h.cans ∧ (h.raiseFault d c u).pumps = h.pumps ∧ (h.raiseFault d c u).wlh = h.wlh ∧
    (h.raiseFault d c u).ehi = h.ehi ∧ (h.raiseFault d c u).reply = h.reply ∧ (h.raiseFault d c u).engs = h.engs ∧
    (h.raiseFault d c u).hosts = h.hosts ∧ (h.raiseFault d c u).bps = h.bps ∧ (h.raiseFault d c u).now = h.now ∧
    (h.raiseFault d c u).freeCtr = h.freeCtr := by
  obtain ⟨x0, e⟩ := raiseFault_only h d c u
  rw [e]
  repeat' constructor

/-- A raised vector changes the host port's vectors and its interrupt source bits. -/
theorem raiseMsix_only (h : Hw) (d v : Nat) :
    ∃ x0 x1 x2, h.raiseMsix d v = { h with regs := x0, msix := x1, bps := x2 } := by
  simp only [Hw.raiseMsix]
  split
  · split <;> exact ⟨_, _, _, rfl⟩
  · exact ⟨_, _, _, rfl⟩

@[simp] theorem raiseMsix_frame (h : Hw) (d v : Nat) :
    (h.raiseMsix d v).part = h.part ∧ (h.raiseMsix d v).grade = h.grade ∧ (h.raiseMsix d v).straps = h.straps ∧
    (h.raiseMsix d v).slotNo = h.slotNo ∧ (h.raiseMsix d v).otp = h.otp ∧ (h.raiseMsix d v).nightDom = h.nightDom ∧
    (h.raiseMsix d v).logNvm = h.logNvm ∧ (h.raiseMsix d v).nor = h.nor ∧ (h.raiseMsix d v).qregs = h.qregs ∧
    (h.raiseMsix d v).node = h.node ∧ (h.raiseMsix d v).dawn = h.dawn ∧ (h.raiseMsix d v).norIf = h.norIf ∧
    (h.raiseMsix d v).cfg = h.cfg ∧
    (h.raiseMsix d v).taps = h.taps ∧ (h.raiseMsix d v).rcds = h.rcds ∧ (h.raiseMsix d v).ldg = h.ldg ∧
    (h.raiseMsix d v).jrns = h.jrns ∧ (h.raiseMsix d v).freeze = h.freeze ∧ (h.raiseMsix d v).vlt = h.vlt ∧
    (h.raiseMsix d v).mgt = h.mgt ∧ (h.raiseMsix d v).flt = h.flt ∧ (h.raiseMsix d v).ftm = h.ftm ∧
    (h.raiseMsix d v).errs = h.errs ∧ (h.raiseMsix d v).queues = h.queues ∧ (h.raiseMsix d v).cis = h.cis ∧
    (h.raiseMsix d v).swc = h.swc ∧ (h.raiseMsix d v).ports = h.ports ∧ (h.raiseMsix d v).trn = h.trn ∧
    (h.raiseMsix d v).rings = h.rings ∧ (h.raiseMsix d v).dieLinkDown = h.dieLinkDown ∧ (h.raiseMsix d v).sysRst = h.sysRst ∧
    (h.raiseMsix d v).pins = h.pins ∧ (h.raiseMsix d v).trks = h.trks ∧ (h.raiseMsix d v).evts = h.evts ∧
    (h.raiseMsix d v).cans = h.cans ∧ (h.raiseMsix d v).pumps = h.pumps ∧ (h.raiseMsix d v).wlh = h.wlh ∧
    (h.raiseMsix d v).ehi = h.ehi ∧ (h.raiseMsix d v).reply = h.reply ∧ (h.raiseMsix d v).engs = h.engs ∧
    (h.raiseMsix d v).hosts = h.hosts ∧ (h.raiseMsix d v).now = h.now ∧ (h.raiseMsix d v).freeCtr = h.freeCtr := by
  obtain ⟨x0, x1, x2, e⟩ := raiseMsix_only h d v
  rw [e]
  repeat' constructor

/-- A vector raised at every host port. -/
theorem raiseMsixNode_only (h : Hw) (v : Nat) :
    ∃ x0 x1 x2, h.raiseMsixNode v = { h with regs := x0, msix := x1, bps := x2 } := by
  obtain ⟨a, b, c, e⟩ := raiseMsix_only h 0 v
  obtain ⟨a', b', c', e'⟩ := raiseMsix_only (h.raiseMsix 0 v) 1 v
  exact ⟨a', b', c', by rw [Hw.raiseMsixNode, e', e]⟩

@[simp] theorem raiseMsixNode_frame (h : Hw) (v : Nat) :
    (h.raiseMsixNode v).part = h.part ∧ (h.raiseMsixNode v).grade = h.grade ∧ (h.raiseMsixNode v).straps = h.straps ∧
    (h.raiseMsixNode v).slotNo = h.slotNo ∧ (h.raiseMsixNode v).otp = h.otp ∧ (h.raiseMsixNode v).nightDom = h.nightDom ∧
    (h.raiseMsixNode v).logNvm = h.logNvm ∧ (h.raiseMsixNode v).nor = h.nor ∧ (h.raiseMsixNode v).qregs = h.qregs ∧
    (h.raiseMsixNode v).node = h.node ∧ (h.raiseMsixNode v).dawn = h.dawn ∧ (h.raiseMsixNode v).norIf = h.norIf ∧
    (h.raiseMsixNode v).cfg = h.cfg ∧
    (h.raiseMsixNode v).taps = h.taps ∧ (h.raiseMsixNode v).rcds = h.rcds ∧ (h.raiseMsixNode v).ldg = h.ldg ∧
    (h.raiseMsixNode v).jrns = h.jrns ∧ (h.raiseMsixNode v).freeze = h.freeze ∧ (h.raiseMsixNode v).vlt = h.vlt ∧
    (h.raiseMsixNode v).mgt = h.mgt ∧ (h.raiseMsixNode v).flt = h.flt ∧ (h.raiseMsixNode v).ftm = h.ftm ∧
    (h.raiseMsixNode v).errs = h.errs ∧ (h.raiseMsixNode v).queues = h.queues ∧ (h.raiseMsixNode v).cis = h.cis ∧
    (h.raiseMsixNode v).swc = h.swc ∧ (h.raiseMsixNode v).ports = h.ports ∧ (h.raiseMsixNode v).trn = h.trn ∧
    (h.raiseMsixNode v).rings = h.rings ∧ (h.raiseMsixNode v).dieLinkDown = h.dieLinkDown ∧
    (h.raiseMsixNode v).sysRst = h.sysRst ∧ (h.raiseMsixNode v).pins = h.pins ∧ (h.raiseMsixNode v).trks = h.trks ∧
    (h.raiseMsixNode v).evts = h.evts ∧ (h.raiseMsixNode v).cans = h.cans ∧ (h.raiseMsixNode v).pumps = h.pumps ∧
    (h.raiseMsixNode v).wlh = h.wlh ∧ (h.raiseMsixNode v).ehi = h.ehi ∧ (h.raiseMsixNode v).reply = h.reply ∧
    (h.raiseMsixNode v).engs = h.engs ∧ (h.raiseMsixNode v).hosts = h.hosts ∧ (h.raiseMsixNode v).now = h.now ∧
    (h.raiseMsixNode v).freeCtr = h.freeCtr := by
  obtain ⟨x0, x1, x2, e⟩ := raiseMsixNode_only h v
  rw [e]
  repeat' constructor

/-- An error packet joins those that wait, or counts as dropped. -/
theorem errPacket_only (h : Hw) (d : Nat) (p : ErrPkt) :
    ∃ x0 x1, h.errPacket d p = { h with regs := x0, errs := x1 } := by
  simp only [Hw.errPacket]
  split <;> exact ⟨_, _, rfl⟩

@[simp] theorem errPacket_frame (h : Hw) (d : Nat) (p : ErrPkt) :
    (h.errPacket d p).part = h.part ∧ (h.errPacket d p).grade = h.grade ∧ (h.errPacket d p).straps = h.straps ∧
    (h.errPacket d p).slotNo = h.slotNo ∧ (h.errPacket d p).otp = h.otp ∧ (h.errPacket d p).nightDom = h.nightDom ∧
    (h.errPacket d p).logNvm = h.logNvm ∧ (h.errPacket d p).nor = h.nor ∧ (h.errPacket d p).qregs = h.qregs ∧
    (h.errPacket d p).node = h.node ∧ (h.errPacket d p).dawn = h.dawn ∧ (h.errPacket d p).norIf = h.norIf ∧
    (h.errPacket d p).cfg = h.cfg ∧
    (h.errPacket d p).taps = h.taps ∧ (h.errPacket d p).rcds = h.rcds ∧ (h.errPacket d p).ldg = h.ldg ∧
    (h.errPacket d p).jrns = h.jrns ∧ (h.errPacket d p).freeze = h.freeze ∧ (h.errPacket d p).vlt = h.vlt ∧
    (h.errPacket d p).mgt = h.mgt ∧ (h.errPacket d p).flt = h.flt ∧ (h.errPacket d p).ftm = h.ftm ∧
    (h.errPacket d p).msix = h.msix ∧ (h.errPacket d p).queues = h.queues ∧ (h.errPacket d p).cis = h.cis ∧
    (h.errPacket d p).swc = h.swc ∧ (h.errPacket d p).ports = h.ports ∧ (h.errPacket d p).trn = h.trn ∧
    (h.errPacket d p).rings = h.rings ∧ (h.errPacket d p).dieLinkDown = h.dieLinkDown ∧ (h.errPacket d p).sysRst = h.sysRst ∧
    (h.errPacket d p).pins = h.pins ∧ (h.errPacket d p).trks = h.trks ∧ (h.errPacket d p).evts = h.evts ∧
    (h.errPacket d p).cans = h.cans ∧ (h.errPacket d p).pumps = h.pumps ∧ (h.errPacket d p).wlh = h.wlh ∧
    (h.errPacket d p).ehi = h.ehi ∧ (h.errPacket d p).reply = h.reply ∧ (h.errPacket d p).engs = h.engs ∧
    (h.errPacket d p).hosts = h.hosts ∧ (h.errPacket d p).bps = h.bps ∧ (h.errPacket d p).now = h.now ∧
    (h.errPacket d p).freeCtr = h.freeCtr := by
  obtain ⟨x0, x1, e⟩ := errPacket_only h d p
  rw [e]
  repeat' constructor

/-- A journal is replaced alone. -/
theorem setJrn_only (h : Hw) (d : Nat) (j : Jrn) :
    ∃ x0, h.setJrn d j = { h with jrns := x0 } := by
  exact ⟨_, rfl⟩

@[simp] theorem setJrn_frame (h : Hw) (d : Nat) (j : Jrn) :
    (h.setJrn d j).part = h.part ∧ (h.setJrn d j).grade = h.grade ∧ (h.setJrn d j).straps = h.straps ∧
    (h.setJrn d j).slotNo = h.slotNo ∧ (h.setJrn d j).otp = h.otp ∧ (h.setJrn d j).nightDom = h.nightDom ∧
    (h.setJrn d j).logNvm = h.logNvm ∧ (h.setJrn d j).nor = h.nor ∧ (h.setJrn d j).regs = h.regs ∧
    (h.setJrn d j).qregs = h.qregs ∧ (h.setJrn d j).node = h.node ∧ (h.setJrn d j).dawn = h.dawn ∧
    (h.setJrn d j).norIf = h.norIf ∧ (h.setJrn d j).cfg = h.cfg ∧
    (h.setJrn d j).taps = h.taps ∧ (h.setJrn d j).rcds = h.rcds ∧ (h.setJrn d j).ldg = h.ldg ∧
    (h.setJrn d j).freeze = h.freeze ∧ (h.setJrn d j).vlt = h.vlt ∧ (h.setJrn d j).mgt = h.mgt ∧ (h.setJrn d j).flt = h.flt ∧
    (h.setJrn d j).ftm = h.ftm ∧ (h.setJrn d j).msix = h.msix ∧ (h.setJrn d j).errs = h.errs ∧
    (h.setJrn d j).queues = h.queues ∧ (h.setJrn d j).cis = h.cis ∧ (h.setJrn d j).swc = h.swc ∧
    (h.setJrn d j).ports = h.ports ∧ (h.setJrn d j).trn = h.trn ∧ (h.setJrn d j).rings = h.rings ∧
    (h.setJrn d j).dieLinkDown = h.dieLinkDown ∧ (h.setJrn d j).sysRst = h.sysRst ∧ (h.setJrn d j).pins = h.pins ∧
    (h.setJrn d j).trks = h.trks ∧ (h.setJrn d j).evts = h.evts ∧ (h.setJrn d j).cans = h.cans ∧
    (h.setJrn d j).pumps = h.pumps ∧ (h.setJrn d j).wlh = h.wlh ∧ (h.setJrn d j).ehi = h.ehi ∧ (h.setJrn d j).reply = h.reply ∧
    (h.setJrn d j).engs = h.engs ∧ (h.setJrn d j).hosts = h.hosts ∧ (h.setJrn d j).bps = h.bps ∧ (h.setJrn d j).now = h.now ∧
    (h.setJrn d j).freeCtr = h.freeCtr := by
  obtain ⟨x0, e⟩ := setJrn_only h d j
  rw [e]
  repeat' constructor

/-- Words enter the input buffer of a journal. -/
theorem jrnPush_only (h : Hw) (d : Nat) (ws : List Nat) :
    ∃ x0, h.jrnPush d ws = { h with jrns := x0 } := by
  exact ⟨_, rfl⟩

@[simp] theorem jrnPush_frame (h : Hw) (d : Nat) (ws : List Nat) :
    (h.jrnPush d ws).part = h.part ∧ (h.jrnPush d ws).grade = h.grade ∧ (h.jrnPush d ws).straps = h.straps ∧
    (h.jrnPush d ws).slotNo = h.slotNo ∧ (h.jrnPush d ws).otp = h.otp ∧ (h.jrnPush d ws).nightDom = h.nightDom ∧
    (h.jrnPush d ws).logNvm = h.logNvm ∧ (h.jrnPush d ws).nor = h.nor ∧ (h.jrnPush d ws).regs = h.regs ∧
    (h.jrnPush d ws).qregs = h.qregs ∧ (h.jrnPush d ws).node = h.node ∧ (h.jrnPush d ws).dawn = h.dawn ∧
    (h.jrnPush d ws).norIf = h.norIf ∧
    (h.jrnPush d ws).cfg = h.cfg ∧ (h.jrnPush d ws).taps = h.taps ∧ (h.jrnPush d ws).rcds = h.rcds ∧
    (h.jrnPush d ws).ldg = h.ldg ∧ (h.jrnPush d ws).freeze = h.freeze ∧ (h.jrnPush d ws).vlt = h.vlt ∧
    (h.jrnPush d ws).mgt = h.mgt ∧ (h.jrnPush d ws).flt = h.flt ∧ (h.jrnPush d ws).ftm = h.ftm ∧
    (h.jrnPush d ws).msix = h.msix ∧ (h.jrnPush d ws).errs = h.errs ∧ (h.jrnPush d ws).queues = h.queues ∧
    (h.jrnPush d ws).cis = h.cis ∧ (h.jrnPush d ws).swc = h.swc ∧ (h.jrnPush d ws).ports = h.ports ∧
    (h.jrnPush d ws).trn = h.trn ∧ (h.jrnPush d ws).rings = h.rings ∧ (h.jrnPush d ws).dieLinkDown = h.dieLinkDown ∧
    (h.jrnPush d ws).sysRst = h.sysRst ∧ (h.jrnPush d ws).pins = h.pins ∧ (h.jrnPush d ws).trks = h.trks ∧
    (h.jrnPush d ws).evts = h.evts ∧ (h.jrnPush d ws).cans = h.cans ∧ (h.jrnPush d ws).pumps = h.pumps ∧
    (h.jrnPush d ws).wlh = h.wlh ∧ (h.jrnPush d ws).ehi = h.ehi ∧ (h.jrnPush d ws).reply = h.reply ∧
    (h.jrnPush d ws).engs = h.engs ∧ (h.jrnPush d ws).hosts = h.hosts ∧ (h.jrnPush d ws).bps = h.bps ∧
    (h.jrnPush d ws).now = h.now ∧ (h.jrnPush d ws).freeCtr = h.freeCtr := by
  obtain ⟨x0, e⟩ := jrnPush_only h d ws
  rw [e]
  repeat' constructor

/-- The beginning of a loss is counted and recorded. -/
@[simp] theorem beginLoss_frame (h : Hw) (d : Nat) :
    (h.beginLoss d).part = h.part ∧ (h.beginLoss d).grade = h.grade ∧ (h.beginLoss d).straps = h.straps ∧
    (h.beginLoss d).slotNo = h.slotNo ∧ (h.beginLoss d).otp = h.otp ∧ (h.beginLoss d).nightDom = h.nightDom ∧
    (h.beginLoss d).logNvm = h.logNvm ∧ (h.beginLoss d).nor = h.nor ∧ (h.beginLoss d).qregs = h.qregs ∧
    (h.beginLoss d).node = h.node ∧ (h.beginLoss d).dawn = h.dawn ∧ (h.beginLoss d).norIf = h.norIf ∧
    (h.beginLoss d).cfg = h.cfg ∧
    (h.beginLoss d).taps = h.taps ∧ (h.beginLoss d).ldg = h.ldg ∧ (h.beginLoss d).freeze = h.freeze ∧
    (h.beginLoss d).vlt = h.vlt ∧ (h.beginLoss d).mgt = h.mgt ∧ (h.beginLoss d).flt = h.flt ∧ (h.beginLoss d).ftm = h.ftm ∧
    (h.beginLoss d).msix = h.msix ∧ (h.beginLoss d).errs = h.errs ∧ (h.beginLoss d).queues = h.queues ∧
    (h.beginLoss d).cis = h.cis ∧ (h.beginLoss d).swc = h.swc ∧ (h.beginLoss d).ports = h.ports ∧ (h.beginLoss d).trn = h.trn ∧
    (h.beginLoss d).rings = h.rings ∧ (h.beginLoss d).dieLinkDown = h.dieLinkDown ∧ (h.beginLoss d).sysRst = h.sysRst ∧
    (h.beginLoss d).pins = h.pins ∧ (h.beginLoss d).trks = h.trks ∧ (h.beginLoss d).evts = h.evts ∧
    (h.beginLoss d).cans = h.cans ∧ (h.beginLoss d).pumps = h.pumps ∧ (h.beginLoss d).wlh = h.wlh ∧
    (h.beginLoss d).ehi = h.ehi ∧ (h.beginLoss d).reply = h.reply ∧ (h.beginLoss d).engs = h.engs ∧
    (h.beginLoss d).hosts = h.hosts ∧ (h.beginLoss d).bps = h.bps ∧ (h.beginLoss d).now = h.now ∧
    (h.beginLoss d).freeCtr = h.freeCtr := by
  simp [Hw.beginLoss]

/-- A journal record waits in the cycle's records: it changes the journal alone. -/
theorem journal_only (h : Hw) (d t p : Nat) (x : List Nat) : ∃ j, h.journal d t p x = { h with jrns := j } := by
  unfold Hw.journal
  split
  · exact setJrn_only h d _
  · exact ⟨_, rfl⟩

@[simp] theorem journal_regs (h : Hw) (d t p : Nat) (x : List Nat) : (h.journal d t p x).regs = h.regs := by
  unfold Hw.journal
  split <;> simp

@[simp] theorem journal_rcds (h : Hw) (d t p : Nat) (x : List Nat) : (h.journal d t p x).rcds = h.rcds := by
  unfold Hw.journal
  split <;> simp

/-- Of everything else a journal record changes nothing. -/
@[simp] theorem journal_frame (h : Hw) (d t p : Nat) (x : List Nat) :
    (h.journal d t p x).part = h.part ∧ (h.journal d t p x).grade = h.grade ∧ (h.journal d t p x).straps = h.straps ∧
    (h.journal d t p x).slotNo = h.slotNo ∧ (h.journal d t p x).otp = h.otp ∧ (h.journal d t p x).nightDom = h.nightDom ∧
    (h.journal d t p x).logNvm = h.logNvm ∧ (h.journal d t p x).nor = h.nor ∧ (h.journal d t p x).qregs = h.qregs ∧
    (h.journal d t p x).node = h.node ∧ (h.journal d t p x).dawn = h.dawn ∧ (h.journal d t p x).norIf = h.norIf ∧
    (h.journal d t p x).cfg = h.cfg ∧
    (h.journal d t p x).taps = h.taps ∧ (h.journal d t p x).ldg = h.ldg ∧ (h.journal d t p x).freeze = h.freeze ∧
    (h.journal d t p x).vlt = h.vlt ∧ (h.journal d t p x).mgt = h.mgt ∧ (h.journal d t p x).flt = h.flt ∧
    (h.journal d t p x).ftm = h.ftm ∧ (h.journal d t p x).msix = h.msix ∧ (h.journal d t p x).errs = h.errs ∧
    (h.journal d t p x).queues = h.queues ∧ (h.journal d t p x).cis = h.cis ∧ (h.journal d t p x).swc = h.swc ∧
    (h.journal d t p x).ports = h.ports ∧ (h.journal d t p x).trn = h.trn ∧ (h.journal d t p x).rings = h.rings ∧
    (h.journal d t p x).dieLinkDown = h.dieLinkDown ∧ (h.journal d t p x).sysRst = h.sysRst ∧
    (h.journal d t p x).pins = h.pins ∧ (h.journal d t p x).trks = h.trks ∧ (h.journal d t p x).evts = h.evts ∧
    (h.journal d t p x).cans = h.cans ∧ (h.journal d t p x).pumps = h.pumps ∧ (h.journal d t p x).wlh = h.wlh ∧
    (h.journal d t p x).ehi = h.ehi ∧ (h.journal d t p x).reply = h.reply ∧ (h.journal d t p x).engs = h.engs ∧
    (h.journal d t p x).hosts = h.hosts ∧ (h.journal d t p x).bps = h.bps ∧ (h.journal d t p x).now = h.now ∧
    (h.journal d t p x).freeCtr = h.freeCtr := by
  unfold Hw.journal
  split <;> simp

/-- An error record of the journal. -/
@[simp] theorem journalErr_frame (h : Hw) (d m u o : Nat) :
    (h.journalErr d m u o).part = h.part ∧ (h.journalErr d m u o).grade = h.grade ∧ (h.journalErr d m u o).straps = h.straps ∧
    (h.journalErr d m u o).slotNo = h.slotNo ∧ (h.journalErr d m u o).otp = h.otp ∧
    (h.journalErr d m u o).nightDom = h.nightDom ∧ (h.journalErr d m u o).logNvm = h.logNvm ∧
    (h.journalErr d m u o).nor = h.nor ∧ (h.journalErr d m u o).qregs = h.qregs ∧ (h.journalErr d m u o).node = h.node ∧
    (h.journalErr d m u o).dawn = h.dawn ∧ (h.journalErr d m u o).norIf = h.norIf ∧ (h.journalErr d m u o).cfg = h.cfg ∧
    (h.journalErr d m u o).taps = h.taps ∧
    (h.journalErr d m u o).ldg = h.ldg ∧ (h.journalErr d m u o).freeze = h.freeze ∧ (h.journalErr d m u o).vlt = h.vlt ∧
    (h.journalErr d m u o).mgt = h.mgt ∧ (h.journalErr d m u o).flt = h.flt ∧ (h.journalErr d m u o).ftm = h.ftm ∧
    (h.journalErr d m u o).msix = h.msix ∧ (h.journalErr d m u o).errs = h.errs ∧ (h.journalErr d m u o).queues = h.queues ∧
    (h.journalErr d m u o).cis = h.cis ∧ (h.journalErr d m u o).swc = h.swc ∧ (h.journalErr d m u o).ports = h.ports ∧
    (h.journalErr d m u o).trn = h.trn ∧ (h.journalErr d m u o).rings = h.rings ∧
    (h.journalErr d m u o).dieLinkDown = h.dieLinkDown ∧ (h.journalErr d m u o).sysRst = h.sysRst ∧
    (h.journalErr d m u o).pins = h.pins ∧ (h.journalErr d m u o).trks = h.trks ∧ (h.journalErr d m u o).evts = h.evts ∧
    (h.journalErr d m u o).cans = h.cans ∧ (h.journalErr d m u o).pumps = h.pumps ∧ (h.journalErr d m u o).wlh = h.wlh ∧
    (h.journalErr d m u o).ehi = h.ehi ∧ (h.journalErr d m u o).reply = h.reply ∧ (h.journalErr d m u o).engs = h.engs ∧
    (h.journalErr d m u o).hosts = h.hosts ∧ (h.journalErr d m u o).bps = h.bps ∧ (h.journalErr d m u o).now = h.now ∧
    (h.journalErr d m u o).freeCtr = h.freeCtr := by
  simp [Hw.journalErr]

/-- A change of GUAR is recorded. -/
@[simp] theorem checkGuar_frame (h : Hw) :
    (h.checkGuar).part = h.part ∧ (h.checkGuar).grade = h.grade ∧ (h.checkGuar).straps = h.straps ∧
    (h.checkGuar).slotNo = h.slotNo ∧ (h.checkGuar).otp = h.otp ∧ (h.checkGuar).nightDom = h.nightDom ∧
    (h.checkGuar).logNvm = h.logNvm ∧ (h.checkGuar).nor = h.nor ∧ (h.checkGuar).qregs = h.qregs ∧ (h.checkGuar).node = h.node ∧
    (h.checkGuar).dawn = h.dawn ∧ (h.checkGuar).norIf = h.norIf ∧ (h.checkGuar).cfg = h.cfg ∧ (h.checkGuar).taps = h.taps ∧
    (h.checkGuar).ldg = h.ldg ∧
    (h.checkGuar).jrns = h.jrns ∧ (h.checkGuar).freeze = h.freeze ∧ (h.checkGuar).vlt = h.vlt ∧ (h.checkGuar).mgt = h.mgt ∧
    (h.checkGuar).ftm = h.ftm ∧ (h.checkGuar).msix = h.msix ∧ (h.checkGuar).errs = h.errs ∧ (h.checkGuar).queues = h.queues ∧
    (h.checkGuar).cis = h.cis ∧ (h.checkGuar).swc = h.swc ∧ (h.checkGuar).ports = h.ports ∧ (h.checkGuar).trn = h.trn ∧
    (h.checkGuar).rings = h.rings ∧ (h.checkGuar).dieLinkDown = h.dieLinkDown ∧ (h.checkGuar).sysRst = h.sysRst ∧
    (h.checkGuar).pins = h.pins ∧ (h.checkGuar).trks = h.trks ∧ (h.checkGuar).evts = h.evts ∧ (h.checkGuar).cans = h.cans ∧
    (h.checkGuar).pumps = h.pumps ∧ (h.checkGuar).wlh = h.wlh ∧ (h.checkGuar).ehi = h.ehi ∧ (h.checkGuar).reply = h.reply ∧
    (h.checkGuar).engs = h.engs ∧ (h.checkGuar).hosts = h.hosts ∧ (h.checkGuar).bps = h.bps ∧ (h.checkGuar).now = h.now ∧
    (h.checkGuar).freeCtr = h.freeCtr := by
  unfold Hw.checkGuar
  split <;> simp

/-- A transition changes the node state, and is recorded. -/
@[simp] theorem moveTo_frame (h : Hw) (s : NodeState) (c : Nat) :
    (h.moveTo s c).part = h.part ∧ (h.moveTo s c).grade = h.grade ∧ (h.moveTo s c).straps = h.straps ∧
    (h.moveTo s c).slotNo = h.slotNo ∧ (h.moveTo s c).otp = h.otp ∧ (h.moveTo s c).nightDom = h.nightDom ∧
    (h.moveTo s c).logNvm = h.logNvm ∧ (h.moveTo s c).nor = h.nor ∧ (h.moveTo s c).qregs = h.qregs ∧
    (h.moveTo s c).dawn = h.dawn ∧ (h.moveTo s c).norIf = h.norIf ∧ (h.moveTo s c).cfg = h.cfg ∧
    (h.moveTo s c).taps = h.taps ∧ (h.moveTo s c).ldg = h.ldg ∧
    (h.moveTo s c).jrns = h.jrns ∧ (h.moveTo s c).freeze = h.freeze ∧ (h.moveTo s c).vlt = h.vlt ∧ (h.moveTo s c).mgt = h.mgt ∧
    (h.moveTo s c).flt = h.flt ∧ (h.moveTo s c).ftm = h.ftm ∧ (h.moveTo s c).errs = h.errs ∧ (h.moveTo s c).queues = h.queues ∧
    (h.moveTo s c).cis = h.cis ∧ (h.moveTo s c).swc = h.swc ∧ (h.moveTo s c).ports = h.ports ∧ (h.moveTo s c).trn = h.trn ∧
    (h.moveTo s c).rings = h.rings ∧ (h.moveTo s c).dieLinkDown = h.dieLinkDown ∧ (h.moveTo s c).sysRst = h.sysRst ∧
    (h.moveTo s c).pins = h.pins ∧ (h.moveTo s c).trks = h.trks ∧ (h.moveTo s c).evts = h.evts ∧ (h.moveTo s c).cans = h.cans ∧
    (h.moveTo s c).pumps = h.pumps ∧ (h.moveTo s c).wlh = h.wlh ∧ (h.moveTo s c).ehi = h.ehi ∧ (h.moveTo s c).reply = h.reply ∧
    (h.moveTo s c).engs = h.engs ∧ (h.moveTo s c).hosts = h.hosts ∧ (h.moveTo s c).now = h.now ∧
    (h.moveTo s c).freeCtr = h.freeCtr := by
  simp only [Hw.moveTo]
  split <;> simp

/-- The end of a masked fault. -/
@[simp] theorem endFault_frame (h : Hw) (d c u : Nat) :
    (h.endFault d c u).part = h.part ∧ (h.endFault d c u).grade = h.grade ∧ (h.endFault d c u).straps = h.straps ∧
    (h.endFault d c u).slotNo = h.slotNo ∧ (h.endFault d c u).otp = h.otp ∧ (h.endFault d c u).nightDom = h.nightDom ∧
    (h.endFault d c u).logNvm = h.logNvm ∧ (h.endFault d c u).nor = h.nor ∧ (h.endFault d c u).qregs = h.qregs ∧
    (h.endFault d c u).dawn = h.dawn ∧ (h.endFault d c u).norIf = h.norIf ∧ (h.endFault d c u).cfg = h.cfg ∧
    (h.endFault d c u).taps = h.taps ∧
    (h.endFault d c u).ldg = h.ldg ∧ (h.endFault d c u).jrns = h.jrns ∧ (h.endFault d c u).freeze = h.freeze ∧
    (h.endFault d c u).vlt = h.vlt ∧ (h.endFault d c u).mgt = h.mgt ∧ (h.endFault d c u).ftm = h.ftm ∧
    (h.endFault d c u).errs = h.errs ∧ (h.endFault d c u).queues = h.queues ∧ (h.endFault d c u).cis = h.cis ∧
    (h.endFault d c u).swc = h.swc ∧ (h.endFault d c u).ports = h.ports ∧ (h.endFault d c u).trn = h.trn ∧
    (h.endFault d c u).rings = h.rings ∧ (h.endFault d c u).dieLinkDown = h.dieLinkDown ∧
    (h.endFault d c u).sysRst = h.sysRst ∧ (h.endFault d c u).pins = h.pins ∧ (h.endFault d c u).trks = h.trks ∧
    (h.endFault d c u).evts = h.evts ∧ (h.endFault d c u).cans = h.cans ∧ (h.endFault d c u).pumps = h.pumps ∧
    (h.endFault d c u).wlh = h.wlh ∧ (h.endFault d c u).ehi = h.ehi ∧ (h.endFault d c u).reply = h.reply ∧
    (h.endFault d c u).engs = h.engs ∧ (h.endFault d c u).hosts = h.hosts ∧ (h.endFault d c u).now = h.now ∧
    (h.endFault d c u).freeCtr = h.freeCtr := by
  simp only [Hw.endFault]
  split
  · split <;> simp
  · simp

/-- A key request that is refused is recorded. -/
@[simp] theorem deliver_frame (h : Hw) (d s e : Nat) :
    ((h.deliver d s e).2).part = h.part ∧ ((h.deliver d s e).2).grade = h.grade ∧ ((h.deliver d s e).2).straps = h.straps ∧
    ((h.deliver d s e).2).slotNo = h.slotNo ∧ ((h.deliver d s e).2).otp = h.otp ∧ ((h.deliver d s e).2).nightDom = h.nightDom ∧
    ((h.deliver d s e).2).logNvm = h.logNvm ∧ ((h.deliver d s e).2).nor = h.nor ∧ ((h.deliver d s e).2).qregs = h.qregs ∧
    ((h.deliver d s e).2).node = h.node ∧ ((h.deliver d s e).2).dawn = h.dawn ∧ ((h.deliver d s e).2).norIf = h.norIf ∧
    ((h.deliver d s e).2).cfg = h.cfg ∧
    ((h.deliver d s e).2).taps = h.taps ∧ ((h.deliver d s e).2).ldg = h.ldg ∧ ((h.deliver d s e).2).jrns = h.jrns ∧
    ((h.deliver d s e).2).freeze = h.freeze ∧ ((h.deliver d s e).2).vlt = h.vlt ∧ ((h.deliver d s e).2).mgt = h.mgt ∧
    ((h.deliver d s e).2).flt = h.flt ∧ ((h.deliver d s e).2).ftm = h.ftm ∧ ((h.deliver d s e).2).msix = h.msix ∧
    ((h.deliver d s e).2).errs = h.errs ∧ ((h.deliver d s e).2).queues = h.queues ∧ ((h.deliver d s e).2).cis = h.cis ∧
    ((h.deliver d s e).2).swc = h.swc ∧ ((h.deliver d s e).2).ports = h.ports ∧ ((h.deliver d s e).2).trn = h.trn ∧
    ((h.deliver d s e).2).rings = h.rings ∧ ((h.deliver d s e).2).dieLinkDown = h.dieLinkDown ∧
    ((h.deliver d s e).2).sysRst = h.sysRst ∧ ((h.deliver d s e).2).pins = h.pins ∧ ((h.deliver d s e).2).trks = h.trks ∧
    ((h.deliver d s e).2).evts = h.evts ∧ ((h.deliver d s e).2).cans = h.cans ∧ ((h.deliver d s e).2).pumps = h.pumps ∧
    ((h.deliver d s e).2).wlh = h.wlh ∧ ((h.deliver d s e).2).ehi = h.ehi ∧ ((h.deliver d s e).2).reply = h.reply ∧
    ((h.deliver d s e).2).engs = h.engs ∧ ((h.deliver d s e).2).hosts = h.hosts ∧ ((h.deliver d s e).2).bps = h.bps ∧
    ((h.deliver d s e).2).now = h.now ∧ ((h.deliver d s e).2).freeCtr = h.freeCtr := by
  simp only [Hw.deliver]
  split
  · simp
  · split <;> simp

/-- The near-full threshold of the ledger is recorded. -/
@[simp] theorem checkNearFull_frame (b : Bool) (h : Hw) :
    (Hw.checkNearFull b h).part = h.part ∧ (Hw.checkNearFull b h).grade = h.grade ∧ (Hw.checkNearFull b h).straps = h.straps ∧
    (Hw.checkNearFull b h).slotNo = h.slotNo ∧ (Hw.checkNearFull b h).otp = h.otp ∧
    (Hw.checkNearFull b h).nightDom = h.nightDom ∧ (Hw.checkNearFull b h).logNvm = h.logNvm ∧
    (Hw.checkNearFull b h).nor = h.nor ∧ (Hw.checkNearFull b h).qregs = h.qregs ∧ (Hw.checkNearFull b h).node = h.node ∧
    (Hw.checkNearFull b h).dawn = h.dawn ∧ (Hw.checkNearFull b h).norIf = h.norIf ∧ (Hw.checkNearFull b h).cfg = h.cfg ∧
    (Hw.checkNearFull b h).taps = h.taps ∧
    (Hw.checkNearFull b h).ldg = h.ldg ∧ (Hw.checkNearFull b h).jrns = h.jrns ∧ (Hw.checkNearFull b h).freeze = h.freeze ∧
    (Hw.checkNearFull b h).vlt = h.vlt ∧ (Hw.checkNearFull b h).mgt = h.mgt ∧ (Hw.checkNearFull b h).flt = h.flt ∧
    (Hw.checkNearFull b h).ftm = h.ftm ∧ (Hw.checkNearFull b h).msix = h.msix ∧ (Hw.checkNearFull b h).errs = h.errs ∧
    (Hw.checkNearFull b h).queues = h.queues ∧ (Hw.checkNearFull b h).cis = h.cis ∧ (Hw.checkNearFull b h).swc = h.swc ∧
    (Hw.checkNearFull b h).ports = h.ports ∧ (Hw.checkNearFull b h).trn = h.trn ∧ (Hw.checkNearFull b h).rings = h.rings ∧
    (Hw.checkNearFull b h).dieLinkDown = h.dieLinkDown ∧ (Hw.checkNearFull b h).sysRst = h.sysRst ∧
    (Hw.checkNearFull b h).pins = h.pins ∧ (Hw.checkNearFull b h).trks = h.trks ∧ (Hw.checkNearFull b h).evts = h.evts ∧
    (Hw.checkNearFull b h).cans = h.cans ∧ (Hw.checkNearFull b h).pumps = h.pumps ∧ (Hw.checkNearFull b h).wlh = h.wlh ∧
    (Hw.checkNearFull b h).ehi = h.ehi ∧ (Hw.checkNearFull b h).reply = h.reply ∧ (Hw.checkNearFull b h).engs = h.engs ∧
    (Hw.checkNearFull b h).hosts = h.hosts ∧ (Hw.checkNearFull b h).bps = h.bps ∧ (Hw.checkNearFull b h).now = h.now ∧
    (Hw.checkNearFull b h).freeCtr = h.freeCtr := by
  unfold Hw.checkNearFull
  split <;> simp

/-- Staging changes the ledger alone. -/
@[simp] theorem stageOne_frame (h : Hw) (b : LedgerBody) :
    (h.stageOne b).part = h.part ∧ (h.stageOne b).grade = h.grade ∧ (h.stageOne b).straps = h.straps ∧
    (h.stageOne b).slotNo = h.slotNo ∧ (h.stageOne b).otp = h.otp ∧ (h.stageOne b).nightDom = h.nightDom ∧
    (h.stageOne b).logNvm = h.logNvm ∧ (h.stageOne b).nor = h.nor ∧ (h.stageOne b).qregs = h.qregs ∧
    (h.stageOne b).node = h.node ∧ (h.stageOne b).dawn = h.dawn ∧ (h.stageOne b).norIf = h.norIf ∧
    (h.stageOne b).cfg = h.cfg ∧ (h.stageOne b).taps = h.taps ∧
    (h.stageOne b).jrns = h.jrns ∧ (h.stageOne b).freeze = h.freeze ∧ (h.stageOne b).vlt = h.vlt ∧ (h.stageOne b).mgt = h.mgt ∧
    (h.stageOne b).flt = h.flt ∧ (h.stageOne b).ftm = h.ftm ∧ (h.stageOne b).msix = h.msix ∧ (h.stageOne b).errs = h.errs ∧
    (h.stageOne b).queues = h.queues ∧ (h.stageOne b).cis = h.cis ∧ (h.stageOne b).swc = h.swc ∧
    (h.stageOne b).ports = h.ports ∧ (h.stageOne b).trn = h.trn ∧ (h.stageOne b).rings = h.rings ∧
    (h.stageOne b).dieLinkDown = h.dieLinkDown ∧ (h.stageOne b).sysRst = h.sysRst ∧ (h.stageOne b).pins = h.pins ∧
    (h.stageOne b).trks = h.trks ∧ (h.stageOne b).evts = h.evts ∧ (h.stageOne b).cans = h.cans ∧
    (h.stageOne b).pumps = h.pumps ∧ (h.stageOne b).wlh = h.wlh ∧ (h.stageOne b).ehi = h.ehi ∧ (h.stageOne b).reply = h.reply ∧
    (h.stageOne b).engs = h.engs ∧ (h.stageOne b).hosts = h.hosts ∧ (h.stageOne b).bps = h.bps ∧ (h.stageOne b).now = h.now ∧
    (h.stageOne b).freeCtr = h.freeCtr := by
  simp only [Hw.stageOne]
  split <;> simp

/-- Waiting forced entries are staged. -/
@[simp] theorem drainForced_frame (n : Nat) (h : Hw) :
    (drainForced n h).part = h.part ∧ (drainForced n h).grade = h.grade ∧ (drainForced n h).straps = h.straps ∧
    (drainForced n h).slotNo = h.slotNo ∧ (drainForced n h).otp = h.otp ∧ (drainForced n h).nightDom = h.nightDom ∧
    (drainForced n h).logNvm = h.logNvm ∧ (drainForced n h).nor = h.nor ∧ (drainForced n h).qregs = h.qregs ∧
    (drainForced n h).node = h.node ∧ (drainForced n h).dawn = h.dawn ∧ (drainForced n h).norIf = h.norIf ∧
    (drainForced n h).cfg = h.cfg ∧
    (drainForced n h).taps = h.taps ∧ (drainForced n h).jrns = h.jrns ∧ (drainForced n h).freeze = h.freeze ∧
    (drainForced n h).vlt = h.vlt ∧ (drainForced n h).mgt = h.mgt ∧ (drainForced n h).flt = h.flt ∧
    (drainForced n h).ftm = h.ftm ∧ (drainForced n h).msix = h.msix ∧ (drainForced n h).errs = h.errs ∧
    (drainForced n h).queues = h.queues ∧ (drainForced n h).cis = h.cis ∧ (drainForced n h).swc = h.swc ∧
    (drainForced n h).ports = h.ports ∧ (drainForced n h).trn = h.trn ∧ (drainForced n h).rings = h.rings ∧
    (drainForced n h).dieLinkDown = h.dieLinkDown ∧ (drainForced n h).sysRst = h.sysRst ∧ (drainForced n h).pins = h.pins ∧
    (drainForced n h).trks = h.trks ∧ (drainForced n h).evts = h.evts ∧ (drainForced n h).cans = h.cans ∧
    (drainForced n h).pumps = h.pumps ∧ (drainForced n h).wlh = h.wlh ∧ (drainForced n h).ehi = h.ehi ∧
    (drainForced n h).reply = h.reply ∧ (drainForced n h).engs = h.engs ∧ (drainForced n h).hosts = h.hosts ∧
    (drainForced n h).bps = h.bps ∧ (drainForced n h).now = h.now ∧ (drainForced n h).freeCtr = h.freeCtr := by
  induction n generalizing h with
  | zero => simp [drainForced]
  | succ n ih =>
    unfold drainForced
    split
    · simp
    · split
      · simp
      · split <;> simp [ih]

/-- An entry is staged with the set that falls due behind it. -/
@[simp] theorem stageNow_frame (h : Hw) (b : LedgerBody) :
    (h.stageNow b).part = h.part ∧ (h.stageNow b).grade = h.grade ∧ (h.stageNow b).straps = h.straps ∧
    (h.stageNow b).slotNo = h.slotNo ∧ (h.stageNow b).otp = h.otp ∧ (h.stageNow b).nightDom = h.nightDom ∧
    (h.stageNow b).logNvm = h.logNvm ∧ (h.stageNow b).nor = h.nor ∧ (h.stageNow b).qregs = h.qregs ∧
    (h.stageNow b).node = h.node ∧ (h.stageNow b).dawn = h.dawn ∧ (h.stageNow b).norIf = h.norIf ∧
    (h.stageNow b).cfg = h.cfg ∧ (h.stageNow b).taps = h.taps ∧
    (h.stageNow b).jrns = h.jrns ∧ (h.stageNow b).freeze = h.freeze ∧ (h.stageNow b).vlt = h.vlt ∧ (h.stageNow b).mgt = h.mgt ∧
    (h.stageNow b).flt = h.flt ∧ (h.stageNow b).ftm = h.ftm ∧ (h.stageNow b).msix = h.msix ∧ (h.stageNow b).errs = h.errs ∧
    (h.stageNow b).queues = h.queues ∧ (h.stageNow b).cis = h.cis ∧ (h.stageNow b).swc = h.swc ∧
    (h.stageNow b).ports = h.ports ∧ (h.stageNow b).trn = h.trn ∧ (h.stageNow b).rings = h.rings ∧
    (h.stageNow b).dieLinkDown = h.dieLinkDown ∧ (h.stageNow b).sysRst = h.sysRst ∧ (h.stageNow b).pins = h.pins ∧
    (h.stageNow b).trks = h.trks ∧ (h.stageNow b).evts = h.evts ∧ (h.stageNow b).cans = h.cans ∧
    (h.stageNow b).pumps = h.pumps ∧ (h.stageNow b).wlh = h.wlh ∧ (h.stageNow b).ehi = h.ehi ∧ (h.stageNow b).reply = h.reply ∧
    (h.stageNow b).engs = h.engs ∧ (h.stageNow b).hosts = h.hosts ∧ (h.stageNow b).bps = h.bps ∧ (h.stageNow b).now = h.now ∧
    (h.stageNow b).freeCtr = h.freeCtr := by
  simp [Hw.stageNow]

/-- A forced entry is staged or waits. -/
@[simp] theorem stageForced_frame (h : Hw) (b : LedgerBody) :
    (h.stageForced b).part = h.part ∧ (h.stageForced b).grade = h.grade ∧ (h.stageForced b).straps = h.straps ∧
    (h.stageForced b).slotNo = h.slotNo ∧ (h.stageForced b).otp = h.otp ∧ (h.stageForced b).nightDom = h.nightDom ∧
    (h.stageForced b).logNvm = h.logNvm ∧ (h.stageForced b).nor = h.nor ∧ (h.stageForced b).qregs = h.qregs ∧
    (h.stageForced b).node = h.node ∧ (h.stageForced b).dawn = h.dawn ∧ (h.stageForced b).norIf = h.norIf ∧
    (h.stageForced b).cfg = h.cfg ∧
    (h.stageForced b).taps = h.taps ∧ (h.stageForced b).jrns = h.jrns ∧ (h.stageForced b).freeze = h.freeze ∧
    (h.stageForced b).vlt = h.vlt ∧ (h.stageForced b).mgt = h.mgt ∧ (h.stageForced b).flt = h.flt ∧
    (h.stageForced b).ftm = h.ftm ∧ (h.stageForced b).msix = h.msix ∧ (h.stageForced b).errs = h.errs ∧
    (h.stageForced b).queues = h.queues ∧ (h.stageForced b).cis = h.cis ∧ (h.stageForced b).swc = h.swc ∧
    (h.stageForced b).ports = h.ports ∧ (h.stageForced b).trn = h.trn ∧ (h.stageForced b).rings = h.rings ∧
    (h.stageForced b).dieLinkDown = h.dieLinkDown ∧ (h.stageForced b).sysRst = h.sysRst ∧ (h.stageForced b).pins = h.pins ∧
    (h.stageForced b).trks = h.trks ∧ (h.stageForced b).evts = h.evts ∧ (h.stageForced b).cans = h.cans ∧
    (h.stageForced b).pumps = h.pumps ∧ (h.stageForced b).wlh = h.wlh ∧ (h.stageForced b).ehi = h.ehi ∧
    (h.stageForced b).reply = h.reply ∧ (h.stageForced b).engs = h.engs ∧ (h.stageForced b).hosts = h.hosts ∧
    (h.stageForced b).bps = h.bps ∧ (h.stageForced b).now = h.now ∧ (h.stageForced b).freeCtr = h.freeCtr := by
  simp [Hw.stageForced]

/-- A checkpoint set is staged where it is due. -/
@[simp] theorem checkpointIfDue_frame (h : Hw) :
    (h.checkpointIfDue).part = h.part ∧ (h.checkpointIfDue).grade = h.grade ∧ (h.checkpointIfDue).straps = h.straps ∧
    (h.checkpointIfDue).slotNo = h.slotNo ∧ (h.checkpointIfDue).otp = h.otp ∧ (h.checkpointIfDue).nightDom = h.nightDom ∧
    (h.checkpointIfDue).logNvm = h.logNvm ∧ (h.checkpointIfDue).nor = h.nor ∧ (h.checkpointIfDue).qregs = h.qregs ∧
    (h.checkpointIfDue).node = h.node ∧ (h.checkpointIfDue).dawn = h.dawn ∧ (h.checkpointIfDue).norIf = h.norIf ∧
    (h.checkpointIfDue).cfg = h.cfg ∧
    (h.checkpointIfDue).taps = h.taps ∧ (h.checkpointIfDue).jrns = h.jrns ∧ (h.checkpointIfDue).freeze = h.freeze ∧
    (h.checkpointIfDue).vlt = h.vlt ∧ (h.checkpointIfDue).mgt = h.mgt ∧ (h.checkpointIfDue).flt = h.flt ∧
    (h.checkpointIfDue).ftm = h.ftm ∧ (h.checkpointIfDue).msix = h.msix ∧ (h.checkpointIfDue).errs = h.errs ∧
    (h.checkpointIfDue).queues = h.queues ∧ (h.checkpointIfDue).cis = h.cis ∧ (h.checkpointIfDue).swc = h.swc ∧
    (h.checkpointIfDue).ports = h.ports ∧ (h.checkpointIfDue).trn = h.trn ∧ (h.checkpointIfDue).rings = h.rings ∧
    (h.checkpointIfDue).dieLinkDown = h.dieLinkDown ∧ (h.checkpointIfDue).sysRst = h.sysRst ∧
    (h.checkpointIfDue).pins = h.pins ∧ (h.checkpointIfDue).trks = h.trks ∧ (h.checkpointIfDue).evts = h.evts ∧
    (h.checkpointIfDue).cans = h.cans ∧ (h.checkpointIfDue).pumps = h.pumps ∧ (h.checkpointIfDue).wlh = h.wlh ∧
    (h.checkpointIfDue).ehi = h.ehi ∧ (h.checkpointIfDue).reply = h.reply ∧ (h.checkpointIfDue).engs = h.engs ∧
    (h.checkpointIfDue).hosts = h.hosts ∧ (h.checkpointIfDue).bps = h.bps ∧ (h.checkpointIfDue).now = h.now ∧
    (h.checkpointIfDue).freeCtr = h.freeCtr := by
  unfold Hw.checkpointIfDue
  split <;> simp

/-- Waiting requested entries are staged. -/
@[simp] theorem drainWaiting_frame (n : Nat) (h : Hw) :
    (drainWaiting n h).part = h.part ∧ (drainWaiting n h).grade = h.grade ∧ (drainWaiting n h).straps = h.straps ∧
    (drainWaiting n h).slotNo = h.slotNo ∧ (drainWaiting n h).otp = h.otp ∧ (drainWaiting n h).nightDom = h.nightDom ∧
    (drainWaiting n h).logNvm = h.logNvm ∧ (drainWaiting n h).nor = h.nor ∧ (drainWaiting n h).qregs = h.qregs ∧
    (drainWaiting n h).node = h.node ∧ (drainWaiting n h).dawn = h.dawn ∧ (drainWaiting n h).norIf = h.norIf ∧
    (drainWaiting n h).cfg = h.cfg ∧
    (drainWaiting n h).taps = h.taps ∧ (drainWaiting n h).jrns = h.jrns ∧ (drainWaiting n h).freeze = h.freeze ∧
    (drainWaiting n h).vlt = h.vlt ∧ (drainWaiting n h).mgt = h.mgt ∧ (drainWaiting n h).flt = h.flt ∧
    (drainWaiting n h).ftm = h.ftm ∧ (drainWaiting n h).msix = h.msix ∧ (drainWaiting n h).errs = h.errs ∧
    (drainWaiting n h).queues = h.queues ∧ (drainWaiting n h).cis = h.cis ∧ (drainWaiting n h).swc = h.swc ∧
    (drainWaiting n h).ports = h.ports ∧ (drainWaiting n h).trn = h.trn ∧ (drainWaiting n h).rings = h.rings ∧
    (drainWaiting n h).dieLinkDown = h.dieLinkDown ∧ (drainWaiting n h).sysRst = h.sysRst ∧ (drainWaiting n h).pins = h.pins ∧
    (drainWaiting n h).trks = h.trks ∧ (drainWaiting n h).evts = h.evts ∧ (drainWaiting n h).cans = h.cans ∧
    (drainWaiting n h).pumps = h.pumps ∧ (drainWaiting n h).wlh = h.wlh ∧ (drainWaiting n h).ehi = h.ehi ∧
    (drainWaiting n h).reply = h.reply ∧ (drainWaiting n h).engs = h.engs ∧ (drainWaiting n h).hosts = h.hosts ∧
    (drainWaiting n h).bps = h.bps ∧ (drainWaiting n h).now = h.now ∧ (drainWaiting n h).freeCtr = h.freeCtr := by
  induction n generalizing h with
  | zero => simp [drainWaiting]
  | succ n ih =>
    unfold drainWaiting
    split
    · simp
    · simp only
      split <;> simp [ih]

/-- A requested entry is staged or waits. -/
@[simp] theorem stageRequested_frame (h : Hw) (b : LedgerBody) :
    (h.stageRequested b).part = h.part ∧ (h.stageRequested b).grade = h.grade ∧ (h.stageRequested b).straps = h.straps ∧
    (h.stageRequested b).slotNo = h.slotNo ∧ (h.stageRequested b).otp = h.otp ∧ (h.stageRequested b).nightDom = h.nightDom ∧
    (h.stageRequested b).logNvm = h.logNvm ∧ (h.stageRequested b).nor = h.nor ∧ (h.stageRequested b).qregs = h.qregs ∧
    (h.stageRequested b).node = h.node ∧ (h.stageRequested b).dawn = h.dawn ∧ (h.stageRequested b).norIf = h.norIf ∧
    (h.stageRequested b).cfg = h.cfg ∧
    (h.stageRequested b).taps = h.taps ∧ (h.stageRequested b).jrns = h.jrns ∧ (h.stageRequested b).freeze = h.freeze ∧
    (h.stageRequested b).vlt = h.vlt ∧ (h.stageRequested b).mgt = h.mgt ∧ (h.stageRequested b).flt = h.flt ∧
    (h.stageRequested b).ftm = h.ftm ∧ (h.stageRequested b).msix = h.msix ∧ (h.stageRequested b).errs = h.errs ∧
    (h.stageRequested b).queues = h.queues ∧ (h.stageRequested b).cis = h.cis ∧ (h.stageRequested b).swc = h.swc ∧
    (h.stageRequested b).ports = h.ports ∧ (h.stageRequested b).trn = h.trn ∧ (h.stageRequested b).rings = h.rings ∧
    (h.stageRequested b).dieLinkDown = h.dieLinkDown ∧ (h.stageRequested b).sysRst = h.sysRst ∧
    (h.stageRequested b).pins = h.pins ∧ (h.stageRequested b).trks = h.trks ∧ (h.stageRequested b).evts = h.evts ∧
    (h.stageRequested b).cans = h.cans ∧ (h.stageRequested b).pumps = h.pumps ∧ (h.stageRequested b).wlh = h.wlh ∧
    (h.stageRequested b).ehi = h.ehi ∧ (h.stageRequested b).reply = h.reply ∧ (h.stageRequested b).engs = h.engs ∧
    (h.stageRequested b).hosts = h.hosts ∧ (h.stageRequested b).bps = h.bps ∧ (h.stageRequested b).now = h.now ∧
    (h.stageRequested b).freeCtr = h.freeCtr := by
  simp [Hw.stageRequested]

end Sys2Proof.Machine
end

