-- ==== Sys2Proof/Laws/Lasting.lean ====
section
/-!
SUPPORT. No operation changes what lasts without power, but for those that program it (the one-time programmable memory: the
first start, an update, a handover; NOR: an update; the log memory: the Ledger and the recorder). One equation for every
other operation, so that a proof about a command never unfolds what it calls.
-/

namespace Sys2Proof.Machine

@[simp] theorem lasting_eta (h : Hw) : Lasting.mk h.part h.grade h.otp h.logNvm h.nor = h.lasting := Eq.trans rfl rfl
@[simp] theorem lasting_mk x0 x1 x2 x3 x4 x5 x6 x7 x8 x9 x10 x11 x12 x13 x14 x15 x16 x17 x18 x19 x20 x21 x22 x23 x24 x25 x26 x27 x28 x29 x30 x31 x32 x33 x34 x35 x36 x37 x38 x39 x40 x41 x42 x43 x44 x45 : Hw.lasting (Hw.mk x0 x1 x2 x3 x4 x5 x6 x7 x8 x9 x10 x11 x12 x13 x14 x15 x16 x17 x18 x19 x20 x21 x22 x23 x24 x25 x26 x27 x28 x29 x30 x31 x32 x33 x34 x35 x36 x37 x38 x39 x40 x41 x42 x43 x44 x45) = ⟨x0, x1, x4, x6, x7⟩ := Eq.trans rfl rfl
@[simp] theorem lasting_ite (c : Prop) [Decidable c] (a b : Hw) : (if c then a else b).lasting = if c then a.lasting else b.lasting := apply_ite ..
@[simp] theorem each_lasting {γ : Type} (l : List γ) (f : γ → Hw →
    Hw) (h : Hw) (hf : ∀ c a, (f c a).lasting = a.lasting) : (each l f h).lasting = h.lasting :=
  each_keeps (fun a => a.lasting = h.lasting) l f (fun c a e => (hf c a).trans e) h rfl
@[simp] theorem iter_lasting (n : Nat) (f : Nat → Hw → Hw) (h : Hw) (hf : ∀ c a, (f c a).lasting = a.lasting) : (iter n f h).lasting = h.lasting :=
  iter_keeps (fun a => a.lasting = h.lasting) n f (fun c a e => (hf c a).trans e) h rfl
@[simp] theorem each_lasting1 {γ μ : Type} (l : List γ) (f : γ → Hw × μ →
    Hw × μ) (h : Hw × μ) (hf : ∀ c a, (f c a).1.lasting = a.1.lasting) : (each l f h).1.lasting = h.1.lasting :=
  each_keeps (fun a => a.1.lasting = h.1.lasting) l f (fun c a e => (hf c a).trans e) h rfl
@[simp] theorem iter_lasting1 {μ : Type} (n : Nat) (f : Nat → Hw × μ →
    Hw × μ) (h : Hw × μ) (hf : ∀ c a, (f c a).1.lasting = a.1.lasting) : (iter n f h).1.lasting = h.1.lasting :=
  iter_keeps (fun a => a.1.lasting = h.1.lasting) n f (fun c a e => (hf c a).trans e) h rfl
@[simp] theorem iter_lasting2 {μ : Type} (n : Nat) (f : Nat → μ × Hw →
    μ × Hw) (h : μ × Hw) (hf : ∀ c a, (f c a).2.lasting = a.2.lasting) : (iter n f h).2.lasting = h.2.lasting :=
  iter_keeps (fun a => a.2.lasting = h.2.lasting) n f (fun c a e => (hf c a).trans e) h rfl
@[simp] theorem each_lasting2 {γ μ : Type} (l : List γ) (f : γ → μ × Hw →
    μ × Hw) (h : μ × Hw) (hf : ∀ c a, (f c a).2.lasting = a.2.lasting) : (each l f h).2.lasting = h.2.lasting :=
  each_keeps (fun a => a.2.lasting = h.2.lasting) l f (fun c a e => (hf c a).trans e) h rfl
@[simp] theorem foldl_lasting {γ : Type} (l : List γ) (f : Hw → γ →
    Hw) (h : Hw) (hf : ∀ a c, (f a c).lasting = a.lasting) : (l.foldl f h).lasting = h.lasting :=
  foldl_keeps (fun a => a.lasting = h.lasting) f (fun a c e => (hf a c).trans e) l h rfl
@[simp] theorem foldl_lasting2 {γ μ : Type} (l : List γ) (f : μ × Hw → γ →
    μ × Hw) (h : μ × Hw) (hf : ∀ a c, (f a c).2.lasting = a.2.lasting) : (l.foldl f h).2.lasting = h.2.lasting :=
  foldl_keeps (fun a => a.2.lasting = h.2.lasting) f (fun a c e => (hf a c).trans e) l h rfl
@[simp] theorem eachDie_lasting (f : Nat → Hw →
    Hw) (h : Hw) (hf : ∀ c a, (f c a).lasting = a.lasting) : (h.eachDie f).lasting = h.lasting := iter_lasting _ f h hf
@[simp] theorem whenDo_lasting (c : Bool) (f : Hw → Hw) (h : Hw) (hf : ∀ a, (f a).lasting = a.lasting) : (whenDo c f h).lasting = h.lasting := by
  unfold whenDo; split <;> simp [hf]
theorem ite_lasting1 {μ : Type} {c : Prop} [Decidable c] {a b : Hw × μ} {l : Lasting} (ha : a.1.lasting = l) (hb : b.1.lasting = l)
    : (if c then a else b).1.lasting = l := by
  split
  · exact ha
  · exact hb
theorem ite_lasting' {c : Prop} [Decidable c] {a b : Hw} {l : Lasting} (ha : a.lasting = l) (hb : b.lasting = l)
    : (if c then a else b).lasting = l := by
  split
  · exact ha
  · exact hb
theorem snd_lasting {α : Type} {p : α × Hw} {a : α} {b : Hw} (e : p = (a, b)) : b.lasting = p.2.lasting := by rw [e]
@[simp] theorem Hw_setRegAt_lasting (h : Hw) (key : Nat) (v : Word) : (Hw.setRegAt h key v).lasting = h.lasting := by
  simp [Hw.setRegAt]
@[simp] theorem Hw_wr_lasting (h : Hw) (d : Nat) (F : Fld) (v : Nat) (i : Nat) (j : Nat) : (Hw.wr h d F v i j).lasting = h.lasting := by
  simp [Hw.wr]
@[simp] theorem Hw_bump_lasting (h : Hw) (d : Nat) (F : Fld) (n : Nat) (i : Nat) (j : Nat) : (Hw.bump h d F n i j).lasting = h.lasting := by
  simp [Hw.bump]
@[simp] theorem Hw_flag_lasting (h : Hw) (d : Nat) (F : Fld) (i : Nat) (j : Nat) : (Hw.flag h d F i j).lasting = h.lasting := by
  simp [Hw.flag]
@[simp] theorem Hw_draw_lasting (h : Hw) : (Hw.draw h).2.lasting = h.lasting := by
  simp [Hw.draw]
@[simp] theorem Hw_raiseMsix_lasting (h : Hw) (d : Nat) (v : Nat) : (Hw.raiseMsix h d v).lasting = h.lasting := by
  simp [Hw.raiseMsix]
@[simp] theorem Hw_raiseMsixNode_lasting (h : Hw) (v : Nat) : (Hw.raiseMsixNode h v).lasting = h.lasting := by
  simp [Hw.raiseMsixNode]
@[simp] theorem Hw_setRcd_lasting (h : Hw) (d : Nat) (r : Rcd) : (Hw.setRcd h d r).lasting = h.lasting := by
  simp [Hw.setRcd]
@[simp] theorem Hw_report_lasting (h : Hw) (d : Nat) (chan : Nat) (kind : EventKind) (data : Nat) (origin : Nat)
    : (Hw.report h d chan kind data origin).lasting = h.lasting := by
  simp [Hw.report]
@[simp] theorem Hw_violation_lasting (h : Hw) (d : Nat) (o : Origin) (addr : Nat) : (Hw.violation h d o addr).lasting = h.lasting := by
  simp [Hw.violation]
@[simp] theorem Hw_noSuchDie_lasting (h : Hw) (o : Origin) (addr : Nat) : (Hw.noSuchDie h o addr).lasting = h.lasting := by
  simp [Hw.noSuchDie]
@[simp] theorem Hw_raiseFault_lasting (h : Hw) (d : Nat) (code : Nat) (unit : Nat) : (Hw.raiseFault h d code unit).lasting = h.lasting := by
  simp [Hw.raiseFault]
@[simp] theorem Hw_moveTo_lasting (h : Hw) (s : NodeState) (cause : Nat) : (Hw.moveTo h s cause).lasting = h.lasting := by
  simp [Hw.moveTo]
@[simp] theorem Hw_checkGuar_lasting (h : Hw) : (Hw.checkGuar h).lasting = h.lasting := by
  simp [Hw.checkGuar]
@[simp] theorem Hw_endFault_lasting (h : Hw) (d : Nat) (code : Nat) (unit : Nat) : (Hw.endFault h d code unit).lasting = h.lasting := by
  simp [Hw.endFault]
@[simp] theorem Hw_errPacket_lasting (h : Hw) (d : Nat) (p : ErrPkt) : (Hw.errPacket h d p).lasting = h.lasting := by
  simp [Hw.errPacket]
@[simp] theorem Hw_setJrn_lasting (h : Hw) (d : Nat) (j : Jrn) : (Hw.setJrn h d j).lasting = h.lasting := by
  simp [Hw.setJrn]
@[simp] theorem Hw_jrnPush_lasting (h : Hw) (d : Nat) (ws : List Nat) : (Hw.jrnPush h d ws).lasting = h.lasting := by
  simp [Hw.jrnPush]
@[simp] theorem Hw_beginLoss_lasting (h : Hw) (d : Nat) : (Hw.beginLoss h d).lasting = h.lasting := by
  simp [Hw.beginLoss]
@[simp] theorem Hw_journal_lasting (h : Hw) (d : Nat) (typ : Nat) (payload : Nat) (ext : List Nat)
    : (Hw.journal h d typ payload ext).lasting = h.lasting := by
  simp [Hw.journal]
@[simp] theorem Hw_writeRec_lasting (d : Nat) (r : Nat × Nat × List Nat) (h : Hw) : (Hw.writeRec d r h).lasting = h.lasting := by
  simp [Hw.writeRec]
@[simp] theorem Hw_jrnClose_lasting (h : Hw) (d : Nat) : (Hw.jrnClose h d).lasting = h.lasting := by
  simp [Hw.jrnClose]
@[simp] theorem Hw_journalErr_lasting (h : Hw) (d : Nat) (memory : Nat) (unit : Nat) (outcome : Nat)
    : (Hw.journalErr h d memory unit outcome).lasting = h.lasting := by
  simp [Hw.journalErr]
@[simp] theorem Hw_ignoreFreeze_lasting (h : Hw) : (Hw.ignoreFreeze h).lasting = h.lasting := by
  simp [Hw.ignoreFreeze]
@[simp] theorem Hw_triggerFreeze_lasting (h : Hw) (f : Freeze) : (Hw.triggerFreeze h f).lasting = h.lasting := by
  simp only [Hw.triggerFreeze]
  (repeat' split) <;> simp [*]
@[simp] theorem Hw_deliver_lasting (h : Hw) (d : Nat) (slot : Nat) (engine : Nat) : (Hw.deliver h d slot engine).2.lasting = h.lasting := by
  simp only [Hw.deliver]
  (repeat' split) <;> simp [*]
@[simp] theorem Hw_abandonStatement_lasting (h : Hw) : (Hw.abandonStatement h).lasting = h.lasting := by
  simp [Hw.abandonStatement]
@[simp] theorem Hw_checkNearFull_lasting (before : Bool) (h : Hw) : (Hw.checkNearFull before h).lasting = h.lasting := by
  simp [Hw.checkNearFull]
@[simp] theorem Hw_stageOne_lasting (h : Hw) (b : LedgerBody) : (Hw.stageOne h b).lasting = h.lasting := by
  simp [Hw.stageOne]
@[simp] theorem drainForced_lasting (u1 : Nat) (u2 : Hw) : (drainForced u1 u2).lasting = u2.lasting := by
  induction u1 generalizing u2 with
  | zero => simp [drainForced]
  | succ n ih =>
    unfold drainForced
    (repeat' split) <;> simp [ih]
@[simp] theorem Hw_stageNow_lasting (h : Hw) (b : LedgerBody) : (Hw.stageNow h b).lasting = h.lasting := by
  simp [Hw.stageNow]
@[simp] theorem Hw_stageForced_lasting (h : Hw) (b : LedgerBody) : (Hw.stageForced h b).lasting = h.lasting := by
  simp [Hw.stageForced]
@[simp] theorem Hw_checkpointIfDue_lasting (h : Hw) : (Hw.checkpointIfDue h).lasting = h.lasting := by
  simp [Hw.checkpointIfDue]
@[simp] theorem drainWaiting_lasting (u1 : Nat) (u2 : Hw) : (drainWaiting u1 u2).lasting = u2.lasting := by
  induction u1 generalizing u2 with
  | zero => simp [drainWaiting]
  | succ n ih =>
    unfold drainWaiting
    (repeat' split) <;> simp [ih]
@[simp] theorem Hw_stageRequested_lasting (h : Hw) (b : LedgerBody) : (Hw.stageRequested h b).lasting = h.lasting := by
  simp [Hw.stageRequested]
@[simp] theorem Hw_setBp_lasting (h : Hw) (d : Nat) (x : Bp) : (Hw.setBp h d x).lasting = h.lasting := by
  simp [Hw.setBp]
@[simp] theorem wrapEntries_lasting (es : List LedgerEntry) (h : Hw) : (wrapEntries es h).lasting = h.lasting := by
  simp [wrapEntries]
@[simp] theorem ledgerPageWrite_lasting (h : Hw) : (ledgerPageWrite h).lasting = h.lasting := by
  simp [ledgerPageWrite]
@[simp] theorem flushEqual_lasting (h : Hw) (op : PageOp) : (flushEqual h op).lasting = h.lasting := by
  simp [flushEqual]
@[simp] theorem ledgerPageRetry_lasting (h : Hw) : (ledgerPageRetry h).lasting = h.lasting := by
  simp only [ledgerPageRetry]
  (repeat' split) <;> simp [*]
@[simp] theorem archiveMark_lasting (hi : Nat) (sameCycle : Bool) (h : Hw) : (archiveMark hi sameCycle h).lasting = h.lasting := by
  simp [archiveMark]
@[simp] theorem headSearch_lasting (h : Hw) : (headSearch h).lasting = h.lasting := by
  simp only [headSearch]
  (repeat' split) <;> simp [*]
@[simp] theorem rebuildSeq_lasting (h : Hw) : (rebuildSeq h).lasting = h.lasting := by
  simp [rebuildSeq]
@[simp] theorem lastSeqRebuild_lasting (h : Hw) : (lastSeqRebuild h).lasting = h.lasting := by
  simp [lastSeqRebuild]
@[simp] theorem takeReport_lasting (d : Nat) (h : Hw) : (takeReport d h).lasting = h.lasting := by
  simp only [takeReport]
  (repeat' split) <;> simp [*]
@[simp] theorem eventReport_lasting (d : Nat) (h : Hw) : (eventReport d h).lasting = h.lasting := by
  simp [eventReport]
@[simp] theorem writeRecord_lasting (d : Nat) (x : Report) (h : Hw) : (writeRecord d x h).lasting = h.lasting := by
  simp only [writeRecord]
  (repeat' split) <;> simp [*]
@[simp] theorem recordWrite_lasting (d : Nat) (h : Hw) : (recordWrite d h).lasting = h.lasting := by
  simp only [recordWrite]
  (repeat' split) <;> simp [*]
@[simp] theorem markCopied_lasting (d : Nat) (q : Nat) (h : Hw) : (markCopied d q h).lasting = h.lasting := by
  simp [markCopied]
@[simp] theorem recorderCopy_lasting (aged : Bool) (h : Hw) : (recorderCopy aged h).lasting = h.lasting := by
  simp [recorderCopy]
@[simp] theorem applyClear_lasting (d : Nat) (o : Origin) (h : Hw) : (applyClear d o h).lasting = h.lasting := by
  simp [applyClear]
@[simp] theorem tryClear_lasting (d : Nat) (h : Hw) : (tryClear d h).lasting = h.lasting := by
  simp only [tryClear]
  (repeat' split) <;> simp [*]
@[simp] theorem evrClr_lasting (d : Nat) (o : Origin) (h : Hw) : (evrClr d o h).lasting = h.lasting := by
  simp only [evrClr]
  (repeat' split) <;> simp [*]
@[simp] theorem Hw_qwr_lasting (h : Hw) (d : Nat) (q : Nat) (F : Fld) (v : Nat) : (Hw.qwr h d q F v).lasting = h.lasting := by
  simp [Hw.qwr]
@[simp] theorem Hw_qbump_lasting (h : Hw) (d : Nat) (q : Nat) (F : Fld) : (Hw.qbump h d q F).lasting = h.lasting := by
  simp [Hw.qbump]
@[simp] theorem Hw_setCq_lasting (h : Hw) (d : Nat) (q : Nat) (c : CQueue) : (Hw.setCq h d q c).lasting = h.lasting := by
  simp [Hw.setCq]
@[simp] theorem Hw_setCistern_lasting (h : Hw) (d : Nat) (c : Cis) : (Hw.setCistern h d c).lasting = h.lasting := by
  simp [Hw.setCistern]
@[simp] theorem Hw_setBank_lasting (h : Hw) (d : Nat) (b : Nat) (k : Bank) : (Hw.setBank h d b k).lasting = h.lasting := by
  simp [Hw.setBank]
@[simp] theorem Hw_noteBank_lasting (h : Hw) (d : Nat) (b : Nat) : (Hw.noteBank h d b).lasting = h.lasting := by
  simp [Hw.noteBank]
@[simp] theorem Hw_allocate_lasting (h : Hw) (d : Nat) : (Hw.allocate h d).2.lasting = h.lasting := by
  simp only [Hw.allocate]
  (repeat' split) <;> simp [*]
@[simp] theorem Hw_setSwitch_lasting (h : Hw) (d : Nat) (s : Swc) : (Hw.setSwitch h d s).lasting = h.lasting := by
  simp [Hw.setSwitch]
@[simp] theorem Hw_offer_lasting (h : Hw) (d : Nat) (i : Nat) (c : Cell) : (Hw.offer h d i c).lasting = h.lasting := by
  simp [Hw.offer]
@[simp] theorem Hw_sendReturn_lasting (h : Hw) (d : Nat) (l : Nat) : (Hw.sendReturn h d l).lasting = h.lasting := by
  simp [Hw.sendReturn]
@[simp] theorem Hw_releaseLink_lasting (h : Hw) (d : Nat) (l : Option Nat) : (Hw.releaseLink h d l).lasting = h.lasting := by
  simp only [Hw.releaseLink]
  (repeat' split) <;> simp [*]
@[simp] theorem Hw_freeIndex_lasting (h : Hw) (d : Nat) (i : Nat) : (Hw.freeIndex h d i).lasting = h.lasting := by
  simp [Hw.freeIndex]
@[simp] theorem Hw_setPort_lasting (h : Hw) (d : Nat) (p : Nat) (x : Port) : (Hw.setPort h d p x).lasting = h.lasting := by
  simp [Hw.setPort]
@[simp] theorem Hw_releaseCharge_lasting (h : Hw) (d : Nat) (src : Nat) (c : Nat) : (Hw.releaseCharge h d src c).lasting = h.lasting := by
  simp [Hw.releaseCharge]
@[simp] theorem Hw_freeCell_lasting (h : Hw) (d : Nat) (c : CCell) : (Hw.freeCell h d c).lasting = h.lasting := by
  simp [Hw.freeCell]
@[simp] theorem Hw_watchRaise_lasting (h : Hw) (d : Nat) (q : Nat) : (Hw.watchRaise h d q).lasting = h.lasting := by
  simp [Hw.watchRaise]
@[simp] theorem Hw_watching_lasting (h : Hw) (d : Nat) (q : Nat) (f : Hw →
    Hw) (hf : ∀ y0, (f y0).lasting = y0.lasting) : (Hw.watching h d q f).lasting = h.lasting := by
  simp only [Hw.watching]
  (repeat' split) <;> simp [*]
@[simp] theorem Hw_linkTail_lasting (h : Hw) (d : Nat) (q : Nat) (c : CCell) : (Hw.linkTail h d q c).lasting = h.lasting := by
  simp [Hw.linkTail]
@[simp] theorem linkHeld_lasting (d : Nat) (h : Hw) : (linkHeld d h).lasting = h.lasting := by
  simp [linkHeld]
@[simp] theorem writeBufferRelease_lasting (d : Nat) (h : Hw) : (writeBufferRelease d h).lasting = h.lasting := by
  simp only [writeBufferRelease]
  (repeat' split) <;> first | (simp [*]; done) | simp [snd_lasting ‹_ = (_, _)›]
@[simp] theorem Hw_placeAll_lasting (h : Hw) (d : Nat) (q : Nat) (cs : List CCell) : (Hw.placeAll h d q cs).lasting = h.lasting := by
  simp [Hw.placeAll]
@[simp] theorem Hw_place_lasting (h : Hw) (d : Nat) (q : Nat) (c : CCell) : (Hw.place h d q c).lasting = h.lasting := by
  simp only [Hw.place]
  (repeat' split) <;> first | (simp [*]; done) | simp [snd_lasting ‹_ = (_, _)›]
@[simp] theorem Hw_relink_lasting (h : Hw) (d : Nat) (q : Nat) (c : CCell) : (Hw.relink h d q c).lasting = h.lasting := by
  simp [Hw.relink]
@[simp] theorem releaseHeld_lasting (d : Nat) (h : Hw) : (releaseHeld d h).lasting = h.lasting := by
  simp [releaseHeld]
@[simp] theorem Hw_freeHead_lasting (h : Hw) (d : Nat) (q : Nat) : (Hw.freeHead h d q).lasting = h.lasting := by
  simp only [Hw.freeHead]
  (repeat' split) <;> simp [*]
@[simp] theorem Hw_readHead_lasting (h : Hw) (d : Nat) (q : Nat) : (Hw.readHead h d q).lasting = h.lasting := by
  simp only [Hw.readHead]
  (repeat' split) <;> simp [*]
@[simp] theorem Hw_dropHead_lasting (h : Hw) (d : Nat) (q : Nat) : (Hw.dropHead h d q).lasting = h.lasting := by
  simp only [Hw.dropHead]
  (repeat' split) <;> simp [*]
@[simp] theorem Hw_countArrival_lasting (h : Hw) (d : Nat) (q : Nat) (arrived : Bool) : (Hw.countArrival h d q arrived).lasting = h.lasting := by
  simp [Hw.countArrival]
@[simp] theorem Hw_retireRead_lasting (h : Hw) (d : Nat) (q : Nat) : (Hw.retireRead h d q).lasting = h.lasting := by
  simp only [Hw.retireRead]
  (repeat' split) <;> simp [*]
@[simp] theorem Hw_underrun_lasting (h : Hw) (d : Nat) (q : Nat) : (Hw.underrun h d q).lasting = h.lasting := by
  simp [Hw.underrun]
@[simp] theorem Hw_takeCell_lasting (h : Hw) (d : Nat) (q : Nat) : (Hw.takeCell h d q).2.lasting = h.lasting := by
  simp only [Hw.takeCell]
  (repeat' split) <;> simp [*]
@[simp] theorem Hw_takeWord_lasting (h : Hw) (d : Nat) (q : Nat) : (Hw.takeWord h d q).2.lasting = h.lasting := by
  simp only [Hw.takeWord]
  (repeat' split) <;> simp [*]
@[simp] theorem Hw_closeTail_lasting (h : Hw) (d : Nat) (q : Nat) : (Hw.closeTail h d q).lasting = h.lasting := by
  simp [Hw.closeTail]
@[simp] theorem Hw_setTail_lasting (h : Hw) (d : Nat) (q : Nat) (c : CCell) : (Hw.setTail h d q c).lasting = h.lasting := by
  simp [Hw.setTail]
@[simp] theorem Hw_fillTail_lasting (h : Hw) (d : Nat) (q : Nat) (c : CCell) (w : Word) : (Hw.fillTail h d q c w).lasting = h.lasting := by
  simp [Hw.fillTail]
@[simp] theorem Hw_account_lasting (h : Hw) (d : Nat) (q : Nat) (relink : Option (Nat × Nat)) : (Hw.account h d q relink).2.lasting = h.lasting := by
  simp only [Hw.account]
  (repeat' split) <;> simp [*]
@[simp] theorem Hw_errorTo_lasting (h : Hw) (d : Nat) (c : Cell) (code : Nat) : (Hw.errorTo h d c code).lasting = h.lasting := by
  simp [Hw.errorTo]
@[simp] theorem Hw_arriveCell_lasting (h : Hw) (d : Nat) (q : Nat) (c : Cell) (place : Option Nat)
    : (Hw.arriveCell h d q c place).lasting = h.lasting := by
  simp only [Hw.arriveCell]
  (repeat' split) <;> first | (simp [*]; done) | simp [snd_lasting ‹_ = (_, _)›]
@[simp] theorem Hw_resetQueue_lasting (h : Hw) (d : Nat) (q : Nat) (code : Nat) : (Hw.resetQueue h d q code).lasting = h.lasting := by
  simp [Hw.resetQueue]
@[simp] theorem queueSweepEnd_lasting (d : Nat) (q : Nat) (h : Hw) : (queueSweepEnd d q h).lasting = h.lasting := by
  simp [queueSweepEnd]
@[simp] theorem Hw_rebuildBank_lasting (h : Hw) (d : Nat) (b : Nat) : (Hw.rebuildBank h d b).lasting = h.lasting := by
  simp [Hw.rebuildBank]
@[simp] theorem freeListRebuildEnd_lasting (d : Nat) (b : Nat) (h : Hw) : (freeListRebuildEnd d b h).lasting = h.lasting := by
  simp [freeListRebuildEnd]
@[simp] theorem Hw_checkSpare_lasting (h : Hw) (d : Nat) : (Hw.checkSpare h d).lasting = h.lasting := by
  simp [Hw.checkSpare]
@[simp] theorem Hw_retireOut_lasting (h : Hw) (d : Nat) (i : Nat) : (Hw.retireOut h d i).lasting = h.lasting := by
  simp only [Hw.retireOut]
  (repeat' split) <;> simp [*]
@[simp] theorem Hw_memError_lasting (h : Hw) (d : Nat) (cell : Nat) (word : Nat) (ue : Bool) (scrub : Bool)
    : (Hw.memError h d cell word ue scrub).lasting = h.lasting := by
  exact (Hw_bump_lasting _ _ _ _ _ _).trans ((Hw_wr_lasting _ _ _ _ _ _).trans ((Hw_wr_lasting _ _ _ _ _ _).trans ((Hw_wr_lasting _ _ _ _ _ _).trans (Hw_wr_lasting _ _ _ _ _ _))))
@[simp] theorem Hw_loseCell_lasting (h : Hw) (d : Nat) (word : Nat) (c : CCell) : (Hw.loseCell h d word c).lasting = h.lasting := by
  simp [Hw.loseCell]
@[simp] theorem Hw_loseHead_lasting (h : Hw) (d : Nat) (q : Nat) (word : Nat) : (Hw.loseHead h d q word).lasting = h.lasting := by
  simp only [Hw.loseHead]
  (repeat' split) <;> simp [*]
@[simp] theorem Hw_linkParityAt_lasting (h : Hw) (d : Nat) (q : Nat) (trusted : Bool) (c : Option CCell)
    : (Hw.linkParityAt h d q trusted c).lasting = h.lasting := by
  simp only [Hw.linkParityAt]
  (repeat' split) <;> simp [*]
@[simp] theorem Hw_linkParity_lasting (h : Hw) (d : Nat) (q : Nat) (trusted : Bool) : (Hw.linkParity h d q trusted).lasting = h.lasting := by
  simp only [Hw.linkParity]
  (repeat' split) <;> simp [*]
@[simp] theorem Hw_meet_lasting (h : Hw) (d : Nat) (q : Nat) (u : Upset) : (Hw.meet h d q u).2.lasting = h.lasting := by
  simp only [Hw.meet]
  (repeat' split) <;> simp [*]
@[simp] theorem Hw_meetTail_lasting (h : Hw) (d : Nat) (q : Nat) (u : Upset) : (Hw.meetTail h d q u).lasting = h.lasting := by
  simp only [Hw.meetTail]
  (repeat' split) <;> simp [*]
@[simp] theorem Hw_bring_lasting (h : Hw) (d : Nat) (q : Nat) (c : CCell) (u : Upset) : (Hw.bring h d q c u).lasting = h.lasting := by
  simp only [Hw.bring]
  (repeat' split) <;> first | (simp +contextual [*]; done) | simp [snd_lasting ‹_ = (_, _)›]
@[simp] theorem Hw_bringWord_lasting (h : Hw) (d : Nat) (q : Nat) (c : CCell) (w : Word) (u : Upset)
    : (Hw.bringWord h d q c w u).lasting = h.lasting := by
  simp only [Hw.bringWord]
  (repeat' split) <;> simp [*]
@[simp] theorem Hw_windowCell_lasting (h : Hw) (d : Nat) (q : Nat) (o : Origin) (data : List Byte) (u : Upset)
    : (Hw.windowCell h d q o data u).2.lasting = h.lasting := by
  simp only [Hw.windowCell]
  (repeat' split) <;> first | (simp [*]; done) | simp [snd_lasting ‹_ = (_, _)›]
@[simp] theorem Hw_windowWord_lasting (h : Hw) (d : Nat) (q : Nat) (w : Word) (u : Upset) : (Hw.windowWord h d q w u).2.lasting = h.lasting := by
  simp only [Hw.windowWord]
  (repeat' split) <;> first | (simp [*]; done) | simp [snd_lasting ‹_ = (_, _)›]
@[simp] theorem Hw_localWord_lasting (h : Hw) (d : Nat) (q : Nat) (w : Word) (u : Upset) : (Hw.localWord h d q w u).2.lasting = h.lasting := by
  simp only [Hw.localWord]
  (repeat' split) <;> simp [*]
@[simp] theorem Hw_localCell_lasting (h : Hw) (d : Nat) (q : Nat) (data : List Byte) : (Hw.localCell h d q data).2.lasting = h.lasting := by
  simp only [Hw.localCell]
  (repeat' split) <;> simp [*]
@[simp] theorem creditReturnTimer_lasting (d : Nat) (l : Nat) (h : Hw) : (creditReturnTimer d l h).lasting = h.lasting := by
  simp [creditReturnTimer]
@[simp] theorem Hw_applyReturn_lasting (h : Hw) (d : Nat) (q : Nat) (c : Cell) : (Hw.applyReturn h d q c).lasting = h.lasting := by
  simp [Hw.applyReturn]
@[simp] theorem creditReturnCell_lasting (d : Nat) (u : Upset) (h : Hw) : (creditReturnCell d u h).lasting = h.lasting := by
  simp only [creditReturnCell]
  (repeat' split) <;> simp [*]
@[simp] theorem wordCellClose_lasting (d : Nat) (q : Nat) (joined : Option Word) (h : Hw) : (wordCellClose d q joined h).lasting = h.lasting := by
  simp only [wordCellClose]
  (repeat' split) <;> simp [*]
@[simp] theorem qgrantRead_lasting (d : Nat) (q : Nat) (h : Hw) : (qgrantRead d q h).2.lasting = h.lasting := by
  simp [qgrantRead]
@[simp] theorem Hw_setScrub_lasting (h : Hw) (d : Nat) (x : Scrub) : (Hw.setScrub h d x).lasting = h.lasting := by
  simp [Hw.setScrub]
@[simp] theorem Hw_unlink_lasting (h : Hw) (d : Nat) (q : Nat) (i : Nat) : (Hw.unlink h d q i).lasting = h.lasting := by
  simp only [Hw.unlink]
  (repeat' split) <;> simp [*]
@[simp] theorem Hw_unstage_lasting (h : Hw) (d : Nat) (k : Nat) (i : Nat) : (Hw.unstage h d k i).lasting = h.lasting := by
  simp only [Hw.unstage]
  (repeat' split) <;> simp [*]
@[simp] theorem Hw_offFree_lasting (h : Hw) (d : Nat) (i : Nat) : (Hw.offFree h d i).lasting = h.lasting := by
  simp [Hw.offFree]
@[simp] theorem Hw_takeOut_lasting (h : Hw) (d : Nat) (i : Nat) : (Hw.takeOut h d i).lasting = h.lasting := by
  simp only [Hw.takeOut]
  (repeat' split) <;> simp [*]
@[simp] theorem Hw_scrubUe_lasting (h : Hw) (d : Nat) (i : Nat) (word : Nat) : (Hw.scrubUe h d i word).lasting = h.lasting := by
  simp only [Hw.scrubUe]
  (repeat' split) <;> simp [*]
@[simp] theorem Hw_moveCell_lasting (h : Hw) (d : Nat) (i : Nat) (j : Nat) : (Hw.moveCell h d i j).lasting = h.lasting := by
  simp only [Hw.moveCell]
  (repeat' split) <;> simp [*]
@[simp] theorem Hw_remap_lasting (h : Hw) (d : Nat) (i : Nat) : (Hw.remap h d i).lasting = h.lasting := by
  unfold Hw.remap
  split
  · simp
  · split <;> simp [snd_lasting ‹_ = (_, _)›]
@[simp] theorem Hw_scrubCe_lasting (h : Hw) (d : Nat) (i : Nat) (word : Nat) : (Hw.scrubCe h d i word).lasting = h.lasting := by
  unfold Hw.scrubCe
  simp only [apply_ite Hw.lasting, Hw_remap_lasting, Hw_setScrub_lasting, Hw_journalErr_lasting, Hw_memError_lasting, ite_self]
@[simp] theorem Hw_scrubFind_lasting (h : Hw) (d : Nat) (b : Nat) (line : Nat) (f : Fin 4 × Fin 8 × Bool)
    : (Hw.scrubFind h d b line f).lasting = h.lasting := by
  simp [Hw.scrubFind]
@[simp] theorem Hw_nextLine_lasting (h : Hw) (d : Nat) (b : Nat) (line : Nat) : (Hw.nextLine h d b line).lasting = h.lasting := by
  simp [Hw.nextLine]
@[simp] theorem cellScrub_lasting (d : Nat) (b : Nat) (finds : List (Fin 4 × Fin 8 × Bool)) (h : Hw)
    : (cellScrub d b finds h).lasting = h.lasting := by
  simp [cellScrub]
@[simp] theorem linkRamScrub_lasting (d : Nat) (b : Nat) (bad : Bool) (trusted : Bool) (h : Hw)
    : (linkRamScrub d b bad trusted h).lasting = h.lasting := by
  simp only [linkRamScrub]
  (repeat' split) <;> simp [*]
@[simp] theorem descriptorScrub_lasting (d : Nat) (differ : Bool) (h : Hw) : (descriptorScrub d differ h).lasting = h.lasting := by
  simp [descriptorScrub]
@[simp] theorem Hw_setRing_lasting (h : Hw) (d : Nat) (r : Rng) : (Hw.setRing h d r).lasting = h.lasting := by
  simp [Hw.setRing]
@[simp] theorem Hw_flushed_lasting (h : Hw) (d : Nat) (o : Nat) (c : Cell) : (Hw.flushed h d o c).lasting = h.lasting := by
  simp [Hw.flushed]
@[simp] theorem Hw_evict_lasting (h : Hw) (d : Nat) (o : Nat) (c : Nat) : (Hw.evict h d o c).lasting = h.lasting := by
  simp only [Hw.evict]
  (repeat' split) <;> simp [*]
@[simp] theorem Hw_noteRead_lasting (h : Hw) (d : Nat) (o : Nat) (c : Nat) : (Hw.noteRead h d o c).lasting = h.lasting := by
  simp [Hw.noteRead]
@[simp] theorem Hw_pushOut_lasting (h : Hw) (d : Nat) (o : Nat) (c : Nat) : (Hw.pushOut h d o c).lasting = h.lasting := by
  simp only [Hw.pushOut]
  (repeat' split) <;> simp [*]
@[simp] theorem Hw_charge_lasting (h : Hw) (d : Nat) (src : Nat) (c : Nat) : (Hw.charge h d src c).lasting = h.lasting := by
  simp [Hw.charge]
@[simp] theorem Hw_chargeMoved_lasting (h : Hw) (d : Nat) (src : Nat) (s : Staged) : (Hw.chargeMoved h d src s).lasting = h.lasting := by
  simp [Hw.chargeMoved]
@[simp] theorem Hw_giveBack_lasting (h : Hw) (d : Nat) (src : Nat) (s : Staged) : (Hw.giveBack h d src s).lasting = h.lasting := by
  simp only [Hw.giveBack]
  (repeat' split) <;> simp [*]
@[simp] theorem Hw_linkOut_lasting (h : Hw) (d : Nat) (o : Nat) (src : Nat) (s : Staged) : (Hw.linkOut h d o src s).lasting = h.lasting := by
  simp only [Hw.linkOut]
  (repeat' split) <;> simp [*]
@[simp] theorem Hw_residue_lasting (h : Hw) (d : Nat) (m : McCell) : (Hw.residue h d m).lasting = h.lasting := by
  simp [Hw.residue]
@[simp] theorem Hw_giveUp_lasting (h : Hw) (d : Nat) (m : McCell) (ports : List Nat) : (Hw.giveUp h d m ports).2.lasting = h.lasting := by
  simp only [Hw.giveUp]
  (repeat' split) <;> simp [*]
@[simp] theorem Hw_finishMulticast_lasting (h : Hw) (d : Nat) : (Hw.finishMulticast h d).lasting = h.lasting := by
  simp only [Hw.finishMulticast]
  (repeat' split) <;> simp [*]
@[simp] theorem Hw_giveUpPort_lasting (h : Hw) (d : Nat) (o : Nat) : (Hw.giveUpPort h d o).lasting = h.lasting := by
  simp [Hw.giveUpPort]
@[simp] theorem Hw_pendMulticast_lasting (h : Hw) (d : Nat) (i : Nat) (c : Cell) : (Hw.pendMulticast h d i c).lasting = h.lasting := by
  simp only [Hw.pendMulticast]
  (repeat' split) <;> simp [*]
@[simp] theorem Hw_popStage_lasting (h : Hw) (d : Nat) (i : Nat) : (Hw.popStage h d i).lasting = h.lasting := by
  simp [Hw.popStage]
@[simp] theorem clearHead_lasting (d : Nat) (i : Nat) (h : Hw) : (clearHead d i h).lasting = h.lasting := by
  simp only [clearHead]
  (repeat' split) <;> simp [*]
@[simp] theorem listHead_lasting (d : Nat) (i : Nat) (h : Hw) : (listHead d i h).lasting = h.lasting := by
  simp only [listHead]
  (repeat' split) <;> simp [*]
@[simp] theorem acceptPair_lasting (d : Nat) (p : Nat × Nat) (h : Hw) : (acceptPair d p h).lasting = h.lasting := by
  simp only [acceptPair]
  (repeat' split) <;> simp [*]
@[simp] theorem matchCycle_lasting (d : Nat) (h : Hw) : (matchCycle d h).lasting = h.lasting := by
  simp [matchCycle]
@[simp] theorem Hw_present_lasting (h : Hw) (d : Nat) (i : Nat) (x : Staged) : (Hw.present h d i x).lasting = h.lasting := by
  simp [Hw.present]
@[simp] theorem presentWaiting_lasting (d : Nat) (i : Nat) (h : Hw) : (presentWaiting d i h).lasting = h.lasting := by
  simp only [presentWaiting]
  (repeat' split) <;> simp [*]
@[simp] theorem switchCycle_lasting (h : Hw) : (switchCycle h).lasting = h.lasting := by
  simp [switchCycle]
@[simp] theorem multicastGiveUp_lasting (d : Nat) (granted : Option (Fin 10)) (h : Hw) : (multicastGiveUp d granted h).lasting = h.lasting := by
  simp only [multicastGiveUp]
  (repeat' split) <;> simp [*]
@[simp] theorem forwardPresent_lasting (d : Nat) (mp : Bool) (u : Upset) (h : Hw) : (forwardPresent d mp u h).lasting = h.lasting := by
  simp only [forwardPresent]
  (repeat' split) <;> simp [*]
@[simp] theorem Hw_countWaits_lasting (h : Hw) (d : Nat) (o : Nat) (sent : Nat) : (Hw.countWaits h d o sent).lasting = h.lasting := by
  simp [Hw.countWaits]
@[simp] theorem Hw_relinkHead_lasting (h : Hw) (d : Nat) (o : Nat) (c : Nat) (dest : Upset) : (Hw.relinkHead h d o c dest).lasting = h.lasting := by
  simp only [Hw.relinkHead]
  (repeat' split) <;> simp [*]
@[simp] theorem lpMpSlot_lasting (d : Nat) (o : Nat) (u : Upset) (dest : Upset) (h : Hw) : (lpMpSlot d o u dest h).lasting = h.lasting := by
  simp only [lpMpSlot]
  (repeat' split) <;> simp [*]
@[simp] theorem Hw_lockEnded_lasting (h : Hw) (d : Nat) (l : UnitLock) : (Hw.lockEnded h d l).lasting = h.lasting := by
  simp [Hw.lockEnded]
@[simp] theorem Hw_endLocks_lasting (h : Hw) : (Hw.endLocks h).lasting = h.lasting := by
  simp [Hw.endLocks]
@[simp] theorem errorPacketSend_lasting (d : Nat) (h : Hw) : (errorPacketSend d h).lasting = h.lasting := by
  simp only [errorPacketSend]
  (repeat' split) <;> simp [*]
@[simp] theorem Hw_flushQueue_lasting (h : Hw) (d : Nat) (o : Nat) (c : Nat) : (Hw.flushQueue h d o c).lasting = h.lasting := by
  simp [Hw.flushQueue]
@[simp] theorem Hw_flushPort_lasting (h : Hw) (d : Nat) (o : Nat) : (Hw.flushPort h d o).lasting = h.lasting := by
  simp [Hw.flushPort]
@[simp] theorem dieLinkSilence_lasting (d : Nat) (dp : Nat) (h : Hw) : (dieLinkSilence d dp h).lasting = h.lasting := by
  simp [dieLinkSilence]
@[simp] theorem Hw_grantDie_lasting (h : Hw) (d : Nat) (dp : Nat) (e : Nat) (ep : Nat) : (Hw.grantDie h d dp e ep).lasting = h.lasting := by
  simp [Hw.grantDie]
@[simp] theorem dieLinkTrained_lasting (d : Nat) (dp : Nat) (h : Hw) : (dieLinkTrained d dp h).lasting = h.lasting := by
  simp [dieLinkTrained]
@[simp] theorem Hw_sendPresence_lasting (h : Hw) (d : Nat) : (Hw.sendPresence h d).lasting = h.lasting := by
  simp [Hw.sendPresence]
@[simp] theorem Hw_buildMap_lasting (h : Hw) (d : Nat) : (Hw.buildMap h d).lasting = h.lasting := by
  simp [Hw.buildMap]
@[simp] theorem Hw_applyPresence_lasting (h : Hw) (d : Nat) (c : List Byte) : (Hw.applyPresence h d c).lasting = h.lasting := by
  simp [Hw.applyPresence]
@[simp] theorem presenceTake_lasting (d : Nat) (u : Upset) (h : Hw) : (presenceTake d u h).lasting = h.lasting := by
  simp only [presenceTake]
  (repeat' split) <;> simp [*]
@[simp] theorem nodeAbsent_lasting (d : Nat) (node : Nat) (h : Hw) : (nodeAbsent d node h).lasting = h.lasting := by
  simp [nodeAbsent]
@[simp] theorem Hw_setTrain_lasting (h : Hw) (d : Nat) (t : Trn) : (Hw.setTrain h d t).lasting = h.lasting := by
  simp [Hw.setTrain]
@[simp] theorem Hw_endPassage_lasting (h : Hw) (d : Nat) (q : Nat) (keep : Bool) (x : Passage)
    : (Hw.endPassage h d q keep x).lasting = h.lasting := by
  simp [Hw.endPassage]
@[simp] theorem Hw_truncateTrain_lasting (h : Hw) (d : Nat) (p : Nat) : (Hw.truncateTrain h d p).lasting = h.lasting := by
  unfold Hw.truncateTrain
  refine iter_lasting _ _ _ fun q a => ?_
  split
  · rfl
  · split
    · exact Hw_endPassage_lasting ..
    · split
      · exact Hw_endPassage_lasting ..
      · rfl
@[simp] theorem Hw_setPortState_lasting (h : Hw) (d : Nat) (p : Nat) (st : Nat) : (Hw.setPortState h d p st).lasting = h.lasting := by
  simp [Hw.setPortState]
@[simp] theorem Hw_movePort_lasting (h : Hw) (d : Nat) (p : Nat) (st : Nat) : (Hw.movePort h d p st).lasting = h.lasting := by
  simp [Hw.movePort]
@[simp] theorem Hw_presenceAtOnce_lasting (h : Hw) (d : Nat) : (Hw.presenceAtOnce h d).lasting = h.lasting := by
  simp [Hw.presenceAtOnce]
@[simp] theorem Hw_leaveUp_lasting (h : Hw) (d : Nat) (p : Nat) (st : Nat) : (Hw.leaveUp h d p st).lasting = h.lasting := by
  simp [Hw.leaveUp]
@[simp] theorem Hw_enterTraining_lasting (h : Hw) (d : Nat) (p : Nat) : (Hw.enterTraining h d p).lasting = h.lasting := by
  simp [Hw.enterTraining]
@[simp] theorem Hw_linkLoss_lasting (h : Hw) (d : Nat) (p : Nat) : (Hw.linkLoss h d p).lasting = h.lasting := by
  simp [Hw.linkLoss]
@[simp] theorem Hw_trainingFailed_lasting (h : Hw) (d : Nat) (p : Nat) : (Hw.trainingFailed h d p).lasting = h.lasting := by
  simp [Hw.trainingFailed]
@[simp] theorem Hw_scoreOff_lasting (h : Hw) (d : Nat) (p : Nat) : (Hw.scoreOff h d p).lasting = h.lasting := by
  simp [Hw.scoreOff]
@[simp] theorem Hw_judgeScore_lasting (h : Hw) (d : Nat) (p : Nat) : (Hw.judgeScore h d p).lasting = h.lasting := by
  simp [Hw.judgeScore]
@[simp] theorem Hw_score_lasting (h : Hw) (d : Nat) (p : Nat) (w : Nat) : (Hw.score h d p w).lasting = h.lasting := by
  simp [Hw.score]
@[simp] theorem lesDecay_lasting (d : Nat) (p : Nat) (h : Hw) : (lesDecay d p h).lasting = h.lasting := by
  simp [lesDecay]
@[simp] theorem offHoldExpiry_lasting (d : Nat) (p : Nat) (h : Hw) : (offHoldExpiry d p h).lasting = h.lasting := by
  simp [offHoldExpiry]
@[simp] theorem offcntClear_lasting (d : Nat) (p : Nat) (h : Hw) : (offcntClear d p h).lasting = h.lasting := by
  simp [offcntClear]
@[simp] theorem retrain_lasting (d : Nat) (p : Nat) (h : Hw) : (retrain d p h).lasting = h.lasting := by
  simp [retrain]
@[simp] theorem forceOff_lasting (d : Nat) (p : Nat) (h : Hw) : (forceOff d p h).lasting = h.lasting := by
  simp [forceOff]
@[simp] theorem portRelease_lasting (d : Nat) (p : Nat) (h : Hw) : (portRelease d p h).lasting = h.lasting := by
  simp [portRelease]
@[simp] theorem blockLockLoss_lasting (d : Nat) (p : Nat) (lane : Nat) (h : Hw) : (blockLockLoss d p lane h).lasting = h.lasting := by
  simp [blockLockLoss]
@[simp] theorem frameSilence_lasting (d : Nat) (p : Nat) (frameSame : Bool) (h : Hw) : (frameSilence d p frameSame h).lasting = h.lasting := by
  simp [frameSilence]
@[simp] theorem blockLock_lasting (d : Nat) (p : Nat) (lane : Nat) (h : Hw) : (blockLock d p lane h).lasting = h.lasting := by
  simp [blockLock]
@[simp] theorem trainingTimeout_lasting (d : Nat) (p : Nat) (h : Hw) : (trainingTimeout d p h).lasting = h.lasting := by
  simp [trainingTimeout]
@[simp] theorem trainingRetry_lasting (d : Nat) (p : Nat) (h : Hw) : (trainingRetry d p h).lasting = h.lasting := by
  simp [trainingRetry]
@[simp] theorem Hw_emitFrame_lasting (h : Hw) (d : Nat) (p : Nat) (f : Frame) : (Hw.emitFrame h d p f).lasting = h.lasting := by
  simp [Hw.emitFrame]
@[simp] theorem Hw_syncFirst_lasting (h : Hw) (d : Nat) (p : Nat) : (Hw.syncFirst h d p).lasting = h.lasting := by
  simp [Hw.syncFirst]
@[simp] theorem Hw_sendFrame_lasting (h : Hw) (d : Nat) (p : Nat) (f : Frame) : (Hw.sendFrame h d p f).lasting = h.lasting := by
  simp [Hw.sendFrame]
@[simp] theorem Hw_sendControl_lasting (h : Hw) (d : Nat) (p : Nat) (msg : List Byte) : (Hw.sendControl h d p msg).lasting = h.lasting := by
  simp [Hw.sendControl]
@[simp] theorem Hw_sendRing_lasting (h : Hw) (d : Nat) (p : Nat) (c : Nat) : (Hw.sendRing h d p c).lasting = h.lasting := by
  simp only [Hw.sendRing]
  (repeat' split) <;> simp [*]
@[simp] theorem Hw_sendDie_lasting (h : Hw) (d : Nat) (o : Nat) (c : Nat) : (Hw.sendDie h d o c).lasting = h.lasting := by
  simp only [Hw.sendDie]
  (repeat' split) <;> simp [*]
@[simp] theorem Hw_sendBridge_lasting (h : Hw) (d : Nat) (o : Nat) (c : Nat) : (Hw.sendBridge h d o c).lasting = h.lasting := by
  simp [Hw.sendBridge]
@[simp] theorem outputSlot_lasting (d : Nat) (o : Nat) (u : Upset) (h : Hw) : (outputSlot d o u h).lasting = h.lasting := by
  simp only [outputSlot]
  (repeat' split) <;> simp [*]
@[simp] theorem Hw_replay_lasting (h : Hw) (d : Nat) (p : Nat) : (Hw.replay h d p).lasting = h.lasting := by
  simp [Hw.replay]
@[simp] theorem replayTimeout_lasting (d : Nat) (p : Nat) (ackSame : Bool) (h : Hw) : (replayTimeout d p ackSame h).lasting = h.lasting := by
  simp [replayTimeout]
@[simp] theorem creditFrameDue_lasting (d : Nat) (p : Nat) (h : Hw) : (creditFrameDue d p h).lasting = h.lasting := by
  simp [creditFrameDue]
@[simp] theorem creditAdvance_lasting (d : Nat) (p : Nat) (h : Hw) : (creditAdvance d p h).lasting = h.lasting := by
  simp [creditAdvance]
@[simp] theorem Hw_takeAck_lasting (h : Hw) (d : Nat) (p : Nat) (ack : Nat) : (Hw.takeAck h d p ack).lasting = h.lasting := by
  simp only [Hw.takeAck]
  (repeat' split) <;> simp [*]
@[simp] theorem Hw_takeCredit_lasting (h : Hw) (d : Nat) (p : Nat) (cs : List Nat) : (Hw.takeCredit h d p cs).lasting = h.lasting := by
  simp [Hw.takeCredit]
@[simp] theorem Hw_discardFrame_lasting (h : Hw) (d : Nat) (p : Nat) : (Hw.discardFrame h d p).lasting = h.lasting := by
  simp [Hw.discardFrame]
@[simp] theorem Hw_journalFrame_lasting (h : Hw) (d : Nat) (p : Nat) (status : Nat) (f : Frame)
    : (Hw.journalFrame h d p status f).lasting = h.lasting := by
  simp [Hw.journalFrame]
@[simp] theorem Hw_receive_lasting (h : Hw) (d : Nat) (p : Nat) (bytes : List Byte) (abort : Bool)
    : (Hw.receive h d p bytes abort).2.lasting = h.lasting := by
  simp only [Hw.receive]
  (repeat' split) <;> simp [*]
@[simp] theorem Hw_stompCopy_lasting (h : Hw) (d : Nat) (o : Nat) (c : Cell) : (Hw.stompCopy h d o c).lasting = h.lasting := by
  simp [Hw.stompCopy]
@[simp] theorem Hw_stompFrame_lasting (h : Hw) (d : Nat) (p : Nat) (f : Frame) (cut : List Nat)
    : (Hw.stompFrame h d p f cut).lasting = h.lasting := by
  simp [Hw.stompFrame]
@[simp] theorem Hw_dropArrival_lasting (h : Hw) (d : Nat) (p : Nat) (c : Nat) (ask : Bool) : (Hw.dropArrival h d p c ask).lasting = h.lasting := by
  simp [Hw.dropArrival]
@[simp] theorem Hw_relayBroadcast_lasting (h : Hw) (d : Nat) (c : Cell) : (Hw.relayBroadcast h d c).lasting = h.lasting := by
  simp [Hw.relayBroadcast]
@[simp] theorem Hw_acceptCell_lasting (h : Hw) (d : Nat) (p : Nat) (f : Frame) : (Hw.acceptCell h d p f).lasting = h.lasting := by
  simp [Hw.acceptCell]
@[simp] theorem Hw_blockErrors_lasting (h : Hw) (d : Nat) (p : Nat) (n : Nat) : (Hw.blockErrors h d p n).lasting = h.lasting := by
  simp [Hw.blockErrors]
@[simp] theorem Hw_trainingFrame_lasting (h : Hw) (d : Nat) (p : Nat) (bytes : List Byte) (abort : Bool)
    : (Hw.trainingFrame h d p bytes abort).lasting = h.lasting := by
  simp [Hw.trainingFrame]
@[simp] theorem cellFrameIn_lasting (d : Nat) (p : Nat) (bytes : List Byte) (abort : Bool) (blkErr : Nat) (cut : List Nat) (h : Hw)
    : (cellFrameIn d p bytes abort blkErr cut h).lasting = h.lasting := by
  simp only [cellFrameIn]
  (repeat' split) <;> first | (simp [*]; done) | simp [snd_lasting ‹_ = (_, _)›]
@[simp] theorem Hw_controlMsg_lasting (h : Hw) (d : Nat) (p : Nat) (bytes : List Byte) : (Hw.controlMsg h d p bytes).2.lasting = h.lasting := by
  simp only [Hw.controlMsg]
  (repeat' split) <;> first | (simp [*]; done) | simp [snd_lasting ‹_ = (_, _)›]
@[simp] theorem keepalive_lasting (d : Nat) (p : Nat) (bytes : List Byte) (h : Hw) : (keepalive d p bytes h).lasting = h.lasting := by
  simp [keepalive]
@[simp] theorem Hw_applySync_lasting (h : Hw) (d : Nat) (p : Nat) (m : List Byte) : (Hw.applySync h d p m).lasting = h.lasting := by
  simp [Hw.applySync]
@[simp] theorem creditSync_lasting (d : Nat) (p : Nat) (bytes : List Byte) (h : Hw) : (creditSync d p bytes h).lasting = h.lasting := by
  simp only [creditSync]
  (repeat' split) <;> first | (simp [*]; done) | simp [snd_lasting ‹_ = (_, _)›]
@[simp] theorem deskew_lasting (d : Nat) (p : Nat) (h : Hw) : (deskew d p h).lasting = h.lasting := by
  simp [deskew]
@[simp] theorem Hw_trainingComplete_lasting (h : Hw) (d : Nat) (p : Nat) : (Hw.trainingComplete h d p).lasting = h.lasting := by
  simp [Hw.trainingComplete]
@[simp] theorem Hw_deriveSession_lasting (h : Hw) (d : Nat) (p : Nat) : (Hw.deriveSession h d p).lasting = h.lasting := by
  simp only [Hw.deriveSession]
  (repeat' split) <;> first | (simp [*]; done) | simp [snd_lasting ‹_ = (_, _)›]
@[simp] theorem trainingExchange_lasting (d : Nat) (p : Nat) (m : List Byte) (h : Hw) : (trainingExchange d p m h).lasting = h.lasting := by
  simp [trainingExchange]
@[simp] theorem exchangeFrame_lasting (d : Nat) (p : Nat) (bytes : List Byte) (h : Hw) : (exchangeFrame d p bytes h).lasting = h.lasting := by
  simp [exchangeFrame]
@[simp] theorem Hw_authResult_lasting (h : Hw) (d : Nat) (p : Nat) (status : Nat) (f : Frame)
    : (Hw.authResult h d p status f).lasting = h.lasting := by
  simp [Hw.authResult]
@[simp] theorem trainingAuthFrame_lasting (d : Nat) (p : Nat) (bytes : List Byte) (h : Hw) : (trainingAuthFrame d p bytes h).lasting = h.lasting := by
  simp [trainingAuthFrame]
@[simp] theorem Hw_setTstate_lasting (h : Hw) (v : Nat) : (Hw.setTstate h v).lasting = h.lasting := by
  simp [Hw.setTstate]
@[simp] theorem Hw_setInForce_lasting (h : Hw) (v : Nat) : (Hw.setInForce h v).lasting = h.lasting := by
  simp [Hw.setInForce]
@[simp] theorem Hw_setCalendar_lasting (h : Hw) : (Hw.setCalendar h).lasting = h.lasting := by
  simp [Hw.setCalendar]
@[simp] theorem Hw_stepTime_lasting (h : Hw) (e : Int) (master : Bool) : (Hw.stepTime h e master).lasting = h.lasting := by
  simp [Hw.stepTime]
@[simp] theorem Hw_servo_lasting (h : Hw) (d : Nat) (e : Int) (p : Nat) : (Hw.servo h d e p).lasting = h.lasting := by
  simp [Hw.servo]
@[simp] theorem Hw_timeInput_lasting (h : Hw) (e : Int) (p : Nat) (master : Bool) : (Hw.timeInput h e p master).lasting = h.lasting := by
  simp [Hw.timeInput]
@[simp] theorem Hw_enterHoldover_lasting (h : Hw) : (Hw.enterHoldover h).lasting = h.lasting := by
  simp [Hw.enterHoldover]
@[simp] theorem Hw_timeWindowMissed_lasting (h : Hw) (d : Nat) : (Hw.timeWindowMissed h d).lasting = h.lasting := by
  simp [Hw.timeWindowMissed]
@[simp] theorem Hw_timeWindowMargin_lasting (h : Hw) (d : Nat) : (Hw.timeWindowMargin h d).lasting = h.lasting := by
  simp [Hw.timeWindowMargin]
@[simp] theorem Hw_timeFromTrain_lasting (h : Hw) (d : Nat) (p : Nat) (x : TrainHdr) (startTime : Nat)
    : (Hw.timeFromTrain h d p x startTime).lasting = h.lasting := by
  simp [Hw.timeFromTrain]
@[simp] theorem Hw_labelError_lasting (h : Hw) : (Hw.labelError h).lasting = h.lasting := by
  simp [Hw.labelError]
@[simp] theorem Hw_pairLabel_lasting (h : Hw) (utc : Nat) (onTime : Nat) : (Hw.pairLabel h utc onTime).lasting = h.lasting := by
  simp only [Hw.pairLabel]
  (repeat' split) <;> simp [*]
@[simp] theorem Hw_takeLabel_lasting (h : Hw) (utc : Nat) (onTime : Nat) : (Hw.takeLabel h utc onTime).lasting = h.lasting := by
  unfold Hw.takeLabel
  dsimp only
  split
  · rfl
  · simp
@[simp] theorem Hw_onTimeWord_lasting (h : Hw) (t : Nat) : (Hw.onTimeWord h t).lasting = h.lasting := by
  unfold Hw.onTimeWord
  exact (show (if h.ftm.label.isSome then { h with ftm.label := none }.labelError else h).lasting = h.lasting by split <;> simp)
@[simp] theorem Hw_reachUtcAt_lasting (h : Hw) : (Hw.reachUtcAt h).lasting = h.lasting := by
  simp [Hw.reachUtcAt]
@[simp] theorem secondEdge_lasting (h : Hw) : (secondEdge h).lasting = h.lasting := by
  simp only [secondEdge]
  (repeat' split) <;> simp [*]
@[simp] theorem Hw_irigWord_lasting (h : Hw) (w : Word) (lead : Nat) : (Hw.irigWord h w lead).lasting = h.lasting := by
  simp only [Hw.irigWord]
  (repeat' split) <;> simp [*]
@[simp] theorem ppsLoss_lasting (edgeSame : Bool) (h : Hw) : (ppsLoss edgeSame h).lasting = h.lasting := by
  simp [ppsLoss]
@[simp] theorem ftmAccept_lasting (h : Hw) : (ftmAccept h).lasting = h.lasting := by
  simp [ftmAccept]
@[simp] theorem utcOffsetChange_lasting (h : Hw) : (utcOffsetChange h).lasting = h.lasting := by
  simp [utcOffsetChange]
@[simp] theorem calendarSet_lasting (h : Hw) : (calendarSet h).lasting = h.lasting := by
  simp [calendarSet]
@[simp] theorem ppsOutPulse_lasting (h : Hw) : (ppsOutPulse h).lasting = h.lasting := by
  simp [ppsOutPulse]
@[simp] theorem delayRequestSend_lasting (d : Nat) (p : Nat) (h : Hw) : (delayRequestSend d p h).lasting = h.lasting := by
  simp [delayRequestSend]
@[simp] theorem delayRequest_lasting (d : Nat) (p : Nat) (bytes : List Byte) (turn : Nat) (h : Hw)
    : (delayRequest d p bytes turn h).lasting = h.lasting := by
  have e := Hw_controlMsg_lasting h d p bytes
  unfold delayRequest
  split
  · rename_i g
    rw [g] at e
    split
    · exact (Hw_sendControl_lasting ..).trans e
    · exact e
  · rename_i g
    rw [g] at e
    exact e
@[simp] theorem Hw_addDelay_lasting (h : Hw) (d : Nat) (p : Nat) (v : Int) : (Hw.addDelay h d p v).lasting = h.lasting := by
  unfold Hw.addDelay
  simp only [apply_ite Hw.lasting, Hw_wr_lasting, lasting_mk, lasting_eta, ite_self]
@[simp] theorem delayResponse_lasting (d : Nat) (p : Nat) (bytes : List Byte) (t4 : Nat) (h : Hw)
    : (delayResponse d p bytes t4 h).lasting = h.lasting := by
  simp only [delayResponse]
  (repeat' split) <;> first | (simp [*]; done) | simp [snd_lasting ‹_ = (_, _)›]
@[simp] theorem ftimeCompare_lasting (d : Nat) (diff : Int) (h : Hw) : (ftimeCompare d diff h).lasting = h.lasting := by
  simp [ftimeCompare]
@[simp] theorem clockMonitor_lasting (d : Nat) (ppm : Int) (h : Hw) : (clockMonitor d ppm h).lasting = h.lasting := by
  simp [clockMonitor]
@[simp] theorem Hw_setTrk_lasting (h : Hw) (d : Nat) (t : Nat) (x : Trk) : (Hw.setTrk h d t x).lasting = h.lasting := by
  simp [Hw.setTrk]
@[simp] theorem Hw_setEvt_lasting (h : Hw) (d : Nat) (x : Evt) : (Hw.setEvt h d x).lasting = h.lasting := by
  simp [Hw.setEvt]
@[simp] theorem Hw_setPending_lasting (h : Hw) (d : Nat) (l : List Nat) : (Hw.setPending h d l).lasting = h.lasting := by
  simp [Hw.setPending]
@[simp] theorem Hw_initNext_lasting (h : Hw) (d : Nat) (e : Nat) : (Hw.initNext h d e).lasting = h.lasting := by
  simp [Hw.initNext]
@[simp] theorem Hw_initTracker_lasting (h : Hw) (d : Nat) (t : Nat) : (Hw.initTracker h d t).lasting = h.lasting := by
  simp [Hw.initTracker]
@[simp] theorem Hw_setTrkState_lasting (h : Hw) (d : Nat) (t : Nat) (s : Nat) : (Hw.setTrkState h d t s).lasting = h.lasting := by
  simp [Hw.setTrkState]
@[simp] theorem Hw_unpend_lasting (h : Hw) (d : Nat) (t : Nat) : (Hw.unpend h d t).lasting = h.lasting := by
  simp [Hw.unpend]
@[simp] theorem Hw_stopTracker_lasting (h : Hw) (d : Nat) (t : Nat) : (Hw.stopTracker h d t).lasting = h.lasting := by
  simp [Hw.stopTracker]
@[simp] theorem Hw_loseSource_lasting (h : Hw) (d : Nat) (t : Nat) : (Hw.loseSource h d t).lasting = h.lasting := by
  simp [Hw.loseSource]
@[simp] theorem Hw_lockTracker_lasting (h : Hw) (d : Nat) (t : Nat) : (Hw.lockTracker h d t).lasting = h.lasting := by
  simp [Hw.lockTracker]
@[simp] theorem Hw_lockFromMeasurements_lasting (h : Hw) (d : Nat) (t : Nat) : (Hw.lockFromMeasurements h d t).lasting = h.lasting := by
  simp only [Hw.lockFromMeasurements]
  (repeat' split) <;> simp [*]
@[simp] theorem Hw_tryLock_lasting (h : Hw) (d : Nat) (t : Nat) : (Hw.tryLock h d t).lasting = h.lasting := by
  simp [Hw.tryLock]
@[simp] theorem Hw_measure_lasting (h : Hw) (d : Nat) (t : Nat) (z : Nat) (tz : Int) : (Hw.measure h d t z tz).lasting = h.lasting := by
  simp [Hw.measure]
@[simp] theorem Hw_countMove_lasting (h : Hw) (d : Nat) (t : Nat) (k : Int) (lag : Nat) : (Hw.countMove h d t k lag).lasting = h.lasting := by
  simp [Hw.countMove]
@[simp] theorem Hw_reject_lasting (h : Hw) (d : Nat) (t : Nat) : (Hw.reject h d t).lasting = h.lasting := by
  simp [Hw.reject]
@[simp] theorem Hw_quadError_lasting (h : Hw) (d : Nat) (t : Nat) : (Hw.quadError h d t).lasting = h.lasting := by
  simp [Hw.quadError]
@[simp] theorem Hw_alignCount_lasting (h : Hw) (d : Nat) (t : Nat) : (Hw.alignCount h d t).lasting = h.lasting := by
  simp [Hw.alignCount]
@[simp] theorem Hw_checkZ_lasting (h : Hw) (d : Nat) (t : Nat) : (Hw.checkZ h d t).lasting = h.lasting := by
  simp [Hw.checkZ]
@[simp] theorem Hw_zEdge_lasting (h : Hw) (d : Nat) (t : Nat) : (Hw.zEdge h d t).lasting = h.lasting := by
  simp only [Hw.zEdge]
  (repeat' split) <;> simp [*]
@[simp] theorem Hw_absoluteWord_lasting (h : Hw) (d : Nat) (t : Nat) (word : Word) (lag : Nat)
    : (Hw.absoluteWord h d t word lag).lasting = h.lasting := by
  simp [Hw.absoluteWord]
@[simp] theorem Hw_tapTrackers_lasting (h : Hw) (d : Nat) (pump : Nat) (outQ : Nat) (word : Word) (lag : Nat)
    : (Hw.tapTrackers h d pump outQ word lag).lasting = h.lasting := by
  simp [Hw.tapTrackers]
@[simp] theorem Hw_acquireAll_lasting (h : Hw) (d : Nat) (dawn : Bool) : (Hw.acquireAll h d dawn).lasting = h.lasting := by
  simp [Hw.acquireAll]
@[simp] theorem Hw_trackersOff_lasting (h : Hw) (d : Nat) : (Hw.trackersOff h d).lasting = h.lasting := by
  simp [Hw.trackersOff]
@[simp] theorem Hw_loopUpdate_lasting (h : Hw) (d : Nat) (t : Nat) (z : Nat) (tz : Int) : (Hw.loopUpdate h d t z tz).lasting = h.lasting := by
  simp [Hw.loopUpdate]
@[simp] theorem Hw_journalPhase_lasting (h : Hw) (d : Nat) (t : Nat) : (Hw.journalPhase h d t).lasting = h.lasting := by
  simp [Hw.journalPhase]
@[simp] theorem Hw_trackerTick_lasting (h : Hw) (d : Nat) (t : Nat) : (Hw.trackerTick h d t).lasting = h.lasting := by
  simp only [Hw.trackerTick]
  (repeat' split) <;> simp [*]
@[simp] theorem Hw_trackerFault_lasting (h : Hw) (d : Nat) (t : Nat) : (Hw.trackerFault h d t).lasting = h.lasting := by
  simp [Hw.trackerFault]
@[simp] theorem storePir_lasting (d : Nat) (o : Nat) (bs : List Byte) (x : Hw × SMap Byte) : (storePir d o bs x).1.lasting = x.1.lasting := by
  simp only [storePir]
  (repeat' split) <;> simp [*]
@[simp] theorem Hw_updateTick_lasting (h : Hw) (d : Nat) (t : Nat) (parityBad : Bool) : (Hw.updateTick h d t parityBad).lasting = h.lasting := by
  simp [Hw.updateTick]
@[simp] theorem trackerUpdate_lasting (d : Nat) (t : Nat) (parityBad : Bool) (x : Hw × SMap Byte)
    : (trackerUpdate d t parityBad x).1.lasting = x.1.lasting := by
  simp only [trackerUpdate]
  (repeat' split) <;> simp [*]
@[simp] theorem Hw_orMargin_lasting (h : Hw) (d : Nat) (t : Nat) (arrival : Bool) (f : Hw →
    Hw) (hf : ∀ y0, (f y0).lasting = y0.lasting) : (Hw.orMargin h d t arrival f).lasting = h.lasting := by
  simp only [Hw.orMargin]
  (repeat' split) <;> simp [*]
@[simp] theorem gapLimit_lasting (d : Nat) (t : Nat) (arrival : Bool) (h : Hw) : (gapLimit d t arrival h).lasting = h.lasting := by
  simp [gapLimit]
@[simp] theorem trackerSilence_lasting (d : Nat) (t : Nat) (arrival : Bool) (h : Hw) : (trackerSilence d t arrival h).lasting = h.lasting := by
  simp [trackerSilence]
@[simp] theorem holdoverTimeout_lasting (d : Nat) (t : Nat) (arrival : Bool) (h : Hw) : (holdoverTimeout d t arrival h).lasting = h.lasting := by
  simp [holdoverTimeout]
@[simp] theorem Hw_phaseRaise_lasting (h : Hw) (d : Nat) (pump : Nat) (ch : Nat) : (Hw.phaseRaise h d pump ch).lasting = h.lasting := by
  simp [Hw.phaseRaise]
@[simp] theorem pacingRaise_lasting (d : Nat) (t : Nat) (h : Hw) : (pacingRaise d t h).lasting = h.lasting := by
  simp [pacingRaise]
@[simp] theorem trackerLiveRead_lasting (d : Nat) (t : Nat) (h : Hw) : (trackerLiveRead d t h).lasting = h.lasting := by
  simp [trackerLiveRead]
@[simp] theorem Hw_slotStopped_lasting (h : Hw) (d : Nat) (t : Nat) : (Hw.slotStopped h d t).lasting = h.lasting := by
  simp [Hw.slotStopped]
@[simp] theorem Hw_slotHolds_lasting (h : Hw) (d : Nat) (t : Nat) : (Hw.slotHolds h d t).lasting = h.lasting := by
  unfold Hw.slotHolds
  simp only [apply_ite Hw.lasting, Hw_report_lasting, Hw_bump_lasting, Hw_setTrkState_lasting, Hw_unpend_lasting, ite_self]
@[simp] theorem Hw_acceptSlot_lasting (h : Hw) (d : Nat) (t : Nat) (slot : List Byte) (tarr : Nat) (corrRx : Nat)
    : (Hw.acceptSlot h d t slot tarr corrRx).lasting = h.lasting := by
  unfold Hw.acceptSlot
  simp only [apply_ite Hw.lasting, Hw_slotStopped_lasting, Hw_slotHolds_lasting, Hw_lockTracker_lasting, Hw_setTrk_lasting, ite_self]
@[simp] theorem Hw_setPin_lasting (h : Hw) (d : Nat) (p : Nat) (x : Pin) : (Hw.setPin h d p x).lasting = h.lasting := by
  simp [Hw.setPin]
@[simp] theorem Hw_refreshPin_lasting (h : Hw) (d : Nat) (p : Nat) : (Hw.refreshPin h d p).lasting = h.lasting := by
  simp [Hw.refreshPin]
@[simp] theorem Hw_refreshPins_lasting (h : Hw) (d : Nat) : (Hw.refreshPins h d).lasting = h.lasting := by
  simp [Hw.refreshPins]
@[simp] theorem Hw_refreshAll_lasting (h : Hw) : (Hw.refreshAll h).lasting = h.lasting := by
  simp [Hw.refreshAll]
@[simp] theorem Hw_setFn_lasting (h : Hw) (d : Nat) (p : Nat) (level : Bool) : (Hw.setFn h d p level).lasting = h.lasting := by
  simp [Hw.setFn]
@[simp] theorem Hw_setOe_lasting (h : Hw) (d : Nat) (p : Nat) (oe : Bool) : (Hw.setOe h d p oe).lasting = h.lasting := by
  simp [Hw.setOe]
@[simp] theorem Hw_setOut_lasting (h : Hw) (d : Nat) (p : Nat) (level : Bool) (atOnce : Bool)
    : (Hw.setOut h d p level atOnce).lasting = h.lasting := by
  simp [Hw.setOut]
@[simp] theorem Hw_writeOuts_lasting (h : Hw) (d : Nat) (w : Nat) (mask : Nat) (value : Nat)
    : (Hw.writeOuts h d w mask value).lasting = h.lasting := by
  simp [Hw.writeOuts]
@[simp] theorem Hw_applyOutsync_lasting (h : Hw) (d : Nat) : (Hw.applyOutsync h d).lasting = h.lasting := by
  simp [Hw.applyOutsync]
@[simp] theorem Hw_latchGroup_lasting (h : Hw) (d : Nat) (g : Nat) (p : Nat) : (Hw.latchGroup h d g p).lasting = h.lasting := by
  simp [Hw.latchGroup]
@[simp] theorem Hw_judgeGroup_lasting (h : Hw) (d : Nat) (p : Nat) (g : Nat) : (Hw.judgeGroup h d p g).lasting = h.lasting := by
  simp [Hw.judgeGroup]
@[simp] theorem Hw_tripOn_lasting (h : Hw) (d : Nat) (p : Nat) (cond : Nat) : (Hw.tripOn h d p cond).lasting = h.lasting := by
  simp [Hw.tripOn]
@[simp] theorem Hw_pinViolation_lasting (h : Hw) (d : Nat) (p : Nat) : (Hw.pinViolation h d p).lasting = h.lasting := by
  simp [Hw.pinViolation]
@[simp] theorem Hw_closeMeasure_lasting (h : Hw) (d : Nat) (p : Nat) (m : Nat) : (Hw.closeMeasure h d p m).lasting = h.lasting := by
  simp [Hw.closeMeasure]
@[simp] theorem Hw_rangeEdge_lasting (h : Hw) (d : Nat) (p : Nat) (active : Bool) (atActive : Bool)
    : (Hw.rangeEdge h d p active atActive).lasting = h.lasting := by
  simp only [Hw.rangeEdge]
  (repeat' split) <;> simp [*]
@[simp] theorem Hw_dropMeasure_lasting (h : Hw) (d : Nat) (p : Nat) : (Hw.dropMeasure h d p).lasting = h.lasting := by
  simp [Hw.dropMeasure]
@[simp] theorem Hw_openLimit_lasting (h : Hw) (d : Nat) (p : Nat) : (Hw.openLimit h d p).lasting = h.lasting := by
  simp only [Hw.openLimit]
  (repeat' split) <;> simp [*]
@[simp] theorem Hw_closeWindows_lasting (h : Hw) (d : Nat) : (Hw.closeWindows h d).lasting = h.lasting := by
  simp [Hw.closeWindows]
@[simp] theorem Hw_timeoutFires_lasting (h : Hw) (d : Nat) (p : Nat) : (Hw.timeoutFires h d p).lasting = h.lasting := by
  simp [Hw.timeoutFires]
@[simp] theorem Hw_timeoutStep_lasting (h : Hw) (d : Nat) (p : Nat) (edge : Bool) : (Hw.timeoutStep h d p edge).lasting = h.lasting := by
  simp only [Hw.timeoutStep]
  (repeat' split) <;> simp [*]
@[simp] theorem Hw_pinChange_lasting (h : Hw) (d : Nat) (p : Nat) : (Hw.pinChange h d p).lasting = h.lasting := by
  simp [Hw.pinChange]
@[simp] theorem Hw_quadStep_lasting (h : Hw) (d : Nat) (t : Nat) (aPin : Bool) (bPin : Bool) (lag : Nat)
    : (Hw.quadStep h d t aPin bPin lag).lasting = h.lasting := by
  simp [Hw.quadStep]
@[simp] theorem qualifiedChange_lasting (d : Nat) (ps : List Nat) (h : Hw) : (qualifiedChange d ps h).lasting = h.lasting := by
  simp [qualifiedChange]
@[simp] theorem Hw_chainStep_lasting (h : Hw) (d : Nat) (p : Nat) : (Hw.chainStep h d p).lasting = h.lasting := by
  simp [Hw.chainStep]
@[simp] theorem Hw_reportReadback_lasting (h : Hw) (d : Nat) (p : Nat) : (Hw.reportReadback h d p).lasting = h.lasting := by
  simp [Hw.reportReadback]
@[simp] theorem Hw_readbackStep_lasting (h : Hw) (d : Nat) (p : Nat) : (Hw.readbackStep h d p).lasting = h.lasting := by
  simp only [Hw.readbackStep]
  (repeat' split) <;> simp [*]
@[simp] theorem samplePins_lasting (d : Nat) (ps : List Nat) (h : Hw) : (samplePins d ps h).lasting = h.lasting := by
  simp [samplePins]
@[simp] theorem Hw_sampleDie_lasting (h : Hw) (d : Nat) : (Hw.sampleDie h d).lasting = h.lasting := by
  simp [Hw.sampleDie]
@[simp] theorem tripRelease_lasting (d : Nat) (mask : Nat) (h : Hw) : (tripRelease d mask h).lasting = h.lasting := by
  simp [tripRelease]
@[simp] theorem Hw_syncChange_lasting (h : Hw) (d : Nat) (p : Nat) : (Hw.syncChange h d p).lasting = h.lasting := by
  simp [Hw.syncChange]
@[simp] theorem pinTransition_lasting (d : Nat) (b : Nat) (changed : Nat) (h : Hw) : (pinTransition d b changed h).lasting = h.lasting := by
  simp [pinTransition]
@[simp] theorem receiverMismatch_lasting (d : Nat) (p : Nat) (level : Bool) (h : Hw) : (receiverMismatch d p level h).lasting = h.lasting := by
  simp [receiverMismatch]
@[simp] theorem Hw_startPin_lasting (h : Hw) (d : Nat) (p : Nat) : (Hw.startPin h d p).lasting = h.lasting := by
  simp [Hw.startPin]
@[simp] theorem Hw_checkBank_lasting (h : Hw) (d : Nat) (b : Nat) (supply : Nat) : (Hw.checkBank h d b supply).lasting = h.lasting := by
  simp [Hw.checkBank]
@[simp] theorem Hw_startPins_lasting (h : Hw) (d : Nat) : (Hw.startPins h d).lasting = h.lasting := by
  simp [Hw.startPins]
@[simp] theorem Hw_setCan_lasting (h : Hw) (d : Nat) (k : Nat) (x : Can) : (Hw.setCan h d k x).lasting = h.lasting := by
  simp [Hw.setCan]
@[simp] theorem Hw_setCanState_lasting (h : Hw) (d : Nat) (k : Nat) (s : Nat) : (Hw.setCanState h d k s).lasting = h.lasting := by
  simp [Hw.setCanState]
@[simp] theorem Hw_dropFrame_lasting (h : Hw) (d : Nat) (k : Nat) (i : Nat) : (Hw.dropFrame h d k i).lasting = h.lasting := by
  simp only [Hw.dropFrame]
  (repeat' split) <;> simp [*]
@[simp] theorem Hw_txFail_lasting (h : Hw) (d : Nat) (k : Nat) : (Hw.txFail h d k).lasting = h.lasting := by
  simp [Hw.txFail]
@[simp] theorem Hw_canFormatError_lasting (h : Hw) (d : Nat) (k : Nat) : (Hw.canFormatError h d k).lasting = h.lasting := by
  simp [Hw.canFormatError]
@[simp] theorem Hw_dropCell_lasting (h : Hw) (d : Nat) (k : Nat) (i : Nat) : (Hw.dropCell h d k i).lasting = h.lasting := by
  simp [Hw.dropCell]
@[simp] theorem Hw_cleanQueue_lasting (d : Nat) (k : Nat) (i : Nat) (u4 : Nat) (u5 : Hw) : (Hw.cleanQueue d k i u4 u5).lasting = u5.lasting := by
  induction u4 generalizing u5 with
  | zero => simp [Hw.cleanQueue]
  | succ n ih =>
    unfold Hw.cleanQueue
    split
    · rfl
    · split
      · simp [ih]
      · split <;> simp [ih]
@[simp] theorem frameSelection_lasting (d : Nat) (k : Nat) (u : Upset) (h : Hw) : (frameSelection d k u h).lasting = h.lasting := by
  simp [frameSelection]
@[simp] theorem Hw_endTx_lasting (h : Hw) (d : Nat) (k : Nat) : (Hw.endTx h d k).lasting = h.lasting := by
  simp [Hw.endTx]
@[simp] theorem Hw_settleStop_lasting (h : Hw) (d : Nat) (k : Nat) : (Hw.settleStop h d k).lasting = h.lasting := by
  simp [Hw.settleStop]
@[simp] theorem Hw_failTx_lasting (h : Hw) (d : Nat) (k : Nat) : (Hw.failTx h d k).lasting = h.lasting := by
  simp only [Hw.failTx]
  (repeat' split) <;> simp [*]
@[simp] theorem Hw_nextRxseq_lasting (h : Hw) (d : Nat) (k : Nat) : (Hw.nextRxseq h d k).2.lasting = h.lasting := by
  exact Hw_setCan_lasting ..
@[simp] theorem Hw_shadowLost_lasting (h : Hw) (d : Nat) (k : Nat) : (Hw.shadowLost h d k).lasting = h.lasting := by
  unfold Hw.shadowLost
  simp only [apply_ite Hw.lasting, Hw_report_lasting, Hw_setCan_lasting, Hw_bump_lasting, Hw_flag_lasting, ite_self]
@[simp] theorem Hw_shadowWrite_lasting (h : Hw) (d : Nat) (k : Nat) (i : Nat) (cells : List (List Byte))
    : (Hw.shadowWrite h d k i cells).lasting = h.lasting := by
  simp [Hw.shadowWrite]
@[simp] theorem Hw_deliverFrame_lasting (h : Hw) (d : Nat) (k : Nat) (id : Nat) (dlc : Nat) (brs : Bool) (esi : Bool) (data : List Byte)
    : (Hw.deliverFrame h d k id dlc brs esi data).lasting = h.lasting := by
  simp only [Hw.deliverFrame]
  (repeat' split) <;> simp [*]
@[simp] theorem Hw_busOff_lasting (h : Hw) (d : Nat) (k : Nat) : (Hw.busOff h d k).lasting = h.lasting := by
  simp [Hw.busOff]
@[simp] theorem Hw_confine_lasting (h : Hw) (d : Nat) (k : Nat) : (Hw.confine h d k).lasting = h.lasting := by
  simp [Hw.confine]
@[simp] theorem Hw_recDown_lasting (h : Hw) (d : Nat) (k : Nat) : (Hw.recDown h d k).lasting = h.lasting := by
  simp [Hw.recDown]
@[simp] theorem Hw_measureTdc_lasting (h : Hw) (d : Nat) (k : Nat) (tdcv : Option (BitVec 7)) : (Hw.measureTdc h d k tdcv).lasting = h.lasting := by
  simp only [Hw.measureTdc]
  (repeat' split) <;> simp [*]
@[simp] theorem Hw_sentOk_lasting (h : Hw) (d : Nat) (k : Nat) : (Hw.sentOk h d k).lasting = h.lasting := by
  simp [Hw.sentOk]
@[simp] theorem Hw_echoSent_lasting (h : Hw) (d : Nat) (k : Nat) (c : List Byte) (more : List (List Byte))
    : (Hw.echoSent h d k c more).lasting = h.lasting := by
  simp [Hw.echoSent]
@[simp] theorem Hw_loopSent_lasting (h : Hw) (d : Nat) (k : Nat) (passive : Bool) (c : List Byte) (more : List (List Byte))
    : (Hw.loopSent h d k passive c more).lasting = h.lasting := by
  simp [Hw.loopSent]
@[simp] theorem frameTransmitted_lasting (d : Nat) (k : Nat) (tdcv : Option (BitVec 7)) (h : Hw)
    : (frameTransmitted d k tdcv h).lasting = h.lasting := by
  simp only [frameTransmitted]
  (repeat' split) <;> simp [*]
@[simp] theorem arbitrationLost_lasting (d : Nat) (k : Nat) (h : Hw) : (arbitrationLost d k h).lasting = h.lasting := by
  simp [arbitrationLost]
@[simp] theorem canError_lasting (d : Nat) (k : Nat) (lec : Nat) (exempt : Bool) (extra : Nat) (tdcv : Option (BitVec 7)) (h : Hw)
    : (canError d k lec exempt extra tdcv h).lasting = h.lasting := by
  simp [canError]
@[simp] theorem Hw_canParity_lasting (h : Hw) (d : Nat) (k : Nat) : (Hw.canParity h d k).lasting = h.lasting := by
  simp only [Hw.canParity]
  (repeat' split) <;> simp [*]
@[simp] theorem Hw_fdUnexpected_lasting (h : Hw) (d : Nat) (k : Nat) : (Hw.fdUnexpected h d k).lasting = h.lasting := by
  simp [Hw.fdUnexpected]
@[simp] theorem frameReceived_lasting (d : Nat) (k : Nat) (id : Nat) (dlc : Nat) (brs : Bool) (esi : Bool) (data : List Byte) (parity : Bool)
    (limit : Bool) (h : Hw) : (frameReceived d k id dlc brs esi data parity limit h).lasting = h.lasting := by
  simp [frameReceived]
@[simp] theorem Hw_canAccept_lasting (h : Hw) (d : Nat) (k : Nat) (c : Nat) : (Hw.canAccept h d k c).lasting = h.lasting := by
  simp [Hw.canAccept]
@[simp] theorem Hw_integrate_lasting (h : Hw) (d : Nat) (k : Nat) : (Hw.integrate h d k).lasting = h.lasting := by
  simp [Hw.integrate]
@[simp] theorem canStart_lasting (d : Nat) (k : Nat) (h : Hw) : (canStart d k h).lasting = h.lasting := by
  simp [canStart]
@[simp] theorem canStop_lasting (d : Nat) (k : Nat) (receiving : Bool) (h : Hw) : (canStop d k receiving h).lasting = h.lasting := by
  simp [canStop]
@[simp] theorem canRecover_lasting (d : Nat) (k : Nat) (o : Origin) (h : Hw) : (canRecover d k o h).lasting = h.lasting := by
  simp [canRecover]
@[simp] theorem Hw_canSleepNow_lasting (h : Hw) (d : Nat) (k : Nat) : (Hw.canSleepNow h d k).lasting = h.lasting := by
  simp [Hw.canSleepNow]
@[simp] theorem canSleep_lasting (d : Nat) (k : Nat) (h : Hw) : (canSleep d k h).lasting = h.lasting := by
  simp [canSleep]
@[simp] theorem Hw_canWakeUp_lasting (h : Hw) (d : Nat) (k : Nat) (cause : Nat) : (Hw.canWakeUp h d k cause).lasting = h.lasting := by
  simp [Hw.canWakeUp]
@[simp] theorem canWake_lasting (d : Nat) (k : Nat) (h : Hw) : (canWake d k h).lasting = h.lasting := by
  simp [canWake]
@[simp] theorem Hw_abortQueue_lasting (h : Hw) (d : Nat) (k : Nat) (i : Nat) (busy : Option Nat)
    : (Hw.abortQueue h d k i busy).lasting = h.lasting := by
  unfold Hw.abortQueue
  simp only [apply_ite Hw.lasting, Hw_setCan_lasting, Hw_bump_lasting, each_lasting, Hw_freeCell_lasting, implies_true, Hw_setCq_lasting, ite_self]
@[simp] theorem canAbort_lasting (d : Nat) (k : Nat) (h : Hw) : (canAbort d k h).lasting = h.lasting := by
  unfold canAbort
  simp only [Hw_abortQueue_lasting, Hw_canAccept_lasting]
@[simp] theorem canCmdReserved_lasting (d : Nat) (k : Nat) (o : Origin) (h : Hw) : (canCmdReserved d k o h).lasting = h.lasting := by
  simp [canCmdReserved]
@[simp] theorem integrationComplete_lasting (d : Nat) (k : Nat) (h : Hw) : (integrationComplete d k h).lasting = h.lasting := by
  simp [integrationComplete]
@[simp] theorem recoveryComplete_lasting (d : Nat) (k : Nat) (h : Hw) : (recoveryComplete d k h).lasting = h.lasting := by
  simp [recoveryComplete]
@[simp] theorem canWakeDominant_lasting (d : Nat) (k : Nat) (ends : Bool) (h : Hw) : (canWakeDominant d k ends h).lasting = h.lasting := by
  simp [canWakeDominant]
@[simp] theorem canWakeFrame_lasting (d : Nat) (k : Nat) (id : Nat) (dlc : Nat) (data : List Byte) (limit : Bool) (h : Hw)
    : (canWakeFrame d k id dlc data limit h).lasting = h.lasting := by
  simp [canWakeFrame]
@[simp] theorem wakeErrorLimit_lasting (d : Nat) (k : Nat) (n : Nat) (h : Hw) : (wakeErrorLimit d k n h).lasting = h.lasting := by
  simp [wakeErrorLimit]
@[simp] theorem canParityCheck_lasting (d : Nat) (k : Nat) (bad : Bool) (h : Hw) : (canParityCheck d k bad h).lasting = h.lasting := by
  simp [canParityCheck]
@[simp] theorem Hw_canRelease_lasting (h : Hw) (d : Nat) (k : Nat) : (Hw.canRelease h d k).lasting = h.lasting := by
  simp [Hw.canRelease]
@[simp] theorem Hw_eachCan_lasting (h : Hw) (f : Nat → Nat → Hw →
    Hw) (hf : ∀ y0 y1 y2, (f y0 y1 y2).lasting = y2.lasting) : (Hw.eachCan h f).lasting = h.lasting := by
  simp only [Hw.eachCan]
  exact eachDie_lasting _ _ fun d a => iter_lasting _ _ _ fun k a => by split <;> simp [*]
@[simp] theorem Hw_startCans_lasting (h : Hw) : (Hw.startCans h).lasting = h.lasting := by
  simp [Hw.startCans]
@[simp] theorem Hw_cansLeaveSafe_lasting (h : Hw) : (Hw.cansLeaveSafe h).lasting = h.lasting := by
  simp [Hw.cansLeaveSafe]
@[simp] theorem Hw_endTransmissions_lasting (h : Hw) : (Hw.endTransmissions h).lasting = h.lasting := by
  simp [Hw.endTransmissions]
@[simp] theorem Hw_sleepCans_lasting (h : Hw) : (Hw.sleepCans h).lasting = h.lasting := by
  simp [Hw.sleepCans]
@[simp] theorem Hw_cansOff_lasting (h : Hw) : (Hw.cansOff h).lasting = h.lasting := by
  simp [Hw.cansOff]
@[simp] theorem duskCanLimit_lasting (h : Hw) : (duskCanLimit h).lasting = h.lasting := by
  simp [duskCanLimit]
@[simp] theorem Hw_trimPending_lasting (h : Hw) (d : Nat) : (Hw.trimPending h d).lasting = h.lasting := by
  simp [Hw.trimPending]
@[simp] theorem Hw_noteEdge_lasting (h : Hw) (d : Nat) (bank : Nat) (tc : Nat) : (Hw.noteEdge h d bank tc).lasting = h.lasting := by
  simp [Hw.noteEdge]
@[simp] theorem Hw_commitAt_lasting (h : Hw) (d : Nat) (e : Nat) (next : Nat) (tc : Nat) : (Hw.commitAt h d e next tc).lasting = h.lasting := by
  simp only [Hw.commitAt]
  (repeat' split) <;> simp [*]
@[simp] theorem eventCommit_lasting (d : Nat) (e : Nat) (h : Hw) : (eventCommit d e h).lasting = h.lasting := by
  simp only [eventCommit]
  (repeat' split) <;> simp [*]
@[simp] theorem Hw_queueSend_lasting (h : Hw) (d : Nat) (c : Commit) (late : Bool) : (Hw.queueSend h d c late).lasting = h.lasting := by
  simp [Hw.queueSend]
@[simp] theorem Hw_capture_lasting (h : Hw) (d : Nat) (c : Commit) : (Hw.capture h d c).lasting = h.lasting := by
  simp [Hw.capture]
@[simp] theorem Hw_act_lasting (h : Hw) (d : Nat) (c : Commit) (late : Bool) : (Hw.act h d c late).lasting = h.lasting := by
  simp only [Hw.act]
  (repeat' split) <;> simp [*]
@[simp] theorem Hw_afterFire_lasting (h : Hw) (d : Nat) (e : Nat) (next : Nat) : (Hw.afterFire h d e next).lasting = h.lasting := by
  simp only [Hw.afterFire]
  (repeat' split) <;> simp [*]
@[simp] theorem Hw_lateFiring_lasting (h : Hw) (d : Nat) (e : Nat) : (Hw.lateFiring h d e).lasting = h.lasting := by
  simp [Hw.lateFiring]
@[simp] theorem Hw_fire_lasting (h : Hw) (d : Nat) (c : Commit) : (Hw.fire h d c).lasting = h.lasting := by
  simp [Hw.fire]
@[simp] theorem Hw_fireCommit_lasting (h : Hw) (d : Nat) (c : Commit) : (Hw.fireCommit h d c).lasting = h.lasting := by
  simp [Hw.fireCommit]
@[simp] theorem eventFire_lasting (d : Nat) (e : Nat) (h : Hw) : (eventFire d e h).lasting = h.lasting := by
  simp only [eventFire]
  (repeat' split) <;> simp [*]
@[simp] theorem eventCellPresent_lasting (d : Nat) (h : Hw) : (eventCellPresent d h).lasting = h.lasting := by
  simp only [eventCellPresent]
  (repeat' split) <;> simp [*]
@[simp] theorem scanEntry_lasting (d : Nat) (e : Nat) (bad : Bool) (h : Hw) : (scanEntry d e bad h).lasting = h.lasting := by
  simp only [scanEntry]
  (repeat' split) <;> simp [*]
@[simp] theorem entryScan_lasting (d : Nat) (e : Nat) (bad : Bool) (trkBad : Bool) (h : Hw) : (entryScan d e bad trkBad h).lasting = h.lasting := by
  simp only [entryScan]
  (repeat' split) <;> simp [*]
@[simp] theorem entryArm_lasting (d : Nat) (e : Nat) (arm : Bool) (fires : Bool) (h : Hw) : (entryArm d e arm fires h).lasting = h.lasting := by
  simp [entryArm]
@[simp] theorem Hw_rewriteEntry_lasting (h : Hw) (d : Nat) (e : Nat) : (Hw.rewriteEntry h d e).lasting = h.lasting := by
  simp [Hw.rewriteEntry]
@[simp] theorem Hw_startEngine_lasting (h : Hw) (d : Nat) : (Hw.startEngine h d).lasting = h.lasting := by
  simp [Hw.startEngine]
@[simp] theorem Hw_stopEngine_lasting (h : Hw) (d : Nat) : (Hw.stopEngine h d).lasting = h.lasting := by
  simp [Hw.stopEngine]
@[simp] theorem placerCalibration_lasting (d : Nat) (ok : Bool) (h : Hw) : (placerCalibration d ok h).lasting = h.lasting := by
  simp [placerCalibration]
@[simp] theorem Hw_setPump_lasting (h : Hw) (d : Nat) (n : Nat) (x : Pump) : (Hw.setPump h d n x).lasting = h.lasting := by
  simp [Hw.setPump]
@[simp] theorem Hw_setPumpState_lasting (h : Hw) (d : Nat) (n : Nat) (s : Nat) : (Hw.setPumpState h d n s).lasting = h.lasting := by
  simp [Hw.setPumpState]
@[simp] theorem Hw_drivePump_lasting (h : Hw) (d : Nat) (n : Nat) (p : Nat) (level : Bool) : (Hw.drivePump h d n p level).lasting = h.lasting := by
  simp [Hw.drivePump]
@[simp] theorem Hw_enablePump_lasting (h : Hw) (d : Nat) (n : Nat) (p : Nat) (oe : Bool) : (Hw.enablePump h d n p oe).lasting = h.lasting := by
  simp [Hw.enablePump]
@[simp] theorem Hw_idlePump_lasting (h : Hw) (d : Nat) (n : Nat) : (Hw.idlePump h d n).lasting = h.lasting := by
  simp [Hw.idlePump]
@[simp] theorem Hw_pinAction_lasting (h : Hw) (d : Nat) (n : Nat) (pa : Nat) : (Hw.pinAction h d n pa).lasting = h.lasting := by
  simp only [Hw.pinAction]
  (repeat' split) <;> simp [*]
@[simp] theorem Hw_crcFeed_lasting (h : Hw) (d : Nat) (n : Nat) (bs : List Bool) : (Hw.crcFeed h d n bs).lasting = h.lasting := by
  simp [Hw.crcFeed]
@[simp] theorem Hw_showStages_lasting (h : Hw) (d : Nat) (n : Nat) : (Hw.showStages h d n).lasting = h.lasting := by
  simp [Hw.showStages]
@[simp] theorem Hw_emit_lasting (h : Hw) (d : Nat) (n : Nat) : (Hw.emit h d n).lasting = h.lasting := by
  simp only [Hw.emit]
  (repeat' split) <;> simp [*]
@[simp] theorem Hw_loadPour_lasting (h : Hw) (d : Nat) (n : Nat) (arg : Nat) : (Hw.loadPour h d n arg).lasting = h.lasting := by
  simp [Hw.loadPour]
@[simp] theorem Hw_takeSample_lasting (h : Hw) (d : Nat) (n : Nat) (s : Nat) : (Hw.takeSample h d n s).lasting = h.lasting := by
  simp only [Hw.takeSample]
  (repeat' split) <;> simp [*]
@[simp] theorem Hw_deliverGather_lasting (h : Hw) (d : Nat) (n : Nat) : (Hw.deliverGather h d n).lasting = h.lasting := by
  simp only [Hw.deliverGather]
  (repeat' split) <;> simp [*]
@[simp] theorem Hw_armGather_lasting (h : Hw) (d : Nat) (n : Nat) (arg : Nat) : (Hw.armGather h d n arg).lasting = h.lasting := by
  simp [Hw.armGather]
@[simp] theorem Hw_haltPump_lasting (h : Hw) (d : Nat) (n : Nat) : (Hw.haltPump h d n).lasting = h.lasting := by
  simp [Hw.haltPump]
@[simp] theorem Hw_stopPump_lasting (h : Hw) (d : Nat) (n : Nat) : (Hw.stopPump h d n).lasting = h.lasting := by
  simp only [Hw.stopPump]
  (repeat' split) <;> simp [*]
@[simp] theorem Hw_faultPump_lasting (h : Hw) (d : Nat) (n : Nat) (par : Bool) : (Hw.faultPump h d n par).lasting = h.lasting := by
  simp [Hw.faultPump]
@[simp] theorem Hw_raiseSignal_lasting (h : Hw) (d : Nat) (l : Nat) : (Hw.raiseSignal h d l).lasting = h.lasting := by
  simp [Hw.raiseSignal]
@[simp] theorem Hw_startPump_lasting (h : Hw) (d : Nat) (n : Nat) : (Hw.startPump h d n).lasting = h.lasting := by
  simp [Hw.startPump]
@[simp] theorem Hw_pumpBoundary_lasting (h : Hw) (d : Nat) (n : Nat) (lag : Nat) : (Hw.pumpBoundary h d n lag).lasting = h.lasting := by
  exact Hw_setPump_lasting ..
@[simp] theorem Hw_pumpClock_lasting (h : Hw) (d : Nat) (n : Nat) : (Hw.pumpClock h d n).lasting = h.lasting := by
  simp [Hw.pumpClock]
@[simp] theorem Hw_pumpClocks_lasting (h : Hw) : (Hw.pumpClocks h).lasting = h.lasting := by
  simp [Hw.pumpClocks]
@[simp] theorem Hw_requestStart_lasting (h : Hw) (d : Nat) (n : Nat) : (Hw.requestStart h d n).2.lasting = h.lasting := by
  simp only [Hw.requestStart]
  (repeat' split) <;> simp [*]
@[simp] theorem Hw_eachPump_lasting (h : Hw) (f : Nat → Nat → Hw →
    Hw) (hf : ∀ y0 y1 y2, (f y0 y1 y2).lasting = y2.lasting) : (Hw.eachPump h f).lasting = h.lasting := by
  simp [Hw.eachPump, *]
@[simp] theorem Hw_autostart_lasting (h : Hw) : (Hw.autostart h).lasting = h.lasting := by
  simp [Hw.autostart]
@[simp] theorem Hw_restartAfterSafe_lasting (h : Hw) : (Hw.restartAfterSafe h).lasting = h.lasting := by
  simp [Hw.restartAfterSafe]
@[simp] theorem Hw_safePumps_lasting (h : Hw) : (Hw.safePumps h).lasting = h.lasting := by
  simp [Hw.safePumps]
@[simp] theorem Hw_stopPumps_lasting (h : Hw) : (Hw.stopPumps h).lasting = h.lasting := by
  simp [Hw.stopPumps]
@[simp] theorem Hw_idlePumps_lasting (h : Hw) (d : Nat) : (Hw.idlePumps h d).lasting = h.lasting := by
  simp [Hw.idlePumps]
@[simp] theorem Hw_finish_lasting (h : Hw) (d : Nat) (n : Nat) (target : Option Nat) : (Hw.finish h d n target).lasting = h.lasting := by
  simp [Hw.finish]
@[simp] theorem Hw_pumpWaits_lasting (h : Hw) (d : Nat) (n : Nat) (w : PumpWait) : (Hw.pumpWaits h d n w).lasting = h.lasting := by
  simp [Hw.pumpWaits]
@[simp] theorem Hw_markBad_lasting (h : Hw) (d : Nat) (n : Nat) (e : Nat) : (Hw.markBad h d n e).lasting = h.lasting := by
  simp [Hw.markBad]
@[simp] theorem Hw_issue_lasting (h : Hw) (d : Nat) (n : Nat) (parity : Parity) (want : Nat → Bool) (act : Nat → Hw →
    Hw) (hact : ∀ y0 y1, (act y0 y1).lasting = y1.lasting) : (Hw.issue h d n parity want act).lasting = h.lasting := by
  simp only [Hw.issue]
  (repeat' split) <;> simp [*]
@[simp] theorem Hw_simple_lasting (h : Hw) (d : Nat) (n : Nat) (parity : Parity) (want : Nat → Bool) (act : Nat → Hw →
    Hw) (hact : ∀ y0 y1, (act y0 y1).lasting = y1.lasting) : (Hw.simple h d n parity want act).lasting = h.lasting := by
  simp [Hw.simple, *]
@[simp] theorem pumpNop_lasting (d : Nat) (n : Nat) (par : Parity) (h : Hw) : (pumpNop d n par h).lasting = h.lasting := by
  simp [pumpNop]
@[simp] theorem drawWord_lasting (d : Nat) (n : Nat) (one : Bool) (u : Upset) (h : Hw) : (drawWord d n one u h).2.lasting = h.lasting := by
  simp only [drawWord]
  (repeat' split) <;> simp [*]
@[simp] theorem pumpDraw_lasting (d : Nat) (n : Nat) (par : Parity) (u : Upset) (h : Hw) : (pumpDraw d n par u h).lasting = h.lasting := by
  simp [pumpDraw]
@[simp] theorem pumpPour_lasting (d : Nat) (n : Nat) (par : Parity) (h : Hw) : (pumpPour d n par h).lasting = h.lasting := by
  simp [pumpPour]
@[simp] theorem pumpGather_lasting (d : Nat) (n : Nat) (par : Parity) (h : Hw) : (pumpGather d n par h).lasting = h.lasting := by
  simp [pumpGather]
@[simp] theorem Hw_storeTaken_lasting (h : Hw) (d : Nat) (n : Nat) (a : Nat) : (Hw.storeTaken h d n a).lasting = h.lasting := by
  unfold Hw.storeTaken
  extract_lets o w g k m
  have e : m.lasting = h.lasting := by
    simp only [m, k, g, Hw_tapTrackers_lasting]
    split <;> simp
  split
  · simp [e]
  · exact e
@[simp] theorem storePlaced_lasting (d : Nat) (n : Nat) (o : Nat) (w : Word) (x : Bool × Hw) : (storePlaced d n o w x).lasting = x.2.lasting := by
  unfold storePlaced
  (repeat' split) <;> simp
@[simp] theorem pumpStore_lasting (d : Nat) (n : Nat) (par : Parity) (u : Upset) (h : Hw) : (pumpStore d n par u h).lasting = h.lasting := by
  unfold pumpStore
  apply Hw_issue_lasting
  intro a h
  simp
@[simp] theorem Hw_consume_lasting (h : Hw) (d : Nat) (n : Nat) (a : Nat) : (Hw.consume h d n a).lasting = h.lasting := by
  simp only [Hw.consume]
  (repeat' split) <;> simp [*]
@[simp] theorem pumpAwait_lasting (d : Nat) (n : Nat) (par : Parity) (was : Option Bool) (h : Hw)
    : (pumpAwait d n par was h).lasting = h.lasting := by
  simp [pumpAwait]
@[simp] theorem awaitMet_lasting (d : Nat) (n : Nat) (again : Bool) (bad : Bool) (h : Hw) : (awaitMet d n again bad h).lasting = h.lasting := by
  simp [awaitMet]
@[simp] theorem awaitTimeout_lasting (d : Nat) (n : Nat) (holds : Bool) (bad : Bool) (h : Hw)
    : (awaitTimeout d n holds bad h).lasting = h.lasting := by
  simp [awaitTimeout]
@[simp] theorem pumpLoadx_lasting (d : Nat) (n : Nat) (par : Parity) (h : Hw) : (pumpLoadx d n par h).lasting = h.lasting := by
  simp [pumpLoadx]
@[simp] theorem pumpLoady_lasting (d : Nat) (n : Nat) (par : Parity) (h : Hw) : (pumpLoady d n par h).lasting = h.lasting := by
  simp [pumpLoady]
@[simp] theorem pumpLoadxh_lasting (d : Nat) (n : Nat) (par : Parity) (h : Hw) : (pumpLoadxh d n par h).lasting = h.lasting := by
  simp [pumpLoadxh]
@[simp] theorem pumpLoadyh_lasting (d : Nat) (n : Nat) (par : Parity) (h : Hw) : (pumpLoadyh d n par h).lasting = h.lasting := by
  simp [pumpLoadyh]
@[simp] theorem pumpMove_lasting (d : Nat) (n : Nat) (par : Parity) (h : Hw) : (pumpMove d n par h).lasting = h.lasting := by
  unfold pumpMove
  apply Hw_simple_lasting
  intro a h
  dsimp only
  split <;> simp
@[simp] theorem pumpAdd_lasting (d : Nat) (n : Nat) (par : Parity) (h : Hw) : (pumpAdd d n par h).lasting = h.lasting := by
  simp [pumpAdd]
@[simp] theorem pumpXor_lasting (d : Nat) (n : Nat) (par : Parity) (h : Hw) : (pumpXor d n par h).lasting = h.lasting := by
  simp [pumpXor]
@[simp] theorem pumpTest_lasting (d : Nat) (n : Nat) (par : Parity) (h : Hw) : (pumpTest d n par h).lasting = h.lasting := by
  simp [pumpTest]
@[simp] theorem pumpCountLoad_lasting (d : Nat) (n : Nat) (par : Parity) (h : Hw) : (pumpCountLoad d n par h).lasting = h.lasting := by
  simp [pumpCountLoad]
@[simp] theorem pumpCountLoadX_lasting (d : Nat) (n : Nat) (par : Parity) (h : Hw) : (pumpCountLoadX d n par h).lasting = h.lasting := by
  simp [pumpCountLoadX]
@[simp] theorem pumpCountDecrement_lasting (d : Nat) (n : Nat) (par : Parity) (h : Hw) : (pumpCountDecrement d n par h).lasting = h.lasting := by
  simp [pumpCountDecrement]
@[simp] theorem pumpSignal_lasting (d : Nat) (n : Nat) (par : Parity) (h : Hw) : (pumpSignal d n par h).lasting = h.lasting := by
  simp [pumpSignal]
@[simp] theorem pumpCrcInit_lasting (d : Nat) (n : Nat) (par : Parity) (h : Hw) : (pumpCrcInit d n par h).lasting = h.lasting := by
  simp [pumpCrcInit]
@[simp] theorem pumpCrcFeed_lasting (d : Nat) (n : Nat) (par : Parity) (h : Hw) : (pumpCrcFeed d n par h).lasting = h.lasting := by
  simp [pumpCrcFeed]
@[simp] theorem pumpCrcFinal_lasting (d : Nat) (n : Nat) (par : Parity) (h : Hw) : (pumpCrcFinal d n par h).lasting = h.lasting := by
  simp [pumpCrcFinal]
@[simp] theorem pumpStuff_lasting (d : Nat) (n : Nat) (par : Parity) (h : Hw) : (pumpStuff d n par h).lasting = h.lasting := by
  simp [pumpStuff]
@[simp] theorem pumpCodeEncode_lasting (d : Nat) (n : Nat) (par : Parity) (h : Hw) : (pumpCodeEncode d n par h).lasting = h.lasting := by
  unfold pumpCodeEncode
  apply Hw_simple_lasting
  intro a h
  dsimp only
  split <;> simp
@[simp] theorem pumpCodeDecode_lasting (d : Nat) (n : Nat) (par : Parity) (h : Hw) : (pumpCodeDecode d n par h).lasting = h.lasting := by
  simp [pumpCodeDecode]
@[simp] theorem pumpHalt_lasting (d : Nat) (n : Nat) (par : Parity) (h : Hw) : (pumpHalt d n par h).lasting = h.lasting := by
  simp [pumpHalt]
@[simp] theorem illegalInstruction_lasting (d : Nat) (n : Nat) (par : Parity) (h : Hw) : (illegalInstruction d n par h).lasting = h.lasting := by
  simp [illegalInstruction]
@[simp] theorem pourGroupEmit_lasting (d : Nat) (n : Nat) (bad : Bool) (h : Hw) : (pourGroupEmit d n bad h).lasting = h.lasting := by
  simp [pourGroupEmit]
@[simp] theorem shiftStageFree_lasting (d : Nat) (n : Nat) (bad : Bool) (h : Hw) : (shiftStageFree d n bad h).lasting = h.lasting := by
  simp only [shiftStageFree]
  (repeat' split) <;> simp [*]
@[simp] theorem gatherDelivery_lasting (d : Nat) (n : Nat) (samples : List Nat) (bad : Bool) (h : Hw)
    : (gatherDelivery d n samples bad h).lasting = h.lasting := by
  simp [gatherDelivery]
@[simp] theorem storeCreditWaitEnd_lasting (d : Nat) (n : Nat) (u : Upset) (bad : Bool) (h : Hw)
    : (storeCreditWaitEnd d n u bad h).lasting = h.lasting := by
  simp only [storeCreditWaitEnd]
  (repeat' split) <;> first | (simp [*]; done) | simp [snd_lasting ‹_ = (_, _)›]
@[simp] theorem pumpStartCmd_lasting (d : Nat) (n : Nat) (h : Hw) : (pumpStartCmd d n h).lasting = h.lasting := by
  simp only [pumpStartCmd]
  (repeat' split) <;> first | (simp [*]; done) | simp [snd_lasting ‹_ = (_, _)›]
@[simp] theorem pumpStartEffect_lasting (d : Nat) (n : Nat) (h : Hw) : (pumpStartEffect d n h).lasting = h.lasting := by
  unfold pumpStartEffect
  split
  · exact (Hw_setPump_lasting ..).trans ((Hw_pumpBoundary_lasting ..).trans (by simp))
  · rfl
@[simp] theorem pumpStopNow_lasting (d : Nat) (n : Nat) (h : Hw) : (pumpStopNow d n h).lasting = h.lasting := by
  simp [pumpStopNow]
@[simp] theorem pumpStopAtBoundary_lasting (d : Nat) (n : Nat) (h : Hw) : (pumpStopAtBoundary d n h).lasting = h.lasting := by
  simp [pumpStopAtBoundary]
@[simp] theorem pumpClear_lasting (d : Nat) (n : Nat) (o : Origin) (h : Hw) : (pumpClear d n o h).lasting = h.lasting := by
  simp [pumpClear]
@[simp] theorem stopBoundaryReached_lasting (d : Nat) (n : Nat) (limit : Bool) (h : Hw) : (stopBoundaryReached d n limit h).lasting = h.lasting := by
  simp [stopBoundaryReached]
@[simp] theorem stopTimeout_lasting (d : Nat) (n : Nat) (h : Hw) : (stopTimeout d n h).lasting = h.lasting := by
  simp [stopTimeout]
@[simp] theorem pumpParityCheck_lasting (d : Nat) (n : Nat) (e : Nat) (bad : Bool) (h : Hw) : (pumpParityCheck d n e bad h).lasting = h.lasting := by
  simp [pumpParityCheck]
@[simp] theorem Hw_onHub_lasting (h : Hw) (f : Hw → Hw) (hf : ∀ y0, (f y0).lasting = y0.lasting) : (Hw.onHub h f).lasting = h.lasting := by
  simp only [Hw.onHub]
  (repeat' split) <;> simp [*]
@[simp] theorem Hw_sendWlhConf_lasting (h : Hw) : (Hw.sendWlhConf h).lasting = h.lasting := by
  simp [Hw.sendWlhConf]
@[simp] theorem Hw_wlhFlag_lasting (h : Hw) (b : Nat) : (Hw.wlhFlag h b).lasting = h.lasting := by
  simp [Hw.wlhFlag]
@[simp] theorem Hw_wlhMargin_lasting (h : Hw) : (Hw.wlhMargin h).lasting = h.lasting := by
  simp [Hw.wlhMargin]
@[simp] theorem Hw_wlhFault_lasting (h : Hw) (code : Nat) (unit : Nat) : (Hw.wlhFault h code unit).lasting = h.lasting := by
  simp [Hw.wlhFault]
@[simp] theorem Hw_fieldsOff_lasting (h : Hw) : (Hw.fieldsOff h).lasting = h.lasting := by
  simp [Hw.fieldsOff]
@[simp] theorem Hw_checkFieldLoss_lasting (h : Hw) : (Hw.checkFieldLoss h).lasting = h.lasting := by
  simp [Hw.checkFieldLoss]
@[simp] theorem Hw_fieldOn_lasting (h : Hw) (f : Nat) : (Hw.fieldOn h f).lasting = h.lasting := by
  simp [Hw.fieldOn]
@[simp] theorem Hw_fieldSelect_lasting (h : Hw) : (Hw.fieldSelect h).lasting = h.lasting := by
  simp only [Hw.fieldSelect]
  (repeat' split) <;> simp [*]
@[simp] theorem Hw_fieldPower_lasting (h : Hw) (on : Bool) : (Hw.fieldPower h on).lasting = h.lasting := by
  simp [Hw.fieldPower]
@[simp] theorem Hw_fitSigned_lasting (h : Hw) (w : Nat) (v : Int) : (Hw.fitSigned h w v).2.lasting = h.lasting := by
  simp only [Hw.fitSigned]
  (repeat' split) <;> simp [*]
@[simp] theorem Hw_fitAll_lasting (w : Nat) (u2 : List Int) (u3 : Hw) : (Hw.fitAll w u2 u3).2.lasting = u3.lasting := by
  induction u2 generalizing u3 with
  | nil => rfl
  | cons v vs ih => simp [Hw.fitAll, ih]
@[simp] theorem Hw_fieldConvert_lasting (h : Hw) (f : Nat) (v : Nat) : (Hw.fieldConvert h f v).lasting = h.lasting := by
  simp [Hw.fieldConvert]
@[simp] theorem Hw_noteSample_lasting (h : Hw) (totals : List Int) (volts : List Nat) (is : List Nat) (ps : List Nat) (energy : Nat)
    : (Hw.noteSample h totals volts is ps energy).lasting = h.lasting := by
  exact Eq.trans rfl rfl
@[simp] theorem wlhConvert_lasting (volts : List Nat) (shunts : List Int) (h : Hw) : (wlhConvert volts shunts h).lasting = h.lasting := by
  unfold wlhConvert
  simp only [Hw_fieldSelect_lasting, Hw_fieldConvert_lasting, Hw_noteSample_lasting, Hw_fitAll_lasting]
@[simp] theorem Hw_wrPair_lasting (h : Hw) (d : Nat) (lo : Fld) (hi : Fld) (a : Nat) (b : Nat) : (Hw.wrPair h d lo hi a b).lasting = h.lasting := by
  simp [Hw.wrPair]
@[simp] theorem Hw_copyEnergy_lasting (h : Hw) (d : Nat) (f : Nat) : (Hw.copyEnergy h d f).lasting = h.lasting := by
  simp [Hw.copyEnergy]
@[simp] theorem Hw_copyFlags_lasting (h : Hw) : (Hw.copyFlags h).lasting = h.lasting := by
  simp [Hw.copyFlags]
@[simp] theorem Hw_frameMirror_lasting (h : Hw) (d : Nat) : (Hw.frameMirror h d).lasting = h.lasting := by
  simp [Hw.frameMirror]
@[simp] theorem measurementFrame_lasting (d : Nat) (h : Hw) : (measurementFrame d h).lasting = h.lasting := by
  simp [measurementFrame]
@[simp] theorem controlFrame_lasting (d : Nat) (h : Hw) : (controlFrame d h).lasting = h.lasting := by
  simp [controlFrame]
@[simp] theorem wlhLinkSilent_lasting (d : Nat) (h : Hw) : (wlhLinkSilent d h).lasting = h.lasting := by
  simp [wlhLinkSilent]
@[simp] theorem autoEntry_lasting (frame : Bool) (h : Hw) : (autoEntry frame h).lasting = h.lasting := by
  simp [autoEntry]
@[simp] theorem windowEnter_lasting (h : Hw) : (windowEnter h).lasting = h.lasting := by
  simp [windowEnter]
@[simp] theorem windowLeave_lasting (above : Bool) (h : Hw) : (windowLeave above h).lasting = h.lasting := by
  simp [windowLeave]
@[simp] theorem Hw_ramp_lasting (h : Hw) : (Hw.ramp h).lasting = h.lasting := by
  simp [Hw.ramp]
@[simp] theorem powerGood_lasting (timerStart : Bool) (h : Hw) : (powerGood timerStart h).lasting = h.lasting := by
  simp [powerGood]
@[simp] theorem fastTrip_lasting (h : Hw) : (fastTrip h).lasting = h.lasting := by
  simp [fastTrip]
@[simp] theorem retryEnd_lasting (h : Hw) : (retryEnd h).lasting = h.lasting := by
  simp [retryEnd]
@[simp] theorem reverseOff_lasting (f : Nat) (h : Hw) : (reverseOff f h).lasting = h.lasting := by
  simp [reverseOff]
@[simp] theorem holdupFault_lasting (reached : Bool) (h : Hw) : (holdupFault reached h).lasting = h.lasting := by
  simp [holdupFault]
@[simp] theorem fieldBad_lasting (both : Bool) (h : Hw) : (fieldBad both h).lasting = h.lasting := by
  simp [fieldBad]
@[simp] theorem fieldReturn_lasting (h : Hw) : (fieldReturn h).lasting = h.lasting := by
  simp [fieldReturn]
@[simp] theorem fieldOvercurrent_lasting (h : Hw) : (fieldOvercurrent h).lasting = h.lasting := by
  simp [fieldOvercurrent]
@[simp] theorem fieldCommand_lasting (cmd : Nat) (h : Hw) : (fieldCommand cmd h).lasting = h.lasting := by
  simp only [fieldCommand]
  (repeat' split) <;> simp [*]
@[simp] theorem Hw_setKeySlot_lasting (h : Hw) (d : Nat) (s : Nat) (k : KeySlot) : (Hw.setKeySlot h d s k).lasting = h.lasting := by
  simp [Hw.setKeySlot]
@[simp] theorem Hw_loadSlot_lasting (k : KeyDef) (x : Bool × Hw) : (Hw.loadSlot k x).2.lasting = x.2.lasting := by
  simp only [Hw.loadSlot]
  (repeat' split) <;> simp [*]
@[simp] theorem Hw_loadTree_lasting (h : Hw) : (Hw.loadTree h).2.lasting = h.lasting := by
  simp [Hw.loadTree]
@[simp] theorem Hw_zeroKeys_lasting (h : Hw) : (Hw.zeroKeys h).lasting = h.lasting := by
  simp [Hw.zeroKeys]
@[simp] theorem Hw_writeCache_lasting (h : Hw) : (Hw.writeCache h).lasting = h.lasting := by
  simp [Hw.writeCache]
@[simp] theorem engineRequest_lasting (d : Nat) (slot : Nat) (engine : Nat) (goesOn : Bool) (h : Hw)
    : (engineRequest d slot engine goesOn h).lasting = h.lasting := by
  simp [engineRequest]
@[simp] theorem vaultCommand_lasting (d : Nat) (o : Origin) (off : Nat) (slot : Nat) (engine : Nat) (h : Hw)
    : (vaultCommand d o off slot engine h).lasting = h.lasting := by
  simp [vaultCommand]
@[simp] theorem Hw_dropLinks_lasting (h : Hw) (d : Nat) (slots : List Nat) : (Hw.dropLinks h d slots).lasting = h.lasting := by
  simp [Hw.dropLinks]
@[simp] theorem Hw_revokeOn_lasting (d : Nat) (slots : List Nat) (x : Nat × Hw) : (Hw.revokeOn d slots x).2.lasting = x.2.lasting := by
  simp [Hw.revokeOn]
@[simp] theorem Hw_afterRevoke_lasting (h : Hw) (d : Nat) (op : Nat) (slot : Nat) (slots : List Nat) (aborted : Nat)
    : (Hw.afterRevoke h d op slot slots aborted).lasting = h.lasting := by
  simp [Hw.afterRevoke]
@[simp] theorem revokeSlot_lasting (slot : Nat) (h : Hw) : (revokeSlot slot h).lasting = h.lasting := by
  simp [revokeSlot]
@[simp] theorem keySlotCheck_lasting (d : Nat) (slot : Nat) (bad : Bool) (amended : Bool) (h : Hw)
    : (keySlotCheck d slot bad amended h).lasting = h.lasting := by
  simp [keySlotCheck]
@[simp] theorem entropyFail_lasting (h : Hw) : (entropyFail h).lasting = h.lasting := by
  simp [entropyFail]
@[simp] theorem Hw_drawNightKey_lasting (h : Hw) : (Hw.drawNightKey h).lasting = h.lasting := by
  simp [Hw.drawNightKey]
@[simp] theorem entropyPass_lasting (h : Hw) : (entropyPass h).lasting = h.lasting := by
  simp [entropyPass]
@[simp] theorem attestRequest_lasting (d : Nat) (o : Origin) (h : Hw) : (attestRequest d o h).lasting = h.lasting := by
  simp [attestRequest]
@[simp] theorem statementSigned_lasting (h : Hw) : (statementSigned h).lasting = h.lasting := by
  simp [statementSigned]
@[simp] theorem Hw_showTamper_lasting (h : Hw) : (Hw.showTamper h).lasting = h.lasting := by
  simp [Hw.showTamper]
@[simp] theorem Hw_tamperEntry_lasting (h : Hw) (source : Nat) : (Hw.tamperEntry h source).lasting = h.lasting := by
  simp [Hw.tamperEntry]
@[simp] theorem tamperClear_lasting (h : Hw) : (tamperClear h).lasting = h.lasting := by
  simp [tamperClear]
@[simp] theorem Hw_tamperRevoke_lasting (h : Hw) (source : Nat) : (Hw.tamperRevoke h source).lasting = h.lasting := by
  simp [Hw.tamperRevoke]
@[simp] theorem Hw_resetHub_lasting (h : Hw) : (Hw.resetHub h).lasting = h.lasting := by
  unfold Hw.resetHub
  exact Eq.trans rfl rfl
@[simp] theorem Hw_enterNight_lasting (h : Hw) : (Hw.enterNight h).lasting = h.lasting := by
  simp [Hw.enterNight]
@[simp] theorem Hw_duskEnd_lasting (h : Hw) : (Hw.duskEnd h).lasting = h.lasting := by
  simp [Hw.duskEnd]
@[simp] theorem Hw_powerDrop_lasting (h : Hw) : (Hw.powerDrop h).lasting = h.lasting := by
  simp [Hw.powerDrop]
@[simp] theorem Hw_endBlackout_lasting (h : Hw) : (Hw.endBlackout h).lasting = h.lasting := by
  simp [Hw.endBlackout]
@[simp] theorem Hw_endUpdate_lasting (h : Hw) (code : Nat) : (Hw.endUpdate h code).lasting = h.lasting := by
  simp [Hw.endUpdate]
@[simp] theorem Hw_startDatapath_lasting (h : Hw) : (Hw.startDatapath h).lasting = h.lasting := by
  simp [Hw.startDatapath]
@[simp] theorem Hw_enterSafe_lasting (h : Hw) (cause : Nat) : (Hw.enterSafe h cause).lasting = h.lasting := by
  simp [Hw.enterSafe]
@[simp] theorem Hw_leaveSafe_lasting (h : Hw) : (Hw.leaveSafe h).lasting = h.lasting := by
  simp [Hw.leaveSafe]
@[simp] theorem Hw_closeTrainWindows_lasting (h : Hw) : (Hw.closeTrainWindows h).lasting = h.lasting := by
  simp [Hw.closeTrainWindows]
@[simp] theorem Hw_phaseOff_lasting (h : Hw) : (Hw.phaseOff h).lasting = h.lasting := by
  simp [Hw.phaseOff]
@[simp] theorem Hw_enterSleep_lasting (h : Hw) : (Hw.enterSleep h).lasting = h.lasting := by
  simp [Hw.enterSleep]
@[simp] theorem Hw_leaveSleep_lasting (h : Hw) : (Hw.leaveSleep h).lasting = h.lasting := by
  simp [Hw.leaveSleep]
@[simp] theorem Hw_enterDusk_lasting (h : Hw) (cause : Nat) : (Hw.enterDusk h cause).lasting = h.lasting := by
  simp [Hw.enterDusk]
@[simp] theorem Hw_trainPort_lasting (h : Hw) (d : Nat) (p : Nat) : (Hw.trainPort h d p).lasting = h.lasting := by
  simp [Hw.trainPort]
@[simp] theorem Hw_ringBoot_lasting (h : Hw) : (Hw.ringBoot h).lasting = h.lasting := by
  simp [Hw.ringBoot]
@[simp] theorem Hw_enterQuarantine_lasting (h : Hw) (scause : Nat) (code : Nat) : (Hw.enterQuarantine h scause code).lasting = h.lasting := by
  simp [Hw.enterQuarantine]
@[simp] theorem Hw_dawnFail_lasting (h : Hw) (code : Nat) (seq : Nat) : (Hw.dawnFail h code seq).lasting = h.lasting := by
  simp [Hw.dawnFail]
@[simp] theorem Hw_refuseCmd_lasting (h : Hw) (cmd : Nat) (o : Origin) : (Hw.refuseCmd h cmd o).lasting = h.lasting := by
  simp [Hw.refuseCmd]
@[simp] theorem Hw_acceptCmd_lasting (h : Hw) (cmd : Nat) : (Hw.acceptCmd h cmd).lasting = h.lasting := by
  simp [Hw.acceptCmd]
@[simp] theorem nodCmd_lasting (cmd : Nat) (d : Nat) (o : Origin) (same : Nat) (act : Hw →
    Hw) (h : Hw) (hact : ∀ y0, (act y0).lasting = y0.lasting) : (nodCmd cmd d o same act h).lasting = h.lasting := by
  simp only [nodCmd]
  (repeat' split) <;> simp [*]
@[simp] theorem Hw_resetCommand_lasting (h : Hw) : (Hw.resetCommand h).lasting = h.lasting := by
  simp [Hw.resetCommand]
@[simp] theorem commandAct_lasting (cmd : Nat) (same : Nat) (h : Hw) : (commandAct cmd same h).lasting = h.lasting := by
  simp only [commandAct]
  (repeat' split) <;> simp [*]
@[simp] theorem nodCommand_lasting (cmd : Nat) (d : Nat) (o : Origin) (same : Nat) (h : Hw) : (nodCommand cmd d o same h).lasting = h.lasting := by
  simp [nodCommand]
@[simp] theorem ringWake_lasting (d : Nat) (p : Nat) (h : Hw) : (ringWake d p h).lasting = h.lasting := by
  simp [ringWake]
@[simp] theorem quarantineToDusk_lasting (h : Hw) : (quarantineToDusk h).lasting = h.lasting := by
  simp [quarantineToDusk]
@[simp] theorem Hw_duskCheck_lasting (h : Hw) : (Hw.duskCheck h).lasting = h.lasting := by
  simp [Hw.duskCheck]
@[simp] theorem Hw_setMirror_lasting (h : Hw) (v : Nat) : (Hw.setMirror h v).lasting = h.lasting := by
  simp [Hw.setMirror]
@[simp] theorem Hw_orphan_lasting (h : Hw) : (Hw.orphan h).lasting = h.lasting := by
  simp [Hw.orphan]
@[simp] theorem Hw_stopOther_lasting (h : Hw) (d : Nat) : (Hw.stopOther h d).lasting = h.lasting := by
  simp [Hw.stopOther]
@[simp] theorem Hw_stopPair_lasting (h : Hw) (d : Nat) (code : Nat) : (Hw.stopPair h d code).lasting = h.lasting := by
  simp [Hw.stopPair]
@[simp] theorem heartbeat_lasting (d : Nat) (o : Origin) (v : Word) (h : Hw) : (heartbeat d o v h).lasting = h.lasting := by
  simp [heartbeat]
@[simp] theorem watchdogExpiry_lasting (d : Nat) (beat : Option Word) (h : Hw) : (watchdogExpiry d beat h).lasting = h.lasting := by
  simp only [watchdogExpiry]
  (repeat' split) <;> simp [*]
@[simp] theorem lockstepMismatch_lasting (d : Nat) (h : Hw) : (lockstepMismatch d h).lasting = h.lasting := by
  simp [lockstepMismatch]
@[simp] theorem pairRestart_lasting (d : Nat) (h : Hw) : (pairRestart d h).lasting = h.lasting := by
  simp [pairRestart]
@[simp] theorem mirrorRebuild_lasting (h : Hw) : (mirrorRebuild h).lasting = h.lasting := by
  simp [mirrorRebuild]
@[simp] theorem takeover_lasting (h : Hw) : (takeover h).lasting = h.lasting := by
  simp [takeover]
@[simp] theorem Hw_setPresent_lasting (h : Hw) (r : FaultRep) : (Hw.setPresent h r).lasting = h.lasting := by
  simp [Hw.setPresent]
@[simp] theorem Hw_setSafeCode_lasting (h : Hw) (code : Nat) : (Hw.setSafeCode h code).lasting = h.lasting := by
  simp [Hw.setSafeCode]
@[simp] theorem Hw_dueRestore_lasting (h : Hw) (r : FaultRep) : (Hw.dueRestore h r).lasting = h.lasting := by
  simp [Hw.dueRestore]
@[simp] theorem Hw_fence_lasting (h : Hw) (r : FaultRep) : (Hw.fence h r).lasting = h.lasting := by
  simp [Hw.fence]
@[simp] theorem Hw_react_lasting (h : Hw) (r : FaultRep) : (Hw.react h r).lasting = h.lasting := by
  simp [Hw.react]
@[simp] theorem Hw_captureFault_lasting (h : Hw) (r : FaultRep) : (Hw.captureFault h r).lasting = h.lasting := by
  simp [Hw.captureFault]
@[simp] theorem Hw_recordFault_lasting (h : Hw) (r : FaultRep) : (Hw.recordFault h r).lasting = h.lasting := by
  simp [Hw.recordFault]
@[simp] theorem faultReport_lasting (h : Hw) : (faultReport h).lasting = h.lasting := by
  simp only [faultReport]
  (repeat' split) <;> simp [*]
@[simp] theorem Hw_reactDeferred_lasting (h : Hw) : (Hw.reactDeferred h).lasting = h.lasting := by
  simp [Hw.reactDeferred]
@[simp] theorem fltSclr_lasting (code : Nat) (holds : Bool) (h : Hw) : (fltSclr code holds h).lasting = h.lasting := by
  simp [fltSclr]
@[simp] theorem Hw_firmwareWrite_lasting (h : Hw) (d : Nat) (off : Nat) (w : Nat) : (Hw.firmwareWrite h d off w).lasting = h.lasting := by
  simp [Hw.firmwareWrite]
@[simp] theorem Hw_rewriteWords_lasting (h : Hw) (code : Nat) (d : Nat) (unit : Nat) : (Hw.rewriteWords h code d unit).lasting = h.lasting := by
  simp [Hw.rewriteWords]
@[simp] theorem Hw_firmwareCommand_lasting (h : Hw) (d : Nat) (F : Fld) (unit : Nat) (cmd : Nat)
    : (Hw.firmwareCommand h d F unit cmd).lasting = h.lasting := by
  simp [Hw.firmwareCommand]
@[simp] theorem Hw_restorePump_lasting (h : Hw) (d : Nat) (n : Nat) : (Hw.restorePump h d n).lasting = h.lasting := by
  simp [Hw.restorePump]
@[simp] theorem Hw_restoreCan_lasting (h : Hw) (d : Nat) (k : Nat) : (Hw.restoreCan h d k).lasting = h.lasting := by
  simp [Hw.restoreCan]
@[simp] theorem Hw_restoreUnit_lasting (h : Hw) (code : Nat) (d : Nat) (unit : Nat) : (Hw.restoreUnit h code d unit).lasting = h.lasting := by
  simp [Hw.restoreUnit]
@[simp] theorem restore_lasting (h : Hw) : (restore h).lasting = h.lasting := by
  simp only [restore]
  (repeat' split) <;> simp [*]
@[simp] theorem Hw_standingLoss_lasting (h : Hw) : (Hw.standingLoss h).lasting = h.lasting := by
  simp [Hw.standingLoss]
@[simp] theorem wellhouseConversion_lasting (volts : List Nat) (shunts : List Int) (h : Hw)
    : (wellhouseConversion volts shunts h).lasting = h.lasting := by
  simp [wellhouseConversion]
@[simp] theorem faultTimerExpiry_lasting (h : Hw) : (faultTimerExpiry h).lasting = h.lasting := by
  simp [faultTimerExpiry]
@[simp] theorem Hw_raiseFeed_lasting (h : Hw) (f : Nat) : (Hw.raiseFeed h f).lasting = h.lasting := by
  simp [Hw.raiseFeed]
@[simp] theorem feedPresent_lasting (f : Nat) (h : Hw) : (feedPresent f h).lasting = h.lasting := by
  simp [feedPresent]
@[simp] theorem feedLost_lasting (f : Nat) (other : Bool) (h : Hw) : (feedLost f other h).lasting = h.lasting := by
  simp [feedLost]
@[simp] theorem Hw_abortKeyUse_lasting (h : Hw) : (Hw.abortKeyUse h).lasting = h.lasting := by
  simp [Hw.abortKeyUse]
@[simp] theorem tamperAct_lasting (source : Nat) (h : Hw) : (tamperAct source h).lasting = h.lasting := by
  unfold tamperAct
  apply Hw_onHub_lasting
  intro h
  dsimp only
  split <;> simp
@[simp] theorem tamperSample_lasting (holds : List Bool) (h : Hw) : (tamperSample holds h).lasting = h.lasting := by
  simp [tamperSample]
@[simp] theorem Hw_loadWord_lasting (h : Hw) (d : Nat) (off : Nat) (w : Nat) : (Hw.loadWord h d off w).lasting = h.lasting := by
  simp only [Hw.loadWord]
  (repeat' split) <;> simp [*]
@[simp] theorem Hw_loadRegset_lasting (h : Hw) (r : HeldRec) : (Hw.loadRegset h r).lasting = h.lasting := by
  simp [Hw.loadRegset]
@[simp] theorem Hw_lockDebug_lasting (h : Hw) : (Hw.lockDebug h).lasting = h.lasting := by
  simp [Hw.lockDebug]
@[simp] theorem Hw_closeHost_lasting (h : Hw) (d : Nat) : (Hw.closeHost h d).lasting = h.lasting := by
  simp [Hw.closeHost]
@[simp] theorem Hw_loadIdentity_lasting (h : Hw) (r : HeldRec) : (Hw.loadIdentity h r).lasting = h.lasting := by
  simp [Hw.loadIdentity]
@[simp] theorem Hw_loadKeytree_lasting (h : Hw) (r : HeldRec) : (Hw.loadKeytree h r).lasting = h.lasting := by
  simp [Hw.loadKeytree]
@[simp] theorem Hw_loadHoldup_lasting (h : Hw) (r : HeldRec) : (Hw.loadHoldup h r).lasting = h.lasting := by
  simp [Hw.loadHoldup]
@[simp] theorem Hw_loadRoutes_lasting (h : Hw) (r : HeldRec) : (Hw.loadRoutes h r).lasting = h.lasting := by
  simp [Hw.loadRoutes]
@[simp] theorem Hw_loadQueue_lasting (h : Hw) (d : Nat) (e : List Nat) : (Hw.loadQueue h d e).lasting = h.lasting := by
  simp [Hw.loadQueue]
@[simp] theorem Hw_loadQueues_lasting (h : Hw) (r : HeldRec) : (Hw.loadQueues h r).lasting = h.lasting := by
  simp [Hw.loadQueues]
@[simp] theorem Hw_loadProgram_lasting (h : Hw) (r : HeldRec) : (Hw.loadProgram h r).lasting = h.lasting := by
  simp [Hw.loadProgram]
@[simp] theorem Hw_loadBuckets_lasting (h : Hw) (r : HeldRec) : (Hw.loadBuckets h r).lasting = h.lasting := by
  simp [Hw.loadBuckets]
@[simp] theorem Hw_loadServes_lasting (h : Hw) (r : HeldRec) : (Hw.loadServes h r).lasting = h.lasting := by
  simp [Hw.loadServes]
@[simp] theorem Hw_loadEvents_lasting (h : Hw) (r : HeldRec) : (Hw.loadEvents h r).lasting = h.lasting := by
  simp [Hw.loadEvents]
@[simp] theorem Hw_loadResponses_lasting (h : Hw) (r : HeldRec) : (Hw.loadResponses h r).lasting = h.lasting := by
  simp [Hw.loadResponses]
@[simp] theorem Hw_loadChannels_lasting (h : Hw) (r : HeldRec) : (Hw.loadChannels h r).lasting = h.lasting := by
  simp [Hw.loadChannels]
@[simp] theorem Hw_loadRec_lasting (r : HeldRec) (h : Hw) : (Hw.loadRec r h).lasting = h.lasting := by
  simp only [Hw.loadRec]
  (repeat' split) <;> simp [*]
@[simp] theorem Hw_heldView_lasting (h : Hw) (held : List HeldRec) : (Hw.heldView h held).lasting = h.lasting := by
  simp [Hw.heldView]
@[simp] theorem Hw_setWrap_lasting (h : Hw) (d : Nat) (r : Nat) (v : Bool) : (Hw.setWrap h d r v).lasting = h.lasting := by
  simp [Hw.setWrap]
@[simp] theorem Hw_judgeWrap_lasting (h : Hw) (d : Nat) (r : Nat) : (Hw.judgeWrap h d r).lasting = h.lasting := by
  simp [Hw.judgeWrap]
@[simp] theorem Hw_measureRtrip_lasting (h : Hw) (d : Nat) (start : Nat) : (Hw.measureRtrip h d start).lasting = h.lasting := by
  simp [Hw.measureRtrip]
@[simp] theorem Hw_trainArrives_lasting (h : Hw) (d : Nat) (p : Nat) : (Hw.trainArrives h d p).lasting = h.lasting := by
  unfold Hw.trainArrives
  simp only [apply_ite Hw.lasting, Hw_judgeWrap_lasting, Hw_measureRtrip_lasting, ite_self]
@[simp] theorem trainStart_lasting (d : Nat) (p : Nat) (residence : Nat) (h : Hw) : (trainStart d p residence h).lasting = h.lasting := by
  unfold trainStart
  simp only [apply_ite Hw.lasting, Hw_setTrain_lasting, Hw_trainArrives_lasting, ite_self]
@[simp] theorem trainEnd_lasting (d : Nat) (p : Nat) (h : Hw) : (trainEnd d p h).lasting = h.lasting := by
  simp [trainEnd]
@[simp] theorem Hw_fillLatch_lasting (h : Hw) (pir : SMap Byte) (d : Nat) (p : Nat) (cycle : Option Nat)
    : (Hw.fillLatch h pir d p cycle).lasting = h.lasting := by
  simp [Hw.fillLatch]
@[simp] theorem storeUnit_lasting (d : Nat) (u : Nat × List Byte) (x : Hw × SMap Byte) : (storeUnit d u x).1.lasting = x.1.lasting := by
  simp [storeUnit]
@[simp] theorem endCopies_lasting (d : Nat) (cycle : Nat) (x : Hw × SMap Byte) : (endCopies d cycle x).1.lasting = x.1.lasting := by
  simp only [endCopies]
  (repeat' split) <;> simp [*]
@[simp] theorem storeUnits_lasting (d : Nat) (cycle : Nat) (us : List (Nat × List Byte)) (x : Hw × SMap Byte)
    : (storeUnits d cycle us x).1.lasting = x.1.lasting := by
  simp only [storeUnits]
  (repeat' split) <;> simp [*]
@[simp] theorem commitSegment_lasting (d : Nat) (k : Nat) (cycle : Nat) (ring : Nat) (data : List Byte) (x : Hw × SMap Byte)
    : (commitSegment d k cycle ring data x).2.1.lasting = x.1.lasting := by
  simp only [commitSegment]
  (repeat' split) <;> simp [*]
@[simp] theorem closeTrain_lasting (d : Nat) (x : Hw × SMap Byte) : (closeTrain d x).1.lasting = x.1.lasting := by
  simp only [closeTrain]
  (repeat' split) <;> simp [*]
@[simp] theorem Hw_takeSlots_lasting (h : Hw) (d : Nat) (start : Nat) (path : Nat) (again : Bool) (data : List Byte)
    : (Hw.takeSlots h d start path again data).lasting = h.lasting := by
  simp [Hw.takeSlots]
@[simp] theorem Hw_startJournal_lasting (h : Hw) (d : Nat) : (Hw.startJournal h d).lasting = h.lasting := by
  simp [Hw.startJournal]
@[simp] theorem Hw_openTrain_lasting (h : Hw) (d : Nat) (e : Nat) (p : Nat) (g : Passage) (hd : TrainHdr)
    : (Hw.openTrain h d e p g hd).lasting = h.lasting := by
  unfold Hw.openTrain
  simp only [apply_ite Hw.lasting, Hw_closeWindows_lasting, Hw_applyOutsync_lasting, Hw_timeFromTrain_lasting, Hw_wr_lasting, Hw_setTrain_lasting, ite_self]
@[simp] theorem acceptOn_lasting (d : Nat) (e : Nat) (p : Nat) (g : Passage) (hd : TrainHdr) (data : List Byte) (x : Hw × SMap Byte)
    : (acceptOn d e p g hd data x).1.lasting = x.1.lasting := by
  unfold acceptOn
  simp only [apply_ite Prod.fst, apply_ite Hw.lasting, Hw_takeSlots_lasting, Hw_openTrain_lasting, closeTrain_lasting, ite_self]
@[simp] theorem Hw_yieldTo_lasting (h : Hw) (d : Nat) : (Hw.yieldTo h d).lasting = h.lasting := by
  simp [Hw.yieldTo]
@[simp] theorem Hw_masterPath_lasting (h : Hw) (d : Nat) (p : Nat) (start : Nat) (hd : TrainHdr) (onward : Option Nat)
    : (Hw.masterPath h d p start hd onward).2.lasting = h.lasting := by
  simp only [Hw.masterPath]
  (repeat' split) <;> simp [*]
@[simp] theorem Hw_passOn_lasting (h : Hw) (d : Nat) (p : Nat) (g : Passage) (out : List Byte) : (Hw.passOn h d p g out).lasting = h.lasting := by
  simp [Hw.passOn]
@[simp] theorem Hw_journalTrain_lasting (h : Hw) (d : Nat) (p : Nat) (k : Nat) (good : Bool) (ext : List Nat)
    : (Hw.journalTrain h d p k good ext).lasting = h.lasting := by
  simp [Hw.journalTrain]
@[simp] theorem Hw_captureCarry_lasting (h : Hw) (d : Nat) (k : Nat) (hd : TrainHdr) (data : List Byte)
    : (Hw.captureCarry h d k hd data).lasting = h.lasting := by
  simp [Hw.captureCarry]
@[simp] theorem commitBoth_lasting (d : Nat) (k : Nat) (hd : TrainHdr) (ring : Nat) (data : List Byte) (x : Hw × SMap Byte)
    : (commitBoth d k hd ring data x).2.1.lasting = x.1.lasting := by
  have e := commitSegment_lasting d k hd.cycle ring data x
  unfold commitBoth
  generalize commitSegment d k hd.cycle ring data x = y at e ⊢
  dsimp only
  split
  · exact (commitSegment_lasting ..).trans e
  · exact e
@[simp] theorem bucketSegment_lasting (d : Nat) (p : Nat) (g : Passage) (bytes : List Byte) (good : Bool) (x : Hw × SMap Byte)
    : (bucketSegment d p g bytes good x).1.lasting = x.1.lasting := by
  unfold bucketSegment
  split
  · rfl
  · split
    · exact (Hw_passOn_lasting ..).trans (Hw_journalTrain_lasting ..)
    · refine (Hw_journalTrain_lasting ..).trans ?_
      simp only [apply_ite Prod.snd, apply_ite Prod.fst, apply_ite Hw.lasting, commitBoth_lasting, Hw_captureCarry_lasting, Hw_passOn_lasting, ite_self]
@[simp] theorem Hw_countSegment_lasting (h : Hw) (d : Nat) (p : Nat) (crcOk : Bool) (clean : Bool)
    : (Hw.countSegment h d p crcOk clean).lasting = h.lasting := by
  unfold Hw.countSegment
  split
  · rw [Hw_score_lasting, Hw_bump_lasting]
  · split
    · rw [Hw_bump_lasting]
    · rfl
@[simp] theorem windowExpiry_lasting (d : Nat) (headerSame : Bool) (h : Hw) : (windowExpiry d headerSame h).lasting = h.lasting := by
  simp [windowExpiry]
@[simp] theorem Hw_sendTrain_lasting (h : Hw) (d : Nat) (r : Nat) (train : List Byte) : (Hw.sendTrain h d r train).lasting = h.lasting := by
  simp [Hw.sendTrain]
@[simp] theorem Hw_startTrain_lasting (h : Hw) (d : Nat) (flags : Nat) : (Hw.startTrain h d flags).lasting = h.lasting := by
  simp [Hw.startTrain]
@[simp] theorem trainOriginate_lasting (d : Nat) (h : Hw) : (trainOriginate d h).lasting = h.lasting := by
  simp [trainOriginate]
@[simp] theorem phaseLockedBound_lasting (d : Nat) (boundarySame : Bool) (h : Hw) : (phaseLockedBound d boundarySame h).lasting = h.lasting := by
  simp [phaseLockedBound]
@[simp] theorem originationStart_lasting (d : Nat) (headerSame : Bool) (h : Hw) : (originationStart d headerSame h).lasting = h.lasting := by
  simp [originationStart]
@[simp] theorem Hw_nightAtRelease_lasting (h : Hw) (void : Bool) (ticks : Nat) : (Hw.nightAtRelease h void ticks).lasting = h.lasting := by
  simp [Hw.nightAtRelease]
@[simp] theorem Hw_selectReplay_lasting (h : Hw) : (Hw.selectReplay h).lasting = h.lasting := by
  simp [Hw.selectReplay]
@[simp] theorem norDiscovery_lasting (romOk : Bool) (jedecOk : Bool) (sfdp : Option Sfdp) (h : Hw)
    : (norDiscovery romOk jedecOk sfdp h).lasting = h.lasting := by
  simp only [norDiscovery]
  (repeat' split) <;> simp [*]
@[simp] theorem Hw_takeHeader_lasting (h : Hw) (b : List Byte) : (Hw.takeHeader h b).lasting = h.lasting := by
  simp [Hw.takeHeader]
@[simp] theorem Hw_holdRecord_lasting (h : Hw) (x : HeldRec × Bool) (raw : List Byte) : (Hw.holdRecord h x raw).lasting = h.lasting := by
  simp [Hw.holdRecord]
@[simp] theorem Hw_runFirmware_lasting (h : Hw) (d : Nat) (x : Header) (fw : List Byte) : (Hw.runFirmware h d x fw).lasting = h.lasting := by
  simp [Hw.runFirmware]
@[simp] theorem Hw_commitImage_lasting (h : Hw) (x : Header) (supplies : List (Nat × Nat × Nat))
    : (Hw.commitImage h x supplies).lasting = h.lasting := by
  simp [Hw.commitImage]
@[simp] theorem Hw_endImage_lasting (h : Hw) (x : HeldRec × Bool) (hd : Header) (supplies : List (Nat × Nat × Nat))
    : (Hw.endImage h x hd supplies).lasting = h.lasting := by
  simp [Hw.endImage]
@[simp] theorem keytreeUnwrap_lasting (failed : List Nat) (h : Hw) : (keytreeUnwrap failed h).lasting = h.lasting := by
  simp [keytreeUnwrap]
@[simp] theorem Hw_portAtNine_lasting (h : Hw) (d : Nat) (p : Nat) : (Hw.portAtNine h d p).lasting = h.lasting := by
  simp [Hw.portAtNine]
@[simp] theorem Hw_enterReplay_lasting (h : Hw) : (Hw.enterReplay h).lasting = h.lasting := by
  simp [Hw.enterReplay]
@[simp] theorem selfTest_lasting (fails : List (Nat × Nat)) (trains : Bool) (h : Hw) : (selfTest fails trains h).lasting = h.lasting := by
  simp [selfTest]
@[simp] theorem ringBootTimeout_lasting (h : Hw) : (ringBootTimeout h).lasting = h.lasting := by
  simp [ringBootTimeout]
@[simp] theorem bootRequest_lasting (part : Part) (node : Nat) (h : Hw) : (bootRequest part node h).lasting = h.lasting := by
  simp only [bootRequest]
  (repeat' split) <;> simp [*]
@[simp] theorem Hw_serveCell_lasting (h : Hw) : (Hw.serveCell h).lasting = h.lasting := by
  simp only [Hw.serveCell]
  (repeat' split) <;> simp [*]
@[simp] theorem streamRecords_lasting (u1 : Nat) (u2 : Hw) : (streamRecords u1 u2).lasting = u2.lasting := by
  induction u1 generalizing u2 with
  | zero => simp [streamRecords]
  | succ n ih =>
    unfold streamRecords
    split
    · rfl
    · split
      · rfl
      · split
        · rfl
        · split
          · simp
          · simp [ih]
@[simp] theorem Hw_tryHeader_lasting (h : Hw) : (Hw.tryHeader h).lasting = h.lasting := by
  simp [Hw.tryHeader]
@[simp] theorem Hw_workStream_lasting (h : Hw) : (Hw.workStream h).lasting = h.lasting := by
  unfold Hw.workStream
  simp only [apply_ite Hw.lasting, streamRecords_lasting, Hw_tryHeader_lasting, ite_self]
@[simp] theorem imageStreamCell_lasting (server : Nat × Nat) (bytes : List Byte) (h : Hw) : (imageStreamCell server bytes h).lasting = h.lasting := by
  simp [imageStreamCell]
@[simp] theorem Hw_loadIr_lasting (h : Hw) (d : Nat) (ir : Nat) (f : Tap → Tap) : (Hw.loadIr h d ir f).lasting = h.lasting := by
  simp [Hw.loadIr]
@[simp] theorem extest_lasting (d : Nat) (shifted : List (Nat × Bool)) (levels : List (Nat × Bool)) (leaving : Bool) (h : Hw)
    : (extest d shifted levels leaving h).lasting = h.lasting := by
  simp [extest]
@[simp] theorem samplePreload_lasting (d : Nat) (preload : List (Nat × Bool)) (levels : List (Nat × Bool)) (h : Hw)
    : (samplePreload d preload levels h).lasting = h.lasting := by
  simp [samplePreload]
@[simp] theorem mdbg_lasting (d : Nat) (shifted : Nat) (h : Hw) : (mdbg d shifted h).lasting = h.lasting := by
  simp [mdbg]
@[simp] theorem testLogicReset_lasting (h : Hw) : (testLogicReset h).lasting = h.lasting := by
  simp [testLogicReset]
@[simp] theorem updateStart_lasting (h : Hw) : (updateStart h).lasting = h.lasting := by
  simp [updateStart]
@[simp] theorem updateData_lasting (d : Nat) (o : Origin) (w : Word) (h : Hw) : (updateData d o w h).lasting = h.lasting := by
  simp [updateData]
@[simp] theorem updateAbort_lasting (h : Hw) : (updateAbort h).lasting = h.lasting := by
  simp [updateAbort]
@[simp] theorem Hw_showHandover_lasting (h : Hw) : (Hw.showHandover h).lasting = h.lasting := by
  simp only [Hw.showHandover]
  (repeat' split) <;> simp [*]
@[simp] theorem holdupWaitTimeout_lasting (h : Hw) : (holdupWaitTimeout h).lasting = h.lasting := by
  simp [holdupWaitTimeout]
@[simp] theorem Hw_handoverFails_lasting (h : Hw) (d : Nat) (x : Header) : (Hw.handoverFails h d x).lasting = h.lasting := by
  simp [Hw.handoverFails]
@[simp] theorem Hw_jrnStore_lasting (h : Hw) (d : Nat) (w : Nat) : (Hw.jrnStore h d w).lasting = h.lasting := by
  simp [Hw.jrnStore]
@[simp] theorem Hw_jrnDrain_lasting (h : Hw) (d : Nat) : (Hw.jrnDrain h d).lasting = h.lasting := by
  simp only [Hw.jrnDrain]
  (repeat' split) <;> simp [*]
@[simp] theorem Hw_jrnFlush_lasting (h : Hw) (d : Nat) : (Hw.jrnFlush h d).lasting = h.lasting := by
  simp [Hw.jrnFlush]
@[simp] theorem Hw_jrnStream_lasting (h : Hw) (d : Nat) : (Hw.jrnStream h d).lasting = h.lasting := by
  simp [Hw.jrnStream]
@[simp] theorem Hw_jrnCycle_lasting (h : Hw) (d : Nat) : (Hw.jrnCycle h d).lasting = h.lasting := by
  simp [Hw.jrnCycle]
@[simp] theorem Hw_journalWell_lasting (h : Hw) (d : Nat) : (Hw.journalWell h d).lasting = h.lasting := by
  simp [Hw.journalWell]
@[simp] theorem Hw_diverge_lasting (h : Hw) (d : Nat) (m : Nat) (expected : List Nat) (got : List Nat)
    : (Hw.diverge h d m expected got).lasting = h.lasting := by
  simp [Hw.diverge]
@[simp] theorem Hw_compareDigest_lasting (h : Hw) (d : Nat) : (Hw.compareDigest h d).lasting = h.lasting := by
  simp only [Hw.compareDigest]
  (repeat' split) <;> simp [*]
@[simp] theorem digest_lasting (d : Nat) (h : Hw) : (digest d h).lasting = h.lasting := by
  simp [digest]
@[simp] theorem beginCheckpoint_lasting (d : Nat) (x : Hw × SMap Byte) : (beginCheckpoint d x).1.lasting = x.1.lasting := by
  simp only [beginCheckpoint]
  (repeat' split) <;> simp [*]
@[simp] theorem checkpointBegin_lasting (x : Hw × SMap Byte) : (checkpointBegin x).1.lasting = x.1.lasting := by
  simp only [checkpointBegin]
  (repeat' split) <;> simp [*]
@[simp] theorem checkpointEnd_lasting (d : Nat) (h : Hw) : (checkpointEnd d h).lasting = h.lasting := by
  simp [checkpointEnd]
@[simp] theorem journalLossEnd_lasting (d : Nat) (h : Hw) : (journalLossEnd d h).lasting = h.lasting := by
  simp [journalLossEnd]
@[simp] theorem jrnFreeze_lasting (h : Hw) : (jrnFreeze h).lasting = h.lasting := by
  simp [jrnFreeze]
@[simp] theorem freezeDie_lasting (f : Freeze) (d : Nat) (h : Hw) : (freezeDie f d h).lasting = h.lasting := by
  simp [freezeDie]
@[simp] theorem freezeEffect_lasting (h : Hw) : (freezeEffect h).lasting = h.lasting := by
  simp only [freezeEffect]
  (repeat' split) <;> simp [*]
@[simp] theorem Hw_endWindow_lasting (h : Hw) (d : Nat) : (Hw.endWindow h d).lasting = h.lasting := by
  simp [Hw.endWindow]
@[simp] theorem postComplete_lasting (d : Nat) (h : Hw) : (postComplete d h).lasting = h.lasting := by
  simp [postComplete]
@[simp] theorem Hw_clearWindow_lasting (h : Hw) (d : Nat) : (Hw.clearWindow h d).lasting = h.lasting := by
  simp [Hw.clearWindow]
@[simp] theorem jrnRearm_lasting (h : Hw) : (jrnRearm h).lasting = h.lasting := by
  simp [jrnRearm]
@[simp] theorem Hw_setHost_lasting (h : Hw) (d : Nat) (x : HostPort) : (Hw.setHost h d x).lasting = h.lasting := by
  simp [Hw.setHost]
@[simp] theorem Hw_clearBits_lasting (h : Hw) (key : Nat) (m : Nat) : (Hw.clearBits h key m).lasting = h.lasting := by
  simp [Hw.clearBits]
@[simp] theorem Hw_clearRc_lasting (h : Hw) (d : Nat) (off : Nat) : (Hw.clearRc h d off).lasting = h.lasting := by
  simp only [Hw.clearRc]
  (repeat' split) <;> simp [*]
@[simp] theorem Hw_latchRead_lasting (h : Hw) (d : Nat) (off : Nat) : (Hw.latchRead h d off).lasting = h.lasting := by
  simp [Hw.latchRead]
@[simp] theorem readReg_lasting (d : Nat) (off : Nat) (h : Hw) : (readReg d off h).2.lasting = h.lasting := by
  simp only [readReg]
  (repeat' split) <;> simp [*]
@[simp] theorem readWindow_lasting (d : Nat) (q : Nat) (off : Nat) (h : Hw) : (readWindow d q off h).2.lasting = h.lasting := by
  simp only [readWindow]
  (repeat' split) <;> simp [*]
@[simp] theorem readData_lasting (d : Nat) (q : Nat) (u : Upset) (h : Hw) : (readData d q u h).2.lasting = h.lasting := by
  simp only [readData]
  (repeat' split) <;> simp [*]
@[simp] theorem writeData_lasting (d : Nat) (q : Nat) (o : Origin) (bs : List Byte) (u : Upset) (h : Hw)
    : (writeData d q o bs u h).2.lasting = h.lasting := by
  simp only [writeData]
  (repeat' split) <;> simp [*]
@[simp] theorem Hw_loadCell_lasting (h : Hw) (d : Nat) (r : JrnRec) : (Hw.loadCell h d r).lasting = h.lasting := by
  simp [Hw.loadCell]
@[simp] theorem Hw_loadFlops_lasting (h : Hw) (d : Nat) (x : Flops) : (Hw.loadFlops h d x).lasting = h.lasting := by
  simp [Hw.loadFlops]
@[simp] theorem Hw_atCycle_lasting (h : Hw) (n : Nat) : (Hw.atCycle h n).lasting = h.lasting := by
  simp [Hw.atCycle]
@[simp] theorem Hw_loadFreeRunning_lasting (h : Hw) (d : Nat) (ext : List Nat) : (Hw.loadFreeRunning h d ext).lasting = h.lasting := by
  unfold Hw.loadFreeRunning
  split
  · exact (Hw_loadFlops_lasting ..).trans (Hw_atCycle_lasting ..)
  · exact Hw_atCycle_lasting ..
@[simp] theorem loadCkpt_lasting (d : Nat) (r : JrnRec) (x : Hw × SMap Byte) : (loadCkpt d r x).1.lasting = x.1.lasting := by
  unfold loadCkpt
  simp only [apply_ite Prod.fst, apply_ite Hw.lasting, Hw_loadCell_lasting, Hw_setRegAt_lasting, Hw_loadFreeRunning_lasting, ite_self]
@[simp] theorem Hw_clearDomain_lasting (h : Hw) (d : Nat) : (Hw.clearDomain h d).lasting = h.lasting := by
  unfold Hw.clearDomain
  refine (each_lasting _ _ _ fun _ _ => Hw_setCq_lasting ..).trans ?_
  simp only [lasting_mk, lasting_eta]
@[simp] theorem loadRecords_lasting (d : Nat) (first : Nat) (rs : List JrnRec) (x : Hw × SMap Byte)
    : (loadRecords d first rs x).1.lasting = x.1.lasting := by
  unfold loadRecords
  exact (Hw_wr_lasting _ _ _ _ _ _).trans ((Hw_setJrn_lasting _ _ _).trans ((each_lasting1 _ _ _ fun _ _ => loadCkpt_lasting ..).trans (Hw_clearDomain_lasting ..)))
@[simp] theorem loadFound_lasting (d : Nat) (o : Option (List JrnRec)) (x : Hw × SMap Byte) : (loadFound d o x).1.lasting = x.1.lasting := by
  unfold loadFound
  split
  · exact Hw_flag_lasting ..
  · exact loadRecords_lasting ..
@[simp] theorem loadDie_lasting (d : Nat) (x : Hw × SMap Byte) : (loadDie d x).1.lasting = x.1.lasting := by
  exact loadFound_lasting ..
@[simp] theorem Hw_rctl_lasting (h : Hw) (d : Nat) (cmd : Nat) : (Hw.rctl h d cmd).lasting = h.lasting := by
  unfold Hw.rctl
  split
  · exact each_lasting _ _ _ fun _ _ => Hw_wr_lasting ..
  · rfl
@[simp] theorem replayLoad_lasting (d : Nat) (x : Hw × SMap Byte) : (replayLoad d x).1.lasting = x.1.lasting := by
  unfold replayLoad
  split
  · exact (each_lasting1 _ _ _ loadDie_lasting).trans (Hw_rctl_lasting ..)
  · rfl
@[simp] theorem Hw_replayMove_lasting (h : Hw) (d : Nat) (src : List Nat) (dst : Nat) : (Hw.replayMove h d src dst).lasting = h.lasting := by
  simp [Hw.replayMove]
@[simp] theorem replayRun_lasting (d : Nat) (h : Hw) : (replayRun d h).lasting = h.lasting := by
  simp [replayRun]
@[simp] theorem replayPause_lasting (d : Nat) (h : Hw) : (replayPause d h).lasting = h.lasting := by
  simp [replayPause]
@[simp] theorem replayReserved_lasting (d : Nat) (o : Origin) (h : Hw) : (replayReserved d o h).lasting = h.lasting := by
  simp [replayReserved]
@[simp] theorem replayControl_lasting (d : Nat) (o : Origin) (w : Nat) (x : Hw × SMap Byte) : (replayControl d o w x).1.lasting = x.1.lasting := by
  simp only [replayControl]
  (repeat' split) <;> simp [*]
@[simp] theorem Hw_feedWord_lasting (h : Hw) (d : Nat) (i : Nat) (w : Nat) : (Hw.feedWord h d i w).lasting = h.lasting := by
  simp [Hw.feedWord]
@[simp] theorem replayFeed_lasting (d : Nat) (ws : List Dword) (h : Hw) : (replayFeed d ws h).lasting = h.lasting := by
  simp [replayFeed]
@[simp] theorem replayStop_lasting (h : Hw) : (replayStop h).lasting = h.lasting := by
  simp [replayStop]
@[simp] theorem replayEnd_lasting (d : Nat) (h : Hw) : (replayEnd d h).lasting = h.lasting := by
  simp [replayEnd]
@[simp] theorem Hw_turnAway_lasting (h : Hw) (entry : Nat) (d : Nat) (space : Nat) (off : Nat) (o : Origin)
    : (Hw.turnAway h entry d space off o).lasting = h.lasting := by
  simp [Hw.turnAway]
@[simp] theorem Hw_writeW1c_lasting (h : Hw) (d : Nat) (off : Nat) (w : Nat) : (Hw.writeW1c h d off w).lasting = h.lasting := by
  simp only [Hw.writeW1c]
  (repeat' split) <;> simp [*]
@[simp] theorem pumpCommand_lasting (d : Nat) (n : Nat) (cmd : Nat) (o : Origin) (h : Hw) : (pumpCommand d n cmd o h).lasting = h.lasting := by
  simp only [pumpCommand]
  (repeat' split) <;> simp [*]
@[simp] theorem canCommand_lasting (d : Nat) (k : Nat) (cmd : Nat) (o : Origin) (h : Hw) : (canCommand d k cmd o h).lasting = h.lasting := by
  simp only [canCommand]
  (repeat' split) <;> simp [*]
@[simp] theorem popFault_lasting (d : Nat) (h : Hw) : (popFault d h).lasting = h.lasting := by
  simp [popFault]
@[simp] theorem writeOpr_lasting (d : Nat) (off : Nat) (w : Nat) (o : Origin) (x : Hw × SMap Byte)
    : (writeOpr d off w o x).1.lasting = x.1.lasting := by
  unfold writeOpr
  extract_lets h one
  refine ite_lasting1 (nodCommand_lasting ..) ?_
  refine ite_lasting1 (ite_lasting' (pumpCommand_lasting ..) rfl) ?_
  refine ite_lasting1 (Hw_writeOuts_lasting ..) ?_
  refine ite_lasting1 (ite_lasting' (canCommand_lasting ..) rfl) ?_
  refine ite_lasting1 (entryArm_lasting ..) ?_
  refine ite_lasting1 (ite_lasting' (popFault_lasting ..) rfl) ?_
  refine ite_lasting1 (Hw_wr_lasting ..) ?_
  refine ite_lasting1 (archiveMark_lasting ..) ?_
  refine ite_lasting1 (ite_lasting' (evrClr_lasting ..) rfl) ?_
  refine ite_lasting1 (ite_lasting' (jrnFreeze_lasting ..) rfl) ?_
  refine ite_lasting1 (replayControl_lasting ..) ?_
  refine ite_lasting1 (ite_lasting' (Hw_setRegAt_lasting ..) rfl) ?_
  refine ite_lasting1 (ite_lasting' (attestRequest_lasting ..) rfl) ?_
  refine ite_lasting1 (Hw_wr_lasting ..) ?_
  refine ite_lasting1 (heartbeat_lasting ..) ?_
  refine ite_lasting1 (updateData_lasting ..) ?_
  rfl
@[simp] theorem writeReg_lasting (d : Nat) (off : Nat) (w : Nat) (o : Origin) (x : Hw × SMap Byte)
    : (writeReg d off w o x).2.1.lasting = x.1.lasting := by
  simp only [writeReg]
  (repeat' split) <;> simp [*]
@[simp] theorem Hw_journalMgmt_lasting (h : Hw) (d : Nat) (kind : Nat) (space : Nat) (off : Nat) (len : Nat) (data : Nat) (o : Origin)
    : (Hw.journalMgmt h d kind space off len data o).lasting = h.lasting := by
  simp [Hw.journalMgmt]
@[simp] theorem readQueue_lasting (d : Nat) (off : Nat) (u : Upset) (o : Origin) (h : Hw) : (readQueue d off u o h).2.lasting = h.lasting := by
  simp only [readQueue]
  (repeat' split) <;> simp [*]
@[simp] theorem Hw_freeBytes_lasting (h : Hw) (n : Nat) : (Hw.freeBytes h n).2.lasting = h.lasting := by
  simp [Hw.freeBytes]
@[simp] theorem readPir_lasting (d : Nat) (off : Nat) (len : Nat) (u : Upset) (x : Hw × SMap Byte)
    : (readPir d off len u x).2.lasting = x.1.lasting := by
  simp only [readPir]
  (repeat' split) <;> simp [*]
@[simp] theorem readSpace_lasting (d : Nat) (space : Nat) (off : Nat) (len : Nat) (o : Origin) (u : Upset) (x : Hw × SMap Byte)
    : (readSpace d space off len o u x).2.lasting = x.1.lasting := by
  simp only [readSpace]
  (repeat' split) <;> simp [*]
@[simp] theorem performRead_lasting (entry : Nat) (d : Nat) (space : Nat) (off : Nat) (len : Nat) (o : Origin) (u : Upset) (x : Hw × SMap Byte)
    : (performRead entry d space off len o u x).2.1.lasting = x.1.lasting := by
  simp only [performRead]
  (repeat' split) <;> simp [*]
@[simp] theorem writeQueue_lasting (d : Nat) (off : Nat) (bs : List Byte) (o : Origin) (u : Upset) (h : Hw)
    : (writeQueue d off bs o u h).2.lasting = h.lasting := by
  simp only [writeQueue]
  (repeat' split) <;> simp [*]
@[simp] theorem Hw_writeJournal_lasting (h : Hw) (d : Nat) (off : Nat) (bs : List Byte) : (Hw.writeJournal h d off bs).lasting = h.lasting := by
  simp [Hw.writeJournal]
@[simp] theorem writeSpace_lasting (d : Nat) (space : Nat) (off : Nat) (bs : List Byte) (o : Origin) (u : Upset) (x : Hw × SMap Byte)
    : (writeSpace d space off bs o u x).2.1.lasting = x.1.lasting := by
  simp only [writeSpace]
  (repeat' split) <;> simp [*]
@[simp] theorem performWrite_lasting (entry : Nat) (d : Nat) (space : Nat) (off : Nat) (bs : List Byte) (o : Origin) (u : Upset)
    (x : Hw × SMap Byte) : (performWrite entry d space off bs o u x).2.1.lasting = x.1.lasting := by
  simp only [performWrite]
  (repeat' split) <;> simp [*]
@[simp] theorem Hw_logPosted_lasting (h : Hw) (d : Nat) (e : PwFault) : (Hw.logPosted h d e).lasting = h.lasting := by
  simp [Hw.logPosted]
@[simp] theorem Hw_endPosted_lasting (h : Hw) (o : Origin) (tag : Nat) (addr : Nat) (reqid : Nat) (code : Nat)
    : (Hw.endPosted h o tag addr reqid code).lasting = h.lasting := by
  simp only [Hw.endPosted]
  (repeat' split) <;> simp [*]
@[simp] theorem Hw_noteProgram_lasting (h : Hw) (d : Nat) (off : Nat) : (Hw.noteProgram h d off).lasting = h.lasting := by
  simp only [Hw.noteProgram]
  (repeat' split) <;> simp [*]
@[simp] theorem credential_lasting (o : Origin) (bs : List Byte) (h : Hw) : (credential o bs h).2.lasting = h.lasting := by
  simp only [credential]
  (repeat' split) <;> simp [*]
@[simp] theorem amendPlace_lasting (h : Hw) : (amendPlace h).2.lasting = h.lasting := by
  simp [amendPlace]
@[simp] theorem amendPermitted_lasting (o : Origin) (bs : List Byte) (h : Hw) : (amendPermitted o bs h).2.lasting = h.lasting := by
  simp only [amendPermitted]
  (repeat' split) <;> simp [*]
@[simp] theorem amendCheck_lasting (o : Origin) (bs : List Byte) (h : Hw) : (amendCheck o bs h).2.lasting = h.lasting := by
  simp only [amendCheck]
  (repeat' split) <;> simp [*]
@[simp] theorem Hw_rewritten_lasting (h : Hw) (d : Nat) (off : Nat) : (Hw.rewritten h d off).lasting = h.lasting := by
  simp only [Hw.rewritten]
  (repeat' split) <;> simp [*]
@[simp] theorem Hw_entryChanged_lasting (h : Hw) (d : Nat) (e : Nat) (was : Bool) : (Hw.entryChanged h d e was).lasting = h.lasting := by
  simp [Hw.entryChanged]
@[simp] theorem Hw_amendStore_lasting (h : Hw) (d : Nat) (off : Nat) (w : Nat) : (Hw.amendStore h d off w).lasting = h.lasting := by
  simp [Hw.amendStore]
@[simp] theorem portCommand_lasting (d : Nat) (p : Nat) (cmd : Nat) (h : Hw) : (portCommand d p cmd h).lasting = h.lasting := by
  unfold portCommand
  (repeat' split) <;> simp [*]
@[simp] theorem Hw_amendResult_lasting (h : Hw) (o : Origin) (bs : List Byte) (code : Nat) (lseq : Nat)
    : (Hw.amendResult h o bs code lseq).lasting = h.lasting := by
  simp [Hw.amendResult]
@[simp] theorem Hw_answer_lasting (h : Hw) (d : Nat) (r : Req) (msg : Nat) (code : Nat) (data : List Byte)
    : (Hw.answer h d r msg code data).lasting = h.lasting := by
  simp [Hw.answer]
@[simp] theorem Hw_hostEnd_lasting (h : Hw) (d : Nat) (tag : Nat) (reqid : Nat) (status : Nat) (data : List Byte)
    : (Hw.hostEnd h d tag reqid status data).lasting = h.lasting := by
  simp [Hw.hostEnd]
@[simp] theorem Hw_hostFail_lasting (h : Hw) (d : Nat) (tag : Nat) (reqid : Nat) (code : Nat)
    : (Hw.hostFail h d tag reqid code).lasting = h.lasting := by
  simp [Hw.hostFail]
@[simp] theorem Hw_hostFill_lasting (h : Hw) (d : Nat) (r : HostRead) (tag : Nat) (addr : Nat) (code : Nat) (data : List Byte)
    : (Hw.hostFill h d r tag addr code data).lasting = h.lasting := by
  simp [Hw.hostFill]
@[simp] theorem Hw_hostComplete_lasting (h : Hw) (d : Nat) (tag : Nat) (addr : Nat) (code : Nat) (data : List Byte)
    : (Hw.hostComplete h d tag addr code data).lasting = h.lasting := by
  simp only [Hw.hostComplete]
  (repeat' split) <;> simp [*]
@[simp] theorem Hw_busComplete_lasting (h : Hw) (d : Nat) (tag : Nat) (code : Nat) (data : List Byte)
    : (Hw.busComplete h d tag code data).lasting = h.lasting := by
  simp only [Hw.busComplete]
  (repeat' split) <;> simp [*]
@[simp] theorem Hw_lockIsBusy_lasting (h : Hw) (d : Nat) (tag : Nat) : (Hw.lockIsBusy h d tag).lasting = h.lasting := by
  simp [Hw.lockIsBusy]
@[simp] theorem Hw_postedError_lasting (h : Hw) (d : Nat) (node : Nat) (r : Req) (c : Nat) : (Hw.postedError h d node r c).lasting = h.lasting := by
  simp [Hw.postedError]
@[simp] theorem finish_lasting (d : Nat) (r : Req) (code : Nat) (data : List Byte) (h : Hw) : (finish d r code data h).lasting = h.lasting := by
  simp only [finish]
  (repeat' split) <;> simp [*]
@[simp] theorem Hw_refuseLock_lasting (h : Hw) (d : Nat) (r : Req) : (Hw.refuseLock h d r).lasting = h.lasting := by
  simp [Hw.refuseLock]
@[simp] theorem Hw_setEng_lasting (h : Hw) (d : Nat) (e : Eng) : (Hw.setEng h d e).lasting = h.lasting := by
  simp [Hw.setEng]
@[simp] theorem Hw_dropLock_lasting (h : Hw) (l : UnitLock) : (Hw.dropLock h l).lasting = h.lasting := by
  simp [Hw.dropLock]
@[simp] theorem perform_lasting (d : Nat) (r : Req) (u : Upset) (x : Hw × SMap Byte) : (perform d r u x).1.lasting = x.1.lasting := by
  simp only [perform]
  (repeat' split) <;> simp [*]
@[simp] theorem Hw_resolveLock_lasting (h : Hw) (d : Nat) (e : Nat) (r : Req) : (Hw.resolveLock h d e r).lasting = h.lasting := by
  simp [Hw.resolveLock]
@[simp] theorem submitBus_lasting (d : Nat) (r : Req) (h : Hw) : (submitBus d r h).lasting = h.lasting := by
  simp [submitBus]
@[simp] theorem Hw_park_lasting (h : Hw) (d : Nat) (r : Req) : (Hw.park h d r).lasting = h.lasting := by
  simp [Hw.park]
@[simp] theorem submitPlain_lasting (d : Nat) (r : Req) (u : Upset) (x : Hw × SMap Byte) : (submitPlain d r u x).1.lasting = x.1.lasting := by
  simp only [submitPlain]
  (repeat' split) <;> simp [*]
@[simp] theorem retryParked_lasting (x : Hw × SMap Byte) : (retryParked x).1.lasting = x.1.lasting := by
  unfold retryParked
  refine iter_lasting1 _ _ _ fun d y => ?_
  split <;> simp
@[simp] theorem submit_lasting (d : Nat) (r : Req) (u : Upset) (x : Hw × SMap Byte) : (submit d r u x).1.lasting = x.1.lasting := by
  simp only [submit]
  (repeat' split) <;> simp [*]
@[simp] theorem Hw_settleBus_lasting (h : Hw) (e : Nat) : (Hw.settleBus h e).lasting = h.lasting := by
  simp [Hw.settleBus]
@[simp] theorem unlock_lasting (r : Req) (x : Hw × SMap Byte) : (unlock r x).1.lasting = x.1.lasting := by
  simp only [unlock]
  (repeat' split) <;> simp [*]
@[simp] theorem takeCellOf_lasting (d : Nat) (q : Nat) (u : Upset) (msgs : List Nat) (f : Req → Hw × SMap Byte →
    Hw × SMap Byte) (x : Hw × SMap Byte) (hf : ∀ y0 y1, (f y0 y1).1.lasting = y1.1.lasting) : (takeCellOf d q u msgs f x).1.lasting = x.1.lasting := by
  simp only [takeCellOf]
  (repeat' split) <;> simp [*]
@[simp] theorem takeRequest_lasting (d : Nat) (u : Upset) (r : Req) (x : Hw × SMap Byte) : (takeRequest d u r x).1.lasting = x.1.lasting := by
  simp only [takeRequest]
  (repeat' split) <;> simp [*]
@[simp] theorem takeCompletion_lasting (d : Nat) (code : Nat) (r : Req) (h : Hw) : (takeCompletion d code r h).lasting = h.lasting := by
  simp [takeCompletion]
@[simp] theorem takeAnswer_lasting (d : Nat) (q : Nat) (u : Upset) (msgs : List Nat) (f : Nat → Req → Hw →
    Hw) (h : Hw) (hf : ∀ y0 y1 y2, (f y0 y1 y2).lasting = y2.lasting) : (takeAnswer d q u msgs f h).lasting = h.lasting := by
  simp only [takeAnswer]
  (repeat' split) <;> simp [*]
@[simp] theorem takeError_lasting (d : Nat) (ftime : Nat) (code : Nat) (r : Req) (h : Hw) : (takeError d ftime code r h).lasting = h.lasting := by
  simp only [takeError]
  (repeat' split) <;> simp [*]
@[simp] theorem badAccessCell_lasting (d : Nat) (q : Nat) (u : Upset) (h : Hw) : (badAccessCell d q u h).lasting = h.lasting := by
  simp only [badAccessCell]
  (repeat' split) <;> simp [*]
@[simp] theorem rowRead_lasting (d : Nat) (space : Nat) (off : Nat) (len : Nat) (o : Origin) (u : Upset) (x : Hw × SMap Byte)
    : (rowRead d space off len o u x).1.lasting = x.1.lasting := by
  simp [rowRead]
@[simp] theorem rowWrite_lasting (d : Nat) (space : Nat) (off : Nat) (bs : List Byte) (o : Origin) (posted : Bool) (u : Upset) (x : Hw × SMap Byte)
    : (rowWrite d space off bs o posted u x).1.lasting = x.1.lasting := by
  simp [rowWrite]
@[simp] theorem Hw_sendAccess_lasting (h : Hw) (d : Nat) (o : Origin) (msg : Nat) (tag : Nat) (addr : Nat) (reqid : Nat) (posted : Bool)
    (second : Bool) (len : Nat) (data : List Byte) : (Hw.sendAccess h d o msg tag addr reqid posted second len data).lasting = h.lasting := by
  simp [Hw.sendAccess]
@[simp] theorem Hw_journalHost_lasting (h : Hw) (d : Nat) (kind : Nat) (tag : Nat) (addr : Nat) (reqid : Nat) (len : Nat) (data : List Byte)
    : (Hw.journalHost h d kind tag addr reqid len data).lasting = h.lasting := by
  simp [Hw.journalHost]
@[simp] theorem readPiece_lasting (d : Nat) (tag : Nat) (reqid : Nat) (u : Upset) (t : Nat) (a : Nat) (n : Nat) (x : Hw × SMap Byte)
    : (readPiece d tag reqid u t a n x).1.lasting = x.1.lasting := by
  simp only [readPiece]
  (repeat' split) <;> simp [*]
@[simp] theorem issueRead_lasting (d : Nat) (tag : Nat) (reqid : Nat) (u : Upset) (p : Nat × Option Nat × Nat) (x : Hw × SMap Byte)
    : (issueRead d tag reqid u p x).1.lasting = x.1.lasting := by
  simp only [issueRead]
  (repeat' split) <;> simp [*]
@[simp] theorem hostRead_lasting (d : Nat) (bar : Bar) (off : Nat) (len : Nat) (tag : Nat) (reqid : Nat) (u : Upset) (x : Hw × SMap Byte)
    : (hostRead d bar off len tag reqid u x).1.lasting = x.1.lasting := by
  simp only [hostRead]
  (repeat' split) <;> simp [*]
@[simp] theorem writeHere_lasting (d : Nat) (o : Origin) (msg : Nat) (tag : Nat) (a : Nat) (reqid : Nat) (posted : Bool) (bs : List Byte)
    (u : Upset) (x : Hw × SMap Byte) : (writeHere d o msg tag a reqid posted bs u x).1.lasting = x.1.lasting := by
  simp [writeHere]
@[simp] theorem Hw_sendWrite_lasting (h : Hw) (d : Nat) (o : Origin) (tag : Nat) (a : Nat) (reqid : Nat) (posted : Bool) (bs : List Byte)
    : (Hw.sendWrite h d o tag a reqid posted bs).lasting = h.lasting := by
  simp [Hw.sendWrite]
@[simp] theorem writePiece_lasting (d : Nat) (reqid : Nat) (u : Upset) (a : Nat) (bs : List Byte) (x : Hw × SMap Byte)
    : (writePiece d reqid u a bs x).1.lasting = x.1.lasting := by
  simp only [writePiece]
  (repeat' split) <;> simp [*]
@[simp] theorem issueWrite_lasting (d : Nat) (bar : Bar) (reqid : Nat) (u : Upset) (off : Nat) (bs : List Byte) (x : Hw × SMap Byte)
    : (issueWrite d bar reqid u off bs x).1.lasting = x.1.lasting := by
  simp only [issueWrite]
  (repeat' split) <;> simp [*]
@[simp] theorem hostWrite_lasting (d : Nat) (bar : Bar) (off : Nat) (bs : List Byte) (reqid : Nat) (u : Upset) (x : Hw × SMap Byte)
    : (hostWrite d bar off bs reqid u x).1.lasting = x.1.lasting := by
  simp only [hostWrite]
  (repeat' split) <;> simp [*]
@[simp] theorem configAccess_lasting (d : Nat) (write : Bool) (off : Nat) (value : Nat) (be : Nat) (tag : Nat) (h : Hw)
    : (configAccess d write off value be tag h).lasting = h.lasting := by
  simp [configAccess]
@[simp] theorem unsupported_lasting (d : Nat) (tag : Nat) (h : Hw) : (unsupported d tag h).lasting = h.lasting := by
  simp [unsupported]
@[simp] theorem Hw_hostLost_lasting (h : Hw) (d : Nat) : (Hw.hostLost h d).lasting = h.lasting := by
  simp [Hw.hostLost]
@[simp] theorem Hw_clearFunction_lasting (h : Hw) (d : Nat) : (Hw.clearFunction h d).lasting = h.lasting := by
  simp [Hw.clearFunction]
@[simp] theorem functionReset_lasting (d : Nat) (h : Hw) : (functionReset d h).lasting = h.lasting := by
  simp [functionReset]
@[simp] theorem hostLinkDown_lasting (d : Nat) (perst : Bool) (h : Hw) : (hostLinkDown d perst h).lasting = h.lasting := by
  simp [hostLinkDown]
@[simp] theorem hostLinkUp_lasting (d : Nat) (speed : Nat) (width : Nat) (h : Hw) : (hostLinkUp d speed width h).lasting = h.lasting := by
  simp [hostLinkUp]
@[simp] theorem hostReadTimeout_lasting (d : Nat) (tag : Nat) (completion : Bool) (h : Hw)
    : (hostReadTimeout d tag completion h).lasting = h.lasting := by
  simp only [hostReadTimeout]
  (repeat' split) <;> simp [*]
@[simp] theorem busSend_lasting (d : Nat) (msg : Nat) (tag : Nat) (a : Nat) (am : Nat) (posted : Bool) (len : Nat) (bs : List Byte) (u : Upset)
    (x : Hw × SMap Byte) : (busSend d msg tag a am posted len bs u x).1.lasting = x.1.lasting := by
  simp only [busSend]
  (repeat' split) <;> simp [*]
@[simp] theorem Hw_takeTag_lasting (h : Hw) (d : Nat) : (Hw.takeTag h d).2.lasting = h.lasting := by
  simp [Hw.takeTag]
@[simp] theorem Hw_busAnswer_lasting (h : Hw) (d : Nat) (a : BpAnswer) : (Hw.busAnswer h d a).lasting = h.lasting := by
  simp [Hw.busAnswer]
@[simp] theorem holdCycle_lasting (d : Nat) (kind : Nat) (msg : Nat) (addr : Nat) (am : Nat) (width : Nat) (a : Nat) (bs : List Byte) (u : Upset)
    (x : Hw × SMap Byte) : (holdCycle d kind msg addr am width a bs u x).1.lasting = x.1.lasting := by
  simp [holdCycle]
@[simp] theorem slotCycle_lasting (d : Nat) (msg : Nat) (addr : Nat) (am : Nat) (width : Nat) (a : Nat) (bs : List Byte) (u : Upset)
    (x : Hw × SMap Byte) : (slotCycle d msg addr am width a bs u x).1.lasting = x.1.lasting := by
  simp only [slotCycle]
  (repeat' split) <;> simp [*]
@[simp] theorem lockCycle_lasting (d : Nat) (addr : Nat) (am : Nat) (width : Nat) (c : Claim) (u : Upset) (x : Hw × SMap Byte)
    : (lockCycle d addr am width c u x).1.lasting = x.1.lasting := by
  simp [lockCycle]
@[simp] theorem slaveRead_lasting (d : Nat) (addr : Nat) (am : Nat) (width : Nat) (u : Upset) (x : Hw × SMap Byte)
    : (slaveRead d addr am width u x).1.lasting = x.1.lasting := by
  simp only [slaveRead]
  (repeat' split) <;> simp [*]
@[simp] theorem slaveWrite_lasting (d : Nat) (addr : Nat) (am : Nat) (width : Nat) (bs : List Byte) (u : Upset) (x : Hw × SMap Byte)
    : (slaveWrite d addr am width bs u x).1.lasting = x.1.lasting := by
  simp only [slaveWrite]
  (repeat' split) <;> simp [*]
@[simp] theorem slaveLockWrite_lasting (d : Nat) (data : Nat) (x : Hw × SMap Byte) : (slaveLockWrite d data x).1.lasting = x.1.lasting := by
  simp only [slaveLockWrite]
  (repeat' split) <;> simp [*]
@[simp] theorem sendUnlock_lasting (d : Nat) (l : LockOut) (x : Hw × SMap Byte) : (sendUnlock d l x).1.lasting = x.1.lasting := by
  simp only [sendUnlock]
  (repeat' split) <;> simp [*]
@[simp] theorem asRelease_lasting (d : Nat) (x : Hw × SMap Byte) : (asRelease d x).1.lasting = x.1.lasting := by
  simp only [asRelease]
  (repeat' split) <;> simp [*]
@[simp] theorem lockResend_lasting (d : Nat) (x : Hw × SMap Byte) : (lockResend d x).1.lasting = x.1.lasting := by
  simp only [lockResend]
  (repeat' split) <;> simp [*]
@[simp] theorem holdmaxExpiry_lasting (d : Nat) (dataSame : Bool) (h : Hw) : (holdmaxExpiry d dataSame h).lasting = h.lasting := by
  simp only [holdmaxExpiry]
  (repeat' split) <;> simp [*]
@[simp] theorem slotTimeout_lasting (d : Nat) (i : Nat) (retrySame : Bool) (h : Hw) : (slotTimeout d i retrySame h).lasting = h.lasting := by
  simp [slotTimeout]
@[simp] theorem busGrant_lasting (e : Nat) (h : Hw) : (busGrant e h).lasting = h.lasting := by
  simp [busGrant]
@[simp] theorem Hw_logMaster_lasting (h : Hw) (e : Nat) (r : Req) (code : Nat) : (Hw.logMaster h e r code).lasting = h.lasting := by
  simp only [Hw.logMaster]
  (repeat' split) <;> simp [*]
@[simp] theorem Hw_endMaster_lasting (h : Hw) (e : Nat) (m : MasterReq) (code : Nat) (data : List Byte)
    : (Hw.endMaster h e m code data).lasting = h.lasting := by
  simp [Hw.endMaster]
@[simp] theorem cycleEnd_lasting (e : Nat) (berr : Bool) (data : Nat) (h : Hw) : (cycleEnd e berr data h).lasting = h.lasting := by
  simp only [cycleEnd]
  (repeat' split) <;> simp [*]
@[simp] theorem fetchTimeout_lasting (e : Nat) (h : Hw) : (fetchTimeout e h).lasting = h.lasting := by
  simp only [fetchTimeout]
  (repeat' split) <;> simp [*]
@[simp] theorem strobeAccess_lasting (e : Nat) (data : Nat) (h : Hw) : (strobeAccess e data h).lasting = h.lasting := by
  simp [strobeAccess]
@[simp] theorem busClear_lasting (e : Nat) (h : Hw) : (busClear e h).lasting = h.lasting := by
  simp [busClear]
@[simp] theorem lockTimeout_lasting (d : Nat) (unitNo : Option Nat) (x : Hw × SMap Byte) : (lockTimeout d unitNo x).1.lasting = x.1.lasting := by
  simp only [lockTimeout]
  (repeat' split) <;> simp [*]
@[simp] theorem interruptAcknowledge_lasting (d : Nat) (level : Nat) (h : Hw) : (interruptAcknowledge d level h).lasting = h.lasting := by
  simp [interruptAcknowledge]
@[simp] theorem backplaneSysreset_lasting (d : Nat) (low : Bool) (x : Hw × SMap Byte) : (backplaneSysreset d low x).1.lasting = x.1.lasting := by
  simp only [backplaneSysreset]
  (repeat' split) <;> simp [*]
@[simp] theorem pirScrub_lasting (d : Nat) (finds : Option Bool) (h : Hw) : (pirScrub d finds h).lasting = h.lasting := by
  simp only [pirScrub]
  (repeat' split) <;> simp [*]
@[simp] theorem replayFrame_lasting (d : Nat) (r : JrnRec) (h : Hw) : (replayFrame d r h).lasting = h.lasting := by
  simp only [replayFrame]
  (repeat' split) <;> simp [*]
@[simp] theorem asField_lasting (f : Hw × SMap Byte →
    Hw × SMap Byte) (x : Hw × SMap Byte) (hf : ∀ y0, (f y0).1.lasting = y0.1.lasting) : (asField f x).1.lasting = x.1.lasting := by
  simp [asField, *]
@[simp] theorem replayHost_lasting (d : Nat) (r : JrnRec) (x : Hw × SMap Byte) : (replayHost d r x).1.lasting = x.1.lasting := by
  simp only [replayHost]
  (repeat' split) <;> simp [*]
@[simp] theorem replayMgmt_lasting (d : Nat) (r : JrnRec) (x : Hw × SMap Byte) : (replayMgmt d r x).1.lasting = x.1.lasting := by
  simp only [replayMgmt]
  (repeat' split) <;> simp [*]
@[simp] theorem replayErr_lasting (d : Nat) (r : JrnRec) (h : Hw) : (replayErr d r h).lasting = h.lasting := by
  simp only [replayErr]
  (repeat' split) <;> simp [*]
@[simp] theorem replayPhase_lasting (d : Nat) (r : JrnRec) (h : Hw) : (replayPhase d r h).lasting = h.lasting := by
  simp [replayPhase]
@[simp] theorem replayWell_lasting (d : Nat) (r : JrnRec) (h : Hw) : (replayWell d r h).lasting = h.lasting := by
  simp [replayWell]
@[simp] theorem replayMark_lasting (d : Nat) (r : JrnRec) (h : Hw) : (replayMark d r h).lasting = h.lasting := by
  simp [replayMark]
@[simp] theorem Hw_domainCycle_lasting (h : Hw) : (Hw.domainCycle h).lasting = h.lasting := by
  simp [Hw.domainCycle]
end Sys2Proof.Machine
end

