-- ==== Sys2Proof/Laws/Memory.lean ====
section
/-!
SUPPORT. Every operation on the Process Image RAM keeps its canonical form.
-/

namespace Sys2Proof.Machine

@[simp] theorem Memory.wf_put (m : SMap Byte) (k : Nat) (v : Byte) (w : Memory.wf m = true) : Memory.wf (m.put 0 k v) = true := SMap.wf_put k v w
@[simp] theorem pirWrite_wf (m : SMap Byte) (d o : Nat) (bs : List Byte) (w : Memory.wf m = true) : Memory.wf (pirWrite m d o bs) = true := by
  unfold pirWrite
  exact iter_keeps (fun m : SMap Byte => Memory.wf m = true) _ _ (fun _ _ e => Memory.wf_put _ _ _ e) _ w
theorem ite_wf {μ : Type} {c : Prop} [Decidable c] {a b : μ × SMap Byte} (ha : Memory.wf a.2 = true) (hb : Memory.wf b.2 = true) : Memory.wf (if c then a else b).2 = true := by
  split
  · exact ha
  · exact hb
theorem pair_wf {μ : Type} (a : μ) {m : SMap Byte} (w : Memory.wf m = true) : Memory.wf (a, m).2 = true := w
theorem snd_wf {α : Type} {p : α × SMap Byte} {a : α} {b : SMap Byte} (e : p = (a, b)) : b = p.2 := by rw [e]
@[simp] theorem each_wf {γ μ : Type} (l : List γ) (f : γ → μ × SMap Byte → μ × SMap Byte) (x : μ × SMap Byte) (hf : ∀ c a, Memory.wf a.2 = true → Memory.wf (f c a).2 = true) (w : Memory.wf x.2 = true) : Memory.wf (each l f x).2 = true :=
  each_keeps (fun a => Memory.wf a.2 = true) l f hf x w
@[simp] theorem iter_wf {μ : Type} (n : Nat) (f : Nat → μ × SMap Byte → μ × SMap Byte) (x : μ × SMap Byte) (hf : ∀ c a, Memory.wf a.2 = true → Memory.wf (f c a).2 = true) (w : Memory.wf x.2 = true) : Memory.wf (iter n f x).2 = true :=
  iter_keeps (fun a => Memory.wf a.2 = true) n f hf x w
@[simp] theorem iter_wf' (n : Nat) (f : Nat → SMap Byte → SMap Byte) (m : SMap Byte) (hf : ∀ c a, Memory.wf a = true → Memory.wf (f c a) = true) (w : Memory.wf m = true) : Memory.wf (iter n f m) = true :=
  iter_keeps (fun a => Memory.wf a = true) n f hf m w
@[simp] theorem storePir_wf (d : Nat) (o : Nat) (bs : List Byte) (x : Hw × SMap Byte) (w : Memory.wf x.2 = true) : Memory.wf (storePir d o bs x).2 = true := by
  unfold storePir
  split
  extract_lets h pir
  split
  · exact pirWrite_wf _ _ _ _ w
  · refine iter_wf' _ _ _ (fun k m e => ?_) (pirWrite_wf _ _ _ _ w)
    split
    · exact Memory.wf_put _ _ _ e
    · exact e
@[simp] theorem trackerUpdate_wf (d : Nat) (t : Nat) (parityBad : Bool) (x : Hw × SMap Byte) (w : Memory.wf x.2 = true) : Memory.wf (trackerUpdate d t parityBad x).2 = true := by
  simp only [trackerUpdate]
  (repeat' split) <;> simp [*]
@[simp] theorem storeUnit_wf (d : Nat) (u : Nat × List Byte) (x : Hw × SMap Byte) (w : Memory.wf x.2 = true) : Memory.wf (storeUnit d u x).2 = true := by
  simp +contextual [storeUnit, *]
@[simp] theorem endCopies_wf (d : Nat) (cycle : Nat) (x : Hw × SMap Byte) (w : Memory.wf x.2 = true) : Memory.wf (endCopies d cycle x).2 = true := by
  simp only [endCopies]
  (repeat' split) <;> simp [*]
@[simp] theorem storeUnits_wf (d : Nat) (cycle : Nat) (us : List (Nat × List Byte)) (x : Hw × SMap Byte) (w : Memory.wf x.2 = true) : Memory.wf (storeUnits d cycle us x).2 = true := by
  have e1 : Memory.wf (if (x.1.train d).beginWritten = true then x else storePir d 0 (leBytes 8 cycle) x).2 = true := by
    split
    · exact w
    · exact storePir_wf _ _ _ _ w
  unfold storeUnits
  extract_lets
  split
  · exact endCopies_wf _ _ _ (each_wf us _ _ (storeUnit_wf d) e1)
  · exact each_wf us _ _ (storeUnit_wf d) e1
@[simp] theorem commitSegment_wf (d : Nat) (k : Nat) (cycle : Nat) (ring : Nat) (data : List Byte) (x : Hw × SMap Byte) (w : Memory.wf x.2 = true) : Memory.wf (commitSegment d k cycle ring data x).2.2 = true := by
  unfold commitSegment
  extract_lets t h us
  split
  · exact w
  split
  · exact w
  · exact storeUnits_wf _ _ _ _ w
@[simp] theorem closeTrain_wf (d : Nat) (x : Hw × SMap Byte) (w : Memory.wf x.2 = true) : Memory.wf (closeTrain d x).2 = true := by
  simp only [closeTrain]
  (repeat' split) <;> simp [*]
@[simp] theorem acceptOn_wf (d : Nat) (e : Nat) (p : Nat) (g : Passage) (hd : TrainHdr) (data : List Byte) (x : Hw × SMap Byte) (w : Memory.wf x.2 = true) : Memory.wf (acceptOn d e p g hd data x).2 = true := by
  simp only [acceptOn]
  (repeat' split) <;> simp [*]
@[simp] theorem acceptTrain_wf (d : Nat) (p : Nat) (g : Passage) (hd : TrainHdr) (data : List Byte) (x : Hw × SMap Byte) (w : Memory.wf x.2 = true) : Memory.wf (acceptTrain d p g hd data x).2 = true := by
  simp only [acceptTrain]
  (repeat' split) <;> simp [*]
@[simp] theorem headerSegment_wf (d : Nat) (p : Nat) (g : Passage) (bytes : List Byte) (good : Bool) (x : Hw × SMap Byte) (w : Memory.wf x.2 = true) : Memory.wf (headerSegment d p g bytes good x).2 = true := by
  unfold headerSegment
  extract_lets
  split
  · exact w
  split
  · exact w
  split
  · exact w
  split
  · exact acceptTrain_wf _ _ _ _ _ _ w
  · exact w
@[simp] theorem commitBoth_wf (d : Nat) (k : Nat) (hd : TrainHdr) (ring : Nat) (data : List Byte) (x : Hw × SMap Byte) (w : Memory.wf x.2 = true) : Memory.wf (commitBoth d k hd ring data x).2.2 = true := by
  simp only [commitBoth]
  (repeat' split) <;> simp [*]
@[simp] theorem bucketSegment_wf (d : Nat) (p : Nat) (g : Passage) (bytes : List Byte) (good : Bool) (x : Hw × SMap Byte) (w : Memory.wf x.2 = true) : Memory.wf (bucketSegment d p g bytes good x).2 = true := by
  simp only [bucketSegment]
  (repeat' split) <;> simp [*]
@[simp] theorem trainSegment_wf (d : Nat) (p : Nat) (bytes : List Byte) (tamper : Bool) (x : Hw × SMap Byte) (w : Memory.wf x.2 = true) : Memory.wf (trainSegment d p bytes tamper x).2 = true := by
  simp only [trainSegment]
  generalize e : (if tamper = true ∧ x.1.node.state = .dawn then (x.1.dawnFail 0x0F 0, x.2) else x) = y
  have e1 : Memory.wf y.2 = true := by
    rw [← e]
    exact ite_wf w w
  split
  · exact e1
  · split
    · exact headerSegment_wf _ _ _ _ _ _ e1
    · exact bucketSegment_wf _ _ _ _ _ _ e1
@[simp] theorem beginCheckpoint_wf (d : Nat) (x : Hw × SMap Byte) (w : Memory.wf x.2 = true) : Memory.wf (beginCheckpoint d x).2 = true := by
  simp only [beginCheckpoint]
  (repeat' split) <;> simp [*]
@[simp] theorem checkpointBegin_wf (x : Hw × SMap Byte) (w : Memory.wf x.2 = true) : Memory.wf (checkpointBegin x).2 = true := by
  simp only [checkpointBegin]
  (repeat' split) <;> simp +contextual [*]
@[simp] theorem loadCkpt_wf (d : Nat) (r : JrnRec) (x : Hw × SMap Byte) (w : Memory.wf x.2 = true) : Memory.wf (loadCkpt d r x).2 = true := by
  simp only [loadCkpt]
  (repeat' split) <;> simp [*]
@[simp] theorem loadRecords_wf (d : Nat) (first : Nat) (rs : List JrnRec) (x : Hw × SMap Byte) (w : Memory.wf x.2 = true) : Memory.wf (loadRecords d first rs x).2 = true := by
  simp +contextual [loadRecords, *]
@[simp] theorem loadFound_wf (d : Nat) (o : Option (List JrnRec)) (x : Hw × SMap Byte) (w : Memory.wf x.2 = true) : Memory.wf (loadFound d o x).2 = true := by
  simp only [loadFound]
  (repeat' split) <;> simp [*]
@[simp] theorem loadDie_wf (d : Nat) (x : Hw × SMap Byte) (w : Memory.wf x.2 = true) : Memory.wf (loadDie d x).2 = true := by
  exact loadFound_wf _ _ _ w
@[simp] theorem replayLoad_wf (d : Nat) (x : Hw × SMap Byte) (w : Memory.wf x.2 = true) : Memory.wf (replayLoad d x).2 = true := by
  have e : Memory.wf (each (x.1.rctlDies d) loadDie (x.1.rctl d 1, x.2)).2 = true :=
    each_wf (x.1.rctlDies d) loadDie (x.1.rctl d 1, x.2) loadDie_wf (pair_wf _ w)
  unfold replayLoad
  exact ite_wf e w
@[simp] theorem replayControl_wf (d : Nat) (o : Origin) (v : Nat) (x : Hw × SMap Byte) (w : Memory.wf x.2 = true) : Memory.wf (replayControl d o v x).2 = true := by
  unfold replayControl
  split
  · extract_lets h
    split
    · exact w
    · exact replayLoad_wf _ _ w
    · exact w
    · exact w
    · exact w
  · exact w
@[simp] theorem writeOpr_wf (d : Nat) (off : Nat) (v : Nat) (o : Origin) (x : Hw × SMap Byte) (w : Memory.wf x.2 = true) : Memory.wf (writeOpr d off v o x).2 = true := by
  unfold writeOpr
  extract_lets h one
  refine ite_wf w ?_
  refine ite_wf w ?_
  refine ite_wf w ?_
  refine ite_wf w ?_
  refine ite_wf w ?_
  refine ite_wf w ?_
  refine ite_wf w ?_
  refine ite_wf w ?_
  refine ite_wf w ?_
  refine ite_wf w ?_
  refine ite_wf (replayControl_wf _ _ _ _ w) ?_
  refine ite_wf w ?_
  refine ite_wf w ?_
  refine ite_wf w ?_
  refine ite_wf w ?_
  refine ite_wf w ?_
  exact w
@[simp] theorem writeReg_wf (d : Nat) (off : Nat) (v : Nat) (o : Origin) (x : Hw × SMap Byte) (w : Memory.wf x.2 = true) : Memory.wf (writeReg d off v o x).2.2 = true := by
  unfold writeReg
  split
  · exact w
  extract_lets deny y
  have e : Memory.wf y.2 = true := writeOpr_wf _ _ _ _ _ w
  split
  · exact e
  · exact e
@[simp] theorem performRead_wf (entry : Nat) (d : Nat) (space : Nat) (off : Nat) (len : Nat) (o : Origin) (u : Upset) (x : Hw × SMap Byte) (w : Memory.wf x.2 = true) : Memory.wf (performRead entry d space off len o u x).2.2 = true := by
  simp only [performRead]
  (repeat' split) <;> simp [*]
@[simp] theorem writeSpace_wf (d : Nat) (space : Nat) (off : Nat) (bs : List Byte) (o : Origin) (u : Upset) (x : Hw × SMap Byte) (w : Memory.wf x.2 = true) : Memory.wf (writeSpace d space off bs o u x).2.2 = true := by
  unfold writeSpace
  extract_lets h
  split
  · exact writeReg_wf _ _ _ _ _ w
  · exact storePir_wf _ _ _ _ w
  all_goals exact w
@[simp] theorem performWrite_wf (entry : Nat) (d : Nat) (space : Nat) (off : Nat) (bs : List Byte) (o : Origin) (u : Upset) (x : Hw × SMap Byte) (w : Memory.wf x.2 = true) : Memory.wf (performWrite entry d space off bs o u x).2.2 = true := by
  simp only [performWrite]
  (repeat' split) <;> simp [*]
@[simp] theorem perform_wf (d : Nat) (r : Req) (u : Upset) (x : Hw × SMap Byte) (w : Memory.wf x.2 = true) : Memory.wf (perform d r u x).2 = true := by
  simp only [perform]
  (repeat' split) <;> simp [*]
@[simp] theorem submitPlain_wf (d : Nat) (r : Req) (u : Upset) (x : Hw × SMap Byte) (w : Memory.wf x.2 = true) : Memory.wf (submitPlain d r u x).2 = true := by
  simp only [submitPlain]
  (repeat' split) <;> simp [*]
@[simp] theorem retryParked_wf (x : Hw × SMap Byte) (w : Memory.wf x.2 = true) : Memory.wf (retryParked x).2 = true := by
  unfold retryParked
  refine iter_wf _ _ _ (fun _ _ e => ?_) w
  split
  · exact e
  · exact each_wf _ _ _ (fun _ _ e => submitPlain_wf _ _ _ _ e) e
@[simp] theorem submit_wf (d : Nat) (r : Req) (u : Upset) (x : Hw × SMap Byte) (w : Memory.wf x.2 = true) : Memory.wf (submit d r u x).2 = true := by
  simp only [submit]
  (repeat' split) <;> simp [*]
@[simp] theorem unlock_wf (r : Req) (x : Hw × SMap Byte) (w : Memory.wf x.2 = true) : Memory.wf (unlock r x).2 = true := by
  simp only [unlock]
  (repeat' split) <;> simp [*]
@[simp] theorem takeCellOf_wf (d : Nat) (q : Nat) (u : Upset) (msgs : List Nat) (f : Req → Hw × SMap Byte → Hw × SMap Byte) (x : Hw × SMap Byte) (hf : ∀ y0 y1, Memory.wf y1.2 = true → Memory.wf (f y0 y1).2 = true) (w : Memory.wf x.2 = true) : Memory.wf (takeCellOf d q u msgs f x).2 = true := by
  simp only [takeCellOf]
  (repeat' split) <;> simp [*]
@[simp] theorem takeRequest_wf (d : Nat) (u : Upset) (r : Req) (x : Hw × SMap Byte) (w : Memory.wf x.2 = true) : Memory.wf (takeRequest d u r x).2 = true := by
  simp only [takeRequest]
  (repeat' split) <;> simp [*]
@[simp] theorem rowRead_wf (d : Nat) (space : Nat) (off : Nat) (len : Nat) (o : Origin) (u : Upset) (x : Hw × SMap Byte) (w : Memory.wf x.2 = true) : Memory.wf (rowRead d space off len o u x).2 = true := by
  simp [rowRead, w]
@[simp] theorem rowWrite_wf (d : Nat) (space : Nat) (off : Nat) (bs : List Byte) (o : Origin) (posted : Bool) (u : Upset) (x : Hw × SMap Byte) (w : Memory.wf x.2 = true) : Memory.wf (rowWrite d space off bs o posted u x).2 = true := by
  simp [rowWrite, w]
@[simp] theorem readPiece_wf (d : Nat) (tag : Nat) (reqid : Nat) (u : Upset) (t : Nat) (a : Nat) (n : Nat) (x : Hw × SMap Byte) (w : Memory.wf x.2 = true) : Memory.wf (readPiece d tag reqid u t a n x).2 = true := by
  simp only [readPiece]
  (repeat' split) <;> simp [*]
@[simp] theorem issueRead_wf (d : Nat) (tag : Nat) (reqid : Nat) (u : Upset) (p : Nat × Option Nat × Nat) (x : Hw × SMap Byte) (w : Memory.wf x.2 = true) : Memory.wf (issueRead d tag reqid u p x).2 = true := by
  simp only [issueRead]
  (repeat' split) <;> simp [*]
@[simp] theorem hostRead_wf (d : Nat) (bar : Bar) (off : Nat) (len : Nat) (tag : Nat) (reqid : Nat) (u : Upset) (x : Hw × SMap Byte) (w : Memory.wf x.2 = true) : Memory.wf (hostRead d bar off len tag reqid u x).2 = true := by
  simp only [hostRead]
  (repeat' split) <;> simp +contextual [*]
@[simp] theorem writeHere_wf (d : Nat) (o : Origin) (msg : Nat) (tag : Nat) (a : Nat) (reqid : Nat) (posted : Bool) (bs : List Byte) (u : Upset) (x : Hw × SMap Byte) (w : Memory.wf x.2 = true) : Memory.wf (writeHere d o msg tag a reqid posted bs u x).2 = true := by
  simp [writeHere, w]
@[simp] theorem writePiece_wf (d : Nat) (reqid : Nat) (u : Upset) (a : Nat) (bs : List Byte) (x : Hw × SMap Byte) (w : Memory.wf x.2 = true) : Memory.wf (writePiece d reqid u a bs x).2 = true := by
  simp only [writePiece]
  (repeat' split) <;> simp [*]
@[simp] theorem issueWrite_wf (d : Nat) (bar : Bar) (reqid : Nat) (u : Upset) (off : Nat) (bs : List Byte) (x : Hw × SMap Byte) (w : Memory.wf x.2 = true) : Memory.wf (issueWrite d bar reqid u off bs x).2 = true := by
  simp only [issueWrite]
  (repeat' split) <;> simp [*]
@[simp] theorem hostWrite_wf (d : Nat) (bar : Bar) (off : Nat) (bs : List Byte) (reqid : Nat) (u : Upset) (x : Hw × SMap Byte) (w : Memory.wf x.2 = true) : Memory.wf (hostWrite d bar off bs reqid u x).2 = true := by
  simp only [hostWrite]
  (repeat' split) <;> simp +contextual [*]
@[simp] theorem busSend_wf (d : Nat) (msg : Nat) (tag : Nat) (a : Nat) (am : Nat) (posted : Bool) (len : Nat) (bs : List Byte) (u : Upset) (x : Hw × SMap Byte) (w : Memory.wf x.2 = true) : Memory.wf (busSend d msg tag a am posted len bs u x).2 = true := by
  simp only [busSend]
  (repeat' split) <;> simp [*]
@[simp] theorem holdCycle_wf (d : Nat) (kind : Nat) (msg : Nat) (addr : Nat) (am : Nat) (width : Nat) (a : Nat) (bs : List Byte) (u : Upset) (x : Hw × SMap Byte) (w : Memory.wf x.2 = true) : Memory.wf (holdCycle d kind msg addr am width a bs u x).2 = true := by
  simp [holdCycle, w]
@[simp] theorem slotCycle_wf (d : Nat) (msg : Nat) (addr : Nat) (am : Nat) (width : Nat) (a : Nat) (bs : List Byte) (u : Upset) (x : Hw × SMap Byte) (w : Memory.wf x.2 = true) : Memory.wf (slotCycle d msg addr am width a bs u x).2 = true := by
  simp only [slotCycle]
  (repeat' split) <;> simp [*]
@[simp] theorem lockCycle_wf (d : Nat) (addr : Nat) (am : Nat) (width : Nat) (c : Claim) (u : Upset) (x : Hw × SMap Byte) (w : Memory.wf x.2 = true) : Memory.wf (lockCycle d addr am width c u x).2 = true := by
  simp [lockCycle, w]
@[simp] theorem slaveRead_wf (d : Nat) (addr : Nat) (am : Nat) (width : Nat) (u : Upset) (x : Hw × SMap Byte) (w : Memory.wf x.2 = true) : Memory.wf (slaveRead d addr am width u x).2 = true := by
  simp only [slaveRead]
  (repeat' split) <;> simp [*]
@[simp] theorem slaveWrite_wf (d : Nat) (addr : Nat) (am : Nat) (width : Nat) (bs : List Byte) (u : Upset) (x : Hw × SMap Byte) (w : Memory.wf x.2 = true) : Memory.wf (slaveWrite d addr am width bs u x).2 = true := by
  simp only [slaveWrite]
  (repeat' split) <;> simp [*]
@[simp] theorem slaveLockWrite_wf (d : Nat) (data : Nat) (x : Hw × SMap Byte) (w : Memory.wf x.2 = true) : Memory.wf (slaveLockWrite d data x).2 = true := by
  simp only [slaveLockWrite]
  (repeat' split) <;> simp [*]
@[simp] theorem sendUnlock_wf (d : Nat) (l : LockOut) (x : Hw × SMap Byte) (w : Memory.wf x.2 = true) : Memory.wf (sendUnlock d l x).2 = true := by
  simp only [sendUnlock]
  (repeat' split) <;> simp [*]
@[simp] theorem asRelease_wf (d : Nat) (x : Hw × SMap Byte) (w : Memory.wf x.2 = true) : Memory.wf (asRelease d x).2 = true := by
  simp only [asRelease]
  (repeat' split) <;> simp [*]
@[simp] theorem lockResend_wf (d : Nat) (x : Hw × SMap Byte) (w : Memory.wf x.2 = true) : Memory.wf (lockResend d x).2 = true := by
  simp only [lockResend]
  (repeat' split) <;> simp [*]
@[simp] theorem lockTimeout_wf (d : Nat) (unitNo : Option Nat) (x : Hw × SMap Byte) (w : Memory.wf x.2 = true) : Memory.wf (lockTimeout d unitNo x).2 = true := by
  simp only [lockTimeout]
  (repeat' split) <;> simp [*]
@[simp] theorem backplaneSysreset_wf (d : Nat) (low : Bool) (x : Hw × SMap Byte) (w : Memory.wf x.2 = true) : Memory.wf (backplaneSysreset d low x).2 = true := by
  simp only [backplaneSysreset]
  (repeat' split) <;> simp [*]
@[simp] theorem replayTrain_wf (d : Nat) (r : JrnRec) (x : Hw × SMap Byte) (w : Memory.wf x.2 = true) : Memory.wf (replayTrain d r x).2 = true := by
  simp only [replayTrain]
  (repeat' split) <;> simp [*]
@[simp] theorem asField_wf (f : Hw × SMap Byte → Hw × SMap Byte) (x : Hw × SMap Byte) (hf : ∀ y0, Memory.wf y0.2 = true → Memory.wf (f y0).2 = true) (w : Memory.wf x.2 = true) : Memory.wf (asField f x).2 = true := by
  simp [asField, *]
@[simp] theorem replayHost_wf (d : Nat) (r : JrnRec) (x : Hw × SMap Byte) (w : Memory.wf x.2 = true) : Memory.wf (replayHost d r x).2 = true := by
  simp only [replayHost]
  (repeat' split) <;> simp [*]
@[simp] theorem replayMgmt_wf (d : Nat) (r : JrnRec) (x : Hw × SMap Byte) (w : Memory.wf x.2 = true) : Memory.wf (replayMgmt d r x).2 = true := by
  simp only [replayMgmt]
  (repeat' split) <;> simp [*]
@[simp] theorem replayRecord_wf (d : Nat) (r : JrnRec) (x : Hw × SMap Byte) (w : Memory.wf x.2 = true) : Memory.wf (replayRecord d r x).2 = true := by
  simp only [replayRecord]
  (repeat' split) <;> simp +contextual [*]
@[simp] theorem replayDue_wf (d : Nat) (n : Nat) (x : Hw × SMap Byte) (w : Memory.wf x.2 = true) : Memory.wf (replayDue d n x).2 = true := by
  induction n generalizing x with
  | zero => exact w
  | succ n ih =>
    unfold replayDue
    extract_lets h i r y
    split
    · exact ih _ (replayRecord_wf _ _ _ w)
    · exact w
@[simp] theorem replayCycle_wf (x : Hw × SMap Byte) (w : Memory.wf x.2 = true) : Memory.wf (replayCycle x).2 = true := by
  simp only [replayCycle]
  split <;> simp +contextual [*]
@[simp] theorem tick_wf (x : Hw × SMap Byte) (w : Memory.wf x.2 = true) : Memory.wf (tick x).2 = true := by
  simp only [tick]
  (repeat' split) <;> simp [*]
end Sys2Proof.Machine
end

