-- ==== Sys2Proof/Laws/Exec.lean ====
section
/-!
SUPPORT. What a lifted command answers: its function of the hardware, with the queue and, but where it says so, the Process
Image RAM as they were.
-/

namespace Sys2Proof.Machine

theorem State.on_awake {s : State} (f : Hw → Hw) (r : s.awake) : s.on f = .next { s with hw := f s.hw } := if_neg r

theorem State.on_night {s : State} (f : Hw → Hw) (r : s.hw.node.state = .night) : s.on f = .next s := if_pos r

theorem State.onDie_ready {s : State} {d : Die} (f : Hw → Hw) (r : s.ready d) : s.onDie d f = .next { s with hw := f s.hw } :=
  (if_pos r.1).trans (State.on_awake f r.2)

theorem State.onDie_absent {s : State} {d : Die} (f : Hw → Hw) (r : s.hw.dies ≤ d.val) : s.onDie d f = .next s :=
  if_neg (Nat.not_lt.mpr r)

theorem State.onMem_awake {s : State} (f : Hw × SMap Byte → Hw × SMap Byte) (r : s.awake) :
    s.onMem f = .next { s with hw := (f (s.hw, s.pir)).1, pir := (f (s.hw, s.pir)).2 } := if_neg r

theorem State.onDieMem_ready {s : State} {d : Die} (f : Hw × SMap Byte → Hw × SMap Byte) (r : s.ready d) :
    s.onDieMem d f = .next { s with hw := (f (s.hw, s.pir)).1, pir := (f (s.hw, s.pir)).2 } :=
  (if_pos r.1).trans (State.onMem_awake f r.2)

theorem State.onDieMem_absent {s : State} {d : Die} (f : Hw × SMap Byte → Hw × SMap Byte) (r : s.hw.dies ≤ d.val) :
    s.onDieMem d f = .next s := if_neg (Nat.not_lt.mpr r)

/-- A register write of a command with a row of its own, at a die of the package. -/
theorem State.onReg_ready {s : State} {d : Die} (o : Origin) (a : Nat) (f : Hw → Hw) (r : s.ready d) :
    s.onReg d o a f = .next { s with hw := f s.hw } :=
  (State.on_awake _ r.2).trans (by rw [if_pos r.1])

/-- A register write of a command with a row of its own, at a die that the package does not have. -/
theorem State.onReg_absent {s : State} {d : Die} (o : Origin) (a : Nat) (f : Hw → Hw) (l : s.hw.dies ≤ d.val) (r : s.awake) :
    s.onReg d o a f = .next { s with hw := s.hw.noSuchDie o a } :=
  (State.on_awake _ r).trans (by rw [if_neg (Nat.not_lt.mpr l)])

/-- What a command of one die can answer. -/
theorem State.onDie_cases {s t : State} {d : Die} {f : Hw → Hw} (e : s.onDie d f = .next t) :
    t = s ∨ d.val < s.hw.dies ∧ s.awake ∧ t = { s with hw := f s.hw } := by
  unfold State.onDie at e
  split at e
  · unfold State.on at e
    split at e
    · exact .inl (Host.Outcome.next.inj e).symm
    · exact .inr ⟨‹_›, ‹_›, (Host.Outcome.next.inj e).symm⟩
  · exact .inl (Host.Outcome.next.inj e).symm

/-- What a command of one die that reaches the Process Image RAM can answer. -/
theorem State.onDieMem_cases {s t : State} {d : Die} {f : Hw × SMap Byte → Hw × SMap Byte} (e : s.onDieMem d f = .next t) :
    t = s ∨ d.val < s.hw.dies ∧ s.awake ∧ t = { s with hw := (f (s.hw, s.pir)).1, pir := (f (s.hw, s.pir)).2 } := by
  unfold State.onDieMem at e
  split at e
  · unfold State.onMem at e
    split at e
    · exact .inl (Host.Outcome.next.inj e).symm
    · exact .inr ⟨‹_›, ‹_›, (Host.Outcome.next.inj e).symm⟩
  · exact .inl (Host.Outcome.next.inj e).symm

/-- A command of one die completes with what its function gives. -/
theorem complete_of {c : Instr} {s : State} {f : Hw → Hw} {die : Die} {P : State → Prop} (e : exec c s = s.onDie die f) (r : s.ready die)
    (p : P { s with hw := f s.hw }) : Completes c s P := ⟨_, e.trans (State.onDie_ready f r), p⟩

/-- A register write of a command with a row of its own completes with what its function gives. -/
theorem complete_of_reg {c : Instr} {s : State} {f : Hw → Hw} {die : Die} {o : Origin} {a : Nat} {P : State → Prop}
    (e : exec c s = s.onReg die o a f) (r : s.ready die) (p : P { s with hw := f s.hw }) : Completes c s P :=
  ⟨_, e.trans (State.onReg_ready o a f r), p⟩

/-- What a register write of a command with a row of its own gives. -/
theorem gives_of_reg {c : Instr} {s : State} {f : Hw → Hw} {die : Die} {o : Origin} {a : Nat} {g : Hw}
    (e : exec c s = s.onReg die o a f) (r : s.ready die) (p : f s.hw = g) : Gives c s g :=
  p ▸ e.trans (State.onReg_ready o a f r)

/-- A command of one die that reaches the Process Image RAM completes with what its function gives. -/
theorem complete_of_mem {c : Instr} {s : State} {f : Hw × SMap Byte → Hw × SMap Byte} {die : Die} {P : State → Prop}
    (e : exec c s = s.onDieMem die f) (r : s.ready die)
    (p : P { s with hw := (f (s.hw, s.pir)).1, pir := (f (s.hw, s.pir)).2 }) : Completes c s P :=
  ⟨_, e.trans (State.onDieMem_ready f r), p⟩

/-- A command of the package completes with what its function gives. -/
theorem complete_of_awake {c : Instr} {s : State} {f : Hw → Hw} {P : State → Prop} (e : exec c s = s.on f) (r : s.awake)
    (p : P { s with hw := f s.hw }) : Completes c s P := ⟨_, e.trans (State.on_awake f r), p⟩

/-- A command that acts in Night as well completes with what its function gives. -/
theorem complete_of_any {c : Instr} {s : State} {f : Hw → Hw} {P : State → Prop} (e : exec c s = s.onAny f)
    (p : P { s with hw := f s.hw }) : Completes c s P := ⟨_, e, p⟩

/-- What a command of one die gives. -/
theorem gives_of {c : Instr} {s : State} {f : Hw → Hw} {die : Die} {g : Hw} (e : exec c s = s.onDie die f) (r : s.ready die)
    (p : f s.hw = g) : Gives c s g := p ▸ e.trans (State.onDie_ready f r)

/-- What a command of the package gives. -/
theorem gives_of_awake {c : Instr} {s : State} {f : Hw → Hw} {g : Hw} (e : exec c s = s.on f) (r : s.awake)
    (p : f s.hw = g) : Gives c s g := p ▸ e.trans (State.on_awake f r)

/-- What a command that acts in Night as well gives. -/
theorem gives_of_any {c : Instr} {s : State} {f : Hw → Hw} {g : Hw} (e : exec c s = s.onAny f) (p : f s.hw = g) : Gives c s g :=
  p ▸ e

/-- What a command that gives `g` completes with. -/
theorem gives_complete {c : Instr} {s : State} {g : Hw} {P : State → Prop} (e : Gives c s g) (p : P { s with hw := g }) : Completes c s P := ⟨_, e, p⟩

/-- What a command of one die that reaches the Process Image RAM gives. -/
theorem gives_of_mem {c : Instr} {s : State} {f : Hw × SMap Byte → Hw × SMap Byte} {die : Die} {x : Hw × SMap Byte}
    (e : exec c s = s.onDieMem die f) (r : s.ready die) (p : f (s.hw, s.pir) = x) : GivesBoth c s x :=
  p ▸ e.trans (State.onDieMem_ready f r)

/-- What a command of one die that reaches the Process Image RAM gives where it leaves the memory alone. -/
theorem gives_of_mem_only {c : Instr} {s : State} {f : Hw × SMap Byte → Hw × SMap Byte} {die : Die} {g : Hw}
    (e : exec c s = s.onDieMem die f) (r : s.ready die) (p : f (s.hw, s.pir) = (g, s.pir)) : Gives c s g := by
  show _ = _
  rw [e, State.onDieMem_ready f r, p]

/-- What a command of the package that reaches the Process Image RAM gives. -/
theorem gives_of_awake_mem {c : Instr} {s : State} {f : Hw × SMap Byte → Hw × SMap Byte} {x : Hw × SMap Byte}
    (e : exec c s = s.onMem f) (r : s.awake) (p : f (s.hw, s.pir) = x) : GivesBoth c s x :=
  p ▸ e.trans (State.onMem_awake f r)

end Sys2Proof.Machine
end

