-- ==== Sys2Proof/Laws/Pump.lean ====
section
/-!
SUPPORT. The instruction cycle of a Pump: what the pin action leaves alone, what an issued instruction runs, and where the
Pump stands once it completes.
-/

namespace Sys2Proof.Machine

/-- Two hardware states with the same register file. -/
def Hw.sameRegs (g h : Hw) : Prop := g.regs = h.regs ∧ g.straps = h.straps ∧ g.grade = h.grade

theorem Hw.sameRegs.rd {g h : Hw} (e : g.sameRegs h) (d : Nat) (F : Fld) (i j : Nat) : g.rd d F i j = h.rd d F i j :=
  rd_congr e.1 e.2.1 e.2.2 d F i j

theorem regAt_congr {g h : Hw} (e : g.sameRegs h) (k : Nat) : g.regAt k = h.regAt k := by
  simp only [Hw.regAt, e.1, e.2.1, e.2.2]

theorem wr_sameRegs {g k : Hw} (d : Nat) (F : Fld) (v i j : Nat) (e : g.sameRegs k) : (g.wr d F v i j).sameRegs (k.wr d F v i j) := by
  unfold Hw.wr Hw.setRegAt
  simp only [regAt_congr e]
  refine ⟨?_, e.2.1, e.2.2⟩
  simp only [e.1, e.2.1, e.2.2]

theorem Hw.sameRegs.trans {f g h : Hw} (a : f.sameRegs g) (b : g.sameRegs h) : f.sameRegs h :=
  ⟨a.1.trans b.1, a.2.1.trans b.2.1, a.2.2.trans b.2.2⟩

theorem setPin_sameRegs (h : Hw) (d p : Nat) (x : Pin) : (h.setPin d p x).sameRegs h := ⟨rfl, rfl, rfl⟩

theorem setPump_sameRegs (h : Hw) (d n : Nat) (x : Pump) : (h.setPump d n x).sameRegs h := ⟨rfl, rfl, rfl⟩

theorem refreshPin_sameRegs (h : Hw) (d p : Nat) : (h.refreshPin d p).sameRegs h := by
  unfold Hw.refreshPin
  dsimp only
  split <;> exact ⟨rfl, rfl, rfl⟩

theorem drivePump_sameRegs (h : Hw) (d n p : Nat) (l : Bool) : (h.drivePump d n p l).sameRegs h := by
  unfold Hw.drivePump
  split
  · exact (refreshPin_sameRegs _ d p).trans (setPin_sameRegs ..)
  · exact ⟨rfl, rfl, rfl⟩

theorem enablePump_sameRegs (h : Hw) (d n p : Nat) (l : Bool) : (h.enablePump d n p l).sameRegs h := by
  unfold Hw.enablePump
  split
  · exact (refreshPin_sameRegs _ d p).trans (setPin_sameRegs ..)
  · exact ⟨rfl, rfl, rfl⟩

theorem pinAction_sameRegs (h : Hw) (d n pa : Nat) : (h.pinAction d n pa).sameRegs h := by
  refine iter_keeps (fun g => g.sameRegs h) _ _ (fun i g e => ?_) h ⟨rfl, rfl, rfl⟩
  dsimp only
  split
  · exact (drivePump_sameRegs ..).trans e
  · split
    · exact (drivePump_sameRegs ..).trans e
    · exact e
  · exact (enablePump_sameRegs ..).trans e
  · exact e

theorem pinned_rd (h : Hw) (d n e : Nat) (F : Fld) (i j : Nat) : (h.pinned d n).rd e F i j = h.rd e F i j :=
  (pinAction_sameRegs h d n _).rd e F i j

/-- An instruction that may issue runs its action on the state after its pin action. -/
theorem issue_of_issuable {h : Hw} {d n : Nat} {want : Nat → Bool} (act : Nat → Hw → Hw) (r : h.issuable d n want) :
    h.issue d n .good want act =
      (act (h.pumpArg d n) (h.pinned d n)).setPump d n
        { (act (h.pumpArg d n) (h.pinned d n)).pump d n with prevIn := h.inSample d n } := by
  obtain ⟨r1, r2, r3, r4⟩ := r
  unfold Hw.issue
  rw [if_pos r1]
  simp only [r2, r3, r4, Hw.pumpArg, Hw.pinned, reduceCtorEq, or_self, Bool.false_eq_true, if_false, not_true_eq_false]

@[simp] theorem setPump_rd (h : Hw) (d n : Nat) (x : Pump) (e : Nat) (F : Fld) (i j : Nat) : (h.setPump d n x).rd e F i j = h.rd e F i j :=
  (setPump_sameRegs h d n x).rd e F i j

@[simp] theorem setPump_pump (h : Hw) (d n : Nat) (x : Pump) : (h.setPump d n x).pump d n = x := SMap.get_put_self ..

@[simp] theorem wr_pump (h : Hw) (d : Nat) (F : Fld) (v i j e n : Nat) : (h.wr d F v i j).pump e n = h.pump e n := rfl

/-- The address a completed instruction leaves the Pump at. -/
def Hw.target (h : Hw) (d n : Nat) : Option Nat → Nat
  | some t => t
  | none => h.nextIp d n

/-- The registers after an instruction completes: STATE, IP and the fields of the stages are written, nothing else. -/
theorem finish_rd (h : Hw) (d n : Nat) (t : Option Nat) (F : Fld) (i : Nat) : ∃ a b c e, (h.finish d n t).rd d F i =
    ((((((h.wr d R.PMP_STAT_STATE 1 n).wr d R.PMP_STAT_IP (h.target d n t) n).wr d R.PMP_CNT_PCT a n).wr d R.PMP_STAT_PBUSY b n).wr d
      R.PMP_STAT_GBUSY c n).wr d R.PMP_STAT_MIDSHIFT e n).rd d F i := by
  unfold Hw.finish Hw.showStages
  cases t <;> exact ⟨_, _, _, _, Hw.sameRegs.rd (wr_sameRegs _ _ _ _ _ (wr_sameRegs _ _ _ _ _ (wr_sameRegs _ _ _ _ _
    (wr_sameRegs _ _ _ _ _ (setPump_sameRegs ..))))) ..⟩

theorem nextIp_wr (h : Hw) (d n v : Nat) (F : Fld) (a1 : F.apart R.PMP_STAT_IP = true) (a2 : F.apart R.PMP_FLOW_WRAPIP = true) :
    (h.wr d F v n).nextIp d n = h.nextIp d n := by
  have a3 : F.apart R.PMP_FLOW_WRAPTO = true := a2
  simp only [Hw.nextIp, rd_wr_apart _ _ _ _ _ _ _ a1, rd_wr_apart _ _ _ _ _ _ _ a2, rd_wr_apart _ _ _ _ _ _ _ a3]

theorem nextIp_pinned (h : Hw) (d n : Nat) : (h.pinned d n).nextIp d n = h.nextIp d n := by
  simp only [Hw.nextIp, pinned_rd]

theorem finish_at (h : Hw) (d n : Nat) (t : Option Nat) (hl : h.target d n t < 64) : (h.finish d n t).pumpAt d n (h.target d n t) := by
  constructor
  · obtain ⟨a, b, c, e, x⟩ := finish_rd h d n t R.PMP_STAT_STATE n
    rw [Hw.pumpState, x]
    simp (disch := decide) only [rd_wr_apart, rd_wr_beside, rd_wr]
    rfl
  · obtain ⟨a, b, c, e, x⟩ := finish_rd h d n t R.PMP_STAT_IP n
    rw [x]
    simp (disch := decide) only [rd_wr_apart, rd_wr_beside, rd_wr]
    exact Nat.mod_eq_of_lt hl

theorem rd_lt (h : Hw) (d : Nat) (F : Fld) (i j : Nat) : h.rd d F i j < 2 ^ F.w := bits_lt ..

theorem nextIp_lt (h : Hw) (d n : Nat) : h.nextIp d n < 64 := by
  unfold Hw.nextIp
  split
  · exact rd_lt h d R.PMP_FLOW_WRAPTO n 0
  · omega

theorem wr_onlyAt {g h : Hw} {ks : List Nat} (d : Nat) (F : Fld) (v i j : Nat) (hk : F.key d i j ∈ ks) (e : g.onlyAt h ks) : (g.wr d F v i j).onlyAt h ks := by
  intro k hn
  rw [regAt_wr_of_ne _ _ _ _ _ _ (fun e => hn (by rw [e]; exact hk))]
  exact e k hn

theorem showStages_onlyAt {g h : Hw} {ks : List Nat} (d n : Nat) (hk : R.PMP_STAT_IP.key d n 0 ∈ ks) (hk2 : R.PMP_CNT_PCT.key d n 0 ∈ ks)
    (e : g.onlyAt h ks) : (g.showStages d n).onlyAt h ks := by
  unfold Hw.showStages
  extract_lets x g1 g2 g3
  have e1 : g1.onlyAt h ks := wr_onlyAt _ R.PMP_CNT_PCT _ _ _ hk2 e
  clear_value g1
  have e2 : g2.onlyAt h ks := wr_onlyAt _ R.PMP_STAT_PBUSY _ _ _ hk e1
  clear_value g2
  have e3 : g3.onlyAt h ks := wr_onlyAt _ R.PMP_STAT_GBUSY _ _ _ hk e2
  clear_value g3
  exact wr_onlyAt _ R.PMP_STAT_MIDSHIFT _ _ _ hk e3
theorem finish_onlyAt {g h : Hw} {ks : List Nat} (d n : Nat) (t : Option Nat) (hk : R.PMP_STAT_IP.key d n 0 ∈ ks) (hk2 : R.PMP_CNT_PCT.key d n 0 ∈ ks)
    (e : g.onlyAt h ks) : (g.finish d n t).onlyAt h ks := by
  unfold Hw.finish
  refine showStages_onlyAt _ _ hk hk2 ?_
  intro k hn
  rw [regAt_congr (setPump_sameRegs ..)]
  exact wr_onlyAt _ R.PMP_STAT_IP _ _ _ hk (wr_onlyAt _ R.PMP_STAT_STATE _ _ _ hk e) k hn

theorem wr_onlyPump {g h : Hw} (d : Nat) (F : Fld) (v i j : Nat) (e : g.onlyPump h) : (g.wr d F v i j).onlyPump h := e
theorem setPump_onlyPump {g h : Hw} (d n : Nat) (x : Pump) (e : g.onlyPump h) : (g.setPump d n x).onlyPump h := e
theorem showStages_onlyPump {g h : Hw} (d n : Nat) (e : g.onlyPump h) : (g.showStages d n).onlyPump h := by
  unfold Hw.showStages
  exact wr_onlyPump _ _ _ _ _ (wr_onlyPump _ _ _ _ _ (wr_onlyPump _ _ _ _ _ (wr_onlyPump _ _ _ _ _ e)))
theorem finish_onlyPump {g h : Hw} (d n : Nat) (t : Option Nat) (e : g.onlyPump h) : (g.finish d n t).onlyPump h := by
  unfold Hw.finish
  exact showStages_onlyPump _ _ (setPump_onlyPump _ _ _ (wr_onlyPump _ _ _ _ _ (wr_onlyPump _ _ _ _ _ e)))
theorem setPin_onlyPump {g h : Hw} (d p : Nat) (x : Pin) (e : g.onlyPump h) : (g.setPin d p x).onlyPump h := e
theorem refreshPin_onlyPump {g h : Hw} (d p : Nat) (e : g.onlyPump h) : (g.refreshPin d p).onlyPump h := by
  unfold Hw.refreshPin
  dsimp only
  split
  · exact e
  · exact e
theorem drivePump_onlyPump {g h : Hw} (d n p : Nat) (l : Bool) (e : g.onlyPump h) : (g.drivePump d n p l).onlyPump h := by
  unfold Hw.drivePump
  split
  · exact refreshPin_onlyPump _ _ (setPin_onlyPump _ _ _ e)
  · exact e
theorem enablePump_onlyPump {g h : Hw} (d n p : Nat) (l : Bool) (e : g.onlyPump h) : (g.enablePump d n p l).onlyPump h := by
  unfold Hw.enablePump
  split
  · exact refreshPin_onlyPump _ _ (setPin_onlyPump _ _ _ e)
  · exact e
theorem pinAction_onlyPump (h : Hw) (d n pa : Nat) : (h.pinAction d n pa).onlyPump h := by
  refine iter_keeps (fun g => g.onlyPump h) _ _ (fun i g e => ?_) h rfl
  dsimp only
  split
  · exact drivePump_onlyPump _ _ _ _ e
  · split
    · exact drivePump_onlyPump _ _ _ _ e
    · exact e
  · exact enablePump_onlyPump _ _ _ _ e
  · exact e

theorem wr_result {h : Hw} {d n : Nat} {want : Nat → Bool} (F : Fld) (v : Nat) (r : h.issuable d n want)
    (act : Nat → Hw → Hw) (ha : act (h.pumpArg d n) (h.pinned d n) = (h.pinned d n).wr d F v n)
    (a1 : F.apart R.PMP_STAT_IP = true) (a2 : F.apart R.PMP_FLOW_WRAPIP = true) (hw : decide (F.lo + F.w ≤ 32) = true)
    (a3 : R.PMP_STAT_IP.apart F = true) (a4 : R.PMP_CNT_PCT.apart F = true ∨ R.PMP_CNT_PCT.beside F = true) :
    let g := h.simple d n .good want act
    g.rd d F n = low F.w v ∧ g.pumpAt d n (h.nextIp d n) ∧ g.onlyPump h ∧
        g.onlyAt h [F.key d n 0, R.PMP_STAT_IP.key d n 0, R.PMP_CNT_PCT.key d n 0] := by
  intro g
  have hg : g = _ := issue_of_issuable (fun a h => (act a h).finish d n none) r
  dsimp only at hg
  rw [ha] at hg
  have hnx : ((h.pinned d n).wr d F v n).target d n none = h.nextIp d n := by
    simp only [Hw.target, nextIp_wr _ _ _ _ _ a1 a2, nextIp_pinned]
  rw [hg]
  refine ⟨?_, ?_, ?_, ?_⟩
  · rw [setPump_rd]
    obtain ⟨a, b, c, e, x⟩ := finish_rd ((h.pinned d n).wr d F v n) d n none F n
    have p1 : R.PMP_STAT_STATE.apart F = true := a3
    have p2 : R.PMP_STAT_MIDSHIFT.apart F = true := a3
    have p3 : R.PMP_STAT_GBUSY.apart F = true := a3
    have p4 : R.PMP_STAT_PBUSY.apart F = true := a3
    rw [x, rd_wr_apart _ _ _ _ _ _ _ p2, rd_wr_apart _ _ _ _ _ _ _ p3, rd_wr_apart _ _ _ _ _ _ _ p4]
    have p5 : ∀ z : Hw, (z.wr d R.PMP_CNT_PCT a n).rd d F n = z.rd d F n := fun z => by
      rcases a4 with a4 | a4
      · exact rd_wr_apart _ _ _ _ _ _ _ a4
      · exact rd_wr_beside _ _ _ _ _ _ _ a4
    rw [p5, rd_wr_apart _ _ _ _ _ _ _ a3, rd_wr_apart _ _ _ _ _ _ _ p1, rd_wr _ _ _ _ _ _ hw]
  · have := finish_at ((h.pinned d n).wr d F v n) d n none (by rw [hnx]; exact nextIp_lt ..)
    rw [hnx] at this
    exact ⟨(setPump_rd ..).trans this.1, (setPump_rd ..).trans this.2⟩
  · exact setPump_onlyPump _ _ _ (finish_onlyPump _ _ _ (wr_onlyPump _ _ _ _ _ (pinAction_onlyPump ..)))
  · intro k hk
    rw [regAt_congr (setPump_sameRegs ..)]
    refine finish_onlyAt _ _ _ (by simp) (by simp) (wr_onlyAt _ _ _ _ _ (by simp) ?_) k hk
    exact fun k _ => regAt_congr (pinAction_sameRegs ..) k

theorem pinAction_pump (h : Hw) (d n pa e m : Nat) : (h.pinAction d n pa).pump e m = h.pump e m := by
  have : (h.pinAction d n pa).pumps = h.pumps := by
    refine iter_keeps (fun g => g.pumps = h.pumps) _ _ (fun i g e => ?_) h rfl
    have r : ∀ (g : Hw) p, (g.refreshPin d p).pumps = g.pumps := fun g p => by unfold Hw.refreshPin; dsimp only; split <;> rfl
    have dr : ∀ (g : Hw) p l, (g.drivePump d n p l).pumps = g.pumps := fun g p l => by unfold Hw.drivePump; split; exact r ..; rfl
    have en : ∀ (g : Hw) p l, (g.enablePump d n p l).pumps = g.pumps := fun g p l => by unfold Hw.enablePump; split; exact r ..; rfl
    dsimp only
    split
    · exact (dr ..).trans e
    · split
      · exact (dr ..).trans e
      · exact e
    · exact (en ..).trans e
    · exact e
  simp only [Hw.pump, this]
theorem finish_pump (h : Hw) (d n : Nat) (t : Option Nat) : (h.finish d n t).pump d n = { h.pump d n with wait := none, prevIn := ((h.setPumpState d n 1).wr d R.PMP_STAT_IP (h.target d n t) n).inSample d n } := by
  unfold Hw.finish Hw.showStages
  simp only [wr_pump, setPump_pump]
  cases t <;> rfl
theorem Hw.sameRegs.rd_eq {g h : Hw} (e : g.sameRegs h) : @Hw.rd g = @Hw.rd h := by
  exact funext fun d => funext fun F => funext fun i => funext fun j => e.rd d F i j
theorem codeIndex_congr {g h : Hw} (e : g.sameRegs h) (d n x : Nat) (p : Bool) : g.codeIndex d n x p = h.codeIndex d n x p := by
  unfold Hw.codeIndex Hw.on
  rw [e.rd_eq]
theorem encodeGroups_congr {g h : Hw} (e : g.sameRegs h) (d n x m k : Nat) (p : Bool) : g.encodeGroups d n x m k p = h.encodeGroups d n x m k p := by
  induction m generalizing k p with
  | zero => rfl
  | succ m ih =>
    unfold Hw.encodeGroups Hw.on
    rw [e.rd_eq]
    simp only [codeIndex_congr e, ih]
theorem decodeEntry_congr {g h : Hw} (e : g.sameRegs h) (d n x : Nat) (p : Bool) : g.decodeEntry d n x p = h.decodeEntry d n x p := by
  unfold Hw.decodeEntry Hw.on
  rw [e.rd_eq]
theorem decodeGroups_congr {g h : Hw} (e : g.sameRegs h) (d n x m k : Nat) (p : Bool) : g.decodeGroups d n x m k p = h.decodeGroups d n x m k p := by
  induction m generalizing k p with
  | zero => rfl
  | succ m ih =>
    unfold Hw.decodeGroups
    rw [e.rd_eq]
    simp only [decodeEntry_congr e, ih]


theorem bit_low {n l w : Nat} (h : l < w) : bit (low w n) l = bit n l := by
  have : low w n / 2 ^ l % 2 = n / 2 ^ l % 2 := by
    rw [low, show w = l + (w - l) by omega, Nat.pow_add, Nat.mod_mul_right_div_self]
    exact Nat.mod_mod_of_dvd _ (dvd_pow_self 2 (by omega))
  simp only [bit, this]
theorem bit_add {n l : Nat} (h : ¬bit n l = true) : bit (n + 2 ^ l) l = true := by
  simp only [bit, beq_iff_eq] at *
  rw [Nat.add_div_right _ (Nat.two_pow_pos l)]
  omega
theorem rd_wr_inst (h : Hw) (d : Nat) (F G : Fld) (v i m : Nat) (ha : F.node = false ∧ G.node = false ∧ F.s1 = 1024 ∧ G.s1 = 1024 ∧ F.addr / 1024 = G.addr / 1024) (e : m ≠ i) :
    (h.wr d F v i).rd d G m = h.rd d G m := by
  apply rd_wr_of_key_ne
  obtain ⟨a1, a2, a3, a4, a5⟩ := ha
  simp only [Fld.key, a1, a2, a3, a4]
  simp
  intro c
  have : G.addr + m * 1024 = F.addr + i * 1024 := by omega
  have := congrArg (· / 1024) this
  simp only [Nat.add_mul_div_right _ _ (show 0 < 1024 by decide)] at this
  omega
theorem signal_pending (h : Hw) (d n l : Nat) (hn : n < 64) (hl : l < 32) (sub : bit (h.rd d R.PMP_SIGSUB_SUB n) l = true) :
    bit ((h.raiseSignal d l).rd d R.PMP_PEND_SIGP n) l = true := by
  unfold Hw.raiseSignal
  have key : ∀ k, bit ((iter k (fun n h =>
    if bit (h.rd d R.PMP_SIGSUB_SUB n) l then
      if bit (h.rd d R.PMP_PEND_SIGP n) l then h.flag d R.PMP_ERR_SIGOVR n else h.wr d R.PMP_PEND_SIGP (h.rd d R.PMP_PEND_SIGP n + 2 ^ l) n
    else h) h).rd d R.PMP_SIGSUB_SUB n) l = true ∧ (n < k → bit ((iter k (fun n h =>
    if bit (h.rd d R.PMP_SIGSUB_SUB n) l then
      if bit (h.rd d R.PMP_PEND_SIGP n) l then h.flag d R.PMP_ERR_SIGOVR n else h.wr d R.PMP_PEND_SIGP (h.rd d R.PMP_PEND_SIGP n + 2 ^ l) n
    else h) h).rd d R.PMP_PEND_SIGP n) l = true) := by
    intro k
    induction k with
    | zero => exact ⟨sub, fun c => absurd c (Nat.not_lt_zero _)⟩
    | succ k ih =>
      rw [iter_succ]
      generalize iter k _ h = g at ih ⊢
      obtain ⟨ih1, ih2⟩ := ih
      by_cases e : n = k
      · subst e
        rw [if_pos ih1]
        split
        · rename_i b
          refine ⟨?_, fun _ => ?_⟩
          · rw [Hw.flag, rd_wr_apart _ _ _ _ _ _ _ rfl]; exact ih1
          · rw [Hw.flag, rd_wr_apart _ _ _ _ _ _ _ rfl]; exact b
        · rename_i b
          refine ⟨?_, fun _ => ?_⟩
          · rw [rd_wr_apart _ _ _ _ _ _ _ rfl]; exact ih1
          · rw [rd_wr _ _ _ _ _ _ rfl, bit_low (show l < R.PMP_PEND_SIGP.w from hl)]; exact bit_add b
      · refine ⟨?_, fun c => ?_⟩
        · split
          · split
            · rw [Hw.flag, rd_wr_inst _ _ _ _ _ _ _ (by decide) e]; exact ih1
            · rw [rd_wr_inst _ _ _ _ _ _ _ (by decide) e]; exact ih1
          · exact ih1
        · have ih2 := ih2 (by omega)
          split
          · split
            · rw [Hw.flag, rd_wr_inst _ _ _ _ _ _ _ (by decide) e]; exact ih2
            · rw [rd_wr_inst _ _ _ _ _ _ _ (by decide) e]; exact ih2
          · exact ih2
  exact (key 64).2 hn
theorem raiseSignal_keeps (h : Hw) (d l : Nat) (P : Hw → Prop) (hf : ∀ g m v, P g → P (g.wr d R.PMP_PEND_SIGP v m)) (hg : ∀ g m, P g → P (g.flag d R.PMP_ERR_SIGOVR m)) (p : P h) : P (h.raiseSignal d l) := by
  refine iter_keeps P _ _ (fun i g e => ?_) h p
  dsimp only
  split
  · split
    · exact hg _ _ e
    · exact hf _ _ _ e
  · exact e
theorem nextIp_wr_any (h : Hw) (d n i v : Nat) (F : Fld) (hF : F.node = false ∧ F.s1 = 1024 ∧ F.s2 = 0 ∧ F.addr / 1024 = 256 ∧ F.addr ≠ 0x40004 ∧ F.addr ≠ 0x40010) : (h.wr d F v i).nextIp d n = h.nextIp d n := by
  by_cases e : n = i
  · subst e
    obtain ⟨a, b, b', c, e, f⟩ := hF
    exact nextIp_wr _ _ _ _ _ (by simp [Fld.apart, a, b, b', e, R.PMP_STAT_IP]) (by simp [Fld.apart, a, b, b', f, R.PMP_FLOW_WRAPIP])
  · obtain ⟨a, b, b', c, _, _⟩ := hF
    unfold Hw.nextIp
    rw [rd_wr_inst _ _ F R.PMP_STAT_IP _ _ _ ⟨a, rfl, b, rfl, c⟩ e, rd_wr_inst _ _ F R.PMP_FLOW_WRAPIP _ _ _ ⟨a, rfl, b, rfl, c⟩ e, rd_wr_inst _ _ F R.PMP_FLOW_WRAPTO _ _ _ ⟨a, rfl, b, rfl, c⟩ e]

theorem encode_legal {h : Hw} {d n w : Nat} (iw : isCode false w = true) (ic : h.illegalNow d n w = false) :
    ∃ x, h.encodeGroups d n (h.rd d R.PMP_X_VALUE n) (bits (low 16 w) 1 5) 0 (h.pump d n).enc = some x := by
  simp only [isCode, Bool.and_eq_true, beq_iff_eq] at iw
  have iw2 : bit (low 16 w) 0 = false := by rw [← iw.2]; exact bit_low (by decide)
  unfold Hw.illegalNow at ic
  simp [iw.1, iw2] at ic
  exact Option.isSome_iff_exists.mp ic.2.2

theorem nextIp_setPump (h : Hw) (d n : Nat) (x : Pump) : (h.setPump d n x).nextIp d n = h.nextIp d n := by
  unfold Hw.nextIp
  simp only [setPump_rd]

theorem issue_finish {h : Hw} {d n : Nat} {want : Nat → Bool} {act : Nat → Hw → Hw} {f : Hw} {t : Option Nat} {x : Hw}
    (hx : x = h.issue d n .good want act) (i : h.issuable d n want) (ha : act (h.pumpArg d n) (h.pinned d n) = f.finish d n t)
    (ho : f.onlyPump h) (ip : f.target d n t < 64) :
    x.pumpAt d n (f.target d n t) ∧ x.onlyPump h ∧ x = (f.finish d n t).setPump d n { (f.finish d n t).pump d n with prevIn := h.inSample d n } := by
  have e := hx.trans (issue_of_issuable act i)
  rw [ha] at e
  subst e
  have := finish_at f d n t ip
  exact ⟨⟨(setPump_rd ..).trans this.1, (setPump_rd ..).trans this.2⟩, setPump_onlyPump _ _ _ (finish_onlyPump _ _ _ ho), rfl⟩

theorem simple_finish {h : Hw} {d n : Nat} {want : Nat → Bool} {act : Nat → Hw → Hw} {f : Hw} {x : Hw}
    (hx : x = h.simple d n .good want act) (i : h.issuable d n want) (ha : act (h.pumpArg d n) (h.pinned d n) = f)
    (ho : f.onlyPump h) (fn : f.nextIp d n = h.nextIp d n) :
    x.pumpAt d n (h.nextIp d n) ∧ x.onlyPump h ∧ x = (f.finish d n none).setPump d n { (f.finish d n none).pump d n with prevIn := h.inSample d n } := by
  have y := issue_finish (f := f) (t := none) hx i (congrArg (·.finish d n none) ha) ho (by rw [Hw.target, fn]; exact nextIp_lt ..)
  rw [Hw.target, fn] at y
  exact y

theorem setPump_result {h g : Hw} {d n : Nat} {want : Nat → Bool} {act : Nat → Hw → Hw} (y : Pump) (hg : g = h.simple d n .good want act)
    (i : h.issuable d n want) (ha : act (h.pumpArg d n) (h.pinned d n) = (h.pinned d n).setPump d n y) :
    (∃ z, g.pump d n = { y with wait := none, prevIn := z }) ∧ g.pumpAt d n (h.nextIp d n) ∧ g.onlyPump h := by
  have hq : (h.pinned d n).nextIp d n = h.nextIp d n := nextIp_pinned ..
  have fn : ((h.pinned d n).setPump d n y).target d n none = h.nextIp d n := (nextIp_setPump ..).trans hq
  have x := issue_finish (f := (h.pinned d n).setPump d n y) (t := none) hg i (congrArg (·.finish d n none) ha)
    (setPump_onlyPump _ _ _ (pinAction_onlyPump ..)) (by rw [fn]; exact nextIp_lt ..)
  rw [fn] at x
  refine ⟨⟨h.inSample d n, ?_⟩, x.1, x.2.1⟩
  rw [x.2.2, setPump_pump, finish_pump, setPump_pump]


/-! ## What stopping leaves -/

theorem idlePump_sameRegs (h : Hw) (d n : Nat) : (h.idlePump d n).sameRegs h := by
  have a : (iter (h.rd d R.PMP_PINA_OUTCNT n) (fun i (g : Hw) =>
    (g.drivePump d n (h.rd d R.PMP_PINA_OUTBASE n + i) (bit (g.rd d R.PMP_IDLE_IDLE n) i)).enablePump d n (h.rd d R.PMP_PINA_OUTBASE n + i) true) h).sameRegs h :=
    iter_keeps (fun g : Hw => g.sameRegs h) _ _ (fun i g e => (enablePump_sameRegs ..).trans ((drivePump_sameRegs ..).trans e)) h ⟨rfl, rfl, rfl⟩
  exact iter_keeps (fun g : Hw => g.sameRegs h) _ _ (fun i g e => (enablePump_sameRegs ..).trans ((drivePump_sameRegs ..).trans e)) _ a

theorem idlePump_pumps (h : Hw) (d n : Nat) : (h.idlePump d n).pumps = h.pumps := by
  have r : ∀ (g : Hw) p, (g.refreshPin d p).pumps = g.pumps := fun g p => by unfold Hw.refreshPin; dsimp only; split <;> rfl
  have dr : ∀ (g : Hw) p l, (g.drivePump d n p l).pumps = g.pumps := fun g p l => by unfold Hw.drivePump; split; exact r ..; rfl
  have en : ∀ (g : Hw) p l, (g.enablePump d n p l).pumps = g.pumps := fun g p l => by unfold Hw.enablePump; split; exact r ..; rfl
  have a : (iter (h.rd d R.PMP_PINA_OUTCNT n) (fun i (g : Hw) =>
    (g.drivePump d n (h.rd d R.PMP_PINA_OUTBASE n + i) (bit (g.rd d R.PMP_IDLE_IDLE n) i)).enablePump d n (h.rd d R.PMP_PINA_OUTBASE n + i) true) h).pumps = h.pumps :=
    iter_keeps (fun g : Hw => g.pumps = h.pumps) _ _ (fun i g e => (en ..).trans ((dr ..).trans e)) h rfl
  exact iter_keeps (fun g : Hw => g.pumps = h.pumps) _ _ (fun i g e => (en ..).trans ((dr ..).trans e)) _ a

theorem idlePump_pump (h : Hw) (d n e m : Nat) : (h.idlePump d n).pump e m = h.pump e m := by
  simp only [Hw.pump, idlePump_pumps]

theorem showStages_pump (h : Hw) (d n e m : Nat) : (h.showStages d n).pump e m = h.pump e m := by
  unfold Hw.showStages
  simp only [wr_pump]

theorem haltPump_pump (h : Hw) (d n : Nat) : (h.haltPump d n).pump d n = { h.pump d n with pour := none, gather := none, wait := none, starting := false } := by
  unfold Hw.haltPump
  rw [showStages_pump, idlePump_pump, wr_pump, wr_pump, wr_pump, setPump_pump]

theorem haltPump_rd (h : Hw) (d n : Nat) (F : Fld) (i : Nat) : ∃ a b c e, (h.haltPump d n).rd d F i =
    (((((((h.wr d R.PMP_CNT_PCT 0 n).wr d R.PMP_CNT_GCT 0 n).wr d R.PMP_STAT_STOPPEND 0 n).wr d R.PMP_CNT_PCT a n).wr d R.PMP_STAT_PBUSY b n).wr d
      R.PMP_STAT_GBUSY c n).wr d R.PMP_STAT_MIDSHIFT e n).rd d F i ∧ a = 0 := by
  unfold Hw.haltPump
  have s3 := (idlePump_sameRegs ((((h.setPump d n { h.pump d n with pour := none, gather := none, wait := none, starting := false }).wr d R.PMP_CNT_PCT 0 n).wr d R.PMP_CNT_GCT 0 n).wr d R.PMP_STAT_STOPPEND 0 n) d n).trans
    (wr_sameRegs d R.PMP_STAT_STOPPEND 0 n 0 (wr_sameRegs d R.PMP_CNT_GCT 0 n 0 (wr_sameRegs d R.PMP_CNT_PCT 0 n 0 (setPump_sameRegs h d n _))))
  have p3 : (((((h.setPump d n { h.pump d n with pour := none, gather := none, wait := none, starting := false }).wr d R.PMP_CNT_PCT 0 n).wr d R.PMP_CNT_GCT 0 n).wr d R.PMP_STAT_STOPPEND 0 n).idlePump d n).pump d n = { h.pump d n with pour := none, gather := none, wait := none, starting := false } := by
    rw [idlePump_pump, wr_pump, wr_pump, wr_pump, setPump_pump]
  unfold Hw.showStages
  dsimp only
  rw [p3]
  exact ⟨_, _, _, _, Hw.sameRegs.rd (wr_sameRegs _ _ _ _ _ (wr_sameRegs _ _ _ _ _ (wr_sameRegs _ _ _ _ _ (wr_sameRegs _ _ _ _ _ s3)))) .., rfl⟩

theorem stopPump_eq (h : Hw) (d n : Nat) (c : h.pumpState d n ≠ 3) : h.stopPump d n = (h.haltPump d n).setPumpState d n 0 := by
  unfold Hw.stopPump
  split
  · rename_i e; exact absurd e c
  · rfl

theorem stopPump_state (h : Hw) (d n : Nat) (c : h.pumpState d n ≠ 3) : (h.stopPump d n).pumpState d n = 0 := by
  rw [stopPump_eq h d n c]
  unfold Hw.setPumpState Hw.pumpState
  rw [rd_wr _ _ _ _ _ _ rfl]
  rfl

theorem report_rd_apart (h : Hw) (d c : Nat) (k : EventKind) (x o : Nat) (F : Fld) (n : Nat) (e : R.EVR_CNT_DROPPED.key d 0 0 ≠ F.key d n 0) : (h.report d c k x o).rd d F n = h.rd d F n := by
  unfold Hw.report
  extract_lets r
  split
  · exact rd_congr rfl rfl rfl ..
  · unfold Hw.bump
    rw [rd_wr_of_key_ne _ _ _ _ _ _ _ _ _ _ (Ne.symm e)]
    exact rd_congr rfl rfl rfl ..

end Sys2Proof.Machine
end

