-- ==== Sys2Proof/Laws/Shape.lean ====
section
/-!
SUPPORT. The shape of every command: it acts on the hardware, or on the hardware and the Process Image RAM, in Night or not as its
kind says, and leaves the queue; an event at a die that the package does not have leaves everything. One lemma for all commands, so that a proof about all of
them needs no case split.
-/

namespace Sys2Proof.Machine

/-- What a command does: a function of the hardware and the Process Image RAM behind the checks of its kind. -/
def shaped (d : Option Die) (night : Bool) (f : Hw × SMap Byte → Hw × SMap Byte) (s : State) : Host.Outcome State Fault Refusal :=
  if ∃ e, d = some e ∧ s.hw.dies ≤ e.val then .next s
  else if night = false ∧ s.hw.node.state = .night then .next s
  else .next { s with hw := (f (s.hw, s.pir)).1, pir := (f (s.hw, s.pir)).2 }

/-- A command has the shape of its kind. -/
def Shape (e : State → Host.Outcome State Fault Refusal) (d : Option Die) (night pir : Bool) : Prop :=
  ∃ f : Hw × SMap Byte → Hw × SMap Byte, (pir = false → ∀ x, (f x).2 = x.2) ∧ ∀ s, e s = shaped d night f s

theorem shaped_none (night : Bool) (f : Hw × SMap Byte → Hw × SMap Byte) (s : State) : shaped none night f s =
    if night = false ∧ s.hw.node.state = .night then .next s
    else .next { s with hw := (f (s.hw, s.pir)).1, pir := (f (s.hw, s.pir)).2 } :=
  if_neg (fun ⟨_, e, _⟩ => nomatch e)

theorem shaped_some (d : Die) (night : Bool) (f : Hw × SMap Byte → Hw × SMap Byte) (s : State) : shaped (some d) night f s =
    if d.val < s.hw.dies then shaped none night f s else .next s := by
  by_cases l : d.val < s.hw.dies
  · rw [if_pos l, shaped_none]
    exact if_neg fun ⟨_, e, n⟩ => by cases e; exact absurd l (Nat.not_lt.mpr n)
  · rw [if_neg l]
    exact if_pos ⟨d, rfl, Nat.not_lt.mp l⟩

theorem shape_on {e : State → Host.Outcome State Fault Refusal} (f : Hw → Hw) (h : ∀ s, e s = s.on f) : Shape e none false false :=
  ⟨fun x => (f x.1, x.2), fun _ _ => rfl, fun s => by
    rw [h, shaped_none]; unfold State.on
    by_cases n : s.hw.node.state = .night
    · rw [if_pos n, if_pos ⟨rfl, n⟩]
    · rw [if_neg n, if_neg fun k => n k.2]⟩

theorem shape_onReg {e : State → Host.Outcome State Fault Refusal} (d : Die) (o : Origin) (a : Nat) (f : Hw → Hw)
    (h : ∀ s, e s = s.onReg d o a f) : Shape e none false false := shape_on _ h

theorem shape_onAny {e : State → Host.Outcome State Fault Refusal} (f : Hw → Hw) (h : ∀ s, e s = s.onAny f) : Shape e none true false :=
  ⟨fun x => (f x.1, x.2), fun _ _ => rfl, fun s => by rw [h, shaped_none, if_neg fun k => nomatch k.1]; rfl⟩

theorem shape_onMem {e : State → Host.Outcome State Fault Refusal} (f : Hw × SMap Byte → Hw × SMap Byte) (h : ∀ s, e s = s.onMem f) :
    Shape e none false true :=
  ⟨f, (fun k => by cases k), fun s => by
    rw [h, shaped_none]; unfold State.onMem
    by_cases n : s.hw.node.state = .night
    · rw [if_pos n, if_pos ⟨rfl, n⟩]
    · rw [if_neg n, if_neg fun k => n k.2]⟩

theorem shape_onDie {e : State → Host.Outcome State Fault Refusal} (d : Die) (f : Hw → Hw) (h : ∀ s, e s = s.onDie d f) :
    Shape e (some d) false false := by
  obtain ⟨g, a, b⟩ := shape_on f fun _ => rfl
  refine ⟨g, a, fun s => ?_⟩
  rw [h, shaped_some]
  unfold State.onDie
  by_cases l : d.val < s.hw.dies
  · rw [if_pos l, if_pos l]; exact b s
  · rw [if_neg l, if_neg l]

theorem shape_onDieMem {e : State → Host.Outcome State Fault Refusal} (d : Die) (f : Hw × SMap Byte → Hw × SMap Byte)
    (h : ∀ s, e s = s.onDieMem d f) : Shape e (some d) false true := by
  obtain ⟨g, a, b⟩ := shape_onMem f fun _ => rfl
  refine ⟨g, a, fun s => ?_⟩
  rw [h, shaped_some]
  unfold State.onDieMem
  by_cases l : d.val < s.hw.dies
  · rw [if_pos l, if_pos l]; exact b s
  · rw [if_neg l, if_neg l]

/-- Every command has the shape of its kind. -/
theorem exec_shape (c : Instr) : Shape (exec c) (namedDie c) (actsInNight c) (reachesPir c) := by
  cases c with
  | powerOnResetRelease _ _ _ _ => exact shape_onAny _ fun _ => rfl
  | inputPowerLost => exact shape_on (fun h => if h.node.state = .dawn then h.powerDrop else h) fun _ => rfl
  | porstNAssert => exact shape_on _ fun _ => rfl
  | norDiscovery _ _ _ => exact shape_on _ fun _ => rfl
  | imageHeader _ => exact shape_on _ fun _ => rfl
  | imageRecord _ _ => exact shape_on _ fun _ => rfl
  | endRecord _ _ _ _ => exact shape_on _ fun _ => rfl
  | keytreeUnwrap _ => exact shape_on _ fun _ => rfl
  | builtInSelfTest _ _ => exact shape_on _ fun _ => rfl
  | quarantineToDusk => exact shape_on _ fun _ => rfl
  | ringBootTimeout => exact shape_on _ fun _ => rfl
  | bootRequest _ _ _ _ => exact shape_onDie _ _ fun _ => rfl
  | imageStreamCell _ _ _ => exact shape_on _ fun _ => rfl
  | nodCmdEnterSafe _ _ _ => exact shape_onReg _ _ _ _ fun _ => rfl
  | nodCmdResume _ _ _ => exact shape_onReg _ _ _ _ fun _ => rfl
  | nodCmdSleep _ _ _ => exact shape_onReg _ _ _ _ fun _ => rfl
  | nodCmdDusk _ _ _ => exact shape_onReg _ _ _ _ fun _ => rfl
  | nodCmdReset _ _ _ => exact shape_onReg _ _ _ _ fun _ => rfl
  | nodCmdReserved die origin _ => exact shape_onReg die origin 0xC (fun h => h.violation die.val origin 0xC) fun _ => rfl
  | ringWake _ _ => exact shape_onDie _ _ fun _ => rfl
  | duskCanLimit => exact shape_on _ fun _ => rfl
  | duskRecord count => exact shape_on (fun h => (duskRecord count h).duskCheck) fun _ => rfl
  | duskCopyLimit => exact shape_on (fun h => if h.node.state = .dusk then h.duskEnd else h) fun _ => rfl
  | takeover => exact shape_on _ fun _ => rfl
  | amendCell _ _ => exact shape_on _ fun _ => rfl
  | extest _ _ _ _ => exact shape_onDie _ _ fun _ => rfl
  | samplePreload _ _ _ => exact shape_onDie _ _ fun _ => rfl
  | idcode _ => exact shape_onDie _ _ fun _ => rfl
  | highz _ => exact shape_onDie _ _ fun _ => rfl
  | clamp _ => exact shape_onDie _ _ fun _ => rfl
  | bypass _ _ => exact shape_onDie _ _ fun _ => rfl
  | rply _ => exact shape_onDie _ _ fun _ => rfl
  | mdbg _ _ => exact shape_onDie _ _ fun _ => rfl
  | testLogicReset => exact shape_on _ fun _ => rfl
  | blockLockLoss _ _ _ => exact shape_onDie _ _ fun _ => rfl
  | deskewLoss _ _ => exact shape_onDie _ _ fun _ => rfl
  | frameSilenceTimeout _ _ _ => exact shape_onDie _ _ fun _ => rfl
  | blockLock _ _ _ => exact shape_onDie _ _ fun _ => rfl
  | deskew _ _ => exact shape_onDie _ _ fun _ => rfl
  | trainingExchange _ _ _ => exact shape_onDie _ _ fun _ => rfl
  | trainingAuthFrame _ _ _ => exact shape_onDie _ _ fun _ => rfl
  | trainingTimeout _ _ => exact shape_onDie _ _ fun _ => rfl
  | trainingRetry _ _ => exact shape_onDie _ _ fun _ => rfl
  | lesDecay _ _ => exact shape_onDie _ _ fun _ => rfl
  | offHoldExpiry _ _ => exact shape_onDie _ _ fun _ => rfl
  | offcntClear _ _ => exact shape_onDie _ _ fun _ => rfl
  | retrain _ _ => exact shape_onDie _ _ fun _ => rfl
  | forceOff _ _ => exact shape_onDie _ _ fun _ => rfl
  | portRelease _ _ => exact shape_onDie _ _ fun _ => rfl
  | trainStartBlock _ _ _ => exact shape_onDie _ _ fun _ => rfl
  | trainSegment _ _ _ _ => exact shape_onDieMem _ _ fun _ => rfl
  | trainEndBlock _ _ => exact shape_onDie _ _ fun _ => rfl
  | trainWindowExpiry _ _ => exact shape_onDie _ _ fun _ => rfl
  | trainOriginate _ => exact shape_onDie _ _ fun _ => rfl
  | phaseLockedBound _ _ => exact shape_onDie _ _ fun _ => rfl
  | originationStart _ _ => exact shape_onDie _ _ fun _ => rfl
  | cellFrame _ _ _ _ _ _ => exact shape_onDie _ _ fun _ => rfl
  | replayTimeout _ _ _ => exact shape_onDie _ _ fun _ => rfl
  | keepalive _ _ _ => exact shape_onDie _ _ fun _ => rfl
  | creditSync _ _ _ => exact shape_onDie _ _ fun _ => rfl
  | creditFrameDue _ _ => exact shape_onDie _ _ fun _ => rfl
  | outputSelect _ _ _ => exact shape_onDie _ _ fun _ => rfl
  | presenceSend _ => exact shape_onDie _ _ fun _ => rfl
  | presenceCell _ _ => exact shape_onDie _ _ fun _ => rfl
  | nodeAbsent _ _ => exact shape_onDie _ _ fun _ => rfl
  | errorPacketSend _ => exact shape_onDie _ _ fun _ => rfl
  | multicastCopy _ => exact shape_onDie _ _ fun _ => rfl
  | multicastGiveUp _ _ => exact shape_onDie _ _ fun _ => rfl
  | lpMpRelink _ _ _ _ => exact shape_onDie _ _ fun _ => rfl
  | dieLinkSilence _ _ => exact shape_onDie _ _ fun _ => rfl
  | clockMonitor _ _ => exact shape_onDie _ _ fun _ => rfl
  | ftimeCompare _ _ => exact shape_onDie _ _ fun _ => rfl
  | writeBufferRelease _ => exact shape_onDie _ _ fun _ => rfl
  | forwardPresent _ _ _ => exact shape_onDie _ _ fun _ => rfl
  | wordCellClose _ _ _ => exact shape_onDie _ _ fun _ => rfl
  | creditReturnTimer _ _ => exact shape_onDie _ _ fun _ => rfl
  | creditReturnCell _ _ => exact shape_onDie _ _ fun _ => rfl
  | qgrantRead _ _ _ => exact shape_onMem _ fun _ => rfl
  | windowDataWrite _ _ _ _ _ _ => exact shape_onMem _ fun _ => rfl
  | windowDataRead die origin queue upset arrived =>
    exact shape_onMem (fun x =>
      let h := x.1.countArrival die.val queue.val
        (arrived && decide (die.val < x.1.dies) && x.1.dataOpen die.val queue.val false && !x.1.justFilled die.val queue.val)
      rowRead die.val 4 (256 * queue.val) (if h.isWord die.val queue.val then 4 else 64) origin upset (h, x.2)) fun _ => rfl
  | queueSweepEnd _ _ => exact shape_onDie _ _ fun _ => rfl
  | freeListRebuildEnd _ _ => exact shape_onDie _ _ fun _ => rfl
  | cellScrub _ _ _ => exact shape_onDie _ _ fun _ => rfl
  | linkRamScrub _ _ _ _ => exact shape_onDie _ _ fun _ => rfl
  | descriptorScrub _ _ => exact shape_onDie _ _ fun _ => rfl
  | pumpStart _ _ => exact shape_onDie _ _ fun _ => rfl
  | pumpStartEffect _ _ => exact shape_onDie _ _ fun _ => rfl
  | pumpStopNow _ _ => exact shape_onDie _ _ fun _ => rfl
  | pumpStopAtBoundary _ _ => exact shape_onDie _ _ fun _ => rfl
  | pumpClear _ _ _ => exact shape_onReg _ _ _ _ fun _ => rfl
  | pumpCmdReserved die pump origin =>
    exact shape_onReg die origin (0x40000 + 0x400 * pump.val)
      (fun h => h.violation die.val origin (0x40000 + 0x400 * pump.val)) fun _ => rfl
  | stopBoundaryReached _ _ _ => exact shape_onDie _ _ fun _ => rfl
  | stopTimeout _ _ => exact shape_onDie _ _ fun _ => rfl
  | nop _ _ _ => exact shape_onDie _ _ fun _ => rfl
  | draw _ _ _ _ => exact shape_onDie _ _ fun _ => rfl
  | pour _ _ _ => exact shape_onDie _ _ fun _ => rfl
  | gather _ _ _ => exact shape_onDie _ _ fun _ => rfl
  | store _ _ _ _ => exact shape_onDie _ _ fun _ => rfl
  | await _ _ _ _ => exact shape_onDie _ _ fun _ => rfl
  | loadx _ _ _ => exact shape_onDie _ _ fun _ => rfl
  | loady _ _ _ => exact shape_onDie _ _ fun _ => rfl
  | loadxh _ _ _ => exact shape_onDie _ _ fun _ => rfl
  | loadyh _ _ _ => exact shape_onDie _ _ fun _ => rfl
  | moveOp _ _ _ => exact shape_onDie _ _ fun _ => rfl
  | addOp _ _ _ => exact shape_onDie _ _ fun _ => rfl
  | xorOp _ _ _ => exact shape_onDie _ _ fun _ => rfl
  | testOp _ _ _ => exact shape_onDie _ _ fun _ => rfl
  | countLoad _ _ _ => exact shape_onDie _ _ fun _ => rfl
  | countLoadX _ _ _ => exact shape_onDie _ _ fun _ => rfl
  | countDecrement _ _ _ => exact shape_onDie _ _ fun _ => rfl
  | signal _ _ _ => exact shape_onDie _ _ fun _ => rfl
  | crcInit _ _ _ => exact shape_onDie _ _ fun _ => rfl
  | crcFeed _ _ _ => exact shape_onDie _ _ fun _ => rfl
  | crcFinal _ _ _ => exact shape_onDie _ _ fun _ => rfl
  | stuff _ _ _ => exact shape_onDie _ _ fun _ => rfl
  | codeEncode _ _ _ => exact shape_onDie _ _ fun _ => rfl
  | codeDecode _ _ _ => exact shape_onDie _ _ fun _ => rfl
  | halt _ _ _ => exact shape_onDie _ _ fun _ => rfl
  | illegalInstruction _ _ _ => exact shape_onDie _ _ fun _ => rfl
  | shiftStageFree _ _ _ => exact shape_onDie _ _ fun _ => rfl
  | gatherDelivery _ _ _ _ => exact shape_onDie _ _ fun _ => rfl
  | awaitConditionMet _ _ _ _ => exact shape_onDie _ _ fun _ => rfl
  | awaitTimeout _ _ _ _ => exact shape_onDie _ _ fun _ => rfl
  | storeCreditWaitEnd _ _ _ _ => exact shape_onDie _ _ fun _ => rfl
  | pumpParityCheck _ _ _ _ => exact shape_onDie _ _ fun _ => rfl
  | pinTransition _ _ _ => exact shape_onDie _ _ fun _ => rfl
  | qualifiedLevelChange _ _ => exact shape_onDie _ _ fun _ => rfl
  | rangeOpenLimit _ _ => exact shape_onDie _ _ fun _ => rfl
  | pinTimeout _ _ => exact shape_onDie _ _ fun _ => rfl
  | tripRelease _ _ => exact shape_onDie _ _ fun _ => rfl
  | mioOutWrite _ _ _ => exact shape_onDie _ _ fun _ => rfl
  | outmvWrite _ _ _ _ => exact shape_onDie _ _ fun _ => rfl
  | readbackSettleEnd _ _ => exact shape_onDie _ _ fun _ => rfl
  | readbackMismatch _ _ => exact shape_onDie _ _ fun _ => rfl
  | receiverMismatch _ _ _ => exact shape_onDie _ _ fun _ => rfl
  | canStart _ _ => exact shape_onDie _ _ fun _ => rfl
  | canStop _ _ _ => exact shape_onDie _ _ fun _ => rfl
  | canRecover _ _ _ => exact shape_onReg _ _ _ _ fun _ => rfl
  | canSleep _ _ => exact shape_onDie _ _ fun _ => rfl
  | canWake _ _ => exact shape_onDie _ _ fun _ => rfl
  | canAbort _ _ => exact shape_onDie _ _ fun _ => rfl
  | canCmdReserved _ _ _ => exact shape_onReg _ _ _ _ fun _ => rfl
  | frameSelection _ _ _ => exact shape_onDie _ _ fun _ => rfl
  | canFrameTransmitted _ _ _ => exact shape_onDie _ _ fun _ => rfl
  | arbitrationLost _ _ => exact shape_onDie _ _ fun _ => rfl
  | canError _ _ _ _ _ _ => exact shape_onDie _ _ fun _ => rfl
  | canFrameReceived _ _ _ _ _ _ _ _ _ => exact shape_onDie _ _ fun _ => rfl
  | integrationComplete _ _ => exact shape_onDie _ _ fun _ => rfl
  | recoveryComplete _ _ => exact shape_onDie _ _ fun _ => rfl
  | canWakeDominant _ _ _ => exact shape_onDie _ _ fun _ => rfl
  | canWakeFrame _ _ _ _ _ _ => exact shape_onDie _ _ fun _ => rfl
  | wakeErrorLimit _ _ _ => exact shape_onDie _ _ fun _ => rfl
  | canParityCheck _ _ _ => exact shape_onDie _ _ fun _ => rfl
  | trackerUpdate _ _ _ => exact shape_onDieMem _ _ fun _ => rfl
  | gapLimit _ _ _ => exact shape_onDie _ _ fun _ => rfl
  | trackerSilence _ _ _ => exact shape_onDie _ _ fun _ => rfl
  | holdoverTimeout _ _ _ => exact shape_onDie _ _ fun _ => rfl
  | pacingRaise _ _ => exact shape_onDie _ _ fun _ => rfl
  | entryScan _ _ _ _ => exact shape_onDie _ _ fun _ => rfl
  | eventCommit _ _ => exact shape_onDie _ _ fun _ => rfl
  | eventFire _ _ => exact shape_onDie _ _ fun _ => rfl
  | eventCellPresent _ => exact shape_onDie _ _ fun _ => rfl
  | placerCalibration _ _ => exact shape_onDie _ _ fun _ => rfl
  | entryArm _ _ _ _ => exact shape_onDie _ _ fun _ => rfl
  | trackerLiveRead _ _ => exact shape_onDie _ _ fun _ => rfl
  | delayRequestSend _ _ => exact shape_onDie _ _ fun _ => rfl
  | delayRequest _ _ _ _ => exact shape_onDie _ _ fun _ => rfl
  | delayResponse _ _ _ _ => exact shape_onDie _ _ fun _ => rfl
  | secondEdge => exact shape_on _ fun _ => rfl
  | ppsLoss _ => exact shape_on _ fun _ => rfl
  | ftmAccept => exact shape_on _ fun _ => rfl
  | utcOffsetChange => exact shape_on _ fun _ => rfl
  | calendarSet => exact shape_on _ fun _ => rfl
  | ppsOutPulse => exact shape_on _ fun _ => rfl
  | pcieMemoryRead _ _ _ _ _ _ _ => exact shape_onDieMem _ _ fun _ => rfl
  | pcieMemoryWrite _ _ _ _ _ _ => exact shape_onDieMem _ _ fun _ => rfl
  | pcieConfiguration _ _ _ _ _ _ => exact shape_onDie _ _ fun _ => rfl
  | unsupportedRequest _ _ => exact shape_onDie _ _ fun _ => rfl
  | functionLevelReset _ => exact shape_onDie _ _ fun _ => rfl
  | hostLinkDown _ _ => exact shape_onDie _ _ fun _ => rfl
  | hostLinkUp _ _ _ => exact shape_onDie _ _ fun _ => rfl
  | hostReadTimeout _ _ _ => exact shape_onDie _ _ fun _ => rfl
  | readRequest _ _ _ => exact shape_onDieMem _ _ fun _ => rfl
  | writeRequest _ _ _ => exact shape_onDieMem _ _ fun _ => rfl
  | readCompletion _ _ => exact shape_onDie _ _ fun _ => rfl
  | writeCompletion _ _ => exact shape_onDie _ _ fun _ => rfl
  | lockRead _ _ => exact shape_onDieMem _ _ fun _ => rfl
  | lockWrite _ _ => exact shape_onDieMem _ _ fun _ => rfl
  | unlock _ _ => exact shape_onDieMem _ _ fun _ => rfl
  | lockBusy _ _ => exact shape_onDie _ _ fun _ => rfl
  | errorPacket _ _ => exact shape_onDie _ _ fun _ => rfl
  | badAccessCell _ _ _ => exact shape_onDie _ _ fun _ => rfl
  | pop _ => exact shape_onDie _ _ fun _ => rfl
  | slaveRead _ _ _ _ _ => exact shape_onDieMem _ _ fun _ => rfl
  | slaveWrite _ _ _ _ _ _ => exact shape_onDieMem _ _ fun _ => rfl
  | slaveLockRead _ _ _ _ _ => exact shape_onDieMem _ _ fun _ => rfl
  | slaveLockWrite _ _ => exact shape_onDieMem _ _ fun _ => rfl
  | asRelease _ => exact shape_onDieMem _ _ fun _ => rfl
  | lockTimeout _ _ => exact shape_onDieMem _ _ fun _ => rfl
  | lockReadResend _ => exact shape_onDieMem _ _ fun _ => rfl
  | holdmaxExpiry _ _ => exact shape_onDie _ _ fun _ => rfl
  | slotTimeout _ _ _ => exact shape_onDie _ _ fun _ => rfl
  | masterAccess die origin offset write posted bytes =>
    exact shape_onMem (fun x =>
      submit (x.1.entryOf origin) (x.1.rowReq (if write then 0xA1 else 0xA0) die.val 8 offset.toNat bytes.length origin (write && posted)
        (if write then bytes else [])) .clean x) fun _ => rfl
  | masterCycleEnd _ _ _ => exact shape_onDie _ _ fun _ => rfl
  | fetchTimeout _ => exact shape_onDie _ _ fun _ => rfl
  | interruptAcknowledge _ _ => exact shape_onDie _ _ fun _ => rfl
  | strobeBusAccess _ _ => exact shape_onDie _ _ fun _ => rfl
  | busClear _ => exact shape_onDie _ _ fun _ => rfl
  | backplaneSysreset _ _ => exact shape_onDieMem _ _ fun _ => rfl
  | controlFrameSend _ => exact shape_onDie _ _ fun _ => rfl
  | measurementFrame _ => exact shape_onDie _ _ fun _ => rfl
  | wlhLinkSilent _ => exact shape_onDie _ _ fun _ => rfl
  | wellhouseConversion _ _ => exact shape_onAny _ fun _ => rfl
  | refclkQualified => exact shape_onAny (fun h => { h with wlh.refclk := true }) fun _ => rfl
  | inputWindowEnter => exact shape_onAny _ fun _ => rfl
  | inputWindowLeave _ => exact shape_onAny _ fun _ => rfl
  | insertionDelayEnd => exact shape_onAny (fun h => if h.wlh.hs = 1 ∧ h.wlh.inWindow then h.ramp else h) fun _ => rfl
  | hotswapOn => exact shape_onAny (fun h => if h.wlh.hs = 2 ∧ !h.wlh.hold then { h with wlh := { h.wlh with hs := 3, limit := false } } else h) fun _ => rfl
  | powerGoodQualified _ => exact shape_onAny _ fun _ => rfl
  | faultTimerExpiry => exact shape_onAny _ fun _ => rfl
  | faultTimerClear => exact shape_onAny (fun h => if h.wlh.hold then h else { h with wlh := { h.wlh with limit := false, timer := false } }) fun _ => rfl
  | fastTrip => exact shape_onAny _ fun _ => rfl
  | fastTripHoldEnd => exact shape_onAny (fun h => { h with wlh.hold := false }) fun _ => rfl
  | retryWaitEnd => exact shape_onAny _ fun _ => rfl
  | retryCountClear => exact shape_onAny (fun h => if h.wlh.pg then { h with wlh.retry := 0 } else h) fun _ => rfl
  | powerGoodDrop => exact shape_onAny (fun h => if h.wlh.pg then h.powerDrop else h) fun _ => rfl
  | overvoltageEvent => exact shape_onAny (fun h => if h.wlh.hs = 3 then h.wlhFlag 2 else h) fun _ => rfl
  | reverseTurnOff _ => exact shape_onAny _ fun _ => rfl
  | idealDiodeResume feed => exact shape_onAny (fun h => { h with wlh := h.wlh.setFeed feed.val { h.wlh.feed feed.val with diode := true } }) fun _ => rfl
  | feedPresent _ => exact shape_onAny _ fun _ => rfl
  | feedLost _ _ => exact shape_onAny _ fun _ => rfl
  | fieldFeedBad _ => exact shape_onAny _ fun _ => rfl
  | bbmEnd => exact shape_onAny (fun h => if h.wlh.fbreak then { h with wlh.fbreak := false }.fieldSelect else h) fun _ => rfl
  | fieldReturn => exact shape_onAny _ fun _ => rfl
  | fieldOvercurrent => exact shape_onAny _ fun _ => rfl
  | fieldResume => exact shape_on _ fun _ => rfl
  | fieldOff => exact shape_on _ fun _ => rfl
  | autoEntry _ => exact shape_onAny _ fun _ => rfl
  | holdupFault _ => exact shape_onAny _ fun _ => rfl
  | requestedEntryWaitEnd => exact shape_on _ fun _ => rfl
  | forcedEntryWaitEnd => exact shape_on _ fun _ => rfl
  | ledgerPageWrite => exact shape_on _ fun _ => rfl
  | logNvmWriteDone readback => exact shape_on (fun h => (logNvmWriteDone readback h).duskCheck) fun _ => rfl
  | ledgerPageRetry => exact shape_on _ fun _ => rfl
  | lastSeqRebuild => exact shape_on _ fun _ => rfl
  | archiveMark _ _ => exact shape_on _ fun _ => rfl
  | ledgerRead _ _ _ _ => exact shape_onMem _ fun _ => rfl
  | imageShadowRead _ _ _ _ => exact shape_onMem _ fun _ => rfl
  | eventReport _ => exact shape_onDie _ _ fun _ => rfl
  | recordWrite _ => exact shape_onDie _ _ fun _ => rfl
  | recorderCopy _ => exact shape_on _ fun _ => rfl
  | evrClr _ _ => exact shape_onReg _ _ _ _ fun _ => rfl
  | clearRetry _ => exact shape_onDie _ _ fun _ => rfl
  | digest _ => exact shape_onDie _ _ fun _ => rfl
  | checkpointBegin => exact shape_onMem _ fun _ => rfl
  | checkpointEnd _ => exact shape_onDie _ _ fun _ => rfl
  | jrnFreeze _ => exact shape_onDie _ _ fun _ => rfl
  | freezeEffect => exact shape_on _ fun _ => rfl
  | postComplete _ => exact shape_onDie _ _ fun _ => rfl
  | jrnRearm => exact shape_on _ fun _ => rfl
  | journalLossEnd _ => exact shape_onDie _ _ fun _ => rfl
  | replayLoad _ => exact shape_onDieMem _ _ fun _ => rfl
  | replayRun _ => exact shape_onDie _ _ fun _ => rfl
  | replayPause _ => exact shape_onDie _ _ fun _ => rfl
  | replayCmdReserved _ _ => exact shape_onReg _ _ _ _ fun _ => rfl
  | replayFeed _ _ => exact shape_onDie _ _ fun _ => rfl
  | replayStop => exact shape_on _ fun _ => rfl
  | replayEnd _ => exact shape_onDie _ _ fun _ => rfl
  | vaultCommand _ _ _ _ _ => exact shape_onReg _ _ _ _ fun _ => rfl
  | engineRequest _ _ _ _ => exact shape_onDie _ _ fun _ => rfl
  | entropyHealthFail => exact shape_on _ fun _ => rfl
  | vltRevoke _ => exact shape_on _ fun _ => rfl
  | keySlotCheck _ _ _ _ => exact shape_onDie _ _ fun _ => rfl
  | attestationRequest _ _ => exact shape_onReg _ _ _ _ fun _ => rfl
  | statementSigned => exact shape_on _ fun _ => rfl
  | tamperSample _ => exact shape_onAny _ fun _ => rfl
  | tamperLogClear => exact shape_on _ fun _ => rfl
  | heartbeat _ _ _ => exact shape_onReg _ _ _ _ fun _ => rfl
  | watchdogExpiry _ _ => exact shape_onDie _ _ fun _ => rfl
  | lockstepMismatch _ => exact shape_onDie _ _ fun _ => rfl
  | pairRestart _ => exact shape_onDie _ _ fun _ => rfl
  | mirrorRebuild => exact shape_on _ fun _ => rfl
  | updateStart => exact shape_on _ fun _ => rfl
  | updateCommit => exact shape_on _ fun _ => rfl
  | updateAbort => exact shape_on _ fun _ => rfl
  | mgtUdata _ _ _ => exact shape_onReg _ _ _ _ fun _ => rfl
  | norWriteComplete _ => exact shape_on _ fun _ => rfl
  | holdupWaitTimeout => exact shape_on _ fun _ => rfl
  | handover _ _ => exact shape_on _ fun _ => rfl
  | handoverTimeout => exact shape_on _ fun _ => rfl
  | ringBootWriteBack _ => exact shape_on _ fun _ => rfl
  | faultReport => exact shape_on _ fun _ => rfl
  | fltSclr _ _ => exact shape_on _ fun _ => rfl
  | restore => exact shape_on _ fun _ => rfl
  | rcRead _ _ _ => exact shape_onMem _ fun _ => rfl
  | registerWrite _ _ _ _ _ => exact shape_onMem _ fun _ => rfl
  | pourGroupEmit _ _ _ => exact shape_onDie _ _ fun _ => rfl
  | dieLinkTrained _ _ => exact shape_onDie _ _ fun _ => rfl
  | currentLimitActive => exact shape_onAny (fun h => if h.wlh.gate then { h with wlh := { h.wlh with limit := true, timer := true } } else h) fun _ => rfl
  | storeFetConduct => exact shape_onAny (fun h => if h.wlh.pg && !h.wlh.off then { h with wlh.store := true } else h) fun _ => rfl
  | storeFetOff => exact shape_onAny (fun h => { h with wlh.store := false }) fun _ => rfl
  | busGrant _ => exact shape_onDie _ _ fun _ => rfl
  | processImageScrub _ _ => exact shape_onDie _ _ fun _ => rfl
  | entropyHealthPass => exact shape_on _ fun _ => rfl
  | supplyConditionChange _ _ => exact shape_onDie _ _ fun _ => rfl
  | temperatureConditionChange _ _ => exact shape_onDie _ _ fun _ => rfl

end Sys2Proof.Machine
end

