-- ==== Sys2Proof/Laws/Whole.lean ====
section
/-!
SUPPORT. Lemmas on fields of the state and the whole machine.
-/

namespace Sys2Proof.Machine

/-- An iteration keeps what each of its steps keeps. -/
theorem iter_keeps' {α : Type} (P : α → Prop) (f : Nat → α → α) (n : Nat) (hf : ∀ i g, P g → P (f i g)) (a : α) (p : P a) : P (iter n f a) := by
  unfold iter
  generalize List.range n = l
  induction l generalizing a with
  | nil => exact p
  | cons x l ih => exact ih _ (hf x a p)

theorem each_keeps' {α β : Type} (P : α → Prop) (f : β → α → α) (l : List β) (hf : ∀ i g, P g → P (f i g)) (a : α) (p : P a) : P (each l f a) := by
  unfold each
  induction l generalizing a with
  | nil => exact p
  | cons x l ih => exact ih _ (hf x a p)

theorem foldl_fixed {α β : Type} (f : α → β → α) (a : α) : ∀ l : List β, (∀ b ∈ l, f a b = a) → l.foldl f a = a
  | [], _ => rfl
  | b :: l, k => by rw [List.foldl_cons, k b List.mem_cons_self]; exact foldl_fixed f a l fun c m => k c (List.mem_cons_of_mem _ m)

theorem retryParked_none {h : Hw} {m : SMap Byte} (n : ∀ d < h.dies, (h.eng d).parked = []) : retryParked (h, m) = (h, m) := by
  refine foldl_fixed _ _ _ fun d k => ?_
  show (match (h.eng d).parked with
    | [] => (h, m)
    | r :: rs => each (r :: rs) (fun r x => submitPlain d r .clean x) (h.setEng d { h.eng d with parked := [] }, m)) = _
  rw [n d (List.mem_range.mp k)]

theorem shaped_next {d : Option Die} {night : Bool} {f : Hw × SMap Byte → Hw × SMap Byte} {s t : State} (e : shaped d night f s = .next t) :
    t = s ∨ (¬(night = false ∧ s.hw.node.state = .night) ∧ t = { s with hw := (f (s.hw, s.pir)).1, pir := (f (s.hw, s.pir)).2 }) := by
  unfold shaped at e
  split at e
  · exact .inl (Host.Outcome.next.inj e).symm
  · split at e
    · exact .inl (Host.Outcome.next.inj e).symm
    · exact .inr ⟨‹_›, (Host.Outcome.next.inj e).symm⟩

theorem onMem_cases {s t : State} {f : Hw × SMap Byte → Hw × SMap Byte} (e : s.onMem f = .next t) :
   (t = s ∨ t = { s with hw := (f (s.hw, s.pir)).1, pir := (f (s.hw, s.pir)).2 }) := by
  unfold State.onMem at e
  split at e
  · exact .inl (Host.Outcome.next.inj e).symm
  · exact .inr (Host.Outcome.next.inj e).symm

theorem wf_onDieMem {s t : State} {d : Die} {f : Hw × SMap Byte → Hw × SMap Byte} (e : s.onDieMem d f = .next t) (w : Memory.wf s.pir = true)
    (hf : ∀ x : Hw × SMap Byte, Memory.wf x.2 = true → Memory.wf (f x).2 = true) : Memory.wf t.pir = true := by
  obtain rfl | ⟨-, -, rfl⟩ := State.onDieMem_cases e
  · exact w
  · exact hf _ w

theorem wf_onMem {s t : State} {f : Hw × SMap Byte → Hw × SMap Byte} (e : s.onMem f = .next t) (w : Memory.wf s.pir = true)
    (hf : ∀ x : Hw × SMap Byte, Memory.wf x.2 = true → Memory.wf (f x).2 = true) : Memory.wf t.pir = true := by
  obtain rfl | rfl := onMem_cases e
  · exact w
  · exact hf _ w

theorem wfx_trainSegment {a0 a1 a2 a3} {s t : State} (x : exec (.trainSegment a0 a1 a2 a3) s = .next t) (w : Memory.wf s.pir = true)
    : Memory.wf t.pir = true :=
  wf_onDieMem x w fun y k => by (first | simp [k] | simp +contextual [k] | (dsimp only; (repeat' split) <;> simp [k]))

theorem wfx_qgrantRead {a0 a1 a2} {s t : State} (x : exec (.qgrantRead a0 a1 a2) s = .next t) (w : Memory.wf s.pir = true) : Memory.wf t.pir = true :=
  wf_onMem x w fun y k => by (first | simp [k] | simp +contextual [k] | (dsimp only; (repeat' split) <;> simp [k]))

theorem wfx_windowDataWrite {a0 a1 a2 a3 a4 a5} {s t : State} (x : exec (.windowDataWrite a0 a1 a2 a3 a4 a5) s = .next t)
    (w : Memory.wf s.pir = true) : Memory.wf t.pir = true :=
  wf_onMem x w fun y k => by (first | simp [k] | simp +contextual [k] | (dsimp only; (repeat' split) <;> simp [k]))

theorem wf_onMem' {s t : State} {f : Hw × SMap Byte → Hw × SMap Byte} (e : s.onMem f = .next t) (w : Memory.wf s.pir = true)
    (hf : ∀ x : Hw × SMap Byte, Memory.wf x.2 = true → ∃ z, f x = z ∧ Memory.wf z.2 = true) : Memory.wf t.pir = true :=
  wf_onMem e w fun y k => by
    obtain ⟨z, e, l⟩ := hf y k
    rw [e]; exact l

theorem wf_rowRead' (d sp off len : Nat) (o : Origin) (u : Upset) (h : Hw) (m : SMap Byte) (w : Memory.wf m = true) :
    Memory.wf (rowRead d sp off len o u (h, m)).2 = true := rowRead_wf _ _ _ _ _ _ _ w

theorem wf_readAt {s t : State} (d off : Nat) (g : Hw → Hw) (n : Hw → Nat) (o : Origin) (u : Upset)
    (x : s.onMem (fun x => rowRead d 4 off (n (g x.1)) o u (g x.1, x.2)) = .next t) (w : Memory.wf s.pir = true) : Memory.wf t.pir = true :=
  wf_onMem' x w fun y k => ⟨rowRead d 4 off (n (g y.1)) o u (g y.1, y.2), rfl, wf_rowRead' _ _ _ _ _ _ _ _ k⟩

theorem wfx_windowDataRead {a0 a1 a2 a3 a4} {s t : State} (x : exec (.windowDataRead a0 a1 a2 a3 a4) s = .next t) (w : Memory.wf s.pir = true)
    : Memory.wf t.pir = true :=
  wf_readAt a0.val (256 * a2.val) (fun h => h.countArrival a0.val a2.val
    (a4 && decide (a0.val < h.dies) && h.dataOpen a0.val a2.val false && !h.justFilled a0.val a2.val))
    (fun h => if h.isWord a0.val a2.val then 4 else 64) a1 a3 x w

theorem wfx_trackerUpdate {a0 a1 a2} {s t : State} (x : exec (.trackerUpdate a0 a1 a2) s = .next t) (w : Memory.wf s.pir = true)
    : Memory.wf t.pir = true :=
  wf_onDieMem x w fun y k => by (first | simp [k] | simp +contextual [k] | (dsimp only; (repeat' split) <;> simp [k]))

theorem wfx_pcieMemoryRead {a0 a1 a2 a3 a4 a5 a6} {s t : State} (x : exec (.pcieMemoryRead a0 a1 a2 a3 a4 a5 a6) s = .next t)
    (w : Memory.wf s.pir = true) : Memory.wf t.pir = true :=
  wf_onDieMem x w fun y k => by (first | simp [k] | simp +contextual [k] | (dsimp only; (repeat' split) <;> simp [k]))

theorem wfx_pcieMemoryWrite {a0 a1 a2 a3 a4 a5} {s t : State} (x : exec (.pcieMemoryWrite a0 a1 a2 a3 a4 a5) s = .next t)
    (w : Memory.wf s.pir = true) : Memory.wf t.pir = true :=
  wf_onDieMem x w fun y k => by (first | simp [k] | simp +contextual [k] | (dsimp only; (repeat' split) <;> simp [k]))

theorem wfx_readRequest {a0 a1 a2} {s t : State} (x : exec (.readRequest a0 a1 a2) s = .next t) (w : Memory.wf s.pir = true)
    : Memory.wf t.pir = true :=
  wf_onDieMem x w fun y k => by (first | simp [k] | simp +contextual [k] | (dsimp only; (repeat' split) <;> simp [k]))

theorem wfx_writeRequest {a0 a1 a2} {s t : State} (x : exec (.writeRequest a0 a1 a2) s = .next t) (w : Memory.wf s.pir = true)
    : Memory.wf t.pir = true :=
  wf_onDieMem x w fun y k => by (first | simp [k] | simp +contextual [k] | (dsimp only; (repeat' split) <;> simp [k]))

theorem wfx_lockRead {a0 a1} {s t : State} (x : exec (.lockRead a0 a1) s = .next t) (w : Memory.wf s.pir = true) : Memory.wf t.pir = true :=
  wf_onDieMem x w fun y k => by (first | simp [k] | simp +contextual [k] | (dsimp only; (repeat' split) <;> simp [k]))

theorem wfx_lockWrite {a0 a1} {s t : State} (x : exec (.lockWrite a0 a1) s = .next t) (w : Memory.wf s.pir = true) : Memory.wf t.pir = true :=
  wf_onDieMem x w fun y k => by (first | simp [k] | simp +contextual [k] | (dsimp only; (repeat' split) <;> simp [k]))

theorem wfx_unlock {a0 a1} {s t : State} (x : exec (.unlock a0 a1) s = .next t) (w : Memory.wf s.pir = true) : Memory.wf t.pir = true :=
  wf_onDieMem x w fun y k => by (first | simp [k] | simp +contextual [k] | (dsimp only; (repeat' split) <;> simp [k]))

theorem wfx_slaveRead {a0 a1 a2 a3 a4} {s t : State} (x : exec (.slaveRead a0 a1 a2 a3 a4) s = .next t) (w : Memory.wf s.pir = true)
    : Memory.wf t.pir = true :=
  wf_onDieMem x w fun y k => by (first | simp [k] | simp +contextual [k] | (dsimp only; (repeat' split) <;> simp [k]))

theorem wfx_slaveWrite {a0 a1 a2 a3 a4 a5} {s t : State} (x : exec (.slaveWrite a0 a1 a2 a3 a4 a5) s = .next t) (w : Memory.wf s.pir = true)
    : Memory.wf t.pir = true :=
  wf_onDieMem x w fun y k => by (first | simp [k] | simp +contextual [k] | (dsimp only; (repeat' split) <;> simp [k]))

theorem wfx_slaveLockRead {a0 a1 a2 a3 a4} {s t : State} (x : exec (.slaveLockRead a0 a1 a2 a3 a4) s = .next t) (w : Memory.wf s.pir = true)
    : Memory.wf t.pir = true :=
  wf_onDieMem x w fun y k => by (first | simp [k] | simp +contextual [k] | (dsimp only; (repeat' split) <;> simp [k]))

theorem wfx_slaveLockWrite {a0 a1} {s t : State} (x : exec (.slaveLockWrite a0 a1) s = .next t) (w : Memory.wf s.pir = true)
    : Memory.wf t.pir = true :=
  wf_onDieMem x w fun y k => by (first | simp [k] | simp +contextual [k] | (dsimp only; (repeat' split) <;> simp [k]))

theorem wfx_asRelease {a0} {s t : State} (x : exec (.asRelease a0) s = .next t) (w : Memory.wf s.pir = true) : Memory.wf t.pir = true :=
  wf_onDieMem x w fun y k => by (first | simp [k] | simp +contextual [k] | (dsimp only; (repeat' split) <;> simp [k]))

theorem wfx_lockTimeout {a0 a1} {s t : State} (x : exec (.lockTimeout a0 a1) s = .next t) (w : Memory.wf s.pir = true) : Memory.wf t.pir = true :=
  wf_onDieMem x w fun y k => by (first | simp [k] | simp +contextual [k] | (dsimp only; (repeat' split) <;> simp [k]))

theorem wfx_lockReadResend {a0} {s t : State} (x : exec (.lockReadResend a0) s = .next t) (w : Memory.wf s.pir = true) : Memory.wf t.pir = true :=
  wf_onDieMem x w fun y k => by (first | simp [k] | simp +contextual [k] | (dsimp only; (repeat' split) <;> simp [k]))

theorem wf_submitAt {s t : State} (en : Hw → Nat) (r : Hw → Req) (u : Upset)
    (x : s.onMem (fun x => submit (en x.1) (r x.1) u x) = .next t) (w : Memory.wf s.pir = true) : Memory.wf t.pir = true :=
  wf_onMem x w fun y k => submit_wf _ _ _ y k

theorem wfx_masterAccess {a0 a1 a2 a3 a4 a5} {s t : State} (x : exec (.masterAccess a0 a1 a2 a3 a4 a5) s = .next t) (w : Memory.wf s.pir = true)
    : Memory.wf t.pir = true :=
  wf_submitAt (fun h => h.entryOf a1) (fun h => h.rowReq (if a3 then 0xA1 else 0xA0) a0.val 8 a2.toNat a5.length a1 (a3 && a4)
      (if a3 then a5 else [])) .clean x w

theorem wfx_backplaneSysreset {a0 a1} {s t : State} (x : exec (.backplaneSysreset a0 a1) s = .next t) (w : Memory.wf s.pir = true)
    : Memory.wf t.pir = true :=
  wf_onDieMem x w fun y k => by (first | simp [k] | simp +contextual [k] | (dsimp only; (repeat' split) <;> simp [k]))

theorem wfx_ledgerRead {a0 a1 a2 a3} {s t : State} (x : exec (.ledgerRead a0 a1 a2 a3) s = .next t) (w : Memory.wf s.pir = true)
    : Memory.wf t.pir = true :=
  wf_onMem x w fun y k => by (first | simp [k] | simp +contextual [k] | (dsimp only; (repeat' split) <;> simp [k]))

theorem wfx_imageShadowRead {a0 a1 a2 a3} {s t : State} (x : exec (.imageShadowRead a0 a1 a2 a3) s = .next t) (w : Memory.wf s.pir = true)
    : Memory.wf t.pir = true :=
  wf_onMem x w fun y k => by (first | simp [k] | simp +contextual [k] | (dsimp only; (repeat' split) <;> simp [k]))

theorem wfx_checkpointBegin {s t : State} (x : exec (.checkpointBegin) s = .next t) (w : Memory.wf s.pir = true) : Memory.wf t.pir = true :=
  wf_onMem x w fun y k => by (first | simp [k] | simp +contextual [k] | (dsimp only; (repeat' split) <;> simp [k]))

theorem wfx_replayLoad {a0} {s t : State} (x : exec (.replayLoad a0) s = .next t) (w : Memory.wf s.pir = true) : Memory.wf t.pir = true :=
  wf_onDieMem x w fun y k => by (first | simp [k] | simp +contextual [k] | (dsimp only; (repeat' split) <;> simp [k]))

theorem wfx_rcRead {a0 a1 a2} {s t : State} (x : exec (.rcRead a0 a1 a2) s = .next t) (w : Memory.wf s.pir = true) : Memory.wf t.pir = true :=
  wf_onMem x w fun y k => by (first | simp [k] | simp +contextual [k] | (dsimp only; (repeat' split) <;> simp [k]))

theorem wfx_registerWrite {a0 a1 a2 a3 a4} {s t : State} (x : exec (.registerWrite a0 a1 a2 a3 a4) s = .next t) (w : Memory.wf s.pir = true)
    : Memory.wf t.pir = true :=
  wf_onMem x w fun y k => by (first | simp [k] | simp +contextual [k] | (dsimp only; (repeat' split) <;> simp [k]))

theorem exec_wf (c : Instr) (s t : State) (x : exec c s = .next t) (w : Memory.wf s.pir = true) : Memory.wf t.pir = true := by
  by_cases r : reachesPir c = false
  · obtain ⟨f, p, e⟩ := exec_shape c
    rw [e] at x
    rcases shaped_next x with rfl | ⟨a, rfl⟩
    · exact w
    · show Memory.wf (f (s.hw, s.pir)).2 = true
      rw [p r]; exact w
  · cases c <;> (first | exact absurd rfl r | skip)
    case trainSegment => exact wfx_trainSegment x w
    case qgrantRead => exact wfx_qgrantRead x w
    case windowDataWrite => exact wfx_windowDataWrite x w
    case windowDataRead => exact wfx_windowDataRead x w
    case trackerUpdate => exact wfx_trackerUpdate x w
    case pcieMemoryRead => exact wfx_pcieMemoryRead x w
    case pcieMemoryWrite => exact wfx_pcieMemoryWrite x w
    case readRequest => exact wfx_readRequest x w
    case writeRequest => exact wfx_writeRequest x w
    case lockRead => exact wfx_lockRead x w
    case lockWrite => exact wfx_lockWrite x w
    case unlock => exact wfx_unlock x w
    case slaveRead => exact wfx_slaveRead x w
    case slaveWrite => exact wfx_slaveWrite x w
    case slaveLockRead => exact wfx_slaveLockRead x w
    case slaveLockWrite => exact wfx_slaveLockWrite x w
    case asRelease => exact wfx_asRelease x w
    case lockTimeout => exact wfx_lockTimeout x w
    case lockReadResend => exact wfx_lockReadResend x w
    case masterAccess => exact wfx_masterAccess x w
    case backplaneSysreset => exact wfx_backplaneSysreset x w
    case ledgerRead => exact wfx_ledgerRead x w
    case imageShadowRead => exact wfx_imageShadowRead x w
    case checkpointBegin => exact wfx_checkpointBegin x w
    case replayLoad => exact wfx_replayLoad x w
    case rcRead => exact wfx_rcRead x w
    case registerWrite => exact wfx_registerWrite x w

theorem bit_lt {n i : Nat} (l : n < 2 ^ i) : bit n i = false := by
  unfold bit
  simp [Nat.testBit_lt_two_pow l, Nat.div_eq_of_lt l]

theorem lc_round (h : Hw) (d n x : Nat)
    (i1 : 1 ≤ h.rd d R.PMP_LCCFG_INW n) (o1 : 1 ≤ h.rd d R.PMP_LCCFG_OUTW n) (i4 : h.rd d R.PMP_LCCFG_INW n + b2n (h.on d R.PMP_LCCFG_PREV n) ≤ 4)
    (u : ∀ e f, e < 16 → f < 16 → h.on d R.PMP_LCT_VALID n e = true → h.on d R.PMP_LCT_VALID n f = true →
      (h.on d R.PMP_LCCFG_PREV n = true → bit e (h.rd d R.PMP_LCCFG_INW n) = bit f (h.rd d R.PMP_LCCFG_INW n)) →
      h.rd d R.PMP_LCT_OUTPAT n e % 2 ^ h.rd d R.PMP_LCCFG_OUTW n = h.rd d R.PMP_LCT_OUTPAT n f % 2 ^ h.rd d R.PMP_LCCFG_OUTW n → e = f)
    (g : Nat) : ∀ (k : Nat) (p : Bool) (v : Nat) (q : Bool), h.encodeGroups d n x g k p = some (v, q) →
      ∃ v', v = v' * 2 ^ (h.rd d R.PMP_LCCFG_OUTW n * k) ∧ v' < 2 ^ (h.rd d R.PMP_LCCFG_OUTW n * g) ∧
        ∀ gs, gs / 2 ^ (h.rd d R.PMP_LCCFG_OUTW n * k) % 2 ^ (h.rd d R.PMP_LCCFG_OUTW n * g) = v' →
          h.decodeGroups d n gs g k p = (x / 2 ^ (h.rd d R.PMP_LCCFG_INW n * k) % 2 ^ (h.rd d R.PMP_LCCFG_INW n * g)
              * 2 ^ (h.rd d R.PMP_LCCFG_INW n * k), q, true) := by
  induction g with
  | zero =>
    intro k p v q e
    unfold Hw.encodeGroups at e
    cases e
    refine ⟨0, by simp, by simp, fun gs _ => ?_⟩
    unfold Hw.decodeGroups
    simp [Nat.mod_one]
  | succ g ih =>
    intro k p v q e
    unfold Hw.encodeGroups at e
    dsimp only at e
    generalize hi : h.rd d R.PMP_LCCFG_INW n = inw at *
    generalize ho : h.rd d R.PMP_LCCFG_OUTW n = outw at *
    have datalt : bits x (inw * k) inw < 2 ^ inw := bits_lt ..
    generalize hd : bits x (inw * k) inw = data at *
    have el : h.codeIndex d n data p < 16 := by
      unfold Hw.codeIndex
      rw [hi]
      cases hp : h.on d R.PMP_LCCFG_PREV n <;> rw [hp] at i4 <;> simp only [b2n] at i4
      · rw [if_neg (by simp)]
        have : 2 ^ inw ≤ 2 ^ 4 := Nat.pow_le_pow_right (by decide) (by simpa using i4)
        omega
      · have : 2 ^ inw ≤ 2 ^ 3 := Nat.pow_le_pow_right (by decide) (by simp at i4; omega)
        split <;> omega
    have elow : low inw (h.codeIndex d n data p) = data := by
      unfold Hw.codeIndex low
      rw [hi]
      split
      · rw [Nat.add_mod_right]; exact Nat.mod_eq_of_lt datalt
      · exact Nat.mod_eq_of_lt datalt
    have ebit : h.on d R.PMP_LCCFG_PREV n = true → bit (h.codeIndex d n data p) inw = p := by
      intro pr
      unfold Hw.codeIndex
      rw [hi]
      cases p
      · rw [if_neg (by simp)]; exact bit_lt datalt
      · rw [if_pos ⟨pr, rfl⟩]
        unfold bit
        have : (data + 2 ^ inw) / 2 ^ inw = 1 := by
          rw [Nat.add_div_right _ (Nat.two_pow_pos _), Nat.div_eq_of_lt datalt]
        simp [this]
    generalize he : h.codeIndex d n data p = ent at *
    split at e
    · rename_i val
      have pl : low outw (h.rd d R.PMP_LCT_OUTPAT n ent) < 2 ^ outw := low_lt ..
      have pd : low outw (h.rd d R.PMP_LCT_OUTPAT n ent) = h.rd d R.PMP_LCT_OUTPAT n ent % 2 ^ outw := rfl
      generalize hpat : low outw (h.rd d R.PMP_LCT_OUTPAT n ent) = pat at *
      split at e
      · rename_i v1 q1 e1
        cases e
        obtain ⟨v', rfl, vl, dec⟩ := ih _ _ _ _ e1
        refine ⟨pat + v' * 2 ^ outw, ?_, ?_, ?_⟩
        · rw [Nat.mul_succ, Nat.pow_add]; ring
        · have : (v' + 1) * 2 ^ outw ≤ 2 ^ (outw * g) * 2 ^ outw := Nat.mul_le_mul_right _ vl
          rw [Nat.mul_succ, Nat.pow_add]
          have e2 : (v' + 1) * 2 ^ outw = v' * 2 ^ outw + 2 ^ outw := by ring
          omega
        · intro gs gv
          have A : gs / 2 ^ (outw * k) % 2 ^ outw = pat := by
            have : gs / 2 ^ (outw * k) % 2 ^ (outw * (g + 1)) % 2 ^ outw = (pat + v' * 2 ^ outw) % 2 ^ outw := by rw [gv]
            rw [Nat.mod_mod_of_dvd _ (pow_dvd_pow 2 (by rw [Nat.mul_succ]; omega)), Nat.add_mul_mod_self_right, Nat.mod_eq_of_lt pl] at this
            exact this
          have B : gs / 2 ^ (outw * (k + 1)) % 2 ^ (outw * g) = v' := by
            have : gs / 2 ^ (outw * k) % 2 ^ (outw * (g + 1)) / 2 ^ outw = (pat + v' * 2 ^ outw) / 2 ^ outw := by rw [gv]
            rw [Nat.add_mul_div_right _ _ (Nat.two_pow_pos _), Nat.div_eq_of_lt pl, Nat.zero_add] at this
            rw [show outw * (g + 1) = outw + outw * g by ring, Nat.pow_add, Nat.mod_mul_right_div_self, Nat.div_div_eq_div_mul, ← Nat.pow_add] at this
            rw [show outw * (k + 1) = outw * k + outw by ring]
            exact this
          have C := dec gs B
          have D : h.decodeEntry d n pat p = some ent := by
            have ok : ∀ e', e' < 16 → ((h.on d R.PMP_LCT_VALID n e' && low outw (h.rd d R.PMP_LCT_OUTPAT n e') == pat &&
                (!h.on d R.PMP_LCCFG_PREV n || bit e' inw == p)) = true ↔ e' = ent) := by
              intro e' l'
              constructor
              · intro z
                simp only [Bool.and_eq_true, beq_iff_eq, Bool.or_eq_true, Bool.not_eq_true'] at z
                refine u e' ent l' el z.1.1 val (fun pr => ?_) (z.1.2.trans pd)
                rcases z.2 with z2 | z2
                · rw [z2] at pr; cases pr
                · rw [z2, ebit pr]
              · rintro rfl
                simp only [Bool.and_eq_true, beq_iff_eq, Bool.or_eq_true, Bool.not_eq_true']
                refine ⟨⟨val, hpat⟩, ?_⟩
                cases hp : h.on d R.PMP_LCCFG_PREV n
                · exact .inl rfl
                · exact .inr (ebit hp)
            unfold Hw.decodeEntry
            rw [hi, ho]
            rw [List.find?_range_eq_some]
            refine ⟨(ok ent el).mpr rfl, List.mem_range.mpr el, fun j jl => ?_⟩
            by_contra c
            have := (ok j (by omega)).mp (by simpa only [Bool.not_eq_true', Bool.not_eq_false] using c)
            omega
          unfold Hw.decodeGroups
          dsimp only
          rw [hi, ho]
          have E : bits gs (outw * k) outw = pat := A
          rw [E, C, D]
          dsimp only
          rw [elow]
          have F : x / 2 ^ (inw * k) % 2 ^ inw = data := hd
          have G : x / 2 ^ (inw * k) % 2 ^ (inw * (g + 1)) = data + 2 ^ inw * (x / 2 ^ (inw * (k + 1)) % 2 ^ (inw * g)) := by
            rw [show inw * (g + 1) = inw + inw * g by ring, Nat.pow_add, Nat.mod_mul, F, show inw * (k + 1)
                = inw * k + inw by ring, Nat.pow_add, Nat.div_div_eq_div_mul]
          rw [G]
          refine Prod.ext ?_ rfl
          dsimp only
          rw [show inw * (k + 1) = inw * k + inw by ring, Nat.pow_add]
          ring
      · cases e
    · cases e

theorem bit_testBit (n i : Nat) : bit n i = n.testBit i := by
  unfold bit
  rw [Nat.testBit_eq_decide_div_mod_eq]
  try rfl

theorem refl_sum (w v : Nat) : ∀ m ≤ w, (List.range m).foldl (fun a i => if bit v i then a + 2 ^ (w - 1 - i) else a) 0 % 2 ^ (w - m) = 0 ∧
    (∀ i < w, ((List.range m).foldl (fun a i => if bit v i then a + 2 ^ (w - 1 - i) else a) 0).testBit i = (decide (w - m ≤ i) &&
        v.testBit (w - 1 - i))) ∧
    (List.range m).foldl (fun a i => if bit v i then a + 2 ^ (w - 1 - i) else a) 0 < 2 ^ w := by
  intro m
  induction m with
  | zero => intro _; refine ⟨by simp, fun i l => ?_, by simp⟩; simp; omega
  | succ m ih =>
    intro l
    obtain ⟨a, b, c⟩ := ih (by omega)
    rw [List.range_succ, List.foldl_append]
    simp only [List.foldl_cons, List.foldl_nil]
    generalize (List.range m).foldl (fun a i => if bit v i then a + 2 ^ (w - 1 - i) else a) 0 = s at *
    have hs : ∃ t, s = t * 2 ^ (w - m) := ⟨s / 2 ^ (w - m), by rw [Nat.div_mul_cancel (Nat.dvd_of_mod_eq_zero a)]⟩
    obtain ⟨t, rfl⟩ := hs
    have wm : w - m = (w - 1 - m) + 1 := by omega
    have wm' : w - (m + 1) = w - 1 - m := by omega
    rw [wm']
    rw [bit_testBit]
    have tb : ∀ i, (t * 2 ^ (w - m) + 2 ^ (w - 1 - m)).testBit i = ((t * 2 ^ (w - m)).testBit i || decide (i = w - 1 - m)) := by
      intro i
      rw [Nat.mul_comm, Nat.two_pow_add_eq_or_of_lt (Nat.pow_lt_pow_right (by decide) (by omega))]
      simp [Nat.testBit_or, Nat.testBit_two_pow, eq_comm]
    split
    · rename_i hb
      refine ⟨?_, fun i il => ?_, ?_⟩
      · rw [wm, Nat.pow_succ, show t * (2 ^ (w - 1 - m) * 2) + 2 ^ (w - 1 - m) = (t * 2 + 1) * 2 ^ (w - 1 - m) by ring, Nat.mul_mod_left]
      · rw [tb, b i il]
        by_cases q : i = w - 1 - m
        · subst q
          have : w - 1 - (w - 1 - m) = m := by omega
          rw [this, hb]; simp
        · have : decide (w - 1 - m ≤ i) = decide (w - m ≤ i) := decide_eq_decide.mpr (by omega)
          rw [this]; simp [q]
      · apply Nat.lt_pow_two_of_testBit
        intro i il
        rw [tb, Nat.testBit_lt_two_pow (Nat.lt_of_lt_of_le c (Nat.pow_le_pow_right (by decide) il))]
        simp; omega
    · rename_i hb
      refine ⟨?_, fun i il => ?_, c⟩
      · rw [wm, Nat.pow_succ, show t * (2 ^ (w - 1 - m) * 2) = (t * 2) * 2 ^ (w - 1 - m) by ring, Nat.mul_mod_left]
      · rw [b i il]
        by_cases q : i = w - 1 - m
        · subst q
          have : w - 1 - (w - 1 - m) = m := by omega
          rw [this]; simp at hb; rw [hb]; simp
        · have : decide (w - 1 - m ≤ i) = decide (w - m ≤ i) := decide_eq_decide.mpr (by omega)
          rw [this]

theorem reflect_lt (w v : Nat) : reflectBits w v < 2 ^ w := (refl_sum w v w (Nat.le_refl w)).2.2

theorem reflect_bit (w v i : Nat) (l : i < w) : (reflectBits w v).testBit i = v.testBit (w - 1 - i) := by
  have := (refl_sum w v w (Nat.le_refl w)).2.1 i l
  simpa [reflectBits] using this

theorem testBit_ge {n w i : Nat} (l : n < 2 ^ w) (g : w ≤ i) : n.testBit i = false := Nat.testBit_lt_two_pow (Nat.lt_of_lt_of_le l (Nat.pow_le_pow_right (by decide) g))

end Sys2Proof.Machine
end

