-- ==== Sys2Proof/Laws/Node.lean ====
section
/-!
SUPPORT. Lemmas on Dawn, the node and its test ports.
-/

namespace Sys2Proof.Machine

theorem refreshPins_taps (h : Hw) (d : Nat) : (h.refreshPins d).taps = h.taps := by
  refine each_keeps' (fun g : Hw => g.taps = h.taps) _ _ (fun i g e => ?_) h rfl
  unfold Hw.refreshPin; extract_lets x v; split
  · exact e
  · exact e

theorem loadIr_tap (h : Hw) (d ir : Nat) (f : Tap → Tap) : (h.loadIr d ir f).tap d =
    { f { h.tap d with ir := ir, inForce := (ir == 0x00 || ir == 0x03 || ir == 0x04) && h.node.state == .quarantine, mdbg := ir == 0x21 && h.debugOpen } with bypass := false } := by
  unfold Hw.loadIr Hw.tap
  extract_lets a b c
  rw [refreshPins_taps]
  exact SMap.get_put_self ..

theorem refreshPins_only' (h : Hw) (d : Nat) : { h.refreshPins d with pins := h.pins } = h := by
  refine each_keeps' (fun g : Hw => { g with pins := h.pins } = h) _ _ (fun p g e => ?_) h rfl
  unfold Hw.refreshPin
  dsimp only
  split
  · exact e
  · exact e

theorem loadIr_frame (h : Hw) (d ir : Nat) (f : Tap → Tap) :
    { h.loadIr d ir f with taps := h.taps, pins := h.pins } = h ∧ ∀ e, e ≠ d → (h.loadIr d ir f).tap e = h.tap e := by
  unfold Hw.loadIr Hw.tap
  extract_lets a b c
  have k : ∀ m : SMap Tap, { Hw.refreshPins { h with taps := m } d with taps := h.taps, pins := h.pins } = h := fun m =>
    congrArg (fun g : Hw => { g with taps := h.taps }) (refreshPins_only' ({ h with taps := m } : Hw) d)
  refine ⟨k _, fun e n => ?_⟩
  rw [refreshPins_taps]
  exact SMap.get_put_of_ne _ _ _ _ n

theorem bridgePad_taps (g : Hw) (m : SMap Tap) (d k : Nat) : ({ g with taps := m } : Hw).bridgePad d k = g.bridgePad d k := by
  unfold Hw.bridgePad
  rfl

theorem functionDrive_taps (g : Hw) (m : SMap Tap) (d p : Nat) : ({ g with taps := m } : Hw).functionDrive d p = g.functionDrive d p := by
  unfold Hw.functionDrive
  simp only [bridgePad_taps]
  rfl

theorem formDrive_congr (g h : Hw) (d p : Nat) (tp : (g.tap d).inForce = false ∧
    (h.tap d).inForce = false) (e : { g with taps := h.taps } = h) : g.formDrive d p = h.formDrive d p := by
  unfold Hw.formDrive Hw.tapDrive
  dsimp only
  rw [show (g.taps.get .init d).inForce = false from tp.1, show (h.taps.get .init d).inForce = false from tp.2]
  show g.functionDrive d p = h.functionDrive d p
  rw [← e]; exact (functionDrive_taps g h.taps d p).symm

theorem refreshPin_congr (g h : Hw) (d p : Nat) (tp : (g.tap d).inForce = false ∧ (h.tap d).inForce = false) (e : { g with taps := h.taps } = h) :
    { g.refreshPin d p with taps := (h.refreshPin d p).taps } = h.refreshPin d p ∧ (g.refreshPin d p).taps = g.taps ∧
        (h.refreshPin d p).taps = h.taps := by
  unfold Hw.refreshPin
  rw [formDrive_congr g h d p tp e]
  have pe : g.pin d p = h.pin d p := by rw [← e]; rfl
  rw [pe]
  dsimp only
  split
  · exact ⟨e, rfl, rfl⟩
  · refine ⟨?_, rfl, rfl⟩
    rw [← e]; rfl

theorem each_pins (l : List Nat) (d : Nat) (g h : Hw) (tp : (g.tap d).inForce = false ∧
    (h.tap d).inForce = false) (e : { g with taps := h.taps } = h) :
    { each l (fun p h => h.refreshPin d p) g with taps := (each l (fun p h => h.refreshPin d p) h).taps } = each l (fun p h => h.refreshPin d p)
        h := by
  induction l generalizing g h with
  | nil => exact e
  | cons p l ih =>
    rw [each_cons, each_cons]
    obtain ⟨a, b, c⟩ := refreshPin_congr g h d p tp e
    refine ih _ _ ?_ a
    unfold Hw.tap
    rw [b, c]; exact tp

theorem refreshPins_congr (g h : Hw) (d : Nat) (tp : (g.tap d).inForce = false ∧ (h.tap d).inForce = false) (e : { g with taps := h.taps } = h) :
    { g.refreshPins d with taps := (h.refreshPins d).taps } = h.refreshPins d := by
  unfold Hw.refreshPins
  rw [show g.configuredPins d = h.configuredPins d by rw [← e]; rfl]
  exact each_pins _ d g h tp e

theorem loadIr_same (h : Hw) (d ir : Nat) (f : Tap → Tap) (n : (f { h.tap d with
      ir := ir, inForce := (ir == 0x00 || ir == 0x03 || ir == 0x04) && h.node.state == .quarantine, mdbg := ir == 0x21 &&
          h.debugOpen }).inForce = false) :
    { h.loadIr d ir f with taps := (h.loadIr d 0x3F id).taps } = h.loadIr d 0x3F id := by
  unfold Hw.loadIr
  dsimp only
  apply refreshPins_congr
  · unfold Hw.tap
    dsimp only
    rw [SMap.get_put_self, SMap.get_put_self]
    exact ⟨n, rfl⟩
  · rfl

theorem exec_byp (s : State) (die : Die) (code : BitVec 6) : exec (.bypass die code) s = s.onDie die fun h => h.loadIr die.val (if code.toNat ≤ 4 ∨
    code.toNat = 0x20 ∨ code.toNat = 0x21 then 0x3F else code.toNat) id := rfl

theorem exec_extest (s : State) (die : Die) (shifted levels : List (Nat × Bool)) (leaving : Bool) : exec (.extest die shifted levels leaving) s =
    s.onDie die fun h => h.loadIr die.val 0x00 fun t => if leaving then { t with
        inForce := false } else if t.inForce then h.scanCells die.val shifted levels t else t := rfl

theorem comp_die {c : Instr} {s : State} {f : Hw → Hw} {die : Die} {P : State → Prop} (e : exec c s = s.onDie die f) (r : s.ready die)
    (p : P { s with hw := f s.hw }) : Completes c s P := ⟨_, e.trans (State.onDie_ready f r), p⟩

theorem byp_of {s : State} {die : Die} (r : s.ready die) {P : State → Prop} (p : P { s with
    hw := s.hw.loadIr die.val 0x3F id }) : Completes (.bypass die 0x3F) s P :=
  comp_die (f := fun h => h.loadIr die.val 0x3F id) (exec_byp s die 0x3F) r p

theorem acts_bypass {s : State} {die : Die} (r : s.ready die) {c : Instr} (ir : Nat) (i : ir = 0x00 ∨ ir = 0x03 ∨ ir = 0x04) (f : Tap → Tap)
    (e : Gives c s (s.hw.loadIr die.val ir f))
    (k : ∀ b, f { s.hw.tap die.val with ir := ir, inForce := b && s.hw.node.state == .quarantine, mdbg := false } =
      { s.hw.tap die.val with ir := ir, inForce := false, mdbg := false }) :
    Completes c s fun t => Completes (.bypass die 0x3F) s fun u =>
      { t with hw.taps := u.hw.taps } = u ∧ t.hw.tap die.val = { u.hw.tap die.val with ir := (t.hw.tap die.val).ir } ∧
        (t.hw.tap die.val).inForce = false ∧ t.hw.tapData die.val = u.hw.tapData die.val ∧ t.hw.tapData die.val = [false] := by
  have m : (ir == 0x21) = false := by rcases i with rfl | rfl | rfl <;> rfl
  have tp : (s.hw.loadIr die.val ir f).tap die.val = { s.hw.tap die.val with ir := ir, inForce := false, mdbg := false, bypass := false } := by
    rw [loadIr_tap, m]
    exact congrArg (fun t : Tap => { t with bypass := false }) (k _)
  have td : (s.hw.loadIr die.val ir f).tapData die.val = [false] := by
    unfold Hw.tapData
    rw [tp]
    rcases i with rfl | rfl | rfl <;> rfl
  refine gives_complete e (byp_of r ⟨congrArg (fun h => { s with hw := h }) (loadIr_same s.hw die.val ir f ?_), ?_, ?_, ?_, td⟩)
  · rw [m]; exact congrArg Tap.inForce (k _)
  · dsimp only
    rw [tp, loadIr_tap]; rfl
  · dsimp only
    rw [tp]
  · refine td.trans ?_
    dsimp only
    unfold Hw.tapData
    rw [loadIr_tap]; rfl

theorem refuseCmd_node (h : Hw) (c : Nat) (o : Origin) : (h.refuseCmd c o).node = h.node := by
  unfold Hw.refuseCmd
  obtain ⟨x0, x1, e⟩ := report_only h h.node.owner 0 .cmdRefused (c + h.node.state.code * 2 ^ 8) o.code
  rw [e]

theorem violation_node (h : Hw) (d : Nat) (o : Origin) (a : Nat) : (h.violation d o a).node = h.node := by
  obtain ⟨x0, x1, e⟩ := violation_only h d o a
  rw [e]

theorem cmdTransition_safe (h : Hw) (n : h.node.state = .safe) (c : h.cmdNow = false) : h.cmdTransition 3 = false := by
  unfold Hw.cmdTransition Hw.cycleState
  rw [c, if_neg Bool.false_ne_true, n]; rfl

theorem view_pw (d off : Nat) (h : Hw) (l : d < 2) (k : (findReg off).isSome = true) (o : off / 0x10000 = 9) :
    (readReg d off h).1 = (h.latchRead d off).viewBridge d off ((h.latchRead d off).regAt ((if ((findReg off).get k).node then 0 else d)
        * 0x200000 + off)).toNat := by
  unfold readReg
  rw [if_neg (by omega)]
  dsimp only
  unfold Hw.viewReg
  obtain ⟨r, e⟩ := Option.isSome_iff_exists.mp k
  simp only [e, o, Option.get_some]

theorem latch_pw (d off : Nat) (h : Hw) (l : off / 0x10000 = 9) : h.latchRead d off = h := by
  unfold Hw.latchRead
  rw [if_neg (by omega), if_neg (by omega), if_neg (by omega), if_neg (by omega), if_neg (by omega), if_neg (by omega)]

theorem host_pop (h : Hw) (d : Nat) (l : d < 2) : ((popFault d h).host d).log = (h.host d).log.drop 1 := by
  unfold popFault
  rw [if_pos l]
  unfold Hw.setHost Hw.host
  rw [SMap.get_put_self]

theorem rd_dawn (g : Hw) (x : Dawn) (d : Nat) (F : Fld) (i j : Nat) : ({ g with dawn := x } : Hw).rd d F i j = g.rd d F i j := rfl

theorem report_nodes (h : Hw) (d c : Nat) (k : EventKind) (x o : Nat) : (h.report d c k x o).node = h.node ∧ (h.report d c k x o).straps = h.straps ∧
    (h.report d c k x o).slotNo = h.slotNo ∧ (h.report d c k x o).now = h.now := by
  unfold Hw.report
  extract_lets r
  split <;> exact ⟨rfl, rfl, rfl, rfl⟩

theorem raiseMsix_nodes (h : Hw) (d v : Nat) : (h.raiseMsix d v).node = h.node ∧ (h.raiseMsix d v).straps = h.straps ∧
    (h.raiseMsix d v).slotNo = h.slotNo ∧ (h.raiseMsix d v).now = h.now := by
  unfold Hw.raiseMsix
  by_cases c : d < 2 ∧ d < h.dies
  · rw [if_pos c]
    by_cases e : 48 ≤ v ∧ v ≤ 55
    · simp only [e, and_self, if_true]; exact ⟨rfl, rfl, rfl, rfl⟩
    · simp only [e, if_false]; exact ⟨trivial, trivial, trivial, trivial⟩
  · rw [if_neg c]; exact ⟨rfl, rfl, rfl, rfl⟩

theorem moveTo_nodes (h : Hw) (s : NodeState) (c : Nat) : (h.moveTo s c).node = { h.node with state := s } ∧ (h.moveTo s c).straps = h.straps ∧
    (h.moveTo s c).slotNo = h.slotNo ∧ (h.moveTo s c).now = h.now := by
  unfold Hw.moveTo
  extract_lets old nd k
  split
  · exact ⟨rfl, rfl, rfl, rfl⟩
  · unfold Hw.raiseMsixNode
    have a := raiseMsix_nodes ((k.report k.node.owner 0x00 .stateChange (old.code + s.code * 2 ^ 8 + c * 2 ^ 16)).raiseMsix 0 50) 1 50
    have b := raiseMsix_nodes (k.report k.node.owner 0x00 .stateChange (old.code + s.code * 2 ^ 8 + c * 2 ^ 16)) 0 50
    have e := report_nodes k k.node.owner 0x00 .stateChange (old.code + s.code * 2 ^ 8 + c * 2 ^ 16) 0
    exact ⟨a.1.trans (b.1.trans e.1), a.2.1.trans (b.2.1.trans e.2.1), a.2.2.1.trans (b.2.2.1.trans e.2.2.1), a.2.2.2.trans (b.2.2.2.trans e.2.2.2)⟩

theorem nd (h : Hw) (c1 : h.node.state = .dawn) (c2 : h.dawn.ringBoot = false) (e : h.dawnStep = 1) (j : Bool) (f : Option Sfdp) (k : Hw)
    (hk : h.selectReplay.wr 0 R.NOD_DAWN_STEP 3 = k) :
    (norDiscovery false j f h = (h.wr 0 R.NOD_DAWN_STEP 2).dawnFail 0x0D 0) ∧
    (k.rd 0 R.NOD_STRAP_BOOT = 3 → norDiscovery true j f h = k.ringBoot) ∧
    (k.rd 0 R.NOD_STRAP_BOOT ≠ 3 → j = false ∨ f = none → norDiscovery true j f h = k.dawnFail 0x01 0) ∧
    (k.rd 0 R.NOD_STRAP_BOOT ≠ 3 → ∀ t, norDiscovery true true (some t) h =
      { ((k.wr 0 R.NOD_DAWN_SRC (bootSource (k.rd 0 R.NOD_STRAP_BOOT))).wr 0 R.NOD_DAWN_DTR (b2n (norMode (k.rd 0 R.NOD_STRAP_BOOT) t == .m144d))).wr 0 R.NOD_DAWN_STEP 4 with norIf := norReading (k.rd 0 R.NOD_STRAP_BOOT) t }) := by
  have g : ¬(h.node.state ≠ .dawn ∨ h.dawnStep ≠ 1 ∨ h.dawn.ringBoot = true) := by rw [c1, e, c2]; decide
  refine ⟨?_, fun b => ?_, fun b x => ?_, fun b t => ?_⟩
  · unfold norDiscovery; rw [if_neg g]; exact if_pos rfl
  · unfold norDiscovery; rw [if_neg g, if_neg (by decide), hk]; exact if_pos b
  · unfold norDiscovery; rw [if_neg g, if_neg (by decide), hk]; dsimp only; rw [if_neg b]
    rcases x with rfl | rfl
    · rfl
    · cases j <;> rfl
  · unfold norDiscovery; rw [if_neg g, if_neg (by decide), hk]; dsimp only; rw [if_neg b]

theorem norMode_25 (t : Sfdp) : norMode 2 t = .m111 := rfl

theorem norMode_dtr {boot : Nat} {t : Sfdp} (e : norMode boot t = .m144d) : boot = 1 := by
  unfold norMode at e
  split at e
  · cases e
  · by_contra n
    have n' : (boot == 1) = false := by simpa using n
    have : ∀ m, (norModes.find? fun m => bit t.modes.toNat m.ctorIdx && (m != .m144d || boot == 1)) = some m → m ≠ .m144d := by
      intro m fm k
      have := List.find?_some fm
      rw [k, n'] at this
      simp at this
    cases fm : norModes.find? fun m => bit t.modes.toNat m.ctorIdx && (m != .m144d || boot == 1) with
    | none => rw [fm] at e; cases e
    | some m => rw [fm] at e; exact this m fm e

theorem exec_endRecord (s : State) (f rr : List Word) (fw : List Byte) (sup : List (Die × Fin 12 × Fin 4)) : exec (.endRecord f rr fw sup)
    s = s.on (endRecord f rr fw (sup.map fun x => (x.1.val, x.2.1.val, x.2.2.val))) := by
  show execEndRecord f rr fw sup s = _
  rfl

theorem takeHeader_bad {h : Hw} {b : List Byte} (z : h.judgeHeader b ≠ 0) : h.takeHeader b = h.dawnFail (h.judgeHeader b) 0 := if_pos z

theorem takeHeader_ok {h : Hw} {b : List Byte} (z : h.judgeHeader b = 0)
    : h.takeHeader b = { h.wr 0 R.NOD_DAWN_STEP 5 with dawn.header := some (headerOf b) } := if_neg (fun n => n z)

theorem tapData_of (g : Hw) (d : Nat) (t : Tap) (e : g.tap d = t) : g.tapData d =
    if t.ir = 0x01 ∨ (t.ir = 0x00 ∧ t.inForce) then (List.range (boundaryCells d)).map fun k => t.captured.get false k
    else if t.ir = 0x02 then (List.range 32).map fun k => bit 0x2B1015CB k
    else if t.ir = 0x20 ∧ d = 0 ∧ g.debugOpen then [g.node.replay]
    else if t.ir = 0x21 ∧ g.debugOpen then (List.range 64).map fun k => bit t.mdbgData k
    else [t.bypass] := by
  subst e; rfl

theorem loadIr_open (h : Hw) (d ir : Nat) (f : Tap → Tap) : (h.loadIr d ir f).debugOpen = h.debugOpen ∧ (h.loadIr d ir f).node = h.node := by
  have e := (loadIr_frame h d ir f).1
  generalize h.loadIr d ir f = g at e
  rw [← e]; exact ⟨rfl, rfl⟩

theorem any_dies {h : Hw} {failed : List Die} (e : ∃ d ∈ failed, d.val < h.dies) : ((failed.map (·.val)).any fun d => decide (d < h.dies))
    = true := by
  obtain ⟨d, m, l⟩ := e
  rw [List.any_eq_true]
  exact ⟨d.val, List.mem_map_of_mem m, decide_eq_true l⟩

theorem none_dies {h : Hw} {failed : List Die} (e : ∀ d ∈ failed, h.dies ≤ d.val) : ¬((failed.map (·.val)).any fun d => decide (d < h.dies))
    = true := by
  rw [List.any_eq_true]
  rintro ⟨x, m, l⟩
  obtain ⟨d, m2, rfl⟩ := List.mem_map.mp m
  have := of_decide_eq_true l
  have := e d m2
  omega

theorem exec_stream (s : State) (server : BitVec 16) (die : Die) (bytes : List Byte) : exec (.imageStreamCell server die bytes)
    s = s.on (imageStreamCell (server.toNat, die.val) bytes) := by
  show execImageStreamCell server die bytes s = _
  rfl

theorem exec_bist (s : State) (fails : List (Die × BitVec 8)) (trains : Bool) : exec (.builtInSelfTest fails trains)
    s = s.on (selfTest (fails.map fun x => (x.1.val, x.2.toNat)) trains) := by
  show execBuiltInSelfTest fails trains s = _
  rfl

theorem ku (h : Hw) (c : h.node.state = .dawn) (e : h.dawnStep = 7) (failed : List Nat) :
    ((failed.any fun d => decide (d < h.dies)) = true → keytreeUnwrap failed h = h.dawnFail 0x0D 0) ∧
    (¬(failed.any fun d => decide (d < h.dies)) = true → h.loadTree.1 = false → keytreeUnwrap failed h = h.loadTree.2.dawnFail 0x0A 0) ∧
    (¬(failed.any fun d => decide (d < h.dies)) = true → h.loadTree.1 = true → keytreeUnwrap failed h =
      (((h.loadTree.2.wr 0 R.VLT_STAT_TREEOK 1).wr 0 R.VLT_STAT_CACHEOK (b2n h.loadTree.2.vlt.cacheUsed)).wr 0 R.VLT_STAT_ENTOK (b2n (!h.loadTree.2.vlt.entFail))).wr 0 R.NOD_DAWN_STEP 8) := by
  have g : ¬(h.node.state ≠ .dawn ∨ h.dawnStep ≠ 7) := by rw [c, e]; decide
  refine ⟨fun x => ?_, fun x y => ?_, fun x y => ?_⟩
  · unfold keytreeUnwrap; rw [if_neg g, if_pos x]
  · unfold keytreeUnwrap; rw [if_neg g, if_neg x]
    generalize h.loadTree = z at *
    obtain ⟨z1, z2⟩ := z
    dsimp only at y ⊢
    rw [y]; exact if_pos rfl
  · unfold keytreeUnwrap; rw [if_neg g, if_neg x]
    generalize h.loadTree = z at *
    obtain ⟨z1, z2⟩ := z
    dsimp only at y ⊢
    rw [y]; exact if_neg (by decide)

theorem bit1 (b : Bool) : low 1 (b2n b) = b2n b := by cases b <;> rfl

theorem st (h : Hw) (c : h.node.state = .dawn) (e : h.dawnStep = 8) (fails : List (Nat × Nat)) (trains : Bool) (failOf : Nat →
    Nat) (hf : (fun (d : Nat) => ((fails.find? fun f => f.1 == d).map (·.2)).getD 0) = failOf) (k : Hw)
    (hk : (h.eachDie fun d g => (g.wr d R.NOD_BIST_FAIL (failOf d)).wr d R.NOD_BIST_DONE 1) = k) :
    (((List.range k.dies).any fun d => failOf d != 0) = true → selfTest fails trains h = k.dawnFail 0x0D 0) ∧
    (¬((List.range k.dies).any fun d => failOf d != 0) = true → k.node.replay = true → selfTest fails trains h = k.enterReplay) ∧
    (¬((List.range k.dies).any fun d => failOf d != 0) = true → k.node.replay = false → selfTest fails trains h =
      let g := (k.wr 0 R.NOD_DAWN_STEP 9).eachDie fun d x => iter 4 (fun p x => x.portAtNine d p) x
      if trains then g else g.report g.node.owner 0x01 .awaitingTrain) := by
  have g : ¬(h.node.state ≠ .dawn ∨ h.dawnStep ≠ 8) := by rw [c, e]; decide
  have u : selfTest fails trains h = if (List.range k.dies).any fun d => failOf d != 0 then k.dawnFail 0x0D 0
    else if k.node.replay then k.enterReplay
    else
      let h := k.wr 0 R.NOD_DAWN_STEP 9
      let h := h.eachDie fun d h => iter 4 (fun p h => h.portAtNine d p) h
      if trains then h else h.report h.node.owner 0x01 .awaitingTrain := by
    subst hk; subst hf
    unfold selfTest
    rw [if_neg g]
  refine ⟨fun x => ?_, fun x y => ?_, fun x y => ?_⟩
  · rw [u, if_pos x]
  · rw [u, if_neg x, if_pos y]
  · rw [u, if_neg x, if_neg (by rw [y]; decide)]

theorem nodCommand_cmd {c d k : Nat} {o : Origin} {h : Hw} (hc : 1 ≤ c ∧
    c ≤ 5) : nodCommand c d o k h = nodCmd c d o k (commandAct c k) h := if_pos hc

theorem nc_viol {h : Hw} {c d k : Nat} {o : Origin} (hc : 1 ≤ c ∧ c ≤ 5) (e : h.cmdAllowed o c = false) :
    nodCommand c d o k h = if (h.violation d o 0xC).cmdTransition c then h.violation d o 0xC else (h.violation d o 0xC).refuseCmd c o := by
  rw [nodCommand_cmd hc]; unfold nodCmd
  exact if_pos (by rw [e]; rfl)

theorem nc_same {h : Hw} {c d k : Nat} {o : Origin} (hc : 1 ≤ c ∧
    c ≤ 5) (e : h.cmdAllowed o c = true) (e2 : (h.cmdNow && h.rd 0 R.NOD_CMD_CMD == c) = true) :
    nodCommand c d o k h = h := by
  rw [nodCommand_cmd hc]; unfold nodCmd
  rw [if_neg (by rw [e]; decide), if_pos e2]

theorem nc_ref {h : Hw} {c d k : Nat} {o : Origin} (hc : 1 ≤ c ∧
    c ≤ 5) (e : h.cmdAllowed o c = true) (e2 : (h.cmdNow && h.rd 0 R.NOD_CMD_CMD == c) = false)
    (e3 : h.cmdTransition c = false ∨ h.cmdOverruled k c = true) :
    nodCommand c d o k h = h.report h.node.owner 0x00 .cmdRefused (c + h.node.state.code * 2 ^ 8) o.code := by
  rw [nodCommand_cmd hc]; unfold nodCmd
  rw [if_neg (by rw [e]; decide), if_neg (by rw [e2]; decide), if_neg]
  · rfl
  · rcases e3 with q | q
    · rw [q]; simp
    · rw [q]; simp

theorem nc_act {h : Hw} {c d k : Nat} {o : Origin} (hc : 1 ≤ c ∧ c ≤ 5) (a : h.cmdAllowed o c = true ∧
    (h.cmdNow && h.rd 0 R.NOD_CMD_CMD == c) = false ∧
    h.cmdTransition c = true ∧ h.cmdOverruled k c = false) : nodCommand c d o k h = commandAct c k (h.acceptCmd c) := by
  obtain ⟨e, e2, e3, e4⟩ := a
  rw [nodCommand_cmd hc]; unfold nodCmd
  rw [if_neg (by rw [e]; decide), if_neg (by rw [e2]; decide), if_pos (by rw [e3, e4]; rfl)]

theorem acceptCmd_owner (h : Hw) (c : Nat) : (h.acceptCmd c).node.owner = h.node.owner := rfl

theorem acceptCmd_rd (h : Hw) (c : Nat) : (h.acceptCmd c).rd 0 R.NOD_CMD_CMD = low 4 c := by
  show (h.wr 0 R.NOD_CMD_CMD c).rd 0 R.NOD_CMD_CMD = _
  rw [rd_wr _ _ _ _ _ _ rfl]; rfl

theorem commandAct_dusk (k : Nat) (g : Hw) : commandAct 4 k g = (if bit k 0 then g.report g.node.owner 0x00 .safeCause else g).enterDusk 4 := by
  unfold commandAct whenDo
  rfl

theorem enterNight_keeps (h : Hw) : h.enterNight.node.state = .night ∧ h.enterNight.logNvm = h.logNvm ∧ h.enterNight.otp = h.otp ∧
    h.enterNight.nor = h.nor ∧ h.enterNight.ldg.staging = [] ∧ h.enterNight.dawn.held = [] ∧ h.enterNight.nightDom.cal = h.calendar := by
  unfold Hw.enterNight Hw.resetHub
  exact ⟨rfl, rfl, rfl, rfl, rfl, rfl, rfl⟩

theorem powerDrop_eq (h : Hw) (c : h.node.state ≠ .night) : h.powerDrop = ({ h with
    wlh := { h.wlh with pg := false, store := false } } : Hw).enterNight := if_neg c

theorem wr_mgt (h : Hw) (d : Nat) (F : Fld) (v i j : Nat) : (h.wr d F v i j).mgt = h.mgt := rfl

theorem nb {x : Bool} (a : x = false) : ¬ x = true := by rw [a]; decide

theorem start_busy (h : Hw) (a : h.loaderState = true) (b : h.mgt.isOpen = true)
    : updateStart h = (h.wr 0 R.MGT_UCMD_CMD 1).wr 0 R.MGT_USTAT_CODE 0x0C := by
  unfold updateStart; rw [if_neg (by rw [a]; decide)]; dsimp only
  rw [if_pos (show (h.wr 0 R.MGT_UCMD_CMD 1).mgt.isOpen = true from b)]

theorem start_new (h : Hw) (a : h.loaderState = true) (b : h.mgt.isOpen = false) : updateStart h =
      let g := h.wr 0 R.MGT_UCMD_CMD 1
      let g : Hw := { g with
          mgt := { h.mgt with
              isOpen := true, staged := .empty, stagedLen := 0, norDone := false, handed := [], readbackFails := 0, oldFw := g.rd h.node.owner R.MGT_VER_FWVER } }
      let g := ((g.wr 0 R.MGT_USTAT_USTATE 1).wr 0 R.MGT_USTAT_CODE 0).wr 0 R.MGT_ULEN_BYTES 0
      let x := g.stageRequested (g.updateBody 1 0 0)
      (x.report g.node.owner 0x03 .updateEvent 0x100) := by
  unfold updateStart; rw [if_neg (by rw [a]; decide)]; dsimp only
  rw [if_neg (show ¬ (h.wr 0 R.MGT_UCMD_CMD 1).mgt.isOpen = true by show ¬ h.mgt.isOpen = true; rw [b]; decide)]; rfl

theorem open3 {h : Hw} {n : Nat} (a : h.mgt.isOpen = true) (b : h.ustate = n) : ¬ (h.mgt.isOpen = false ∨ h.ustate ≠ n) := by
  rintro (q | q)
  · exact absurd (a.symm.trans q) (by decide)
  · exact q b

theorem nor_wait (h : Hw) (eq : Bool) (a : h.mgt.isOpen = true) (b : h.ustate = 3) (c : h.eraseHeader.mgt.norDone = false ∨
    h.eraseHeader.holdupOk h.eraseHeader.ldg.staging.length = false) :
    norWriteComplete eq h = h.eraseHeader := by
  unfold norWriteComplete; rw [if_neg (open3 a b)]; dsimp only
  rw [if_pos]; rcases c with c | c <;> rw [c] <;> simp

theorem nor_bad (h : Hw) (a : h.mgt.isOpen = true) (b : h.ustate = 3) (c : h.eraseHeader.mgt.norDone = true)
    (d : h.eraseHeader.holdupOk h.eraseHeader.ldg.staging.length = true)
    (e : 1 ≤ h.eraseHeader.mgt.readbackFails) : norWriteComplete false h = h.eraseHeader.endUpdate 0x0A := by
  unfold norWriteComplete; rw [if_neg (open3 a b)]; dsimp only
  rw [if_neg (by rw [c, d]; decide), if_pos (by rfl), if_pos e]

theorem nor_again (h : Hw) (a : h.mgt.isOpen = true) (b : h.ustate = 3) (c : h.eraseHeader.mgt.norDone = true)
    (d : h.eraseHeader.holdupOk h.eraseHeader.ldg.staging.length = true)
    (e : h.eraseHeader.mgt.readbackFails = 0) : norWriteComplete false h = { h.eraseHeader with
        mgt := { h.eraseHeader.mgt with readbackFails := 1 } } := by
  unfold norWriteComplete; rw [if_neg (open3 a b)]; dsimp only
  rw [if_neg (by rw [c, d]; decide), if_pos (by rfl), if_neg (by rw [e]; decide), e]

theorem nor_good (h : Hw) (a : h.mgt.isOpen = true) (b : h.ustate = 3) (c : h.eraseHeader.mgt.norDone = true)
    (d : h.eraseHeader.holdupOk h.eraseHeader.ldg.staging.length = true) :
    norWriteComplete true h = 
          (let g := h.eraseHeader
           let x := (g.norWrite 0 (g.stagedAt 0 g.mgt.stagedLen)).eachDie fun d g => g.flag d R.MGT_STAT_PENDING
           let y := x.stageRequested (x.updateBody 2 0 0)
           (((y.report x.node.owner 0x03 .updateEvent 0x200).wr 0 R.MGT_USTAT_USTATE 4).showHandover)) := by
  unfold norWriteComplete; rw [if_neg (open3 a b)]; dsimp only
  rw [if_neg (by rw [c, d]; decide), if_neg (by decide)]

theorem hand_eq (h g : Hw) (d blackout : Nat) (accepts : Bool) (a : h.mgt.isOpen = true) (b : h.ustate = 4) (c : h.nextHandover = some d)
    (e : { h with mgt := { h.mgt with handed := h.mgt.handed ++ [d] } } = g) :
    handover accepts blackout h =
      let x := headerOf (h.stagedAt 0 512)
      let y := g.wr 0 R.MGT_USTAT_BLACKMAX (max (g.rd 0 R.MGT_USTAT_BLACKMAX) (min 65535 blackout))
      let z := if accepts then (y.runFirmware d x (y.stagedAt x.fwOff x.fwLen)).stageRequested (y.updateBody 3 0 d)
        else y.handoverFails d x
      z.finishUpdate z.allAdopted := by
  subst e
  unfold handover; rw [if_neg (open3 a b)]; rw [c]

theorem hto_eq (h g : Hw) (d : Nat) (a : h.mgt.isOpen = true) (b : h.ustate = 4) (c : h.nextHandover = some d) (e : { h with
    mgt := { h.mgt with handed := h.mgt.handed ++ [d] } } = g) :
    handoverTimeout h =
      let x := headerOf (h.stagedAt 0 512)
      let y := g.wr 0 R.MGT_USTAT_BLACKMAX (max (g.rd 0 R.MGT_USTAT_BLACKMAX) 25000)
      (y.handoverFails d x).finishUpdate false := by
  subst e
  unfold handoverTimeout; rw [if_neg (open3 a b)]; rw [c]

theorem data_eq (h : Hw) (d : Nat) (o : Origin) (v : Word) (a : h.mgt.isOpen = true) (b : h.ustate = 1) (c : h.stageFull = false) (x : SMap Byte)
    (e : iter 4 (fun k x => x.put 0 (h.mgt.stagedLen + k) ((leBytes 4 v.toNat).getD k 0)) h.mgt.staged = x) :
    updateData d o v h = Hw.wr { h with
        mgt := { h.mgt with staged := x, stagedLen := h.mgt.stagedLen + 4 } } 0 R.MGT_ULEN_BYTES (h.mgt.stagedLen + 4) := by
  subst e
  unfold updateData; rw [if_neg (open3 a b), if_neg (by rw [c]; decide)]

end Sys2Proof.Machine
end

