-- ==== Sys2Proof/Laws/Ring.lean ====
section
/-!
SUPPORT. Lemmas on fault reports and the ring.
-/

namespace Sys2Proof.Machine

theorem up_of {h : Hw} {d p : Nat} (c : h.rd d R.RNG_PSTAT_STATE p = 2 ∨ h.rd d R.RNG_PSTAT_STATE p = 3) : h.portUp d p = true := by
  unfold Hw.portUp; rcases c with c | c <;> rw [c] <;> rfl

theorem down_of {h : Hw} {d p : Nat} (c : h.rd d R.RNG_PSTAT_STATE p = 0 ∨ h.rd d R.RNG_PSTAT_STATE p = 1) : ¬ h.portUp d p = true := by
  unfold Hw.portUp; rcases c with c | c <;> rw [c] <;> decide

theorem setPort_port (h : Hw) (d p : Nat) (x : Port) : (h.setPort d p x).port d p = x := SMap.get_put_self ..

theorem wr_port (h : Hw) (d : Nat) (F : Fld) (v i j e p : Nat) : (h.wr d F v i j).port e p = h.port e p := rfl

theorem setPort_rd (h : Hw) (d p : Nat) (x : Port) (e : Nat) (F : Fld) (i j : Nat) : (h.setPort d p x).rd e F i j = h.rd e F i j := rfl

theorem attached_pcmd (h : Hw) (d v : Nat) (port : Fin 4) : (h.wr d R.RNG_PCMD_CMD v port.val).attached d = h.attached d := by
  unfold Hw.attached
  rw [rd_wr_of_key_ne]
  have := port.isLt
  simp only [Fld.key, R.RNG_PCMD_CMD, R.RNG_ATTACH_MODE]
  omega

theorem attached_offcnt (h : Hw) (d v : Nat) (port : Fin 4) : (h.wr d R.RNG_PSTAT_OFFCNT v port.val).attached d = h.attached d := by
  unfold Hw.attached
  rw [rd_wr_of_key_ne]
  have := port.isLt
  simp only [Fld.key, R.RNG_PSTAT_OFFCNT, R.RNG_ATTACH_MODE]
  omega

theorem les_pcmd (h : Hw) (d v : Nat) (port : Fin 4) : (h.wr d R.RNG_PCMD_CMD v port.val).rd d R.RNG_LES_REARM = h.rd d R.RNG_LES_REARM := by
  rw [rd_wr_of_key_ne]
  have := port.isLt
  simp only [Fld.key, R.RNG_PCMD_CMD, R.RNG_LES_REARM]
  omega

/-- The record of a frame changes the journals alone. -/
theorem journalFrame_only (h : Hw) (d p n : Nat) (f : Frame) : ∃ j, h.journalFrame d p n f = { h with jrns := j } := journal_only ..

theorem trainingExchange_meets (h : Hw) (d p : Nat) (m : List Byte) (x : Port) (hx : h.port d p = x) (st : h.rd d R.RNG_PSTAT_STATE p = 1)
    (a : (h.port d p).deskewed = true)
    (l : h.rd d R.RNG_PSTAT_LOCK p = 15) (w : (h.attached d).contains p = true) (b : leAt m 0 2 = 0x0102) :
    trainingExchange d p m h =
      (let why := h.exchangeDiffers d p m
      let g := ((h.wr d R.RNG_PPEER_NODE (leAt m 2 2) p).wr d R.RNG_PPEER_PORT (bits (leAt m 4 1) 3 2) p).wr d R.RNG_PPEER_RING (leAt m 5 1) p
      if why ≠ 0 then
        ((if x.lastFailure = some why then g else g.report d (8 + p) .portTraining why).setPort d p { x with
            lastFailure := some why }).trainingFailed d p
      else
        let k := g.setPort d p { x with peerDie := bits (leAt m 4 1) 0 3, peerPow := low 24 (leAt m 10 4), peerCnt := leAt m 14 2 }
        let k := iter 4 (fun c h => h.wr d R.RNG_PCRED_INIT (leAt m (0x10 + 2 * c) 2) p c) k
        if k.on d R.RNG_CFG_AUTHEN then
          let y := k.deriveSession d p
          if (y.port d p).sessionTx = none then y.trainingFailed d p else y.sendControl d p [0x01]
        else k.trainingComplete d p) := by
  subst hx
  unfold trainingExchange
  dsimp only
  rw [if_neg]
  rw [st, a, l, w, b]
  rintro (n | n | n | n | n)
  · exact n rfl
  · cases n
  · exact n rfl
  · exact n rfl
  · exact n rfl

theorem authResult_good (h : Hw) (d p : Nat) (f : Frame) (x : Port) (e : h.port d p = x) : h.authResult d p 4 f =
    ((h.setPort d p { x with rxLast := some f.txcnt, rxEpoch := rxEpochOf x f.txcnt }).wr d R.RNG_PSTAT_AUTHOK 1 p).trainingComplete d p := by
  subst e; unfold Hw.authResult; exact if_pos rfl

theorem authResult_crc (h : Hw) (d p : Nat) (f : Frame) : h.authResult d p 1 f = (h.bump d R.RNG_PERRA_FRMERR 1 p).score d p 8 := by
  unfold Hw.authResult; rw [if_neg (by decide)]; exact if_pos rfl

theorem authResult_tag (h : Hw) (d p : Nat) (f : Frame) (x : Port) (e : h.port d p = x) :
    let g := (h.bump d R.RNG_PERRC_TAGFAIL 1 p).score d p 32
    (x.lastFailure = some 16 → h.authResult d p 2 f = (g.setPort d p { g.port d p with lastFailure := some 16 }).trainingFailed d p) ∧
    (x.lastFailure ≠ some 16 → h.authResult d p 2 f = (let k := g.report d (8 + p) .portAuthFail 16
      (k.setPort d p { k.port d p with lastFailure := some 16 }).trainingFailed d p)) := by
  subst e; unfold Hw.authResult
  refine ⟨fun q => ?_, fun q => ?_⟩ <;> rw [if_neg (by decide), if_neg (by decide)] <;> dsimp only
  · rw [if_pos q]
  · rw [if_neg q]

theorem setTrain_train (h : Hw) (d : Nat) (t : Trn) : (h.setTrain d t).train d = t := SMap.get_put_self ..

theorem report_ftm (h : Hw) (d c : Nat) (k : EventKind) (v : Nat) : (h.report d c k v).ftm = h.ftm := by
  unfold Hw.report; dsimp only; split <;> rfl

theorem raiseMsix_ftm (h : Hw) (d v : Nat) : (h.raiseMsix d v).ftm = h.ftm := by
  unfold Hw.raiseMsix; (repeat' split) <;> rfl

theorem setTstate_ftm (h : Hw) (v : Nat) : (h.setTstate v).ftm = h.ftm := rfl

theorem servo_label (h : Hw) (d : Nat) (e : Int) (p : Nat) : (h.servo d e p).ftm.label = h.ftm.label := by
  unfold Hw.servo; rfl

theorem stepTime_label (h : Hw) (e : Int) (m : Bool) : (h.stepTime e m).ftm.label = h.ftm.label := by
  unfold Hw.stepTime Hw.setCalendar
  exact (congrArg Ftm.label (report_ftm ..)).trans rfl

/-- A time input takes no label. -/
theorem timeInput_label (h : Hw) (e : Int) (p : Nat) (m : Bool) : (h.timeInput e p m).ftm.label = h.ftm.label := by
  have w : ∀ (h : Hw) d (f : Fld) v i j, (h.wr d f v i j).ftm = h.ftm := fun _ _ _ _ _ _ => id rfl
  have t : ∀ (h : Hw) v, (h.setTstate v).ftm = h.ftm := fun _ _ => id rfl
  have f1 : ∀ (h : Hw) d (f : Fld) i, (h.flag d f i).ftm = h.ftm := fun _ _ _ _ => id rfl
  have f2 : ∀ (h : Hw) d (f : Fld) n i, (h.bump d f n i).ftm = h.ftm := fun _ _ _ _ _ => id rfl
  have n : ∀ (h : Hw) v, (h.raiseMsixNode v).ftm = h.ftm := fun h v => (raiseMsix_ftm ..).trans (raiseMsix_ftm ..)
  unfold Hw.timeInput
  simp only [apply_ite Hw.ftm, apply_ite Ftm.label, stepTime_label, servo_label, report_ftm, n, t, w, f1, f2, ite_self]

end Sys2Proof.Machine
end

