-- ==== Sys2Proof/Laws/Access.lean ====
section
/-!
SUPPORT. Lemmas on the Cistern and accesses.
-/

namespace Sys2Proof.Machine

theorem headGroup_one {w : HeldWrite} {rest : List HeldWrite} (m : w.more = false) : headGroup (w :: rest) = [w] := by
  unfold headGroup; exact if_neg (by rw [m]; decide)

/-- A held write that has its place and closes its frame is linked. -/
theorem linkHeld_one (h : Hw) (d : Nat) (w : HeldWrite) (rest : List HeldWrite) (a : (h.cistern d).wbuf = w :: rest) (m : w.more = false)
    (p : w.placed = true) : linkHeld d h = (h.setCistern d { h.cistern d with wbuf := rest }).linkTail d w.queue w.cell := by
  unfold linkHeld
  dsimp only
  rw [a, headGroup_one m, if_pos (by simpa using p)]
  rfl

/-- The allocator leaves the write buffer. -/
theorem allocate_wbuf (h : Hw) (d : Nat) : ((h.allocate d).2.cistern d).wbuf = (h.cistern d).wbuf := by
  unfold Hw.allocate
  split
  · rfl
  · split
    · rfl
    · unfold Hw.noteBank Hw.setBank Hw.setCistern Hw.cistern
      dsimp only
      rw [SMap.get_put_self, SMap.get_put_self]

theorem take_hit {h : Hw} {m : SMap Byte} {d q msg : Nat} {v : Upset} {c : CCell} {rest : List CCell} {f : Req → Hw × SMap Byte → Hw × SMap Byte} (a : ((h.meet d q v).2.cq d q).cells = c :: rest) (b : msgOf c = msg) :
    takeCellOf d q v [msg] f (h, m) = f (reqOf c) ((h.meet d q v).2.dropHead d q, m) := by
  unfold takeCellOf; dsimp only; rw [a]; dsimp only; rw [if_pos (by rw [b]; simp)]

theorem take_miss {h : Hw} {m : SMap Byte} {d q msg : Nat} {v : Upset} {c : CCell} {rest : List CCell} {f : Req → Hw × SMap Byte → Hw × SMap Byte} (a : ((h.meet d q v).2.cq d q).cells = c :: rest) (b : msgOf c ≠ msg) :
    takeCellOf d q v [msg] f (h, m) = ((h.meet d q v).2, m) := by
  unfold takeCellOf; dsimp only; rw [a]; dsimp only; rw [if_neg (by simpa using b)]

theorem ans_hit {h : Hw} {d q msg : Nat} {v : Upset} {c : CCell} {rest : List CCell} {f : Nat → Req → Hw → Hw} (a : ((h.meet d q v).2.cq d q).cells = c :: rest) (b : msgOf c = msg) :
    takeAnswer d q v [msg] f h = f (leAt c.cell.data 6 1) (reqOf c) ((h.meet d q v).2.dropHead d q) := by
  unfold takeAnswer; dsimp only; rw [a]; dsimp only; rw [if_pos (by rw [b]; simp)]

theorem bad_hit {h : Hw} {d q : Nat} {v : Upset} {c : CCell} {rest : List CCell} (a : ((h.meet d q v).2.cq d q).cells = c :: rest)
    (b : msgOf c < 0x40 ∨ 0x48 < msgOf c) :
    badAccessCell d q v h = ((h.meet d q v).2.dropHead d q).bump d R.BRG_HCNT_BADMSG := by
  unfold badAccessCell; dsimp only; rw [a]; dsimp only; rw [if_neg (by omega)]

theorem addr_parts {d space off : Nat} (hd : d < 8) (hs : space < 32) (ho : off < 2 ^ 40) :
    addrDie (d * 2 ^ 45 + space * 2 ^ 40 + off) = d ∧ addrSpace (d * 2 ^ 45 + space * 2 ^ 40 + off) = space ∧
        addrOff (d * 2 ^ 45 + space * 2 ^ 40 + off) = off := by
  unfold addrDie addrSpace addrOff bits low
  refine ⟨?_, ?_, ?_⟩ <;> omega

theorem finish_row (e : Nat) (r : Req) (code : Nat) (data : List Byte) (h : Hw) (c : r.msg = 0xA0 ∨ r.msg = 0xA1) (p : r.posted = false) :
    finish e r code data h = { h with reply := ⟨code, data⟩ } := by
  unfold finish
  rcases c with c | c <;> rw [c, p] <;> rfl

theorem submit_plain {d : Nat} {r : Req} {u : Upset} {x : Hw × SMap Byte} (a : addrSpace r.addr ≠ 8) (b : r.isLockWrite = false)
    (l : x.1.lockOn r = none)
    (n : x.1.norBusy r = false) : submit d r u x = perform d r u x := by
  unfold submit
  rw [if_neg a, if_neg (by rw [b]; decide)]
  unfold submitPlain
  dsimp only
  rw [l, if_neg (by decide), n, if_neg (by decide)]

/-- Only a read of the image waits for the NOR. -/
theorem norBusy_other {h : Hw} {r : Req} (a : addrSpace r.addr ≠ 1 ∨ r.isWrite = true) : h.norBusy r = false := by
  unfold Hw.norBusy
  rcases a with a | a
  · rw [beq_false_of_ne a]; rfl
  · rw [a]; simp

theorem norBusy_free {h : Hw} {r : Req} (a : (h.mgt.isOpen && h.ustate == 3) = false) : h.norBusy r = false := by
  unfold Hw.norBusy
  rw [Bool.and_assoc, a, Bool.and_false]

theorem perform_read {d : Nat} {r : Req} {u : Upset} {x : Hw × SMap Byte} {y : Reply × (Hw × SMap Byte)} (w : r.isWrite = false)
    (k : r.isLockRead = false)
    (e : performRead d (addrDie r.addr) (addrSpace r.addr) (addrOff r.addr) r.len r.org u x = y)
        : perform d r u x = (finish d r y.1.code y.1.data y.2.1, y.2.2) := by
  subst e
  unfold perform
  dsimp only
  rw [if_neg (by rw [w]; decide), k]
  rw [if_neg (by simp)]

theorem perform_write {d : Nat} {r : Req} {u : Upset} {x : Hw × SMap Byte} {y : Reply × (Hw × SMap Byte)} (w : r.isWrite = true)
    (k : r.isLockRead = false)
    (e : performWrite d (addrDie r.addr) (addrSpace r.addr) (addrOff r.addr) r.data r.org u x = y)
        : perform d r u x = (finish d r y.1.code y.1.data y.2.1, y.2.2) := by
  subst e
  unfold perform
  dsimp only
  rw [if_pos w, k]
  rw [if_neg (by simp)]

theorem row_read {x : Hw × SMap Byte} {d space off len : Nat} {o : Origin} {u : Upset} {y : Reply × (Hw × SMap Byte)} (hd : d < 8)
    (hs : space < 32) (hs8 : space ≠ 8) (ho : off < 2 ^ 40)
    (nb : space ≠ 1 ∨ (x.1.mgt.isOpen && x.1.ustate == 3) = false) (l : x.1.lockOn (x.1.rowReq 0xA0 d space off len o false []) = none)
        (e : performRead (x.1.entryOf o) d space off len o u x = y) :
    rowRead d space off len o u x = ({ y.2.1 with reply := ⟨y.1.code, y.1.data⟩ }, y.2.2) := by
  have p := addr_parts (d := d) hd hs ho
  unfold rowRead
  generalize hr : x.1.rowReq 0xA0 d space off len o false [] = r at *
  have pa : r.addr = d * 2 ^ 45 + space * 2 ^ 40 + off := by rw [← hr]; rfl
  have pm : r.msg = 0xA0 := by rw [← hr]; rfl
  have pl : r.len = len := by rw [← hr]; rfl
  have po : r.org = o := by rw [← hr]; rfl
  have pp : r.posted = false := by rw [← hr]; rfl
  rw [submit_plain (by rw [pa, p.2.1]; exact hs8) (by unfold Req.isLockWrite; rw [pm]; decide) l
      (nb.elim (fun n => norBusy_other (.inl (by rw [pa, p.2.1]; exact n))) norBusy_free),
    perform_read (y := y) (by unfold Req.isWrite; rw [pm]; decide) (by unfold Req.isLockRead; rw [pm]; decide)
        (by rw [pa, p.1, p.2.1, p.2.2, pl, po]; exact e),
    finish_row _ _ _ _ _ (.inl pm) pp]

theorem row_write {x : Hw × SMap Byte} {d space off : Nat} {bs : List Byte} {o : Origin} {u : Upset} {y : Reply × (Hw × SMap Byte)} (hd : d < 8)
    (hs : space < 32) (hs8 : space ≠ 8) (ho : off < 2 ^ 40)
    (l : x.1.lockOn (x.1.rowReq 0xA1 d space off bs.length o false bs) = none) (e : performWrite (x.1.entryOf o) d space off bs o u x = y) :
    rowWrite d space off bs o false u x = ({ y.2.1 with reply := ⟨y.1.code, y.1.data⟩ }, y.2.2) := by
  have p := addr_parts (d := d) hd hs ho
  unfold rowWrite
  generalize hr : x.1.rowReq 0xA1 d space off bs.length o false bs = r at *
  have pa : r.addr = d * 2 ^ 45 + space * 2 ^ 40 + off := by rw [← hr]; rfl
  have pm : r.msg = 0xA1 := by rw [← hr]; rfl
  have pl : r.data = bs := by rw [← hr]; rfl
  have po : r.org = o := by rw [← hr]; rfl
  have pp : r.posted = false := by rw [← hr]; rfl
  rw [submit_plain (by rw [pa, p.2.1]; exact hs8) (by unfold Req.isLockWrite; rw [pm]; decide)
      l (norBusy_other (.inr (by unfold Req.isWrite; rw [pm]; decide))),
    perform_write (y := y) (by unfold Req.isWrite; rw [pm]; decide) (by unfold Req.isLockRead; rw [pm]; decide)
        (by rw [pa, p.1, p.2.1, p.2.2, pl, po]; exact e),
    finish_row _ _ _ _ _ (.inr pm) pp]

/-- A posted write from another node ends with the reply and, where it failed, an error packet. -/
theorem finish_posted (e n : Nat) (r : Req) (code : Nat) (data : List Byte) (h : Hw) (c : r.msg = 0xA1) (p : r.posted = true) (o : r.org = .ring n) :
    finish e r code data h = if (if code = 0x82 then 2 else code) = 0 then { h with reply := ⟨code, data⟩ } else
      ({ h with reply := ⟨code, data⟩ } : Hw).postedError e n r (if code = 0x82 then 2 else code) := by
  unfold finish
  rw [c, p, o]
  rfl

theorem row_posted {x : Hw × SMap Byte} {d n off : Nat} {bs : List Byte} {r : Req} {y : Reply × (Hw × SMap Byte)} (hd : d < 8) (ho : off < 2 ^ 40)
    (hr : x.1.rowReq 0xA1 d 0 off bs.length (.ring n) true bs = r)
    (l : x.1.lockOn r = none) (e : performWrite (x.1.entryOf (.ring n)) d 0 off bs (.ring n) .clean x = y) :
    rowWrite d 0 off bs (.ring n) true .clean x = (finish (x.1.entryOf (.ring n)) r y.1.code y.1.data y.2.1, y.2.2) := by
  have p := addr_parts (d := d) (space := 0) hd (by omega) ho
  unfold rowWrite
  have pa : r.addr = d * 2 ^ 45 + 0 * 2 ^ 40 + off := by rw [← hr]; rfl
  have pm : r.msg = 0xA1 := by rw [← hr]; rfl
  have pl : r.data = bs := by rw [← hr]; rfl
  have po : r.org = .ring n := by rw [← hr]; rfl
  rw [hr, submit_plain (by rw [pa, p.2.1]; omega) (by unfold Req.isLockWrite; rw [pm]; decide)
      l (norBusy_other (.inr (by unfold Req.isWrite; rw [pm]; decide))),
    perform_write (y := y) (by unfold Req.isWrite; rw [pm]; decide) (by unfold Req.isLockRead; rw [pm]; decide)
        (by rw [pa, p.1, p.2.1, p.2.2, pl, po]; exact e)]

/-- An access that names a die not present is not decoded. -/
theorem gate_absent {h : Hw} {d space off len : Nat} {w : Bool} {o : Origin} (a : h.dies ≤ d) : h.gate d space off len w o = 1 := by
  unfold Hw.gate Hw.decodes
  rw [if_pos]
  rw [decide_eq_false (by omega : ¬ d < h.dies)]
  rfl

theorem read_absent {x : Hw × SMap Byte} {e d space off len : Nat} {o : Origin} {u : Upset} (a : x.1.dies ≤ d) :
    performRead e d space off len o u x = (⟨1, []⟩, (x.1.violation (x.1.decoder e d space) o (space * 2 ^ 40 + off), x.2)) := by
  unfold performRead
  dsimp only
  rw [gate_absent a]
  rfl

theorem write_absent {x : Hw × SMap Byte} {e d space off : Nat} {bs : List Byte} {o : Origin} {u : Upset} (a : x.1.dies ≤ d) :
    performWrite e d space off bs o u x = (⟨1, []⟩, (x.1.violation (x.1.decoder e d space) o (space * 2 ^ 40 + off), x.2)) := by
  unfold performWrite
  dsimp only
  rw [gate_absent a]
  rfl

theorem countArrival_dies (h : Hw) (d q : Nat) (b : Bool) : (h.countArrival d q b).dies = h.dies := by
  unfold Hw.countArrival
  split <;> rfl

theorem setHost_host (h : Hw) (d : Nat) (x : HostPort) : (h.setHost d x).host d = x := SMap.get_put_self ..

theorem split_one (n off len : Nat) (a : 0 < len) (b : off % 64 + len ≤ 64) : splitAt64 (n + 2) off len = [(off, len)] := by
  unfold splitAt64; rw [if_neg (by omega)]; dsimp only
  have e : min len (64 - off % 64) = len := by omega
  rw [e]; unfold splitAt64; rw [if_pos (by omega)]

theorem slice_all (bs : List Byte) (k : Nat) : slice bs (k - k)
    bs.length = bs := by unfold slice; rw [Nat.sub_self]; apply List.ext_getElem <;> simp; intro i hi; rw [List.getElem?_eq_getElem hi]; rfl

theorem mask_all (w v : BitVec 32) : BitVec.ofNat 32 (w.toNat - (w.toNat &&& enabledMask 15) + (v.toNat &&& enabledMask 15)) = v := by
  have e : enabledMask 15 = 2 ^ 32 - 1 := by decide
  rw [e, Nat.and_two_pow_sub_one_eq_mod, Nat.and_two_pow_sub_one_eq_mod]
  apply BitVec.eq_of_toNat_eq; rw [BitVec.toNat_ofNat]; have := w.isLt; have := v.isLt; omega

theorem setBp_bp (h : Hw) (d : Nat) (x : Bp) : (h.setBp d x).bp d = x := SMap.get_put_self ..

theorem setBp_setBp (h : Hw) (d : Nat) (x y : Bp) : (h.setBp d x).setBp d y = h.setBp d y := by
  unfold Hw.setBp; dsimp only; rw [SMap.put_put]

theorem hold_eq (d kind msg addr am width a : Nat) (bs : List Byte) (u : Upset) (h : Hw) (p : SMap Byte) :
    holdCycle d kind msg addr am width a bs u (h, p) = busSend d msg (h.bp d).tagNext a am false width bs u
      (h.setBp d { h.bp d with tagNext := ((h.bp d).tagNext + 1) % 2 ^ 16, held := some ⟨kind, addr, am, width, (h.bp d).tagNext⟩, last := .silent }, p) := by
  unfold holdCycle Hw.takeTag; dsimp only; rw [setBp_bp, setBp_setBp]

theorem bus_plain (d : Nat) (r : Req) (h : Hw) (w : r.isLockWrite = false) (k : r.isLockRead = false) :
    submitBus d r h = if h.gate (addrDie r.addr) 8 (addrOff r.addr) r.len r.isWrite r.org ≠ 0 then
        finish d r (h.gate (addrDie r.addr) 8 (addrOff r.addr) r.len r.isWrite r.org) [] (h.turnAway d (addrDie r.addr) 8 (addrOff r.addr) r.org)
      else h.setBp (addrDie r.addr) { h.bp (addrDie r.addr) with masters := (h.bp (addrDie r.addr)).masters ++ [⟨r, []⟩] } := by
  unfold submitBus; dsimp only
  split
  · rfl
  · rw [if_neg (by rw [w]; decide), if_neg (by rw [k]; simp), if_neg (by rw [k]; simp)]

theorem row_bus (h : Hw) (d e off len : Nat) (o : Origin) (write posted : Bool) (bs : List Byte) (hd : d < 8) (ho : off < 2 ^ 40) :
    let q := h.rowReq (if write = true then 0xA1 else 0xA0) d 8 off len o posted bs
    submitBus e q h = if h.gate d 8 off len write o ≠ 0 then finish e q (h.gate d 8 off len write o) [] (h.turnAway e d 8 off o)
      else h.setBp d { h.bp d with masters := (h.bp d).masters ++ [⟨q, []⟩] } := by
  intro q
  obtain ⟨a, b, c⟩ := addr_parts (space := 8) hd (by omega) ho
  have e1 := bus_plain e q h (by cases write <;> rfl) (by cases write <;> rfl)
  have e2 : q.isWrite = write := by cases write <;> rfl
  rw [show addrDie q.addr = d from a, show addrOff q.addr = off from c, e2] at e1
  exact e1

/-- Sending an access leaves the backplane bridges. -/
theorem sendAccess_bps (h : Hw) (d : Nat) (o : Origin) (msg tag addr reqid : Nat) (posted second : Bool) (len : Nat) (data : List Byte) :
    (h.sendAccess d o msg tag addr reqid posted second len data).bps = h.bps := by
  unfold Hw.sendAccess
  dsimp only
  split
  · apply each_keeps' (fun g : Hw => g.bps = h.bps)
    · intro _ _ p; exact p
    · rfl
  · rfl

theorem as_lock {d : Nat} {x y : Hw × SMap Byte} {l : LockOut} {b : Bp} (a : (x.1.bp d).lock = some l) (e : sendUnlock d l x = y)
    (eb : y.1.bp d = b) (k : b.lock = some l) (w : b.waitAs = none) :
    asRelease d x = (y.1.setBp d { b with lock := none, held := none, asLow := false, waitAs := none }, y.2) := by
  subst e eb
  unfold asRelease; dsimp only; rw [a]; dsimp only; rw [if_pos (by rw [k]; rfl), w]

end Sys2Proof.Machine
end

