-- ==== Sys2Proof/Laws/Engines.lean ====
section
/-!
SUPPORT. Lemmas on Pumps, pins, trackers and CAN controllers.
-/

namespace Sys2Proof.Machine

theorem onlyAt_mono {g h : Hw} {ks js : List Nat} (e : g.onlyAt h ks) (l : ∀ k ∈ ks, k ∈ js) : g.onlyAt h js := fun k hk => e k fun hm => hk (l k hm)

theorem setPump_onlyAt {g h : Hw} {ks : List Nat} (d n : Nat) (x : Pump) (e : g.onlyAt h ks)
    : (g.setPump d n x).onlyAt h ks := fun k hk => (regAt_congr (setPump_sameRegs ..) k).trans (e k hk)

theorem sameRegs_onlyAt {g h : Hw} {ks : List Nat} (e : g.sameRegs h) : g.onlyAt h ks := fun k _ => regAt_congr e k

theorem issued_onlyAt {g h : Hw} {ks : List Nat} (d n : Nat) (t : Option Nat) (x : Pump) (e : g.onlyAt h ks) (hk : R.PMP_STAT_IP.key d n 0 ∈ ks)
    (hk2 : R.PMP_CNT_PCT.key d n 0 ∈ ks) :
    ((g.finish d n t).setPump d n x).onlyAt h ks := setPump_onlyAt _ _ _ (finish_onlyAt _ _ _ hk hk2 e)

theorem foldl_mem {α γ : Type} (P : α → Prop) (Q : γ → Prop) (f : α → γ → α) (hf : ∀ a c, Q c → P a → P (f a c)) (l : List γ) : ∀ a, (∀ c ∈ l, Q c) →
    P a → P (l.foldl f a) := by
  induction l with
  | nil => intro a _ p; exact p
  | cons c l ih => intro a q p; exact ih _ (fun x hx => q x (.tail _ hx)) (hf a c (q c (.head _)) p)

theorem raiseSignal_onlyAt {g h : Hw} {ks : List Nat} (d l : Nat) (a : ∀ m < 64, R.PMP_PEND_SIGP.key d m 0 ∈ ks)
    (b : ∀ m < 64, R.PMP_ERR_SIGOVR.key d m 0 ∈ ks) (e : g.onlyAt h ks) :
    (g.raiseSignal d l).onlyAt h ks := by
  unfold Hw.raiseSignal iter
  refine foldl_mem (fun z : Hw => z.onlyAt h ks) (· < 64) _ (fun z m lt y => ?_) _ g (fun m hm => List.mem_range.mp hm) e
  dsimp only
  split
  · split
    · exact wr_onlyAt _ R.PMP_ERR_SIGOVR _ _ _ (b m lt) y
    · exact wr_onlyAt _ R.PMP_PEND_SIGP _ _ _ (a m lt) y
  · exact y

theorem target_none (h : Hw) (d n : Nat) : h.target d n none = h.nextIp d n := rfl

theorem consume_nextIp (h : Hw) (d n a : Nat) : (h.consume d n a).nextIp d n = h.nextIp d n := by
  unfold Hw.consume
  dsimp only
  split
  · exact nextIp_wr_any _ _ _ _ _ _ (by decide)
  · exact nextIp_wr_any _ _ _ _ _ _ (by decide)
  · rfl

theorem pumpAt_wr {h : Hw} {d n ip : Nat} (F : Fld) (v : Nat) (a : F.apart R.PMP_STAT_IP = true) (p : h.pumpAt d n ip)
    : (h.wr d F v n).pumpAt d n ip := by
  have a' : F.apart R.PMP_STAT_STATE = true := a
  exact ⟨(rd_wr_apart _ _ _ _ _ _ _ a').trans p.1, (rd_wr_apart _ _ _ _ _ _ _ a).trans p.2⟩

theorem pumpAt_setPump {h : Hw} {d n ip : Nat} (x : Pump) (p : h.pumpAt d n ip) : (h.setPump d n x).pumpAt d n ip :=
  ⟨(setPump_rd ..).trans p.1, (setPump_rd ..).trans p.2⟩

theorem pumpWaits_state (h : Hw) (d n : Nat) (w : PumpWait) : (h.pumpWaits d n w).pumpState d n = 2 := by
  unfold Hw.pumpWaits Hw.setPumpState Hw.showStages Hw.pumpState
  simp (disch := decide) only [rd_wr_apart, rd_wr_beside, rd_wr]
  rfl

theorem pumpWaits_pump (h : Hw) (d n : Nat) (w : PumpWait) : (h.pumpWaits d n w).pump d n = { h.pump d n with wait := some w } := by
  unfold Hw.pumpWaits Hw.setPumpState Hw.showStages
  simp only [wr_pump, setPump_pump]

theorem pumpWaits_onlyPump {g h : Hw} (d n : Nat) (w : PumpWait) (e : g.onlyPump h) : (g.pumpWaits d n w).onlyPump h := by
  unfold Hw.pumpWaits
  exact showStages_onlyPump _ _ (wr_onlyPump _ _ _ _ _ (setPump_onlyPump _ _ _ e))

theorem issued_onlyPump {g h : Hw} (d n : Nat) (e : g.onlyPump h) : (h.issued d n g).onlyPump h := setPump_onlyPump _ _ _ e

theorem waits_onlyPump (h : Hw) (d n pa : Nat) (w : PumpWait) : (h.issued d n ((h.pinAction d n pa).pumpWaits d n w)).onlyPump h :=
  issued_onlyPump _ _ (pumpWaits_onlyPump _ _ _ (pinAction_onlyPump ..))

theorem consume_onlyPump {g h : Hw} (d n a : Nat) (e : g.onlyPump h) : (g.consume d n a).onlyPump h := by
  unfold Hw.consume
  dsimp only
  split
  · exact wr_onlyPump _ _ _ _ _ e
  · exact wr_onlyPump _ _ _ _ _ e
  · exact e

theorem pumpWaits_onlyAt {g h : Hw} {ks : List Nat} (d n : Nat) (w : PumpWait) (hk : R.PMP_STAT_IP.key d n 0 ∈ ks)
    (hk2 : R.PMP_CNT_PCT.key d n 0 ∈ ks) (e : g.onlyAt h ks) : (g.pumpWaits d n w).onlyAt h ks := by
  unfold Hw.pumpWaits
  exact showStages_onlyAt _ _ hk hk2 (wr_onlyAt _ R.PMP_STAT_STATE _ _ _ hk (setPump_onlyAt _ _ _ e))

theorem consume_onlyAt {g h : Hw} {ks : List Nat} (d n a : Nat) (hk : R.PMP_PEND_SIGP.key d n 0 ∈ ks) (hk2 : R.PMP_PHPEND_PHP.key d n 0 ∈ ks)
    (e : g.onlyAt h ks) : (g.consume d n a).onlyAt h ks := by
  unfold Hw.consume
  dsimp only
  split
  · exact wr_onlyAt _ _ _ _ _ hk e
  · exact wr_onlyAt _ _ _ _ _ hk2 e
  · exact e

theorem drawWord_eq (d n : Nat) (one : Bool) (u : Upset) (h : Hw) : drawWord d n one u h =
    (let q := pumpQ n (b2n one)
     let m := (h.countArrival d q (h.justFilled d q)).meet d q u
     if m.1 then (BitVec.ofNat 32 (leAt (m.2.cq d q).last 0 4), m.2)
     else (if m.2.queueEmpty d q then m.2.flag d (if one then R.PMP_ERR_UNDR1 else R.PMP_ERR_UNDR0) n else m.2).takeWord d q) := by
  unfold drawWord
  dsimp only

theorem idlePump_onlyPump {g h : Hw} (d n : Nat) (e : g.onlyPump h) : (g.idlePump d n).onlyPump h := by
  unfold Hw.idlePump
  exact iter_keeps (fun g : Hw => g.onlyPump h) _ _ (fun i g e => enablePump_onlyPump _ _ _ _ (drivePump_onlyPump _ _ _ _ e)) _
    (iter_keeps (fun g : Hw => g.onlyPump h) _ _ (fun i g e => enablePump_onlyPump _ _ _ _ (drivePump_onlyPump _ _ _ _ e)) _ e)

theorem haltPump_onlyPump {g h : Hw} (d n : Nat) (e : g.onlyPump h) : (g.haltPump d n).onlyPump h := by
  unfold Hw.haltPump
  exact showStages_onlyPump _ _ (idlePump_onlyPump _ _ (wr_onlyPump _ _ _ _ _ (wr_onlyPump _ _ _ _ _ (wr_onlyPump _ _ _ _ _ (setPump_onlyPump _ _ _ e)))))

theorem stopPump_onlyPump {g h : Hw} (d n : Nat) (e : g.onlyPump h) : (g.stopPump d n).onlyPump h := by
  unfold Hw.stopPump
  split
  · exact e
  · exact wr_onlyPump _ _ _ _ _ (haltPump_onlyPump _ _ e)

theorem idlePump_onlyAt {g h : Hw} {ks : List Nat} (d n : Nat) (e : g.onlyAt h ks)
    : (g.idlePump d n).onlyAt h ks := fun k hk => (regAt_congr (idlePump_sameRegs g d n) k).trans (e k hk)

theorem haltPump_onlyAt {g h : Hw} {ks : List Nat} (d n : Nat) (hk : R.PMP_STAT_IP.key d n 0 ∈ ks) (hk2 : R.PMP_CNT_PCT.key d n 0 ∈ ks)
    (e : g.onlyAt h ks) : (g.haltPump d n).onlyAt h ks := by
  unfold Hw.haltPump
  refine showStages_onlyAt _ _ hk hk2 (idlePump_onlyAt _ _ ?_)
  exact wr_onlyAt _ R.PMP_STAT_STOPPEND _ _ _ hk (wr_onlyAt _ R.PMP_CNT_GCT _ _ _ hk2 (wr_onlyAt _ R.PMP_CNT_PCT _ _ _ hk2 (setPump_onlyAt _ _ _ e)))

theorem stopPump_onlyAt {g h : Hw} {ks : List Nat} (d n : Nat) (hk : R.PMP_STAT_IP.key d n 0 ∈ ks) (hk2 : R.PMP_CNT_PCT.key d n 0 ∈ ks)
    (e : g.onlyAt h ks) : (g.stopPump d n).onlyAt h ks := by
  unfold Hw.stopPump
  split
  · exact e
  · exact wr_onlyAt _ R.PMP_STAT_STATE _ _ _ hk (haltPump_onlyAt _ _ hk hk2 e)

theorem c_start {h : Hw} {d n : Nat} (c1 : h.engineRuns = true) (c2 : h.pumpState d n = 0) (c3 : (h.pump d n).bad = []) :
    pumpStartCmd d n h = (h.startPump d n).wr d R.PMP_CTL_CMD 1 n := by
  unfold pumpStartCmd Hw.requestStart
  rw [if_pos c1, if_pos ⟨c2, c3⟩]

theorem start_onlyPump (h : Hw) (d n : Nat) : ((h.startPump d n).wr d R.PMP_CTL_CMD 1 n).onlyPump h := by
  unfold Hw.startPump
  dsimp only
  refine wr_onlyPump _ _ _ _ _ (showStages_onlyPump _ _ (setPump_onlyPump _ _ _ ?_))
  exact wr_onlyPump _ _ _ _ _ (wr_onlyPump _ _ _ _ _ (wr_onlyPump _ _ _ _ _ (wr_onlyPump _ _ _ _ _ (Eq.refl h))))

theorem eff_onlyPump (h : Hw) (d n : Nat) (x : Hw →
    Pump) : ((((h.idlePump d n).setPumpState d n 1).pumpBoundary d n 0).setPump d n (x (((h.idlePump d n).setPumpState d n 1).pumpBoundary d n 0))).onlyPump h :=
  setPump_onlyPump _ _ _ (setPump_onlyPump _ _ _ (wr_onlyPump _ _ _ _ _ (idlePump_onlyPump _ _ (Eq.refl h))))

theorem halt_onlyPump (h : Hw) (d n v w : Nat) : (((h.wr d R.PMP_CTL_CMD v n).haltPump d n).setPumpState d n w).onlyPump h :=
  wr_onlyPump _ _ _ _ _ (haltPump_onlyPump _ _ (wr_onlyPump _ _ _ _ _ (Eq.refl h)))

theorem start_onlyAt (h : Hw) (d n : Nat) : ((h.startPump d n).wr d R.PMP_CTL_CMD 1 n).onlyAt h [R.PMP_CTL_CMD.key d n 0, R.PMP_PEND_SIGP.key d n 0, R.PMP_PHPEND_PHP.key d n 0, R.PMP_STAT_IP.key d n 0, R.PMP_CNT_PCT.key d n 0] := by
  unfold Hw.startPump
  dsimp only
  have m4 : R.PMP_STAT_IP.key d n 0 ∈ [R.PMP_CTL_CMD.key d n 0, R.PMP_PEND_SIGP.key d n 0, R.PMP_PHPEND_PHP.key d n 0, R.PMP_STAT_IP.key d n 0, R.PMP_CNT_PCT.key d n 0] := by simp
  have m5 : R.PMP_CNT_PCT.key d n 0 ∈ [R.PMP_CTL_CMD.key d n 0, R.PMP_PEND_SIGP.key d n 0, R.PMP_PHPEND_PHP.key d n 0, R.PMP_STAT_IP.key d n 0, R.PMP_CNT_PCT.key d n 0] := by simp
  refine wr_onlyAt _ _ _ _ _ (.head _) (showStages_onlyAt _ _ m4 m5 (setPump_onlyAt _ _ _ ?_))
  exact wr_onlyAt _ R.PMP_CNT_GCT _ _ _ m5 (wr_onlyAt _ _ _ _ _ (.tail _ (.tail _ (.head _))) (wr_onlyAt _ _ _ _ _ (.tail _ (.head _))
      (wr_onlyAt _ _ _ _ _ m4 fun _ _ => rfl)))

theorem c_start2 (h : Hw) (d n : Nat) : let g := (h.startPump d n).wr d R.PMP_CTL_CMD 1 n
      g.rd d R.PMP_STAT_IP n = h.rd d R.PMP_FLOW_STARTIP n ∧ (g.pump d n).starting = true ∧ g.rd d R.PMP_PEND_SIGP n = 0 ∧
      g.rd d R.PMP_PHPEND_PHP n = 0 ∧ g.rd d R.PMP_CNT_GCT n = 0 ∧ (g.pump d n).pourRun = 0 ∧ (g.pump d n).gathRun = 0 ∧
      (g.pump d n).flag = false ∧ (g.pump d n).abort = false ∧ (g.pump d n).acc = 0 ∧ (g.pump d n).enc = h.on d R.PMP_LCCFG_ENCP0 n ∧
      (g.pump d n).dec = h.on d R.PMP_LCCFG_DECP0 n ∧ g.onlyPump h ∧
      g.onlyAt h [R.PMP_CTL_CMD.key d n 0, R.PMP_PEND_SIGP.key d n 0, R.PMP_PHPEND_PHP.key d n 0, R.PMP_STAT_IP.key d n 0, R.PMP_CNT_PCT.key d n 0] := by
  intro g
  have e : low 6 (h.rd d R.PMP_FLOW_STARTIP n) = h.rd d R.PMP_FLOW_STARTIP n := low_of_lt (rd_lt h d R.PMP_FLOW_STARTIP n 0)
  have z : low 32 0 = 0 := Nat.zero_mod _
  have z1 : low 6 0 = 0 := Nat.zero_mod _
  have c1 : g.pump d n = _ := wr_pump ..
  have c2 : (h.startPump d n).pump d n = _ := showStages_pump ..
  have c3 := c2.trans (setPump_pump ..)
  have c4 := c1.trans c3
  refine ⟨?_, by rw [c4], ?_, ?_, ?_, by rw [c4], by rw [c4], by rw [c4], by rw [c4], by rw [c4], ?_, ?_, start_onlyPump h d n, start_onlyAt h d n⟩
  · unfold g Hw.startPump Hw.showStages
    dsimp only
    simp (disch := decide) only [rd_wr_apart, rd_wr_beside, rd_wr, setPump_rd]
    exact e
  · unfold g Hw.startPump Hw.showStages
    dsimp only
    simp (disch := decide) only [rd_wr_apart, rd_wr_beside, rd_wr, setPump_rd]
    exact z
  · unfold g Hw.startPump Hw.showStages
    dsimp only
    simp (disch := decide) only [rd_wr_apart, rd_wr_beside, rd_wr, setPump_rd]
    exact z
  · unfold g Hw.startPump Hw.showStages
    dsimp only
    simp (disch := decide) only [rd_wr_apart, rd_wr_beside, rd_wr, setPump_rd]
    exact z1
  · rw [c4]
    dsimp only
    unfold Hw.on
    simp (disch := decide) only [rd_wr_apart, rd_wr_beside, rd_wr, setPump_rd]
  · rw [c4]
    dsimp only
    unfold Hw.on
    simp (disch := decide) only [rd_wr_apart, rd_wr_beside, rd_wr, setPump_rd]

/-- A Pump cycle's boundary changes the Pump's own clock. -/
theorem pumpBoundary_pump (h : Hw) (d n lag : Nat) : (h.pumpBoundary d n lag).pump d n =
    { h.pump d n with acc := ((h.pump d n).acc + h.rd d R.PMP_DIV_FRAC n) % 256,
                      clk := 5 * (h.rd d R.PMP_DIV_INT n + ((h.pump d n).acc + h.rd d R.PMP_DIV_FRAC n) / 256) - lag } := setPump_pump ..

theorem pumpBoundary_rd (h : Hw) (d n lag e : Nat) (F : Fld) (i j : Nat) : (h.pumpBoundary d n lag).rd e F i j = h.rd e F i j := setPump_rd ..

theorem c_eff {h : Hw} {d n : Nat} (c1 : (h.pump d n).starting = true) (c2 : h.pumpState d n = 0) :
    let g := pumpStartEffect d n h
    g.pumpState d n = 1 ∧ (g.pump d n).starting = false ∧ g.rd d R.PMP_STAT_IP n = h.rd d R.PMP_STAT_IP n ∧
    (let sum := (h.pump d n).acc + h.rd d R.PMP_DIV_FRAC n
     (g.pump d n).acc = sum % 256 ∧ (g.pump d n).clk = 5 * (h.rd d R.PMP_DIV_INT n + sum / 256)) ∧
    g.onlyPump h ∧ g.onlyAt h [R.PMP_STAT_IP.key d n 0, R.PMP_CNT_PCT.key d n 0] := by
  intro g
  let k := (h.idlePump d n).setPumpState d n 1
  have e : g = (k.pumpBoundary d n 0).setPump d n { (k.pumpBoundary d n 0).pump d n with starting := false, prevIn := (k.pumpBoundary d n 0).inSample d n, wait := none } := if_pos ⟨c1, c2⟩
  have oa : g.onlyAt h [R.PMP_STAT_IP.key d n 0, R.PMP_CNT_PCT.key d n 0] := by
    rw [e]; exact setPump_onlyAt _ _ _ (setPump_onlyAt _ _ _ (wr_onlyAt _ R.PMP_STAT_STATE _ _ _ (.head _) (idlePump_onlyAt _ _ fun _ _ => rfl)))
  have o : g.onlyPump h := by rw [e]; exact eff_onlyPump h d n fun h => { h.pump d n with starting := false, prevIn := h.inSample d n, wait := none }
  have ep : k.pump d n = h.pump d n := (wr_pump ..).trans (idlePump_pump ..)
  have er : ∀ F : Fld, Fld.apart R.PMP_STAT_STATE F = true → k.rd d F n = h.rd d F n := by
    intro F a
    show ((h.idlePump d n).wr d R.PMP_STAT_STATE 1 n).rd d F n = _
    rw [rd_wr_apart _ _ _ _ _ _ _ a]
    exact (idlePump_sameRegs h d n).rd ..
  rw [e] at o oa ⊢
  unfold Hw.pumpState
  refine ⟨?_, ?_, ?_, ⟨?_, ?_⟩, o, oa⟩
  · rw [setPump_rd, pumpBoundary_rd]; exact rd_wr _ _ _ _ _ _ rfl
  · rw [setPump_pump]
  · rw [setPump_rd, pumpBoundary_rd]; exact (rd_wr_beside _ _ _ _ _ _ _ rfl).trans ((idlePump_sameRegs h d n).rd ..)
  · rw [setPump_pump, pumpBoundary_pump, ep, er _ rfl]
  · rw [setPump_pump, pumpBoundary_pump, ep, er _ rfl, er _ rfl, Nat.sub_zero]

theorem c_stop {h : Hw} {d n : Nat} (c : h.pumpState d n ≠ 3) : let g := pumpStopNow d n h
      g.pumpState d n = 0 ∧ (g.pump d n).pour = none ∧ (g.pump d n).gather = none ∧ g.rd d R.PMP_CNT_PCT n = 0 ∧
      g.rd d R.PMP_CNT_GCT n = 0 ∧ g.onlyPump h ∧ g.onlyAt h [R.PMP_CTL_CMD.key d n 0, R.PMP_STAT_IP.key d n 0, R.PMP_CNT_PCT.key d n 0] ∧
      ∀ F ∈ [R.PMP_X_VALUE, R.PMP_Y_VALUE, R.PMP_GS_VALUE, R.PMP_PS_VALUE, R.PMP_CNT_LC, R.PMP_CRCACC_VALUE],
        g.rd d F n = h.rd d F n := by
    intro g
    have c' : (h.wr d R.PMP_CTL_CMD 2 n).pumpState d n ≠ 3 := by
      unfold Hw.pumpState; rw [rd_wr_apart _ _ _ _ _ _ _ rfl]; exact c
    have e : g = ((h.wr d R.PMP_CTL_CMD 2 n).haltPump d n).setPumpState d n 0 := stopPump_eq _ _ _ c'
    rw [e]
    unfold Hw.setPumpState Hw.pumpState
    refine ⟨?_, ?_, ?_, ?_, ?_, halt_onlyPump h d n 2 0, wr_onlyAt _ R.PMP_STAT_STATE _ _ _ (.tail _ (.head _)) (haltPump_onlyAt _ _ (.tail _ (.head _)) (.tail _ (.tail _ (.head _))) (wr_onlyAt _ _ _ _ _ (.head _) fun _ _ => rfl)), ?_⟩
    · rw [rd_wr _ _ _ _ _ _ rfl]; rfl
    · rw [wr_pump, haltPump_pump]
    · rw [wr_pump, haltPump_pump]
    · rw [rd_wr_apart _ _ _ _ _ _ _ rfl]
      obtain ⟨a, b, c0, e, y, rfl⟩ := haltPump_rd (h.wr d R.PMP_CTL_CMD 2 n) d n R.PMP_CNT_PCT n
      rw [y]
      simp (disch := decide) only [rd_wr_apart, rd_wr]; rfl
    · rw [rd_wr_apart _ _ _ _ _ _ _ rfl]
      obtain ⟨a, b, c0, e, y, rfl⟩ := haltPump_rd (h.wr d R.PMP_CTL_CMD 2 n) d n R.PMP_CNT_GCT n
      rw [y]
      simp (disch := decide) only [rd_wr_apart, rd_wr_beside, rd_wr]; rfl
    · intro F hF
      obtain ⟨a, b, c0, e, y, rfl⟩ := haltPump_rd (h.wr d R.PMP_CTL_CMD 2 n) d n F n
      simp only [List.mem_cons, List.not_mem_nil, or_false] at hF
      rcases hF with rfl | rfl | rfl | rfl | rfl | rfl <;>
        simp (disch := decide) only [y, rd_wr_apart, rd_wr_beside]

theorem c_bnd {h : Hw} {d n : Nat} (c : h.pumpState d n = 1 ∨
    h.pumpState d n = 2) : pumpStopAtBoundary d n h = (h.wr d R.PMP_CTL_CMD 3 n).flag d R.PMP_STAT_STOPPEND n := by
  have c' : (h.wr d R.PMP_CTL_CMD 3 n).pumpState d n = h.pumpState d n := rd_wr_apart _ _ _ _ _ _ _ rfl
  exact if_pos (by rw [← c'] at c; exact c)

theorem c_reach {h : Hw} {d n : Nat} (c1 : h.on d R.PMP_STAT_STOPPEND n = true) (c2 : h.pumpState d n = 1) (c3 : h.midShift d n = false) (l : Bool) :
    (stopBoundaryReached d n l h).pumpState d n = 0 ∧ (stopBoundaryReached d n l h).onlyPump h ∧
        (stopBoundaryReached d n l h).onlyAt h [R.PMP_CNTA_MARGIN.key d n 0, R.PMP_STAT_IP.key d n 0, R.PMP_CNT_PCT.key d n 0] := by
  have e : stopBoundaryReached d n l h = (if l then h.bump d R.PMP_CNTA_MARGIN 1 n else h).stopPump d n := if_pos ⟨c1, c2, by rw [c3]; decide⟩
  rw [e]
  refine ⟨stopPump_state _ _ _ ?_, stopPump_onlyPump _ _ (by split <;> rfl), stopPump_onlyAt _ _ (.tail _ (.head _)) (.tail _ (.tail _ (.head _))) (by
    split
    · exact wr_onlyAt _ R.PMP_CNTA_MARGIN _ _ _ (.head _) fun _ _ => rfl
    · exact fun _ _ => rfl)⟩
  split
  · unfold Hw.bump Hw.pumpState; rw [rd_wr_apart _ _ _ _ _ _ _ rfl]
    change h.pumpState d n ≠ 3
    rw [c2]; decide
  · rw [c2]; decide

theorem c_store {h : Hw} {d n : Nat} (u : Upset) (i : h.issuable d n (isOp 0x04)) : pumpStore d n .good u h = h.issued d n
    (storePlaced d n (h.pumpArg d n % 2) ((h.pinned d n).storeValue d n (h.pumpArg d n))
        (((h.pinned d n).storeTaken d n (h.pumpArg d n)).localWord d (pumpQ n (2 + h.pumpArg d n % 2))
            ((h.pinned d n).storeValue d n (h.pumpArg d n)) u)) := issue_of_issuable _ i

theorem key_evr_pmp (d n : Nat) (hn : n < 64) (F : Fld) (a : F.addr / 1024 = 256) (b : F.s1 = 1024) (c : F.s2 = 0) (e : F.node = false)
    : R.EVR_CNT_DROPPED.key d 0 0 ≠ F.key d n 0 := by
  unfold Fld.key; rw [b, c, e, show R.EVR_CNT_DROPPED = ⟨0xC0010, 0, 0, 0, 16, false⟩ from rfl]
  dsimp only; simp only [Bool.false_eq_true, if_false]; omega

theorem haltPump_onlyPump_pumps5 (h : Hw) (d n : Nat) : (h.haltPump d n).onlyPump h := by
  unfold Hw.haltPump
  refine showStages_onlyPump _ _ ?_
  unfold Hw.idlePump
  refine iter_keeps (fun g : Hw => g.onlyPump h) _ _ (fun i g e => enablePump_onlyPump _ _ _ _ (drivePump_onlyPump _ _ _ _ e)) _ ?_
  refine iter_keeps (fun g : Hw => g.onlyPump h) _ _ (fun i g e => enablePump_onlyPump _ _ _ _ (drivePump_onlyPump _ _ _ _ e)) _ ?_
  exact wr_onlyPump _ _ _ _ _ (wr_onlyPump _ _ _ _ _ (wr_onlyPump _ _ _ _ _ (setPump_onlyPump _ _ _ (Eq.refl h))))

theorem told_rd (y : Hw) (d n c x : Nat) (hn : n < 64) (F : Fld) (a : F.addr / 1024 = 256) (b : F.s1 = 1024) (e : F.s2 = 0) (f : F.node = false) :
    ((y.raiseFault d c n).report d (0x20 + n) .pumpFault x).rd d F n = y.rd d F n := by
  exact (report_rd_apart (y.raiseFault d c n) d (0x20 + n) .pumpFault x 0 F n (key_evr_pmp d n hn F a b e f)).trans (rd_congr rfl rfl rfl d F n 0)

theorem told_pump (y : Hw) (d n c x : Nat) : ((y.raiseFault d c n).report d (0x20 + n) .pumpFault x).pump d n = y.pump d n := by
  unfold Hw.pump; simp only [report_frame, raiseFault_frame]

theorem told_reports (y : Hw) (d n c x : Nat) : ((y.raiseFault d c n).report d (0x20 + n)
    .pumpFault x).flt.reports = y.flt.reports ++ [⟨d, c, n, y.now, false⟩] := by
  simp only [report_frame]; rfl

theorem onlyPump_flt {g h : Hw} (e : g.onlyPump h) : g.flt = h.flt ∧ g.now = h.now := by
  unfold Hw.onlyPump at e
  rw [← e]
  exact ⟨rfl, rfl⟩

theorem faultPump_eq (h : Hw) (d n : Nat) (par : Bool) (c : h.pumpState d n ≠ 3) : h.faultPump d n par =
    (((((((whenDo par (fun h : Hw => h.journalErr d 4 n 2) h).haltPump d n).setPumpState d n 3).wr d R.PMP_ERR_FIP (h.rd d R.PMP_STAT_IP n)
        n).flag d (if par then R.PMP_ERR_PARITY else R.PMP_ERR_ILLOP) n).bump d R.PMP_CNTB_FAULTS 1 n).raiseFault d (if par then 0x20 else 0x21)
            n).report d (0x20 + n) .pumpFault (h.rd d R.PMP_STAT_IP n) := by
  unfold Hw.faultPump
  rw [if_neg c]

theorem faultPump_spec (h : Hw) (d n : Nat) (hn : n < 64) (par : Bool) (c : h.pumpState d n ≠ 3) :
    ((h.faultPump d n par).pumpState d n = 3 ∧ (h.faultPump d n par).rd d R.PMP_ERR_FIP n = h.rd d R.PMP_STAT_IP n ∧
      ((h.faultPump d n par).pump d n).pour = none ∧ ((h.faultPump d n par).pump d n).gather = none ∧
      (h.faultPump d n par).flt.reports = h.flt.reports ++ [⟨d, if par then 0x20 else 0x21, n, h.now, false⟩]) ∧
    (h.faultPump d n par).rd d (if par then R.PMP_ERR_PARITY else R.PMP_ERR_ILLOP) n = 1 ∧
        ((h.faultPump d n par).pump d n).bad = (h.pump d n).bad := by
  have ipl : h.rd d R.PMP_STAT_IP n < 2 ^ 6 := rd_lt h d R.PMP_STAT_IP n 0
  generalize hk : whenDo par (fun h : Hw => h.journalErr d 4 n 2) h = k
  have k1 : k.pumps = h.pumps ∧ k.flt = h.flt ∧ k.now = h.now := by
    subst hk; cases par
    · exact ⟨rfl, rfl, rfl⟩
    · simp only [whenDo, if_true, journalErr_frame, and_self]
  have hp : (k.haltPump d n).onlyPump k := haltPump_onlyPump_pumps5 k d n
  have hq : ((k.haltPump d n).pump d n) = { k.pump d n with pour := none, gather := none, wait := none, starting := false } := haltPump_pump k d n
  have kp : k.pump d n = h.pump d n := by unfold Hw.pump; rw [k1.1]
  rw [faultPump_eq h d n par c, hk]
  generalize k.haltPump d n = m at hp hq ⊢
  have mf : m.flt = k.flt := (onlyPump_flt hp).1
  have mn : m.now = k.now := (onlyPump_flt hp).2
  unfold Hw.pumpState Hw.setPumpState
  have mp : ((((((m.wr d R.PMP_STAT_STATE 3 n).wr d R.PMP_ERR_FIP (h.rd d R.PMP_STAT_IP n)
      n).flag d (if par then R.PMP_ERR_PARITY else R.PMP_ERR_ILLOP) n).bump d R.PMP_CNTB_FAULTS 1 n).raiseFault d (if par then 0x20 else 0x21)
          n).report d (0x20 + n) .pumpFault (h.rd d R.PMP_STAT_IP n)).pump d n = { h.pump d n with pour := none, gather := none, wait := none, starting := false } := by
    rw [told_pump, Hw.bump, wr_pump, Hw.flag, wr_pump, wr_pump, wr_pump, hq, kp]
  rw [mp, told_reports]
  refine ⟨⟨?_, ?_, rfl, rfl, ?_⟩, ?_, rfl⟩
  · rw [told_rd _ _ _ _ _ hn _ (by decide) rfl rfl rfl]
    cases par <;> simp (disch := decide) only [Hw.bump, Hw.flag, rd_wr_apart, rd_wr, Bool.false_eq_true, if_false, if_true] <;> rfl
  · rw [told_rd _ _ _ _ _ hn _ (by decide) rfl rfl rfl]
    cases par <;> simp (disch := decide) only [Hw.bump, Hw.flag, rd_wr_apart, rd_wr_beside, rd_wr, Bool.false_eq_true, if_false, if_true] <;> exact low_of_lt ipl
  · rw [← k1.2.1, ← k1.2.2, ← mf, ← mn]
    simp only [flag_frame, wr_frame, bump_frame]
  · cases par
    · simp only [Bool.false_eq_true, if_false]
      rw [told_rd _ _ _ _ _ hn _ (by decide) rfl rfl rfl, Hw.bump, rd_wr_apart _ _ _ _ _ _ _ rfl]; exact on_flag_self _ _ _ _ _ (by decide)
          (by decide)
    · simp only [if_true]
      rw [told_rd _ _ _ _ _ hn _ (by decide) rfl rfl rfl, Hw.bump, rd_wr_apart _ _ _ _ _ _ _ rfl]; exact on_flag_self _ _ _ _ _ (by decide)
          (by decide)

theorem markBad_pump (h : Hw) (d n e : Nat) : e ∈ ((h.markBad d n e).pump d n).bad := by
  unfold Hw.markBad
  extract_lets x
  split
  · rename_i c; exact List.contains_iff_mem.mp c
  · rw [setPump_pump]; exact List.mem_cons_self

theorem markBad_same (h : Hw) (d n e : Nat) : (h.markBad d n e).sameRegs h ∧ (h.markBad d n e).flt = h.flt ∧ (h.markBad d n e).now = h.now := by
  unfold Hw.markBad
  extract_lets x
  split <;> exact ⟨⟨rfl, rfl, rfl⟩, rfl, rfl⟩

theorem issue_word (h : Hw) (d n : Nat) (want : Nat → Bool) (act : Nat → Hw → Hw) (c : h.pumpState d n = 1) :
    h.issue d n .word want act = (h.markBad d n (h.rd d R.PMP_STAT_IP n)).faultPump d n true := by
  unfold Hw.issue
  rw [if_pos c]
  exact if_pos (Or.inl rfl)

theorem issue_reg (h : Hw) (d n : Nat) (want : Nat → Bool) (act : Nat → Hw → Hw) (c : h.pumpState d n = 1)
    (b : (h.pump d n).bad.contains (h.rd d R.PMP_STAT_IP n) = false) : h.issue d n .reg want act = h.faultPump d n true := by
  unfold Hw.issue
  rw [if_pos c]
  simp only [b, reduceCtorEq, or_self, Bool.false_eq_true, if_false, if_true]

theorem setPin_pin (h : Hw) (d p : Nat) (x : Pin) : (h.setPin d p x).pin d p = x := SMap.get_put_self ..

theorem refreshPins_only (h : Hw) (d : Nat) : { h.refreshPins d with pins := h.pins } = h := by
  refine each_keeps' (fun g : Hw => { g with pins := h.pins } = h) _ _ (fun p g e => ?_) h rfl
  unfold Hw.refreshPin
  dsimp only
  split
  · exact e
  · exact e

theorem wr_refreshPins_only (h : Hw) (d e : Nat) (F : Fld) (v : Nat) : { ((h.wr e F v).refreshPins d) with regs := h.regs, pins := h.pins } = h := by
  have a := refreshPins_only (h.wr e F v) d
  exact congrArg (fun g : Hw => { g with regs := h.regs }) a

theorem refreshPins_regs (h : Hw) (d : Nat) : (h.refreshPins d).sameRegs h :=
  each_keeps' (fun g : Hw => g.sameRegs h) (fun p h => h.refreshPin d p) _ (fun i g e => (refreshPin_sameRegs g d i).trans e) h ⟨rfl, rfl, rfl⟩

theorem bits_fold (f : Nat → Bool) (n g : Nat) : ((List.range n).foldl (fun a i => if f i then a + 2 ^ i else a) 0) < 2 ^ n ∧
    (g < n → bit ((List.range n).foldl (fun a i => if f i then a + 2 ^ i else a) 0) g = f g) := by
  induction n with
  | zero => exact ⟨by simp, fun h => by omega⟩
  | succ n ih =>
    rw [List.range_succ, List.foldl_append]
    simp only [List.foldl_cons, List.foldl_nil]
    generalize (List.range n).foldl (fun a i => if f i then a + 2 ^ i else a) 0 = a at *
    obtain ⟨l, ih⟩ := ih
    refine ⟨by split <;> omega, fun hg => ?_⟩
    by_cases e : g = n
    · subst e
      unfold bit
      by_cases c : f g = true
      · rw [if_pos c, c, Nat.add_div_right _ (Nat.two_pow_pos g), Nat.div_eq_of_lt l]; rfl
      · rw [if_neg c, Nat.div_eq_of_lt l]; simp only [Bool.not_eq_true] at c; rw [c]; rfl
    · have hl : g < n := by omega
      rw [← ih hl]
      split
      · unfold bit
        have : 2 ^ n = 2 ^ g * (2 * 2 ^ (n - g - 1)) := by
          rw [← Nat.pow_succ', ← Nat.pow_add]; congr 1; omega
        rw [this, Nat.add_mul_div_left _ _ (Nat.two_pow_pos g), Nat.add_mul_mod_self_left]
      · rfl

/-- No qualified change changes nothing. -/
theorem qualifiedChange_nil (d : Nat) (h : Hw) : qualifiedChange d [] h = h := by
  unfold qualifiedChange
  refine iter_keeps' (fun g : Hw => g = h) _ 8 (fun t g e => ?_) h rfl
  show g.quadStep d t false false _ = h
  unfold Hw.quadStep
  rw [e]
  split
  · rfl
  · rw [if_neg (by decide), if_neg (by decide), if_neg (by decide)]

theorem each_one {α : Type} (a : α) (f : α → Hw → Hw) (h : Hw) : each [a] f h = f a h := rfl

theorem samplePins_skip {d p : Nat} {h : Hw} (a : h.sampleDue d p = false) : samplePins d [p] h = h := by
  unfold samplePins
  dsimp only
  rw [show [p].filter (fun p => h.sampleDue d p) = [] from by simp [a], each_nil, each_nil, each_nil, each_nil, show h.changedPins d [] = [] from rfl]
  exact qualifiedChange_nil d h

theorem changedPins_one (g : Hw) (d p : Nat) : g.changedPins d [p] = if g.chainOut d p != (g.pin d p).qual then [p] else [] := by
  unfold Hw.changedPins; rw [List.filter_cons]; rfl

/-- A sample cycle of one pin, stage by stage. -/
theorem samplePins_one {d p : Nat} {h g1 g2 g3 g4 k : Hw} {ch : List Nat} (a : h.sampleDue d p = true) (e1 : h.chainStep d p = g1)
    (ec : (if g1.chainOut d p != (g1.pin d p).qual then [p] else []) = ch) (e2 : qualifiedChange d ch g1 = g2)
    (e3 : g2.timeoutStep d p (ch.contains p && g2.activeEdge d p (g2.pin d p).qual) = g3) (e4 : g3.openLimit d p = g4)
    (ek : (if g4.rd d R.MIO_PCFG_FUNC p = 6 then g4.refreshPin d p else g4) = k) : samplePins d [p] h = k.readbackStep d p := by
  unfold samplePins
  dsimp only
  rw [show [p].filter (fun p => h.sampleDue d p) = [p] from by simp [a], each_one, each_one, each_one, each_one, e1, changedPins_one, ec, e2, e3, e4, ek]

theorem chainStep_pin (h : Hw) (d p : Nat) : (h.chainStep d p).pin d p = filterStep (h.rd d R.MIO_PFLT_FILT p)
    ((h.pin d p).sync != h.on d R.MIO_PCFG_INV p)
    { h.pin d p with hist := ((h.pin d p).filt :: (h.pin d p).hist).take 5, sampledAt := some h.now } := setPin_pin ..

theorem filterStep_kept (n : Nat) (v : Bool) (x : Pin) : (filterStep n v x).hist = x.hist ∧ (filterStep n v x).sampledAt = x.sampledAt := by
  unfold filterStep; split
  · exact ⟨rfl, rfl⟩
  · split <;> exact ⟨rfl, rfl⟩

theorem setPin_setPin (h : Hw) (d p : Nat) (x y : Pin) : (h.setPin d p x).setPin d p y = h.setPin d p y := by
  unfold Hw.setPin; dsimp only; rw [SMap.put_put]

/-- The timeout of a guarded input pin whose count has reached TMO. -/
theorem timeoutStep_due {g : Hw} {d p n : Nat} {edge : Bool} (a : g.guarded = true) (b : g.node.state ≠ .dawn) (c : g.isInput d p = true)
    (e : g.rd d R.MIO_PTMO_TMO p ≠ 0) (f : (g.pin d p).tmo = some n) (o : (g.pin d p).tmoFired = false) (q : g.rd d R.MIO_PTMO_TMO p ≤ n + 1) :
    (edge = true → g.timeoutStep d p edge = (g.setPin d p { g.pin d p with tmo := some 0, tmoFired := false }).bump d R.MIO_MARGIN_MARGIN) ∧
    (edge = false → g.timeoutStep d p edge = ((((g.setPin d p { g.pin d p with tmo := some (n + 1), tmoFired := true }).flag d R.MIO_PSTAT_TMOERR p).bump d
      R.MIO_PTMO_VIOL 1 p).report d 0x80 .pinTimeout p).tripOn d p 4) := by
  have w : ¬ (g.pin d p).tmoFired = true ∧ g.rd d R.MIO_PTMO_TMO p ≤ n + 1 := ⟨by rw [o]; decide, q⟩
  unfold Hw.timeoutStep
  dsimp only
  rw [if_pos ⟨a, b, c, e⟩, f]
  dsimp only
  refine ⟨fun l => (if_pos l).trans (if_pos w), fun l => (if_neg (by rw [l]; decide)).trans ((if_pos w).trans ?_)⟩
  unfold Hw.timeoutFires
  dsimp only
  rw [setPin_setPin, setPin_pin]

theorem openLimit_none {g : Hw} {d p : Nat} (a : (g.pin d p).openAt = none) : g.openLimit d p = g := by
  unfold Hw.openLimit; dsimp only; rw [a]

theorem openLimit_due {g : Hw} {d p t : Nat} (a : g.guarded = true) (b : g.isInput d p = true)
    (c : g.rd d R.MIO_PFLT_CHECK p = 1 ∨ g.rd d R.MIO_PFLT_CHECK p = 2) (e : (g.pin d p).openAt = some t)
    (f : g.rd d R.MIO_PRNG_MAX p < g.tickOf d p - t) :
    g.openLimit d p = (g.setPin d p { g.pin d p with openAt := none }).closeMeasure d p (g.rd d R.MIO_PRNG_MAX p + 1) := by
  unfold Hw.openLimit; dsimp only; rw [e]; exact if_pos ⟨a, b, c, f⟩

/-- What the readback of a configured output pin does at a sample cycle. -/
theorem readbackStep_due {k : Hw} {d p : Nat} (a : k.on d R.MIO_PCFG_RBEN p = true) (b : k.rd d R.MIO_PCFG_MODE p ≠ 0) (c : k.configured = true)
    (e : (k.pin d p).drvAt ≠ some k.now) :
    let z := k.pin d p
    let g5 := k.readbackStep d p
    (z.rbArmed = false → g5 = k.setPin d p { z with settle := z.settle - 1, rbArmed := decide (z.settle ≤ 1) }) ∧
    (z.rbArmed = true → z.drv = none → g5 = k) ∧
    (z.rbArmed = true → ∀ v, z.drv = some v →
      (z.sync = v → g5 = k.setPin d p { z with rbBad := false }) ∧
      (z.sync ≠ v → z.rbBad = true → g5 = k) ∧
      (z.sync ≠ v → z.rbBad = false → g5 = ((((k.setPin d p { z with rbBad := true }).flag d R.MIO_PSTAT_RBERR p).bump d
        R.MIO_MARGIN_RBCNT).raiseFault d 0x30 p).report d 0x80 .pinReadback p)) := by
  intro z g5
  have t : g5 = (if ¬z.rbArmed then k.setPin d p { z with settle := z.settle - 1, rbArmed := decide (z.settle ≤ 1) }
        else match z.drv with
          | none => k
          | some v => if z.sync = v then k.setPin d p { z with rbBad := false } else if z.rbBad then k else k.reportReadback d p) := by
    refine if_neg ?_
    rintro (n | n | n | n)
    · exact n a
    · exact b n
    · exact n c
    · exact e n
  refine ⟨fun l => t.trans (if_pos (by rw [l]; decide)), fun l n => t.trans ((if_neg (by rw [l]; decide)).trans ?_), fun l v n => ?_⟩
  · split
    · rfl
    · next q => exact absurd (n.symm.trans q) (by simp)
  · have t2 : g5 = if z.sync = v then k.setPin d p { z with rbBad := false } else if z.rbBad then k else k.reportReadback d p := by
      refine t.trans ((if_neg (by rw [l]; decide)).trans ?_)
      split
      · next q => exact absurd (n.symm.trans q) (by simp)
      · next w q => obtain rfl : v = w := Option.some.inj (n.symm.trans q); rfl
    exact ⟨fun w => t2.trans (if_pos w), fun w o => t2.trans ((if_neg w).trans (if_pos o)), fun w o => t2.trans ((if_neg w).trans (if_neg (by rw [o]; decide)))⟩

theorem live_only (h : Hw) (d t : Nat) : { trackerLiveRead d t h with regs := h.regs } = h := by
  have w : ∀ (g : Hw) (F : Fld) (v i : Nat), { g with regs := h.regs } = h → { (g.wr d F v i) with regs := h.regs } = h := fun g F v i e => e
  unfold trackerLiveRead
  dsimp only
  exact w _ _ _ _ (w _ _ _ _ (w _ _ _ _ (w _ _ _ _ (Eq.refl h))))

theorem setCan_can (h : Hw) (d k : Nat) (x : Can) : (h.setCan d k x).can d k = x := SMap.get_put_self ..

theorem setCan_rd (h : Hw) (d k : Nat) (x : Can) (e : Nat) (F : Fld) (i j : Nat) : (h.setCan d k x).rd e F i j = h.rd e F i j := rfl

theorem wr_can (h : Hw) (d : Nat) (F : Fld) (v i j e k : Nat) : (h.wr d F v i j).can e k = h.can e k := rfl

theorem integrate_running (h : Hw) (d k : Nat) (a : (h.can d k).stopping = false) :
    h.integrate d k = (((h.setCan d k { h.can d k with tx := none }).setCanState d k 1).wr d R.CAN_STAT_TXING 0 k) := by
  unfold Hw.integrate Hw.settleStop
  refine if_neg (fun q => ?_)
  have t := q.1
  rw [wr_can] at t
  unfold Hw.setCanState at t
  rw [wr_can, setCan_can] at t
  rw [a] at t
  cases t

end Sys2Proof.Machine
end

