-- ==== Sys2Proof/Laws/Records.lean ====
section
/-!
SUPPORT. Lemmas on the Wellhouse, the vault, the ledger, the recorder and the journal.
-/

namespace Sys2Proof.Machine

theorem drop_wlh (h : Hw) : let x := h.powerDrop.wlh
    x.pg = false ∧ x.store = false ∧ x.hs = h.wlh.hs ∧ x.gate = h.wlh.gate ∧ x.timer = h.wlh.timer := by
  unfold Hw.powerDrop; dsimp only; split <;> exact ⟨rfl, rfl, rfl, rfl, rfl⟩

theorem drop_night (h : Hw) : h.powerDrop.node.state = .night := by
  unfold Hw.powerDrop; dsimp only; split
  · assumption
  · rfl

theorem drop_night' (h : Hw) : (if h.node.state = .night then h else h.enterNight).node.state = .night ∧
    (if h.node.state = .night then h else h.enterNight).wlh.off = h.wlh.off := by
  split
  · exact ⟨‹_›, rfl⟩
  · exact ⟨rfl, rfl⟩

theorem iter_rd (f : Nat → Hw → Hw) (n d : Nat) (F : Fld) (hf : ∀ i g, (f i g).rd d F = g.rd d F) (h : Hw) : (iter n f h).rd d F = h.rd d F :=
  iter_keeps' (fun g => g.rd d F = h.rd d F) f n (fun i g p => (hf i g).trans p) h rfl
def fallen (g : Hw) : Hw := if g.node.state = .night then { g with wlh := { g.wlh with off := true } } else Hw.enterNight { g with
    wlh := { g.wlh with off := true } }

theorem fallen_night (g : Hw) : (fallen g).node.state = .night ∧ (fallen g).wlh.off = true := by
  unfold fallen
  split
  · exact ⟨‹_›, rfl⟩
  · exact ⟨rfl, rfl⟩

theorem conv_eq (volts : List Nat) (shunts : List Int) (h g : Hw) (c : Bool) (e : wlhConvert volts shunts h = g)
   (ec : (g.wlh.auto && g.wlh.bothLost && decide (volts.getD 3 0 ≤ 8 * g.wconf R.WLH_HUV_VMIN) &&
       !g.wlh.off) = c) : wellhouseConversion volts shunts h =
   if c then fallen g else g := by
  subst e; subst ec; rfl

theorem exec_conv (volts : List (BitVec 16)) (shunts : List Int) (s : State) : exec (.wellhouseConversion volts shunts)
    s = s.onAny (wellhouseConversion (volts.map (·.toNat)) shunts) := by
  show execWellhouseConversion volts shunts s = _; rfl

theorem conv_gives (volts : List (BitVec 16)) (shunts : List Int) (s : State) (g : Hw) (e : wellhouseConversion (volts.map (·.toNat))
    shunts s.hw = g) : Gives (.wellhouseConversion volts shunts) s g := by
  unfold Gives; rw [exec_conv]; unfold State.onAny; rw [e]

theorem t1 (volts : List (BitVec 16)) (shunts : List Int) (s : State) (g : Hw) (hg : wlhConvert (volts.map (·.toNat)) shunts s.hw = g)
   (a : g.wlh.auto = false ∨ g.wlh.bothLost = false) : Gives (.wellhouseConversion volts shunts) s g := by
  apply conv_gives
  have := conv_eq _ _ _ g false hg (by rcases a with a | a <;> rw [a] <;> simp)
  rw [this]; exact if_neg Bool.false_ne_true

theorem t2 (volts : List (BitVec 16)) (shunts : List Int) (s : State) (g : Hw) (hg : wlhConvert (volts.map (·.toNat)) shunts s.hw = g)
   (a : g.wlh.auto = true) (b : g.wlh.bothLost = true) (c : g.wlh.off = false) (q : (volts.map (·.toNat)).getD 3 0 ≤ 8 * g.wconf R.WLH_HUV_VMIN) :
   GivesWith (.wellhouseConversion volts shunts) s (fallen g) fun t => t.node.state = .night ∧ t.wlh.off = true := by
  have := conv_eq _ _ _ g true hg (by rw [a, b, c, decide_eq_true q]; rfl)
  rw [if_pos rfl] at this
  exact ⟨conv_gives volts shunts s _ this, (fallen_night g)⟩

theorem frame_eq (d : Nat) (h : Hw) (l : ¬ 2 ≤ d) : measurementFrame d h =
    let m := h.frameMirror d
    let x : Hw := { m with wlh := { m.wlh with frameAt := m.wlh.frameAt.put none d (some m.now) } }
    let new := h.wlhStat % 2 ^ 16
    let y := whenDo (new != (h.regAt (R.WLH_STAT_HSSTATE.key d 0 0)).toNat % 2 ^ 16) (fun g => g.journal d 6 new) x
    ((y.endFault 0 0x60 d).endFault 1 0x60 d).checkGuar := if_neg l

theorem exec_mf (die : Die) (s : State) : exec (.measurementFrame die) s = s.onDie die (measurementFrame die.val) := rfl

theorem copyEnergy_rd (h : Hw) (d f : Nat) (F : Fld) (a : F.node = false) (b : F.s1 = 0) (c : F.s2 = 0) (l : F.addr < 0xA00C0)
    : (h.copyEnergy d f).rd d F = h.rd d F := by
  show (h.wr d R.WLH_ELO_VALUE (low 32 _) f).rd d F = _
  apply rd_wr_of_key_ne
  unfold Fld.key; rw [a, b, c, show R.WLH_ELO_VALUE = ⟨0xA00C0, 8, 0, 0, 32, false⟩ from rfl]
  dsimp only
  simp only [Bool.false_eq_true, if_false]
  omega

theorem low_low (w n : Nat) : low w (low w n) = low w n := Nat.mod_mod ..

theorem low_mirror (d : Nat) (h : Hw) : (h.frameMirror d).rd d R.WLH_PF2_P = low 32 (h.wlh.sample.powers.getD 3 0) := by
  unfold Hw.frameMirror; dsimp only
  rw [iter_rd _ _ _ _ (fun i g => copyEnergy_rd g d i _ rfl rfl rfl (by decide)), rd_wr _ _ _ _ _ _ rfl]; rfl

theorem mirror_vab (d : Nat) (h : Hw) : (h.frameMirror d).rd d R.WLH_VAB_VLO = low 16 (h.wlh.sample.volts.getD 0 0) := by
  unfold Hw.frameMirror Hw.wrPair; dsimp only
  rw [iter_rd _ _ _ _ (fun i g => copyEnergy_rd g d i _ rfl rfl rfl (by decide))]
  repeat rw [rd_wr_apart _ _ _ _ _ _ _ rfl]
  rw [rd_wr_beside _ _ _ _ _ _ _ rfl, rd_wr _ _ _ _ _ _ rfl]; exact low_low ..

theorem mirror_hue (d : Nat) (h : Hw) : (h.frameMirror d).rd d R.WLH_HUE_E = low 24 h.wlh.sample.energy := by
  unfold Hw.frameMirror Hw.wrPair; dsimp only
  rw [iter_rd _ _ _ _ (fun i g => copyEnergy_rd g d i _ rfl rfl rfl (by decide))]
  repeat rw [rd_wr_apart _ _ _ _ _ _ _ rfl]
  rw [rd_wr _ _ _ _ _ _ rfl]; rfl

theorem wr_wlh (h : Hw) (d : Nat) (F : Fld) (v i j : Nat) : (h.wr d F v i j).wlh = h.wlh := rfl

theorem pair_wlh (h : Hw) (d : Nat) (F G : Fld) (v i : Nat) : (h.wrPair d F G v i).wlh = h.wlh := rfl

theorem copyEnergy_wlh (h : Hw) (d i : Nat) : (h.copyEnergy d i).wlh = h.wlh := by
  unfold Hw.copyEnergy; dsimp only; rw [wr_wlh]

theorem set_wlh (h : Hw) (k : Nat) (v : Word) : (h.setRegAt k v).wlh = h.wlh := rfl

theorem flags_wlh (h : Hw) : h.copyFlags.wlh = h.wlh := by unfold Hw.copyFlags; dsimp only; rw [set_wlh, set_wlh]

theorem iter_wlh (f : Nat → Hw → Hw) (n : Nat) (hf : ∀ i g, (f i g).wlh = g.wlh) (h : Hw) : (iter n f h).wlh = h.wlh :=
  iter_keeps' (fun g : Hw => g.wlh = h.wlh) f n (fun i g p => (hf i g).trans p) h rfl

theorem mirror_wlh (d : Nat) (h : Hw) : (h.frameMirror d).wlh = h.wlh := by
  unfold Hw.frameMirror
  dsimp only
  rw [iter_wlh _ _ (fun i g => copyEnergy_wlh g d i)]
  rw [wr_wlh, wr_wlh, wr_wlh, wr_wlh, pair_wlh, pair_wlh, pair_wlh, pair_wlh, pair_wlh, pair_wlh, pair_wlh, wr_wlh, flags_wlh, set_wlh]

theorem bad_of (both : Bool) (h : Hw) (w : Wlh) (f : Nat) (k : h.wlh.fsel = f) (ne : f ≠ 0) (e : h.wlh.turnBad both = w) : fieldBad both h =
    if w.fieldGood (otherField f) then Hw.wlhFault { h with
        wlh := { w with ftarget := some (otherField f) } } 0x62 (f - 1) else Hw.checkFieldLoss { h with wlh := w } := by
  subst e; subst k; exact if_neg ne

theorem bad_both (h : Hw) (k : h.wlh.fsel = 1 ∨ h.wlh.fsel = 2) : fieldBad true h = Hw.checkFieldLoss { h with
      wlh := { h.wlh with
          f1 := { h.wlh.f1 with good := false }, f2 := { h.wlh.f2 with good := false }, fsel := 0, ftarget := none, fbreak := true } } := by
  refine (bad_of true h _ _ rfl (by rcases k with k | k <;> rw [k] <;> decide) rfl).trans (if_neg ?_)
  rcases k with k | k <;> rw [k] <;> exact Bool.false_ne_true

theorem bad_one (h : Hw) (a : h.wlh.fsel = 1) (b : h.wlh.f2.good = true) : fieldBad false h = Hw.wlhFault { h with
      wlh := { h.wlh with f1 := { h.wlh.f1 with good := false }, fsel := 0, ftarget := some 2, fbreak := true } } 0x62 0 := by
  have e : h.wlh.turnBad false = { h.wlh with f1 := { h.wlh.f1 with good := false }, fsel := 0, ftarget := none, fbreak := true } := by
    unfold Wlh.turnBad; rw [if_neg (by decide), if_pos a]
  exact (bad_of false h _ 1 a (by decide) e).trans (if_pos b)

theorem bad_two (h : Hw) (a : h.wlh.fsel = 2) (b : h.wlh.f1.good = true) : fieldBad false h = Hw.wlhFault { h with
      wlh := { h.wlh with f2 := { h.wlh.f2 with good := false }, fsel := 0, ftarget := some 1, fbreak := true } } 0x62 1 := by
  have e : h.wlh.turnBad false = { h.wlh with f2 := { h.wlh.f2 with good := false }, fsel := 0, ftarget := none, fbreak := true } := by
    unfold Wlh.turnBad; rw [if_neg (by decide), if_neg (by rw [a]; decide)]
  exact (bad_of false h _ 2 a (by decide) e).trans (if_pos b)

theorem hub_night (h : Hw) (f : Hw → Hw) (r : h.node.state = .night) : h.onHub f = h := if_pos r

theorem hub_awake (h : Hw) (f : Hw → Hw) (r : h.node.state ≠ .night) : h.onHub f = f h := if_neg r

theorem setFeed_other (w : Wlh) (f : Fin 2) (x : Feed) : (w.setFeed f.val x).feed (1 - f.val) = w.feed (1 - f.val) := by
  rcases f with ⟨f, l⟩; interval_cases f <;> rfl

theorem present_eq (f : Nat) (h g : Hw) (e : { h with wlh := h.wlh.setFeed f { h.wlh.feed f with ever := true, ok := true } } = g) :
    feedPresent f h = g.onHub fun x => (if h.wlh.bothLost &&
        ((x.endFault x.node.owner 0x61 f).wlh.feed (1 - f)).ever then (x.endFault x.node.owner 0x61 f).raiseFeed (1 - f)
            else x.endFault x.node.owner 0x61 f).checkGuar := by
  subst e; rfl

theorem lost_eq (f : Nat) (h g : Hw) (a : (h.wlh.feed f).ok = true) (e : { h with
    wlh := { h.wlh.setFeed f { h.wlh.feed f with ok := false } with flags := h.wlh.flags ||| 2 ^ (3 + f) } } = g) :
    feedLost f false h = if (g.wlh.feed (1 - f)).ok then g.raiseFeed f else g.onHub fun h => h.standingLoss := by
  have k : (h.wlh.setFeed f { h.wlh.feed f with ok := false }).flags = h.wlh.flags := by unfold Wlh.setFeed; split <;> rfl
  have q : Hw.wlhFlag { h with wlh := h.wlh.setFeed f { h.wlh.feed f with ok := false } } (3 + f) = g := by
    rw [← e]; unfold Hw.wlhFlag; dsimp only; rw [k]
  have z : feedLost f false h = (fun g : Hw => if (g.wlh.feed (1 - f)).ok then g.raiseFeed f else g.onHub fun h => h.standingLoss) (Hw.wlhFlag { h with wlh := h.wlh.setFeed f { h.wlh.feed f with ok := false } } (3 + f)) := if_pos a
  rw [z, q]

theorem tamper_eq (holds : List Bool) (h g : Hw) (runs : List Nat) (er : tamperRuns h.nightDom.tampCfg h.nightDom.tampRun holds = runs)
   (e : { h with nightDom := { h.nightDom with tampRun := runs } } = g) :
   tamperSample holds h = each (tamperAlarms runs) (fun s h => tamperAct s (h.tamperEntry s))
       (g.onHub fun h => h.wr 0 R.VLT_STAT_TAMPNOW (b2n (runs.any (0 < ·)))) := by
  subst er; subst e; rfl

theorem report_vlt (h : Hw) (d c : Nat) (k : EventKind) (x o : Nat) : (h.report d c k x o).vlt = h.vlt := by
  unfold Hw.report; extract_lets r; split <;> rfl

theorem key_evr_vlt (d : Nat) (F : Fld) (a : F.addr = 0xE0004) (b : F.s1 = 0) (c : F.s2 = 0) : R.EVR_CNT_DROPPED.key d 0 0 ≠ F.key d 0 0 := by
  unfold Fld.key; rw [a, b, c, show R.EVR_CNT_DROPPED = ⟨0xC0010, 0, 0, 0, 16, false⟩ from rfl]
  dsimp only; simp only [Bool.false_eq_true, if_false]; split <;> omega

/-- a request that is delivered -/
theorem eng_ok (d slot e : Nat) (go : Bool) (h : Hw) (z : h.node.state ≠ .dusk ∨
    e = 2) (a : (h.keySlot d slot).valid = true) (b : (h.keySlot d slot).revoked = false) (c : bit (h.keySlot d slot).engines e = true) :
    engineRequest d slot e go h = { h with
        vlt := { h.vlt with
            inUse := if go then (h.vlt.inUse.filter fun x => x.1 != d * 8 + e)
                ++ [(d * 8 + e, slot)] else h.vlt.inUse.filter fun x => x.1 != d * 8 + e } } := by
  have k : h.deliver d slot e = (some (h.keySlot d slot).key, h) := by
    unfold Hw.deliver; dsimp only; rw [if_neg (fun q => z.elim (fun w => w q.1) q.2), a, b, c]; rfl
  unfold engineRequest; rw [k]; dsimp only; cases go <;> rfl

theorem eng_no (d slot e : Nat) (go : Bool) (h : Hw) (z : h.node.state ≠ .dusk ∨ e = 2) (a : (h.keySlot d slot).valid = false ∨
    (h.keySlot d slot).revoked = true ∨ bit (h.keySlot d slot).engines e = false) :
    engineRequest d slot e go h = (fun g : Hw => { g with vlt := { g.vlt with inUse := g.vlt.inUse.filter fun x => x.1 != d * 8 + e } })
      (((h.flag 0 R.VLT_ERR_ENGREF).wr 0 R.VLT_ERR_LASTSLOT slot).report d 0xC0 .vaultError slot) := by
  have k : h.deliver d slot e = (none, ((h.flag 0 R.VLT_ERR_ENGREF).wr 0 R.VLT_ERR_LASTSLOT slot).report d 0xC0 .vaultError slot) := by
    unfold Hw.deliver; dsimp only
    rw [if_neg (fun q => z.elim (fun w => w q.1) q.2), if_neg]; rcases a with a | a | a <;> rw [a] <;> simp
  unfold engineRequest; rw [k]; dsimp only; rw [if_neg (by simp)]

theorem eng_dusk (d slot e : Nat) (go : Bool) (h : Hw) (a : h.node.state = .dusk) (b : e ≠ 2) :
    engineRequest d slot e go h = { h with vlt := { h.vlt with inUse := h.vlt.inUse.filter fun x => x.1 != d * 8 + e } } := by
  have k : h.deliver d slot e = (none, h) := if_pos ⟨a, b⟩
  unfold engineRequest; rw [k]; dsimp only; rw [if_neg (by simp)]

theorem pass_keep (h : Hw) (a : h.nightDom.nightKey ≠ 0) : entropyPass h = { h.wr 0 R.VLT_STAT_ENTOK 1 with vlt := { h.vlt with entFail := false } } := if_neg a

theorem pass_new (h : Hw) (a : h.nightDom.nightKey = 0) :
    entropyPass h = Hw.drawNightKey { h.wr 0 R.VLT_STAT_ENTOK 1 with vlt := { h.vlt with entFail := false } } := if_pos a

theorem drawNightKey_sameRegs (h : Hw) : h.drawNightKey.sameRegs h := by
  unfold Hw.drawNightKey
  split
  · exact ⟨rfl, rfl, rfl⟩
  · exact ⟨rfl, rfl, rfl⟩

theorem att_eq (d : Nat) (o : Origin) (h : Hw) (a : o.isManagement = true ∨ h.node.state = .run ∨ h.node.state = .degraded ∨
    h.node.state = .safe) (n : Nat) (e : h.attestRefusal = n) :
    attestRequest d o h = if n = 0 then ((Hw.wr { h with
        vlt := { h.vlt with producing := true, statement := [] } } 0 R.VLT_ASTAT_STATE 1).wr 0 R.VLT_ASTAT_REASON 0).wr 0 R.VLT_ASTAT_LEN 0
      else if n = 1 then h.wr 0 R.VLT_ASTAT_REASON 1 else (h.wr 0 R.VLT_ASTAT_STATE 3).wr 0 R.VLT_ASTAT_REASON n := by
  subst e; exact if_pos a

theorem refusal_lt (h : Hw) : h.attestRefusal < 8 := by
  unfold Hw.attestRefusal; split_ifs <;> decide

theorem arch_eq (hi : Nat) (same : Bool) (h g : Hw) (e : { h.wr 0 R.LDG_MARKHI_MARK hi with ldg := { h.ldg with mark := h.rd 0 R.LDG_MARKLO_MARK + hi * 2 ^ 32 } } = g) :
    archiveMark hi same h = (fun x : Hw => if same then x.bump 0 R.LDG_CNT_MARGIN else x)
      (if g.nearFull then (if g.on 0 R.LDG_STAT_NEARFULL then g else (g.flag 0 R.LDG_STAT_NEARFULL).report g.node.owner 0xB0 .ledgerFull) else g)
          := by
  subst e
  have k : (h.wr 0 R.LDG_MARKHI_MARK hi).rd 0 R.LDG_MARKLO_MARK = h.rd 0 R.LDG_MARKLO_MARK := rd_wr_apart _ _ _ _ _ _ _ rfl
  rw [← k]; rfl

theorem setRcd_rcd (h : Hw) (d : Nat) (x : Rcd) : (h.setRcd d x).rcd d = x := SMap.get_put_self ..

theorem setRcd_setRcd (h : Hw) (d : Nat) (x y : Rcd) : (h.setRcd d x).setRcd d y = h.setRcd d y := by
  unfold Hw.setRcd; dsimp only; rw [SMap.put_put]

theorem take_none (d : Nat) (h : Hw) (a : (h.rcd d).pending = []) : takeReport d h = h := by
  unfold takeReport; dsimp only; rw [a]; rfl

theorem write_plain (d : Nat) (x : Report) (h : Hw) (r : Rcd) (rest : List Report) (sq : Nat) (e : h.rd d R.EVR_SEQ_VALUE % 0xFFFFFFFF + 1 = sq)
    (a : bit x.flags 0 = false) (b : bit x.flags 2 = false)
    (c : r.slots.get none ((sq - 1) % 4096) = none) :
    writeRecord d x (h.setRcd d { r with input := rest }) = (h.setRcd d { r with
        input := rest, slots := r.slots.put none ((sq - 1) % 4096) (some ⟨sq, x⟩), uncopied := r.uncopied ++ [sq] }).wr d R.EVR_SEQ_VALUE sq := by
  have e' : nextSeq ((h.setRcd d { r with input := rest }).rd d R.EVR_SEQ_VALUE) = sq := e
  unfold writeRecord; dsimp only; rw [e', setRcd_rcd, c, setRcd_setRcd]; dsimp only
  rw [if_neg (by rw [b]; decide), if_neg (by rw [a]; decide), if_neg (by decide)]

theorem setJrn_jrn (h : Hw) (d : Nat) (x : Jrn) : (h.setJrn d x).jrn d = x := SMap.get_put_self ..

theorem ckpt_flush (d : Nat) (h : Hw) (a : h.on d R.JRN_STAT_CKOPEN = true) (b : h.journaling d = true)
    (c : ((h.jrnClose d).jrnFlush d).on d R.JRN_CFG_MODE = false) :
   let ws := (h.jrn d).ckptWords
   let g := each ws (fun w h => h.jrnStore d w) ((h.jrnClose d).jrnFlush d)
   let g := g.setJrn d { g.jrn d with ckptWords := [], bytesMs := (g.jrn d).bytesMs + 8 * ws.length }
   checkpointEnd d h = (((g.wr d R.JRN_STAT_CKOPEN 0).journal d 9 6).wr d R.JRN_CKLAST_INDEX (g.jrn d).ckptIndex) := by
  unfold checkpointEnd; rw [if_pos ⟨a, b⟩]; dsimp only; rw [if_neg (fun q => absurd (c.symm.trans q.1) (by decide))]

theorem ckpt_loss (d : Nat) (h : Hw) (a : h.on d R.JRN_STAT_CKOPEN = true) (b : h.journaling d = true)
    (c : ((h.jrnClose d).jrnFlush d).on d R.JRN_CFG_MODE = true)
   (e : jrnSize < (((h.jrnClose d).jrnFlush d).jrn d).undrained + (h.jrn d).ckptWords.length + 2)
       : checkpointEnd d h = ((h.jrnClose d).jrnFlush d).beginLoss d := by
  unfold checkpointEnd; rw [if_pos ⟨a, b⟩]; dsimp only; exact if_pos ⟨c, e⟩

theorem digest_on (d : Nat) (h : Hw) (a : h.rd d R.JRN_STAT_STATE ≠ 5) (z : h.digestBoundary = true) (b : h.journaling d = true) : digest d h =
        let k := h.wr d R.JRN_RATE_RATEHW (max (h.rd d R.JRN_RATE_RATEHW) (min (h.jrn d).bytesMs 0xFFFFFF))
        let g := k.setJrn d { k.jrn d with bytesMs := 0 }
        let g := (g.journalWell d).journal d 8 0 (pairWords ((g.digestWords d).map (·.toNat)))
        (g.setJrn d { g.jrn d with pirWrites := [] }) := by
  unfold digest; rw [if_neg a, if_neg (by rw [z]; decide), if_pos b]

theorem boundary_yes {h : Hw} (a : h.now % 1250000 = 0) : h.digestBoundary = true := beq_iff_eq.mpr a

theorem boundary_no {h : Hw} (a : h.now % 1250000 ≠ 0) : h.digestBoundary = false := beq_eq_false_iff_ne.mpr a

theorem rctl_own (h : Hw) (d v : Nat) (a : h.node.replay = true) (nz : d ≠ 0) : h.rctl d v = h.wr d R.JRN_RCTL_CMD v := by
  unfold Hw.rctl; rw [if_pos a]; unfold Hw.rctlDies; rw [if_neg nz]; rfl

theorem move_own (h : Hw) (d src dst : Nat) (nz : d ≠ 0) : h.replayMove d [src] dst = if h.rd d R.JRN_STAT_STATE = src then h.wr d R.JRN_STAT_STATE dst else h := by
  unfold Hw.replayMove Hw.rctlDies; rw [if_neg nz]
  show (if [src].contains (h.rd d R.JRN_STAT_STATE) then _ else _) = _
  simp

end Sys2Proof.Machine
end

