-- ==== Sys2Proof/WellFormed.lean ====
section
/-!
DEFINITION. Which commands an agent can give: the operands that a list or a number holds have the lengths and the ranges that
the specification gives what they stand for. The meanings are total; they do not ask for a well-formed command.
-/

namespace Sys2Proof

/-- The ports of an origin: host, backplane and management ports stand on D0 and D1 alone (R34, R565); node IDs have 16 bits. -/
def Origin.wf : Origin → Bool
  | .host d | .backplane d | .management d => decide (d < 2)
  | .ring n => decide (n < 2 ^ 16)
  | .image | .vault | .loader => true

/-- A ring frame: S1 to S7 and the 96 bytes after them (R161). -/
def frameSized (bytes : List Byte) : Bool := bytes.length == 103

/-- The bytes that one access carries: at least one, at most a cell (R27). -/
def accessSized (bytes : List Byte) : Bool := decide (1 ≤ bytes.length) && decide (bytes.length ≤ 64)

/-- The bytes of an image record's words: its two words, a payload and a checksum, read twice (R107, R108). -/
def recordRead (first reread : List Word) : Bool := decide (3 ≤ first.length) && first.length == reread.length

/-- Data bytes of a CAN frame (R341). -/
def canSized (data : List Byte) : Bool := decide (data.length ≤ 64)

/-- A command that an agent can give. -/
def Instr.wf : Instr → Bool
  -- Dawn: the 512 bytes of the header (R96), records read twice (R107), the cells of a stream (R94)
  | .imageHeader bytes => bytes.length == 512
  | .imageRecord first reread => recordRead first reread
  | .endRecord first reread _ _ => recordRead first reread
  | .imageStreamCell _ _ bytes => bytes.length == 64
  | .ringBootWriteBack bytes => decide (512 ≤ bytes.length)
  -- node commands come from an origin
  | .nodCmdEnterSafe _ o _ | .nodCmdResume _ o _ | .nodCmdSleep _ o _ | .nodCmdDusk _ o _ | .nodCmdReset _ o _ => o.wf
  | .nodCmdReserved _ o v => o.wf && (decide (v.toNat = 0) || decide (5 < v.toNat))
  -- the ring: frames (R161), the segments of a train (R139 to R143)
  | .cellFrame _ _ bytes _ _ _ | .keepalive _ _ bytes | .creditSync _ _ bytes | .trainingAuthFrame _ _ bytes
  | .delayRequest _ _ bytes _ | .delayResponse _ _ bytes _ | .trainingExchange _ _ bytes => frameSized bytes
  | .trainSegment _ _ bytes _ => bytes.length == 256
  -- a code with a meaning of its own is not BYPASS (R72 to R74)
  | .bypass _ code => !([0x00, 0x01, 0x02, 0x03, 0x04, 0x20, 0x21].contains code.toNat)
  -- windows, host, backplane, images and logs: one access
  | .qgrantRead _ o _ | .windowDataRead _ o _ _ _ => o.wf
  | .windowDataWrite _ o _ bytes _ _ => o.wf && accessSized bytes
  | .pcieMemoryRead _ _ _ len _ _ _ => decide (1 ≤ len)
  | .pcieMemoryWrite _ _ _ bytes _ _ => decide (1 ≤ bytes.length)
  | .masterAccess _ o _ write posted bytes => o.wf && accessSized bytes && (write || !posted)
  | .ledgerRead _ o _ len | .imageShadowRead _ o _ len => o.wf && decide (1 ≤ len) && decide (len ≤ 64)
  | .rcRead _ o _ | .registerWrite _ o _ _ _ | .vaultCommand _ o _ _ _ | .attestationRequest _ o | .heartbeat _ o _
  | .mgtUdata _ o _ | .evrClr _ o | .replayCmdReserved _ o | .pumpClear _ _ o | .pumpCmdReserved _ _ o | .canRecover _ _ o
  | .canCmdReserved _ _ o => o.wf
  -- CAN frames: an identifier of 11 or 29 bits, at most 64 data bytes, 8 in a classical frame (R341, R356)
  | .canFrameReceived _ _ _ _ _ _ data _ _ => canSized data
  | .canWakeFrame _ _ _ _ data _ => decide (data.length ≤ 8)
  | .wakeErrorLimit _ _ frames => decide (1 ≤ frames)
  -- lists that stand for a fixed set of sources: no pin twice, the converter's channels (R473), the tamper sources (R560)
  | .qualifiedLevelChange _ pins => decide pins.Nodup
  | .wellhouseConversion volts shunts => volts.length == 7 && shunts.length == 5
  | .tamperSample holds => holds.length == 7
  | .logNvmWriteDone (some bytes) => decide (1 ≤ bytes.length)
  | .interruptAcknowledge _ level => decide (1 ≤ level.val)
  | .keytreeUnwrap failed => decide failed.Nodup
  -- what is left names no more than units, single values and flags
  | .powerOnResetRelease .. | .inputPowerLost .. | .porstNAssert .. | .norDiscovery .. | .builtInSelfTest .. | .quarantineToDusk ..
  | .ringBootTimeout .. | .bootRequest .. | .ringWake .. | .duskCanLimit .. | .duskRecord .. | .duskCopyLimit .. | .takeover ..
  | .amendCell .. | .extest .. | .samplePreload .. | .idcode .. | .highz .. | .clamp .. | .rply .. | .mdbg .. | .testLogicReset .. | .blockLockLoss ..
  | .deskewLoss .. | .frameSilenceTimeout .. | .blockLock .. | .deskew .. | .trainingTimeout .. | .trainingRetry .. | .lesDecay ..
  | .offHoldExpiry .. | .offcntClear .. | .retrain .. | .forceOff .. | .portRelease .. | .trainStartBlock .. | .trainEndBlock ..
  | .trainWindowExpiry .. | .trainOriginate .. | .phaseLockedBound .. | .originationStart .. | .replayTimeout ..
  | .creditFrameDue .. | .outputSelect .. | .presenceSend .. | .presenceCell .. | .nodeAbsent .. | .errorPacketSend ..
  | .multicastCopy .. | .multicastGiveUp .. | .lpMpRelink .. | .dieLinkSilence .. | .clockMonitor .. | .ftimeCompare ..
  | .writeBufferRelease .. | .forwardPresent .. | .wordCellClose .. | .creditReturnTimer .. | .creditReturnCell ..
  | .queueSweepEnd .. | .freeListRebuildEnd .. | .cellScrub .. | .linkRamScrub .. | .descriptorScrub .. | .pumpStart ..
  | .pumpStartEffect .. | .pumpStopNow .. | .pumpStopAtBoundary .. | .stopBoundaryReached .. | .stopTimeout .. | .nop ..
  | .draw .. | .pour .. | .gather .. | .store .. | .await .. | .loadx .. | .loady .. | .loadxh .. | .loadyh .. | .moveOp ..
  | .addOp .. | .xorOp .. | .testOp .. | .countLoad .. | .countLoadX .. | .countDecrement .. | .signal .. | .crcInit ..
  | .crcFeed .. | .crcFinal .. | .stuff .. | .codeEncode .. | .codeDecode .. | .halt .. | .illegalInstruction ..
  | .shiftStageFree .. | .gatherDelivery .. | .awaitConditionMet .. | .awaitTimeout .. | .storeCreditWaitEnd ..
  | .pumpParityCheck .. | .pinTransition .. | .rangeOpenLimit .. | .pinTimeout .. | .tripRelease .. | .mioOutWrite ..
  | .outmvWrite .. | .readbackSettleEnd .. | .readbackMismatch .. | .receiverMismatch .. | .canStart .. | .canStop ..
  | .canSleep .. | .canWake .. | .canAbort .. | .frameSelection .. | .canFrameTransmitted .. | .arbitrationLost .. | .canError ..
  | .integrationComplete .. | .recoveryComplete .. | .canWakeDominant .. | .canParityCheck .. | .trackerUpdate .. | .gapLimit ..
  | .trackerSilence .. | .holdoverTimeout .. | .pacingRaise .. | .entryScan .. | .eventCommit .. | .eventFire ..
  | .eventCellPresent .. | .placerCalibration .. | .entryArm .. | .trackerLiveRead .. | .delayRequestSend .. | .secondEdge ..
  | .ppsLoss .. | .ftmAccept .. | .utcOffsetChange .. | .calendarSet .. | .ppsOutPulse .. | .pcieConfiguration ..
  | .unsupportedRequest .. | .functionLevelReset .. | .hostLinkUp .. | .hostLinkDown .. | .hostReadTimeout .. | .readRequest ..
  | .writeRequest ..
  | .readCompletion .. | .writeCompletion .. | .lockRead .. | .lockWrite .. | .unlock .. | .lockBusy .. | .errorPacket ..
  | .badAccessCell .. | .pop .. | .slaveRead .. | .slaveWrite .. | .slaveLockRead .. | .slaveLockWrite .. | .asRelease ..
  | .lockTimeout .. | .lockReadResend .. | .holdmaxExpiry .. | .slotTimeout .. | .masterCycleEnd .. | .fetchTimeout ..
  | .strobeBusAccess .. | .busClear .. | .backplaneSysreset .. | .controlFrameSend .. | .measurementFrame .. | .wlhLinkSilent ..
  | .refclkQualified .. | .inputWindowEnter .. | .inputWindowLeave .. | .insertionDelayEnd .. | .hotswapOn ..
  | .powerGoodQualified .. | .faultTimerExpiry .. | .faultTimerClear .. | .fastTrip .. | .fastTripHoldEnd .. | .retryWaitEnd ..
  | .retryCountClear .. | .powerGoodDrop .. | .overvoltageEvent .. | .reverseTurnOff .. | .idealDiodeResume .. | .feedPresent ..
  | .feedLost .. | .fieldFeedBad .. | .bbmEnd .. | .fieldReturn .. | .fieldOvercurrent .. | .fieldResume .. | .fieldOff ..
  | .autoEntry .. | .holdupFault .. | .requestedEntryWaitEnd .. | .forcedEntryWaitEnd .. | .ledgerPageWrite ..
  | .logNvmWriteDone none | .ledgerPageRetry .. | .lastSeqRebuild .. | .archiveMark .. | .eventReport .. | .recordWrite ..
  | .recorderCopy .. | .clearRetry .. | .digest .. | .checkpointBegin .. | .checkpointEnd .. | .jrnFreeze .. | .freezeEffect ..
  | .postComplete .. | .jrnRearm .. | .journalLossEnd .. | .replayLoad .. | .replayRun .. | .replayPause .. | .replayFeed ..
  | .replayStop .. | .replayEnd .. | .engineRequest .. | .entropyHealthFail .. | .vltRevoke .. | .keySlotCheck ..
  | .statementSigned .. | .tamperLogClear .. | .watchdogExpiry .. | .lockstepMismatch .. | .pairRestart .. | .mirrorRebuild ..
  | .updateStart .. | .updateCommit .. | .updateAbort .. | .norWriteComplete .. | .holdupWaitTimeout .. | .handover ..
  | .handoverTimeout .. | .faultReport .. | .fltSclr .. | .restore .. | .pourGroupEmit .. | .dieLinkTrained ..
  | .currentLimitActive .. | .storeFetConduct .. | .storeFetOff .. | .busGrant .. | .processImageScrub .. | .entropyHealthPass ..
  | .supplyConditionChange .. | .temperatureConditionChange .. => true

end Sys2Proof
end

