-- ==== Sys2Proof/Tests/Slice0.lean ====
section
/-!
SUPPORT. Tests. First the checks of `Instr.wf` each refuse an ill-formed command; then single steps, whose expected values come from
the specification; then, for each statement with hypotheses, states and operands that meet the hypotheses of each of its clauses.
-/

namespace Sys2Proof.Tests

set_option Elab.async false

open Sys2Proof Sys2Proof.Machine

/-- An OPR102-I in node state `st`, with what `f` changes. -/
def node (st : NodeState) (f : Hw → Hw) : State :=
  { State.reset with hw := f { State.reset.hw with node := { State.reset.hw.node with state := st } } }

/-- Pump 63 of die 1 Running at address 0, where `word` stands. -/
def pumpWith (word : Nat) (f : Hw → Hw) : State :=
  node .run fun h => f ((h.wr 1 R.PMP_STAT_STATE 1 63).wr 1 R.PMP_PROG_INSTR word 63 0)

/-- A step or a command that answers a next state. -/
def completes (o : Host.Outcome State Fault Refusal) : Bool :=
  match o with
  | .next _ => true
  | _ => false

/-- A cell of 64 bytes that begins with `data`, and as the Cistern holds it, written by management origin. -/
def cellOf (data : List Byte) : Cell := ⟨data ++ List.replicate (64 - data.length) 0, 0, 0, false, 0, 0, 0, 0, 0, 0⟩

def held (data : List Byte) : CCell := ⟨cellOf data, 0, 11, some (.management 0), none, 0, 16, 0, true⟩

/-- Queue `q` of die `d` holds `cells`. -/
def queue (d q : Nat) (cells : List CCell) (h : Hw) : Hw := h.setCq d q { h.cq d q with cells := cells }

/-- A ring frame of type `ty` with this cell, its CRC right, without a tag (R161). -/
def frame (ty : Nat) (data : List Byte) : List Byte :=
  let b := leBytes 1 ty ++ List.replicate 22 0 ++ (cellOf data).data
  b ++ leBytes 4 (crc32c b).toNat ++ List.replicate 12 0

/-- Ring port 3 of die 1 in state `st`. -/
def port3 (st : Nat) (f : Hw → Hw) : State := node .run fun h => f (h.wr 1 R.RNG_PSTAT_STATE st 3)

/-! ## Each check of `Instr.wf` refuses an ill-formed command -/

/-- Zeros. -/
def zeros (n : Nat) : List Byte := List.replicate n 0

theorem test_wf_imageHeader : Instr.wf (.imageHeader (zeros 511)) = false ∧ Instr.wf (.imageHeader (zeros 512)) = true := by decide +kernel

theorem test_wf_imageRecord : Instr.wf (.imageRecord [1, 2, 3] [1, 2]) = false ∧ Instr.wf (.imageRecord [1, 2] [1, 2]) = false ∧
    Instr.wf (.imageRecord [1, 2, 3] [1, 2, 3]) = true := by decide

theorem test_wf_endRecord : Instr.wf (.endRecord [1, 2] [1, 2] [] []) = false := by decide

theorem test_wf_imageStreamCell : Instr.wf (.imageStreamCell 1 0 (zeros 63)) = false := by decide

theorem test_wf_ringBootWriteBack : Instr.wf (.ringBootWriteBack (zeros 511)) = false := by decide +kernel

theorem test_wf_nodCmd : ∀ c ∈ [Instr.nodCmdEnterSafe 0 (.host 2) 0, .nodCmdResume 0 (.host 2) 0, .nodCmdSleep 0 (.host 2) 0,
    .nodCmdDusk 0 (.host 2) 0, .nodCmdReset 0 (.host 2) 0], c.wf = false := by decide

theorem test_wf_nodCmdReserved : Instr.wf (.nodCmdReserved 0 (.host 0) 3) = false ∧ Instr.wf (.nodCmdReserved 0 (.ring 65536) 7) = false ∧
    Instr.wf (.nodCmdReserved 0 (.ring 65535) 6) = true := by decide

theorem test_wf_frames : ∀ c ∈ [Instr.cellFrame 0 0 (zeros 102) false 0 [], .keepalive 0 0 (zeros 102), .creditSync 0 0 (zeros 104),
    .trainingAuthFrame 0 0 (zeros 0), .delayRequest 0 0 (zeros 64) 0, .delayResponse 0 0 (zeros 64) 0, .trainingExchange 0 0 (zeros 65)],
    c.wf = false := by decide +kernel

theorem test_wf_frame : Instr.wf (.cellFrame 0 3 (frame 1 [1]) false 0 [2]) = true := by decide +kernel

theorem test_wf_trainSegment : Instr.wf (.trainSegment 0 0 (zeros 255) false) = false := by decide +kernel

theorem test_wf_bypass : Instr.wf (.bypass 0 0x02) = false ∧ Instr.wf (.bypass 0 0x3F) = true := by decide

theorem test_wf_windows : Instr.wf (.qgrantRead 0 (.host 7) 0) = false ∧ Instr.wf (.windowDataRead 0 (.backplane 2) 0 .clean false) = false ∧
    Instr.wf (.windowDataWrite 0 (.host 0) 0 [] false .clean) = false ∧ Instr.wf (.windowDataWrite 0 (.host 0) 0 (zeros 65) false .clean) = false ∧
    Instr.wf (.windowDataWrite 0 (.host 1) 8191 (zeros 64) false .clean) = true := by decide

theorem test_wf_hostRequests : Instr.wf (.pcieMemoryRead 0 .bar0 0 0 0 0 .clean) = false ∧
    Instr.wf (.pcieMemoryWrite 0 .bar0 0 [] 0 .clean) = false := by
  decide

theorem test_wf_masterAccess : Instr.wf (.masterAccess 0 (.host 0) 0 false true [0]) = false ∧
    Instr.wf (.masterAccess 0 (.host 0) 0 true true []) = false ∧
    Instr.wf (.masterAccess 0 (.host 2) 0 true true [0]) = false := by decide

theorem test_wf_reads : ∀ n ∈ [0, 65], Instr.wf (.ledgerRead 0 (.host 0) 0 n) = false ∧
    Instr.wf (.imageShadowRead 0 (.host 0) 0 n) = false := by decide

theorem test_wf_origins : ∀ o ∈ [Origin.host 2, .backplane 2, .management 2, .ring 65536], ∀ c ∈ [Instr.rcRead 0 o 0, .registerWrite 0 o 0 0 false,
    .vaultCommand 0 o 0 0 0, .attestationRequest 0 o, .heartbeat 0 o 0, .mgtUdata 0 o 0, .evrClr 0 o, .replayCmdReserved 0 o, .pumpClear 0 0 o,
    .pumpCmdReserved 0 0 o, .canRecover 0 0 o, .canCmdReserved 0 0 o], c.wf = false := by decide

theorem test_wf_canFrames : Instr.wf (.canFrameReceived 0 0 0 0 false false (zeros 65) false false) = false ∧
    Instr.wf (.canWakeFrame 0 0 0 0 (zeros 9) false) = false ∧ Instr.wf (.wakeErrorLimit 0 0 0) = false := by decide

theorem test_wf_lists : Instr.wf (.qualifiedLevelChange 0 [3, 3]) = false ∧ Instr.wf (.wellhouseConversion [0] [0, 0, 0, 0, 0]) = false ∧
    Instr.wf (.tamperSample []) = false ∧ Instr.wf (.logNvmWriteDone (some [])) = false ∧ Instr.wf (.interruptAcknowledge 0 0) = false ∧
    Instr.wf (.keytreeUnwrap [1, 1]) = false := by decide

/-! ## The worked examples and tables of the specification -/

/-- 00_scope.md: offset 0x010 of D3:CAN5 on node 0x0123 is 0x0123_6000_0006_2810. -/
theorem test_global_address : addrNode 0x0123600000062810 = 0x0123 ∧ addrDie 0x0123600000062810 = 3 ∧ addrSpace 0x0123600000062810 = 0 ∧
    addrOff 0x0123600000062810 = 0x60000 + 5 * 0x800 + 0x010 := by decide

/-- 03_dawn_and_the_image.md, the example after R122: 4,700 µF and Vmin = 36.0 V hold 2,368.8 mJ at 48.0 V, 1,504.0 mJ at 44.0 V. -/
theorem test_holdup_energy : holdupEnergy 4700 38400 3600 = 2368 ∧ holdupEnergy 4700 35200 3600 = 1504 := by decide

/-- A node with the measurements of that example, `e` mJ in the bank. -/
def vessel (e : Nat) : Hw :=
  let h := State.reset.hw
  let h := (((h.wr 0 R.WLH_EDUSK_VALUE 1800).wr 0 R.WLH_EENTRY_VALUE 20).wr 0 R.WLH_STAT_EVALID 1).wr 0 R.WLH_HUE_E e
  { h with wlh := { h.wlh with frameAt := h.wlh.frameAt.put none 0 (some 0) } }

/-- The same example: with 2,368.8 mJ the check passes up to n = 27 staged entries, with 1,504.0 mJ never. -/
theorem test_holdup_check : (vessel 2368).holdupOk 27 = true ∧ (vessel 2368).holdupOk 28 = false ∧ (vessel 1504).holdupOk 0 = false := by
  decide +kernel

/-- 08_pumps.md, the SDLC example: with POLY = 0x1021, REFIN = 1, CRCINIT = CRCXOR = 0xFFFF, a message followed by its check sequence
leaves CRCRES = 0xF0B8; the message here is empty, its check sequence 0xFFFF xor 0xFFFF. -/
theorem test_crc_residue : (List.replicate 16 false).foldl (crcBit 16 0x1021 true) 0xFFFF = 0xF0B8 := by decide +kernel

/-- 08_pumps.md, the 8N1 example: 0x7000_0008 is COUNT LC := 8. -/
theorem test_count_load : (match exec (.countLoad 1 63 .good) (pumpWith 0x70000008 id) with
    | .next t => t.hw.rd 1 R.PMP_CNT_LC 63 == 8 && t.hw.rd 1 R.PMP_STAT_IP 63 == 1
    | _ => false) = true := by decide +kernel

/-- The same example: 0x7000_8005 decrements LC and goes to 5; LC = 1 becomes 0 and falls through. -/
theorem test_count_decrement : ∀ x ∈ [(8, 7, 5), (1, 0, 1)],
    (match exec (.countDecrement 1 63 .good) (pumpWith 0x70008005 fun h => h.wr 1 R.PMP_CNT_LC x.1 63) with
    | .next t => t.hw.rd 1 R.PMP_CNT_LC 63 == x.2.1 && t.hw.rd 1 R.PMP_STAT_IP 63 == x.2.2
    | _ => false) = true := by decide +kernel

/-- 08_pumps.md, the SDLC example: 0x3800_007E is LOADY 0x007E. -/
theorem test_loady : (match exec (.loady 1 63 .good) (pumpWith 0x3800007E id) with
    | .next t => t.hw.rd 1 R.PMP_Y_VALUE 63 == 0x7E
    | _ => false) = true := by decide +kernel

/-- The same example: 0x6800_2205 is TEST X[8] = 0 → 5. -/
theorem test_test : ∀ x ∈ [(0xFF, 5), (0x1FF, 1)],
    (match exec (.testOp 1 63 .good) (pumpWith 0x68002205 fun h => h.wr 1 R.PMP_X_VALUE x.1 63) with
    | .next t => t.hw.rd 1 R.PMP_STAT_IP 63 == x.2
    | _ => false) = true := by decide +kernel

/-- 10_can_controllers.md, R341: the data lengths of DLC 9 to 15. -/
theorem test_can_lengths : ((List.range 7).map fun k => canDataLen true (9 + k)) = [12, 16, 20, 24, 32, 48, 64] ∧ canDataLen false 15 = 8 := by decide

/-- 11_phase_scheduler.md: at 1/3 turn/s, 4,919,131,753 × 2⁻⁶⁴ turn in each 0.8 ns, VEL reads 1,432. -/
theorem test_velocity : velOf 4919131753 = 1432 := by decide

/-- 13_bridges.md, the retrofit example: slave window 2 of D0, A24 supervisory data, base 0x80_0000, SIZESH 16, aimed at 0x0018:0:0x02:0x0_4000;
the card's read of 0x80_0010 goes to offset 0x0_4010. -/
theorem test_slave_window :
    let h := State.reset.hw
    let h := ({ h with cfg := { h.cfg with committed := true } } : Hw).wr 0 R.BRG_BCFG_ENABLED 1
    let h := (((h.wr 0 R.BRG_SWA_VALID 1 2).wr 0 R.BRG_SWA_ASP 1 2).wr 0 R.BRG_SWA_SUP 1 2).wr 0 R.BRG_SWA_SIZESH 16 2
    let h := (((h.wr 0 R.BRG_SWB_BASE 0x800000 2).wr 0 R.BRG_SWC_NODE 0x18 2).wr 0 R.BRG_SWC_SPACE 2 2).wr 0 R.BRG_SWD_OFFLO 0x4000 2
    (h.claim 0 0x800010 0x3D 4).map (fun c => (addrNode c.addr, addrDie c.addr, addrSpace c.addr, addrOff c.addr)) = some (0x18, 0, 2, 0x4010) := by
  decide +kernel

/-! ## Witnesses -/

theorem witness_StepRunsTheFrontCommand : ({ State.reset with pending := [.idcode 0, .hotswapOn] } : State).pending = [.idcode 0, .hotswapOn] := rfl

theorem witness_ProcessImageReadAfterWrite : 0xFFFFF + [(7 : Byte)].length ≤ 2 ^ 20 ∧ 0xFFFFE < 2 ^ 20 ∧ 0xFFFFE < 0xFFFFF := by decide

theorem witness_IdCode : (node .run id).ready 1 ∧ State.reset.ready 0 := by
  unfold State.ready State.awake
  decide +kernel

theorem witness_NoBridgeBlockBeyondD1 : 2 ≤ 7 ∧ 0x90000 ≤ 0x9FFFF ∧ 0x9FFFF < 0xA0000 := by decide

theorem witness_CrcMirror : 1 ≤ 32 ∧ 0xEDB88320 < 2 ^ 32 ∧ 2 ^ 32 - 1 < 2 ^ 32 := by decide

theorem witness_StepOnAnEmptyQueue : (node .night id).pending = [] ∧ (node .run id).awake ∧ (node .run id).hw.inReplay = false := by
  unfold State.awake
  decide +kernel

theorem witness_EveryCommandCompletes : namedDie (.nop 2 63 .good) = some 2 ∧ State.reset.hw.dies ≤ (2 : Die).val ∧
    namedDie (.nop 1 63 .good) = some 1 ∧ (1 : Die).val < State.reset.hw.dies ∧ namedDie .porstNAssert = none := by
  decide +kernel

theorem witness_CommandFrames : reachesPir (.nop 0 0 .good) = false ∧ actsInNight (.nop 0 0 .good) = false ∧
    completes (exec (.nop 0 0 .good) (node .night id)) = true := by
  decide +kernel

theorem witness_ProcessImageStaysCanonical : completes (step (node .run id)) = true ∧ Memory.wf (pirWrite .empty 1 0xFFFFF [7]) = true := by
  decide +kernel

theorem witness_LastingMemory : completes (exec .porstNAssert (node .run id)) = true ∧ programsOtp .porstNAssert = false ∧
    programsNor .porstNAssert = false ∧ programsLog .porstNAssert = false := by
  decide +kernel

theorem witness_NightIsolatesTheHubs : completes (exec .hotswapOn (node .night id)) = true ∧ (node .night id).hw.node.state = .night ∧
    ∀ straps slot void ticks, Instr.hotswapOn ≠ .powerOnResetRelease straps slot void ticks :=
  ⟨by decide +kernel, rfl, fun _ _ _ _ e => nomatch e⟩

theorem witness_FieldReadAfterWrite : R.PMP_ERR_FIP.lo + R.PMP_ERR_FIP.w ≤ 32 ∧
    R.PMP_ERR_PARITY.key 0 63 0 = R.PMP_ERR_FIP.key 0 63 0 ∧ R.PMP_ERR_PARITY.lo + R.PMP_ERR_PARITY.w ≤ R.PMP_ERR_FIP.lo ∧
    R.PMP_ERR_FIP.key 1 0 0 ≠ R.PMP_ERR_FIP.key 0 63 0 := by
  decide

/-- The management pairs may write every command. -/
def managed (st : NodeState) (f : Hw → Hw) : State :=
  node st fun h => f { h with cfg := { h.cfg with cmdPolicy := List.replicate 5 0x10 } }

/-- As `managed`, an enter-Safe just written in this core cycle. -/
def enteringSafe : State := managed .safe fun h => ({ h with node := { h.node with cmdAt := some h.now, cmdFrom := .run } } : Hw).wr 0 R.NOD_CMD_CMD 1

theorem witness_SleepInSafeIsRefused : (managed .safe id).ready 0 ∧ (managed .safe id).hw.cmdAllowed (.management 0) 3 = true ∧
    (managed .safe id).hw.cmdNow = false ∧ (managed .safe id).hw.cmdAllowed (.ring 1) 3 = false ∧
    enteringSafe.hw.cmdAllowed (.management 0) 3 = true ∧ enteringSafe.hw.cmdNow = true ∧ enteringSafe.hw.rd 0 R.NOD_CMD_CMD = 1 ∧
    enteringSafe.hw.cmdTransition 1 = true := by
  unfold State.ready State.awake
  decide +kernel

theorem witness_ReservedCodesBypass : (node .run id).ready 1 ∧ (0x05#6).toNat ∉ [0x00, 0x01, 0x02, 0x03, 0x04, 0x3F, 0x20, 0x21] ∧
    (0x3E#6).toNat ∉ [0x00, 0x01, 0x02, 0x03, 0x04, 0x3F, 0x20, 0x21] := by
  unfold State.ready State.awake
  decide +kernel

theorem witness_BoundaryTestOnlyInQuarantine : (node .quarantine id).ready 1 ∧ (node .run id).ready 1 ∧
    (node .run id).hw.node.state ≠ .quarantine := by
  unfold State.ready State.awake
  decide +kernel

/-- Fault-log entries on die 1. -/
def faultLog (l : List PwFault) : State := node .run fun h => h.setHost 1 { h.host 1 with log := l }

theorem witness_PopRemovesTheOldestFault : (faultLog []).ready 1 ∧ (1 : Die).val < 2 ∧ ((faultLog []).hw.host 1).log = [] ∧
    ((faultLog [⟨2 ^ 64 - 1, 15, 65535, 255, 2 ^ 64 - 1, 1023, 0⟩, ⟨0, 0, 0, 0, 0, 0, 0⟩]).hw.host 1).log = [⟨2 ^ 64 - 1, 15, 65535, 255, 2 ^ 64 - 1, 1023, 0⟩, ⟨0, 0, 0, 0, 0, 0, 0⟩] ∧
    ((faultLog [⟨0, 0, 0, 0, 0, 0, 0⟩]).hw.host 1).log = [⟨0, 0, 0, 0, 0, 0, 0⟩] := by
  unfold State.ready State.awake
  decide +kernel

theorem witness_OpenUpdateRefusesStart :
    let s := node .run fun h => { h with mgt := { h.mgt with isOpen := true } }
    s.hw.loaderState = true ∧ s.hw.mgt.isOpen = true := by
  decide +kernel

/-- A line code of two bits in and two bits out, each entry its own symbols. -/
def lineCode : Hw :=
  (List.range 4).foldl (fun h e => (h.wr 0 R.PMP_LCT_OUTPAT (3 - e) 0 e).wr 0 R.PMP_LCT_VALID 1 0 e)
    ((State.reset.hw.wr 0 R.PMP_LCCFG_INW 2 0).wr 0 R.PMP_LCCFG_OUTW 2 0)

theorem witness_LineCodeRoundTrip : 1 ≤ lineCode.rd 0 R.PMP_LCCFG_INW 0 ∧ 1 ≤ lineCode.rd 0 R.PMP_LCCFG_OUTW 0 ∧
    lineCode.rd 0 R.PMP_LCCFG_INW 0 + b2n (lineCode.on 0 R.PMP_LCCFG_PREV 0) ≤ 4 ∧
    (∀ e < 16, ∀ f < 16, lineCode.on 0 R.PMP_LCT_VALID 0 e = true → lineCode.on 0 R.PMP_LCT_VALID 0 f = true →
      (lineCode.on 0 R.PMP_LCCFG_PREV 0 = true → bit e 2 = bit f 2) →
      lineCode.rd 0 R.PMP_LCT_OUTPAT 0 e % 4 = lineCode.rd 0 R.PMP_LCT_OUTPAT 0 f % 4 → e = f) ∧
    lineCode.encodeGroups 0 0 0xE4 16 0 false = some (0xFFFFFF1B, true) := by
  refine ⟨by decide +kernel, by decide +kernel, by decide +kernel, ?_, by decide +kernel⟩
  have all : ∀ e : Fin 16, ∀ f : Fin 16, lineCode.on 0 R.PMP_LCT_VALID 0 e = true → lineCode.on 0 R.PMP_LCT_VALID 0 f = true →
      lineCode.rd 0 R.PMP_LCT_OUTPAT 0 e % 4 = lineCode.rd 0 R.PMP_LCT_OUTPAT 0 f % 4 → e = f := by decide +kernel
  exact fun e he f hf a b _ c => congrArg Fin.val (all ⟨e, he⟩ ⟨f, hf⟩ a b c)

theorem witness_PumpRegisterInstructions :
    ∀ x ∈ [(0x30000000, 0x06), (0x38000001, 0x07), (0x4000FFFF, 0x08), (0x48000000, 0x09), (0x50000000, 0x0A), (0x50002000, 0x0A),
      (0x50004000, 0x0A), (0x50006000, 0x0A), (0x50008000, 0x0A), (0x5000A000, 0x0A), (0x58000000, 0x0B), (0x6000F800, 0x0C)],
      (pumpWith x.1 id).ready 1 ∧ (pumpWith x.1 id).hw.issuable 1 63 (isOp x.2) := by
  unfold State.ready State.awake Hw.issuable
  decide +kernel

theorem witness_PumpCountCodeAndControl :
    (∀ x ∈ [(0x00000000, isOp 0x00), (0x6800003F, isOp 0x0D), (0x70003FFF, isForm 0x0E 0), (0x70004000, isForm 0x0E 1),
      (0x7000803F, isForm 0x0E 2), (0x7800001F, isOp 0x0F), (0x80000000, isForm 0x10 0), (0x80004020, isForm 0x10 1),
      (0x80008000, isForm 0x10 2), (0x88000003, isOp 0x11), (0x90000003, isCode true), (0xF8000000, isOp 0x1F)],
      (pumpWith x.1 id).ready 1 ∧ (pumpWith x.1 id).hw.issuable 1 63 x.2) ∧
    (pumpWith 0x90000002 fun h => h.wr 1 R.PMP_LCT_VALID 1 63 0).hw.issuable 1 63 (isCode false) := by
  unfold State.ready State.awake Hw.issuable
  decide +kernel

/-- As `pumpWith`, with one OUT and one IN pin. -/
def shifter (word : Nat) (f : Hw → Hw) : State :=
  pumpWith word fun h => f ((h.wr 1 R.PMP_PINA_OUTCNT 1 63).wr 1 R.PMP_PINA_INCNT 1 63)

/-- As `shifter`, with a busy shift-out stage; with a collection under way. -/
def pouring (word : Nat) : State := shifter word fun h => h.loadPour 1 63 8
def gathering (word : Nat) : State := shifter word fun h => h.armGather 1 63 8

/-- As `shifter`, waiting for `w`. -/
def waiting (word : Nat) (w : PumpWait) : State := shifter word fun h => h.setPump 1 63 { h.pump 1 63 with wait := some w }

theorem witness_PumpStagesAndWaits :
    (pumpWith 0x08000003 id).ready 1 ∧ (pumpWith 0x08000003 id).hw.issuable 1 63 (isOp 0x01) ∧
    (shifter 0x10000008 id).hw.issuable 1 63 (isOp 0x02) ∧ ((shifter 0x10000008 id).hw.pump 1 63).pour = none ∧
    (pouring 0x10000008).hw.issuable 1 63 (isOp 0x02) ∧ ((pouring 0x10000008).hw.pump 1 63).pour ≠ none ∧
    (shifter 0x18000008 id).hw.issuable 1 63 (isOp 0x03) ∧ ((shifter 0x18000008 id).hw.pump 1 63).gather = none ∧
    (gathering 0x18000008).hw.issuable 1 63 (isOp 0x03) ∧ ((gathering 0x18000008).hw.pump 1 63).gather ≠ none ∧
    (∀ a ∈ [0x0000, 0x2080, 0x40BF, 0x60BF, 0x8900, 0xBF00, 0xC300], (shifter (0x28000000 + a) id).hw.issuable 1 63 (isOp 0x05)) ∧
    ((waiting 0x28000000 .await).hw.pump 1 63).wait = some .await ∧ (waiting 0x28000000 .await).hw.awaitSees 1 63 0 = true ∧
    bit 0x20BF 7 = true ∧
    (pumpWith 0x00000001 id).hw.pumpState 1 63 = 1 ∧ ((pumpWith 0x00000001 id).hw.pump 1 63).bad.contains 0 = false ∧
    (pumpWith 0x00000001 id).hw.illegalNow 1 63 ((pumpWith 0x00000001 id).hw.pumpWord 1 63) = true ∧
    ((waiting 0x10000008 .pour).hw.pump 1 63).wait = some .pour ∧ ((waiting 0x10000008 .pour).hw.pump 1 63).pour = none ∧
    ((waiting 0x18000008 .gather).hw.pump 1 63).wait = some .gather ∧ ((waiting 0x18000008 .gather).hw.pump 1 63).gather = none := by
  unfold State.ready State.awake Hw.issuable
  decide +kernel

/-- As `pumpWith`, Running, its queue OUT0 open with room for a cell. -/
def storing (mode : Nat) (room : Nat) : State :=
  pumpWith 0x20000000 fun h => (h.wr 1 R.PMP_CTL_STOREMODE mode 63).qwr 1 254 Q.QCFGA_QRES room

/-- What a STORE of this Pump puts in its queue. -/
def stored (s : State) : Bool × Hw :=
  ((s.hw.pinned 1 63).storeTaken 1 63 0).localWord 1 254 ((s.hw.pinned 1 63).storeValue 1 63 0) .clean

theorem witness_PumpStoreAndCommands :
    (storing 0 1).hw.issuable 1 63 (isOp 0x04) ∧ (pumpWith 0x20000000 id).ready 1 ∧
    (stored (storing 0 1)).1 = true ∧ (stored (storing 0 0)).1 = false ∧ (stored (storing 0 0)).2.on 1 R.PMP_CTL_STOREMODE 63 = false ∧
    (stored (storing 1 0)).1 = false ∧ (stored (storing 1 0)).2.on 1 R.PMP_CTL_STOREMODE 63 = true ∧
    (node .run id).hw.engineRuns = true ∧ (node .run id).hw.pumpState 1 63 = 0 ∧ ((node .run id).hw.pump 1 63).bad = [] ∧
    (∀ st ∈ [1, 2], (node .run fun h => h.wr 1 R.PMP_STAT_STATE st 63).hw.pumpState 1 63 = st) ∧
    (node .run fun h => h.wr 1 R.PMP_STAT_STATE 3 63).hw.pumpState 1 63 = 3 ∧
    ((node .run fun h => h.setPump 1 63 { h.pump 1 63 with starting := true }).hw.pump 1 63).starting = true ∧
    (pumpWith 0 fun h => h.flag 1 R.PMP_STAT_STOPPEND 63).hw.on 1 R.PMP_STAT_STOPPEND 63 = true ∧
    (pumpWith 0 fun h => h.flag 1 R.PMP_STAT_STOPPEND 63).hw.midShift 1 63 = false := by
  unfold State.ready State.awake Hw.issuable
  decide +kernel

theorem witness_PumpErrorsFault : (pumpWith 1 id).ready 1 ∧ (pumpWith 1 id).hw.pumpState 1 63 = 1 ∧
    ((pumpWith 1 id).hw.pump 1 63).bad.contains ((pumpWith 1 id).hw.rd 1 R.PMP_STAT_IP 63) = false ∧
    (pumpWith 1 id).hw.illegalNow 1 63 ((pumpWith 1 id).hw.pumpWord 1 63) = true := by
  unfold State.ready State.awake
  decide +kernel

/-- As `storing`, waiting for credit with a word. -/
def storeWaiting (room : Nat) : State :=
  storing 1 room |> fun s => { s with hw := s.hw.setPump 1 63 { s.hw.pump 1 63 with wait := some (.store 2 7) } }

theorem witness_PumpStagesAndWaits_store : (storeWaiting 1).ready 1 ∧ ((storeWaiting 1).hw.pump 1 63).wait = some (.store 2 7) ∧
    ((storeWaiting 1).hw.localWord 1 (pumpQ 63 2) 7 .clean).1 = true ∧ ((pouring 0x10000008).hw.pump 1 63).pour.isSome = true ∧
    ((gathering 0x18000008).hw.pump 1 63).gather.isSome = true := by
  unfold State.ready State.awake
  decide +kernel

/-- The node at a step of Dawn. -/
def dawnAt (step : Nat) (f : Hw → Hw) : State := node .dawn fun h => f (h.wr 0 R.NOD_DAWN_STEP step)

/-- A record without payload: its two words and its checksum (R100). -/
def record (typ seq : Nat) : List Word :=
  let ws := [BitVec.ofNat 32 typ, BitVec.ofNat 32 (1 + seq * 2 ^ 16)]
  ws ++ [crc32c (wordBytes ws)]

/-- A header of the shape of R96, for every part, of generation 255, bound to a blank part, with an image of 4 KiB. -/
def header : List Byte :=
  leBytes 4 0x4F504948 ++ leBytes 2 3 ++ leBytes 2 0x200 ++ leBytes 4 4096 ++ leBytes 2 0x0FFF ++ leBytes 2 1 ++ List.replicate 496 0

theorem witness_DawnReleaseAndNor :
    (let s := node .night fun h => { h with wlh := { h.wlh with pg := true, off := false } }; s.hw.node.state = .night ∧ s.hw.wlh.pg = true ∧
        s.hw.wlh.off = false) ∧
    (∀ k ∈ [1, 4, 5], (dawnAt k id).awake ∧ (dawnAt k id).hw.node.state = .dawn ∧ (dawnAt k id).hw.dawn.ringBoot = false ∧
      (dawnAt k id).hw.dawnStep = k) ∧
    ((dawnAt 1 fun h => h.wr 0 R.NOD_STRAP_BOOT 3).hw.selectReplay.wr 0 R.NOD_DAWN_STEP 3).rd 0 R.NOD_STRAP_BOOT = 3 ∧
    ((dawnAt 1 id).hw.selectReplay.wr 0 R.NOD_DAWN_STEP 3).rd 0 R.NOD_STRAP_BOOT ≠ 3 ∧
    ((dawnAt 4 id).hw.norWrite 0 (List.replicate 512 0)).judgeHeader (List.replicate 512 0) = 2 ∧
    readTwice [] [0, 0] = none ∧ ((readTwice [] (record 1 1)).map (·.1.1.typ)) = some 1 ∧
    ((readTwice (record 0xFF 2) []).map (·.1.1.typ)) = some 0xFF ∧
    (dawnAt 5 fun h => { h with dawn := { h.dawn with header := some .init } }).hw.dawn.header = some .init := by
  unfold State.awake
  decide +kernel

/-- A header passes where its signature does; the verification is uninterpreted. -/
theorem witness_header (sig : headerSigOk header = true) :
    (dawnAt 4 fun h => { h with otp := { h.otp with genFloor := 255 }, norIf := { h.norIf with capacity := 4096 } }).hw.judgeHeader header = 0 := by
  have a : headerShapeOk header = true := by decide +kernel
  unfold Hw.judgeHeader
  rw [a, sig]
  decide +kernel

theorem witness_TestAccessPort : (node .quarantine id).ready 1 ∧ (node .run id).ready 1 ∧ (node .run id).awake := by
  unfold State.ready State.awake
  decide +kernel

theorem witness_DawnLaterSteps :
    (∀ k ∈ [7, 8, 9], (dawnAt k id).awake ∧ (dawnAt k id).hw.node.state = .dawn ∧ (dawnAt k id).hw.dawnStep = k) ∧
    (∃ d ∈ [(1 : Die)], d.val < (dawnAt 7 id).hw.dies) ∧ (∀ d ∈ [(2 : Die)], (dawnAt 7 id).hw.dies ≤ d.val) ∧
    (dawnAt 7 id).hw.loadTree.1 = true ∧
    (dawnAt 7 fun h => { h with cfg := { h.cfg with keyDefs := [⟨63, 0xFE, 0, 0, false, []⟩] } }).hw.loadTree.1 = false ∧
    (dawnAt 8 fun h => { h with node := { h.node with replay := true } }).hw.node.replay = true ∧ (dawnAt 8 id).hw.node.replay = false ∧
    (let s := dawnAt 5 fun h => { h with dawn := { h.dawn with ringBoot := true } };
      s.hw.dawn.ringBoot = true ∧ s.hw.cfg.committed = false ∧ s.hw.dawn.server.getD (65535, 7) = (65535, 7)) ∧
    (let s := node .run fun h => { h.wr 1 R.RNG_PSTAT_STATE 2 3 with cfg := { h.cfg with serves := [⟨0, 512, 8⟩, ⟨4096, 512, 15⟩] } };
      s.hw.portUp 1 3 = true ∧ s.hw.cfg.serving = none ∧
      (s.hw.cfg.serves.find? fun e => bit e.partMask (Part.maskBit .opr101)) = some ⟨4096, 512, 15⟩) := by
  unfold State.awake
  decide +kernel

/-- As `managed`, the command `k` accepted in this core cycle, from `was`. -/
def commanded (st was : NodeState) (k : Nat) : State :=
  managed st fun h => ({ h with node := { h.node with cmdAt := some h.now, cmdFrom := was } } : Hw).wr 0 R.NOD_CMD_CMD k

/-- As `managed`, debug access open. -/
def debugged (f : Hw → Hw) : State := managed .quarantine fun h => f (h.wr 0 R.NOD_STRAP_DEBUGEFF 1)

theorem witness_NodeCommands :
    (managed .run id).awake ∧ (managed .run id).hw.dies ≤ (2 : Die).val ∧ (1 : Die).val < (managed .run id).hw.dies ∧
    (∀ k ∈ [1, 2, 3, 4, 5], (managed .run id).hw.cmdAllowed (.ring 9) k = false ∧
      (managed .run id).hw.cmdAllowed (.management 0) k = true ∧ (managed .run id).hw.cmdNow = false ∧
      ((commanded .run .run k).hw.cmdNow && (commanded .run .run k).hw.rd 0 R.NOD_CMD_CMD == k) = true) ∧
    (managed .run id).hw.cmdTransition 2 = false ∧ (managed .run id).hw.cmdOverruled 2 3 = true ∧
    (managed .run id).hw.cmdOverruled 64 1 = true ∧ (commanded .safe .run 1).hw.cmdOverruled 0 3 = true ∧
    (∀ k ∈ [1, 3, 4], (managed .run id).hw.cmdTransition k = true ∧ (managed .run id).hw.cmdOverruled 0 k = false) ∧
    (managed .run id).hw.cmdOverruled 1 4 = false ∧
    (let s := managed .safe fun h => { h with node := { h.node with safeCmd := true } };
      s.hw.cmdAllowed (.management 0) 2 = true ∧ s.hw.cmdTransition 2 = true ∧ s.hw.cmdOverruled 0 2 = false) ∧
    (debugged id).hw.cmdAllowed (.management 1) 5 = true ∧ (debugged id).hw.cmdTransition 5 = true ∧
    (debugged id).hw.cmdOverruled 0 5 = false := by
  unfold State.awake
  decide +kernel

/-- A page operation under way in Dusk, of ledger entries or of records. -/
def paging (recs : List (Nat × Nat × Nat)) : State :=
  node .dusk fun h => { h with ldg := { h.ldg with op := some ⟨0, [], recs, 1⟩ } }

theorem witness_NodeTransitions :
    (node .dusk id).awake ∧ (∀ st ∈ [NodeState.dusk, .quarantine, .dawn, .sleep], (node st id).hw.node.state = st) ∧
    (∀ p ∈ [0, 3], p ∈ (node .sleep id).hw.attached 1) ∧
    (node .quarantine fun h => { h with
        wlh := { h.wlh with a := { h.wlh.a with ok := false }, b := { h.wlh.b with ok := false } } }).hw.wlh.bothLost = true ∧
    (paging []).hw.ldg.op = some ⟨0, [], [], 1⟩ ∧ (paging [(0, 0, 0)]).hw.ldg.op = some ⟨0, [], [(0, 0, 0)], 1⟩ := by
  unfold State.awake
  decide +kernel

/-- A committed image. -/
def committed (h : Hw) : Hw := { h with cfg := { h.cfg with committed := true } }

/-- Both management pairs run. -/
def paired (h : Hw) : Hw := (committed h).wr 0 R.MGT_STAT_PAIR 1 |>.wr 1 R.MGT_STAT_PAIR 1

theorem witness_ManagementPairs :
    (node .run id).ready 1 ∧ Origin.host 1 ≠ .management 1 ∧
    (∀ d ∈ [0, 1], (node .run paired).hw.pairRuns d = true) ∧
    (node .run fun h => h.wr 1 R.MGT_STAT_PAIR 3).hw.rd 1 R.MGT_STAT_PAIR = 3 ∧
    (node .run fun h => h.wr 1 R.MGT_STAT_PAIR 2).hw.rd 1 R.MGT_STAT_PAIR = 2 ∧ (node .run id).hw.mgt.headless = false ∧
    1 < (node .run paired).hw.dies ∧ (node .run paired).hw.node.owner = 0 ∧ (node .run paired).hw.cfg.committed = true ∧
    (let s := node .run fun h => { paired h with node := { h.node with fenced := true }, mgt := { h.mgt with takeoverDue := true } };
      s.hw.node.fenced = true ∧ s.hw.mgt.takeoverDue = true ∧ s.hw.node.owner = 0 ∧ s.hw.pairRuns 1 = true) := by
  unfold State.ready State.awake
  decide +kernel

theorem witness_FaultResponse :
    (node .run id).awake ∧
    firstFault [⟨1, 0x20, 63, 5, false⟩, ⟨0, 0x01, 0, 4, false⟩] = some (⟨0, 0x01, 0, 4, false⟩, [⟨1, 0x20, 63, 5, false⟩]) ∧
    (0x01#8).toNat ∈ faultCodes ∧ (node .run id).hw.flt.reports = [] ∧
    (false || (node .run id).hw.flt.present.any (·.1 == (0x01#8).toNat)) = false ∧
    (let s := node .run fun h => { h with flt := { h.flt with restoreDue := [(0x13, 1, 63)] } };
      (s.hw.flt.restoreDue.find? fun x => s.hw.pairRuns x.2.1) = some (0x13, 1, 63) ∧ s.hw.restoreCount 0x13 1 63 < 3) ∧
    (let s := node .run fun h => { h with flt := { h.flt with restoreDue := [(0x13, 1, 63)], restores := [(0x13, 1, 63, 2)] } };
      s.hw.restoreCount 0x13 1 63 = 2) := by
  unfold State.awake
  decide +kernel

/-- An amend cell for a word of a Pump's program on die 1, with its mask and the program's Pump (R113). -/
def amend (ver : Nat) (off mask : Nat) : List Byte :=
  leBytes 2 0x0110 ++ leBytes 1 ver ++ List.replicate 13 0 ++ leBytes 8 (2 ^ 45 + off) ++ leBytes 4 mask ++ List.replicate 36 0

/-- The word of Pump 63's program at address 63. -/
def lastWord : Nat := 0x40100 + 63 * 1024 + 63 * 4

/-- An amend cell at the head of Q560 of the owner. -/
def amending (st : NodeState) (bs : List Byte) (f : Hw → Hw) : State := node st fun h => f (queue 0 560 [held bs] h)

/-- A policy that lets the management pairs write every word of every Pump. -/
def policy (h : Hw) : Hw := { h with cfg := { h.cfg with policies := [⟨3, 0x10, false, 0x40000, 0x4FFFF, 0, 0⟩] } }

/-- What the memories leave of queue `q` of die `d`, where they find nothing. -/
def met (d q : Nat) (s : State) : Hw := (s.hw.meet d q .clean).2

theorem witness_Amends :
    (amending .run (amend 1 lastWord 1) id).awake ∧ (amending .run (amend 1 lastWord 1) id).hw.amendFrom = some 0 ∧
    ((met 0 560 (amending .run (amend 1 lastWord 1) id)).cq 0 560).cells = [held (amend 1 lastWord 1)] ∧
    (amending .run (amend 1 lastWord 1) id).hw.mgt.headless = false ∧
    (amending .run (amend 1 lastWord 1) id).hw.rd 0 R.MGT_STAT_PAIR ≠ 3 ∧ (amending .run (amend 1 lastWord 1) id).hw.node.owner = 0 ∧
    (amending .run (amend 1 lastWord 1) fun h => h.wr 0 R.MGT_STAT_PAIR 3).hw.rd 0 R.MGT_STAT_PAIR = 3 ∧
    (held (amend 1 lastWord 1)).origin = .management 0 ∧
    amendFormat (held (amend 0 lastWord 1)).cell.data = false ∧
    amendFormat (held (amend 1 lastWord 1)).cell.data = true ∧ (amending .quarantine (amend 1 lastWord 1) id).hw.loaderState = false ∧
    (amending .run (amend 1 lastWord 1) id).hw.loaderState = true ∧
    (amending .run (amend 1 (lastWord + 1) 1) id).hw.amendTarget (amend 1 (lastWord + 1) 1) = false ∧
    (amending .run (amend 1 lastWord 1) id).hw.amendTarget (amend 1 lastWord 1) = true ∧
    (amending .run (amend 1 lastWord 1) fun h => h.wr 1 R.PMP_STAT_STATE 1 63).hw.amendOpen 1 lastWord 1 = false ∧
    (amending .run (amend 1 lastWord 1) id).hw.amendOpen 1 lastWord 1 = true ∧
    (amending .run (amend 1 lastWord 1) id).hw.permitting 1 lastWord (.management 0) = none ∧
    (amendCheck (.management 0) (amend 1 lastWord 1) (met 0 560 (amending .run (amend 1 lastWord 1) fun h =>
      policy { (h.wr 0 R.WLH_STAT_EVALID 1).wr 0 R.WLH_HUE_E 65535 with wlh := { h.wlh with frameAt := h.wlh.frameAt.put none 0 (some 0) } }))).1 = some 0 ∧
    (amendCheck (.management 0) (amend 1 lastWord 1) (met 0 560 (amending .run (amend 1 lastWord 1) policy))).1 = some 1 ∧
    (amendCheck (.management 0) (amend 1 lastWord 1) (met 0 560 (amending .run (amend 1 lastWord 1) fun h =>
      policy { h with ldg := { h.ldg with forced := [⟨0, 0, 0, 0, 0, 0, 0, 0, 0, 0, 0⟩] } }))).1 = none := by
  unfold State.awake
  decide +kernel

theorem witness_RingPorts :
    (∀ st ∈ [0, 1, 2, 3, 4], (port3 st id).ready 1 ∧ (port3 st id).hw.rd 1 R.RNG_PSTAT_STATE 3 = st) ∧
    ((port3 2 id).hw.port 1 3).scored = false ∧
    ((port3 2 fun h => h.setPort 1 3 { h.port 1 3 with scored := true }).hw.port 1 3).scored = true ∧
    ((port3 4 id).hw.port 1 3).forcedOff = false ∧ (port3 4 fun h => h.wr 1 R.RNG_LES_REARM 0).hw.rd 1 R.RNG_LES_REARM = 0 ∧
    (port3 4 fun h => h.wr 1 R.RNG_LES_REARM 1).hw.rd 1 R.RNG_PSTAT_OFFCNT 3 < (port3 4 fun h => h.wr 1 R.RNG_LES_REARM 1).hw.rd 1 R.RNG_LES_REARM ∧
    ((port3 4 fun h => h.setPort 1 3 { h.port 1 3 with forcedOff := true }).hw.port 1 3).forcedOff = true ∧
    (port3 2 id).hw.portUp 1 3 = true ∧ (port3 0 id).hw.portUp 1 3 = false ∧
    ((port3 0 fun h => h.setPort 1 3 { h.port 1 3 with retryWait := true }).hw.port 1 3).retryWait = true ∧
    ((port3 0 id).hw.attached 1).contains 3 = true ∧ ((port3 4 fun h => h.wr 1 R.RNG_ATTACH_MODE 1).hw.attached 1).contains 3 = false ∧
    (port3 4 fun h => h.wr 1 R.RNG_LES_REARM 1 |>.wr 1 R.RNG_PSTAT_OFFCNT 1 3).hw.rd 1 R.RNG_LES_REARM ≤
      (port3 4 fun h => h.wr 1 R.RNG_LES_REARM 1 |>.wr 1 R.RNG_PSTAT_OFFCNT 1 3).hw.rd 1 R.RNG_PSTAT_OFFCNT 3 ∧
    (∀ lane < 4, bit ((port3 1 fun h => h.wr 1 R.RNG_PSTAT_LOCK 15 3).hw.rd 1 R.RNG_PSTAT_LOCK 3) lane = true) := by
  unfold State.ready State.awake
  decide +kernel

theorem witness_Presence :
    (node .run id).ready 1 ∧ (node .run fun h => h.wr 0 R.NOD_NODEID_NODEID 65535).hw.nodeId ≠ 0 ∧ (node .run id).hw.attached 1 ≠ [] ∧
    (node .run id).hw.node.state ≠ .sleep ∧ (node .sleep id).hw.node.state = .sleep ∧
    ((met 1 552 (node .run (queue 1 552 [held [1]]))).cq 1 552).cells = [held [1]] ∧ ((met 1 552 (node .run id)).cq 1 552).cells = [] ∧
    (node .run fun h => h.setRing 1 { h.ring 1 with pseq := 3 }).hw.ownCell 1 ([0, 0, 0, 0, 1, 0, 0, 0, 0, 0, 0, 0, 0, 0, 3, 0]) = true ∧
    staleCell [⟨65535, 0, 0, 0, 0, 0, 0, 0⟩] (presenceOf [0, 0, 0xFF, 0xFF, 0, 0, 0, 0, 0, 0, 0, 0, 0, 0, 0xFF, 0xFF] 0) = true ∧
    (((node .run fun h => h.setRing 1 { h.ring 1 with heard := [⟨65535, 0, 0, 0, 0, 0, 0, 0⟩] }).hw.ring 1).heard.any fun x => x.node == 65535)
        = true ∧
    (((node .run id).hw.ring 1).heard.any fun x => x.node == 65535) = false := by
  unfold State.ready State.awake
  decide +kernel

/-- Ring port 3 of die 1, Active with credit, one cell in its class 0 queue. -/
def sending : State := port3 2 fun h => queue 1 524 [held [1]] (h.wr 1 R.RNG_PCRED_AVAIL 1 3 0)

/-- A frame not yet acknowledged on ring port 3 of die 1, after `retries` replays. -/
def unacked (retries : Nat) : State := port3 2 fun h => h.setPort 1 3 { h.port 1 3 with outstanding := [⟨0, cellOf [1]⟩], retries := retries }

set_option maxRecDepth 20000 in
theorem witness_LinkFrames :
    sending.ready 1 ∧ sending.hw.chooseClass 1 3 = some 0 ∧ ((sending.hw.countWaits 1 3 0).meet 1 524 .clean).1 = false ∧
    ((((sending.hw.countWaits 1 3 0).meet 1 524 .clean).2.cq 1 524).cells ≠ []) ∧
    (let s := node .run (queue 1 548 [held [1]]);
      s.hw.chooseClass 1 9 = some 0 ∧ ((s.hw.countWaits 1 9 0).meet 1 548 .clean).1 = false ∧
      (((s.hw.countWaits 1 9 0).meet 1 548 .clean).2.cq 1 548).cells ≠ []) ∧
    (node .run id).hw.chooseClass 1 3 = none ∧
    ((unacked 0).hw.port 1 3).outstanding ≠ [] ∧ (unacked 0).hw.portUp 1 3 = true ∧ 0 + 1 < (unacked 0).hw.rd 1 R.RNG_LES_RETRYMAX ∧
    (unacked 65535).hw.rd 1 R.RNG_LES_RETRYMAX ≤ 65535 + 1 ∧
    ((port3 2 fun h => h.setPort 1 3 { h.port 1 3 with syncDue := true }).hw.port 1 3).syncDue = true ∧ ((port3 2 id).hw.port 1 3).syncDue = false ∧
    (((port3 2 id).hw.blockErrors 1 3 0).receive 1 3 (frame 1 [1]) false).1.map (·.ftype) = some 1 ∧
    (((port3 2 id).hw.blockErrors 1 3 0).receive 1 3 (frame 2 [1]) false).1.map (·.ftype) = some 2 ∧
    ((port3 2 id).hw.blockErrors 1 3 0).portUp 1 3 = true ∧ ((port3 2 id).hw.blockErrors 1 3 4095).portUp 1 3 = false ∧
    (port3 2 id).hw.node.state ≠ .sleep ∧ (node .sleep id).hw.node.state = .sleep ∧ (port3 2 id).hw.rd 1 R.RNG_PSTAT_STATE 3 ≠ 1 ∧
    (port3 1 id).hw.rd 1 R.RNG_PSTAT_STATE 3 = 1 ∧
    (((port3 2 id).hw.blockErrors 1 3 4).receive 1 3 (frame 7 [1]) false).1 = none ∧
    (((port3 2 id).hw.receive 1 3 (frame 2 [3, 1]) false).1.map fun f => (f.ftype, leAt f.cell 0 2)) = some (2, 0x0103) ∧
    (port3 1 fun h => h.wr 1 R.RNG_PSTAT_LOCK 15 3).hw.rd 1 R.RNG_PSTAT_LOCK 3 = 15 ∧
    ((port3 1 id).hw.attached 1).contains 3 = true ∧ (port3 1 id).hw.rd 1 R.RNG_PSTAT_LOCK 3 ≠ 15 := by
  unfold State.ready State.awake
  decide +kernel

/-- Ring port 3 of die 1 in Training, deskewed, with what is left of earlier attempts. -/
def training (authen : Nat) (last : Option Nat) : State :=
  port3 1 fun h => ((h.wr 1 R.RNG_CFG_AUTHEN authen).wr 1 R.RNG_PSTAT_LOCK 15 3).setPort 1 3 { h.port 1 3 with deskewed := true, lastFailure := last, sessionRx := some 1 }

/-- A peer's training exchange: from a port that faces port 3, or from one that does not. -/
def exchange (port : Nat) : List Byte := leBytes 2 0x0102 ++ leBytes 2 9 ++ leBytes 1 (port * 8) ++ List.replicate 59 0

/-- The same port with the exchange's arrival in the journal. -/
def journaled (port authen : Nat) (last : Option Nat) : Hw :=
  (training authen last).hw.journalFrame 1 3 4 (parseFrame (frame 2 (exchange port)))

set_option maxRecDepth 20000 in
/-- The failed tag of an unauthenticated frame is told from a passed one by the frame's AUTH bit alone. -/
theorem witness_LinkTraining :
    (training 0 none).ready 1 ∧ (training 0 none).hw.rd 1 R.RNG_PSTAT_STATE 3 = 1 ∧ ((training 0 none).hw.port 1 3).deskewed = true ∧
    (training 0 none).hw.rd 1 R.RNG_PSTAT_LOCK 3 = 15 ∧ ((training 0 none).hw.attached 1).contains 3 = true ∧
    (frameCrcOk (zeros 103) && (parseFrame (zeros 103)).ftype == 2) = false ∧ frameCrcOk (zeros 103) = false ∧
    frameCrcOk (frame 2 (exchange 3)) = true ∧ (parseFrame (frame 2 (exchange 3))).ftype = 2 ∧
    leAt (parseFrame (frame 2 (exchange 3))).cell 0 2 = 0x0102 ∧
    (journaled 3 0 none).exchangeDiffers 1 3 (parseFrame (frame 2 (exchange 3))).cell ≠ 0 ∧
    ((training 0 (some 8)).hw.port 1 3).lastFailure = some ((journaled 3 0 (some 8)).exchangeDiffers 1 3 (parseFrame (frame 2 (exchange 3))).cell) ∧
    ((training 0 none).hw.port 1 3).lastFailure ≠ some ((journaled 3 0 none).exchangeDiffers 1 3 (parseFrame (frame 2 (exchange 3))).cell) ∧
    (journaled 2 0 none).exchangeDiffers 1 3 (parseFrame (frame 2 (exchange 2))).cell = 0 ∧
    (training 1 none).hw.on 1 R.RNG_CFG_AUTHEN = true ∧ ((training 1 none).hw.port 1 3).sessionRx ≠ none ∧
    frameCrcOk (frame 2 [1]) = true ∧ tagOk true ((training 1 none).hw.port 1 3) (parseFrame (frame 2 [1])) (frame 2 [1]) = false ∧
    ((training 1 (some 16)).hw.port 1 3).lastFailure = some 16 ∧ ((training 1 none).hw.port 1 3).lastFailure ≠ some 16 := by
  unfold State.ready State.awake
  decide +kernel
/-- A train's passage by port 3 of die 1 that expects segment `n`. -/
def passing (n : Nat) : State := node .run fun h =>
  h.setTrain 1 { h.train 1 with passages := (h.train 1).passages.put none 3 (some ⟨0, 0, 0, 1, none, false, n, none, []⟩) }

/-- A train window open on die 1, after `missed` trains missed in a row. -/
def awaiting (missed hold : Nat) : State := node .run fun h =>
  ((h.wr 1 R.RNG_MISS_CONSEC missed).wr 1 R.NOD_STATE_HOLD hold).setTrain 1 { h.train 1 with windowOpen := true }

/-- What a missed train leaves of the count, before Safe is judged. -/
def missedTrain (s : State) : Hw := ((s.hw.bump 1 R.RNG_MISS_CONSEC).bump 1 R.RNG_MISS_TOTAL).timeWindowMissed 1

/-- Die 1 originates, phase-locked to tracker 7 in state `st`. -/
def locked (st : Nat) : State := node .run fun h =>
  (((h.flag 1 R.RNG_CMSTAT_ORIG).wr 1 R.RNG_PLOCK_PLEN 1).wr 1 R.RNG_PLOCK_TRACKER 7).wr 1 R.PHS_TSTAT_STATE st 7

/-- As `locked`, its last train started at another boundary. -/
def past (st : Nat) : State :=
  locked st |> fun s => { s with hw := s.hw.setTrain 1 { s.hw.train 1 with phaseAt := 7 } }

theorem witness_Trains :
    (node .run id).ready 1 ∧ (port3 2 id).hw.portUp 1 3 = true ∧ (port3 2 id).hw.node.state ≠ .sleep ∧
    (∀ n ∈ [0, 4095], ((passing n).hw.train 1).passages.get none 3 = some ⟨0, 0, 0, 1, none, false, n, none, []⟩) ∧
    ((node .run id).hw.train 1).passages.get none 3 = none ∧ ((awaiting 0 3).hw.train 1).windowOpen = true ∧
    (missedTrain (awaiting 2 3)).rd 1 R.RNG_MISS_CONSEC ≤ (missedTrain (awaiting 2 3)).rd 1 R.NOD_STATE_HOLD ∧
    (missedTrain (awaiting 3 3)).rd 1 R.NOD_STATE_HOLD < (missedTrain (awaiting 3 3)).rd 1 R.RNG_MISS_CONSEC ∧
    (missedTrain (awaiting 3 3)).node.state = .run ∧
    (∀ st ∈ [2, 3, 4], (locked st).hw.on 1 R.RNG_CMSTAT_ORIG = true ∧ (locked st).hw.on 1 R.RNG_PLOCK_PLEN = true ∧
      (locked st).hw.trkState 1 ((locked st).hw.rd 1 R.RNG_PLOCK_TRACKER) = st) ∧
    (locked 2).hw.boundaryNo 1 = ((locked 2).hw.train 1).phaseAt ∧ (past 2).hw.boundaryNo 1 ≠ ((past 2).hw.train 1).phaseAt ∧
    (past 2).hw.on 1 R.RNG_CMSTAT_ORIG = true ∧ (past 2).hw.on 1 R.RNG_PLOCK_PLEN = true ∧
    (past 2).hw.trkState 1 ((past 2).hw.rd 1 R.RNG_PLOCK_TRACKER) = 2 ∧
    (node .run fun h => h.flag 1 R.RNG_CMSTAT_ORIG).hw.on 1 R.RNG_PLOCK_PLEN = false ∧
    (node .run id).hw.on 1 R.RNG_CMSTAT_ORIG = false ∧
    (node .run fun h => (committed h).wr 1 R.RNG_CFG_CMROLE 1).hw.mayOriginate 1 = true := by
  unfold State.ready State.awake
  decide +kernel

theorem witness_SwitchCommands :
    (node .run id).ready 1 ∧
    ((node .run fun h => h.setSwitch 1 { h.switch 1 with mcs := [⟨cellOf [1], 0, [9], [], 0⟩] }).hw.switch 1).mcs = [⟨cellOf [1], 0, [9], [], 0⟩] ∧
    ((node .run id).hw.switch 1).mcs = [] ∧
    (∀ x ∈ [(540, 7), (536, 6)], (node .run (queue 1 x.1 [held [1]])).hw.chooseClass 1 x.2 = some 0) ∧
    ((((node .run (queue 1 540 [held [1]])).hw.countWaits 1 7 0).meet 1 540 .pointers).1 = true) ∧
    ((((node .run (queue 1 540 [held [1]])).hw.countWaits 1 7 0).meet 1 540 .clean).1 = false) ∧
    (node .run fun h => { h with errs := h.errs.put [] 1 [⟨1, 9, 0, [], 0⟩] }).hw.errs.get [] 1 = [⟨1, 9, 0, [], 0⟩] ∧
    (node .run id).hw.dieLinkUp 1 1 = true := by
  unfold State.ready State.awake
  decide +kernel

/-- The node is the time master through die 0. -/
def master (f : Hw → Hw) : State := node .run fun h => f ((h.flag 0 R.RNG_CMSTAT_ORIG).wr 0 R.FTM_CFG_TMROLE 1)

/-- What a second edge of PPS_IN leaves before the pairing. -/
def edged (s : State) : Hw := (s.hw.eachDie fun e g => g.journal e 0xC 0).reachUtcAt

set_option maxRecDepth 20000 in
theorem witness_FabricTime :
    (master id).awake ∧ (master id).hw.timeMaster = true ∧ (master id).hw.on (master id).hw.node.owner R.FTM_CFG_PPSSRC = false ∧
    (edged (master fun h => h.wr 0 R.FTM_STAT_STEPPED 1)).on 0 R.FTM_STAT_STEPPED = true ∧ (edged (master id)).on 0 R.FTM_STAT_STEPPED = false ∧
    (edged (master id)).ftm.label = none ∧ (edged (master fun h => h.wr 0 R.FTM_STAT_STEPPED 1)).ftm.label = none ∧
    (edged (master fun h => { h.wr 0 R.FTM_STAT_STEPPED 1 with ftm := { h.ftm with label := some (0, 37) } })).ftm.label = some (0, 37) ∧
    (edged (master fun h => { h.wr 0 R.FTM_STAT_STEPPED 1 with ftm := { h.ftm with label := some (0, 37) } })).on 0 R.FTM_STAT_STEPPED = true ∧
    (edged (master fun h => { h with ftm := { h.ftm with label := some (0, 37) } })).ftm.label = some (0, 37) ∧
    (node .run id).hw.timeMaster = false ∧
    (let h := (master fun h => ({ h with ftm := { h.ftm with time := 2000000000 * unitsPerNs } } : Hw).wr 0 R.FTM_UTCAT_UTCAT 1).hw
      let u := h.rd h.node.owner R.FTM_UTCAT_UTCAT
      h.timeMaster = true ∧ u ≠ 0 ∧ u ≠ h.ftm.utcDone ∧ u ≤ h.fabricNs / 1000000000) ∧
    (node .run fun h => h.wr 0 R.FTM_STAT_VALID 1).hw.timeValid = true ∧ (node .run id).hw.timeValid = false ∧
    1 < (port3 2 id).hw.dies ∧ (port3 2 id).hw.portUp 1 3 = true ∧
    ((port3 2 id).hw.controlMsg 1 3 (frame 2 [1, 1])).1.map (leAt · 0 2) = some 0x0101 ∧
    ((port3 2 id).hw.controlMsg 1 3 (frame 2 [1, 2, 0, 0, 0, 0, 0, 0, 0, 0, 0, 0, 0, 0, 0, 0, 0x20, 0x4E])).1.map
      (fun m => (leAt m 0 2, leAt m 0x10 4)) = some (0x0201, 20000) ∧
    ((port3 2 id).hw.controlMsg 1 3 (frame 2 [1, 2])).2.portUp 1 3 = true ∧
    1 ≠ (node .run id).hw.sourceDie ∧ 64 < (65 : Int).natAbs ∧ (-64 : Int).natAbs ≤ 64 ∧ 10000 < (-10001 : Int).natAbs ∧
        (10000 : Int).natAbs ≤ 10000 := by
  unfold State.awake
  decide +kernel

/-- A credit return for queue 8191 of die 1, from its target (R259). -/
def returned (node : Nat) : CCell := { held [0x20, 1, 0xFF, 0x1F] with cell := { cellOf [0x20, 1, 0xFF, 0x1F] with snode := node } }

/-- Queue 8191 of die 1 with an open word cell that holds `n` words. -/
def openWords (n : Nat) : State := node .run (queue 1 8191 [{ held [] with words := n, closed := false }])

/-- The scrubbers of die 1 run; bank 15 is at line 0 of row 0, the descriptor scrub at queue `q`. -/
def scrubbing (q : Nat) (f : Hw → Hw) : State := node .run fun h =>
  f ((h.wr 1 R.CIS_CFG_SCRUBEN 1).setScrub 1 { (h.cistern 1).scrub with descQueue := q })

/-- A held write of queue 8191, and die 1 with held writes. -/
def heldWrite (placed more : Bool) : HeldWrite := ⟨8191, held [1], placed, more⟩
def holding (ws : List HeldWrite) (f : Cis → Cis) : State := node .run fun h => h.setCistern 1 (f { h.cistern 1 with wbuf := ws })

theorem witness_CisternUpkeep :
    (node .run id).ready 1 ∧ (∀ p ∈ [true, false], ((holding [heldWrite p false] id).hw.cistern 1).wbuf = [heldWrite p false]) ∧
    ((holding [heldWrite false false] id).hw.allocate 1).1.isSome = true ∧
    ((holding [heldWrite false false] fun x => { x with busyAt := 0, busy := List.range 16 }).hw.allocate 1).1 = none ∧
    ((holding [heldWrite true true, heldWrite true false] id).hw.cistern 1).wbuf = [heldWrite true true, heldWrite true false] ∧
    ((headGroup [heldWrite true true, heldWrite true false]).all (·.placed)) = true ∧
    ((node .run id).hw.cistern 1).wbuf = [] ∧
    ((node .run fun h => h.setBank 1 15 { h.bank 1 15 with rebuilding := true }).hw.bank 1 15).rebuilding = true ∧
    (node .run fun h => h.wr 1 R.CIS_LINKB_VALID 1 511).hw.on 1 R.CIS_LINKB_VALID 511 = true ∧ (node .run id).hw.on 1 R.CIS_LINKB_VALID 511 = false ∧
    ((met 1 554 (node .run (queue 1 554 [returned 0]))).cq 1 554).cells = [returned 0] ∧ ((met 1 554 (node .run id)).cq 1 554).cells = [] ∧
        leAt (returned 0).cell.data 0 2 = 0x0120 ∧
    (((met 1 554 (node .run fun h => queue 1 554 [returned 0] (h.qwr 1 8191 Q.QCFGA_FWD 1))).dropHead 1 554).returnTarget 1 (returned 0).cell) = some 8191 ∧
    ((node .run (queue 1 554 [returned 0])).hw.dropHead 1 554).returnTarget 1 (returned 0).cell = none ∧
    (openWords 1).hw.openTail 1 8191 = some { held [] with words := 1, closed := false } ∧
    (((openWords 1).hw.fillTail 1 8191 { held [] with words := 1, closed := false } 0).openTail 1 8191).isSome = true ∧
    (((openWords 15).hw.fillTail 1 8191 { held [] with words := 15, closed := false } 0).openTail 1 8191).isSome = false ∧
    (scrubbing 0 id).hw.on 1 R.CIS_CFG_SCRUBEN = true ∧ (node .run fun h => h.wr 1 R.CIS_CFG_SCRUBEN 0).hw.on 1 R.CIS_CFG_SCRUBEN = false ∧
    (scrubbing 0 (queue 1 8191 [{ held [] with index := 15 }])).hw.holder 1 15 = some 8191 ∧ (scrubbing 0 id).hw.holder 1 15 = none ∧
    ((scrubbing 8190 id).hw.cistern 1).scrub.descQueue + 1 ≠ 8192 ∧ ((scrubbing 8191 id).hw.cistern 1).scrub.descQueue + 1 = 8192 := by
  unfold State.ready State.awake
  decide +kernel

/-- A cell of message `m` (R424) at the head of an access queue of die 1. -/
def message (q m : Nat) : State := node .run (queue 1 q [held (leBytes 1 m ++ [1])])

theorem witness_AccessCells :
    (message 576 0x40).ready 1 ∧
    (∀ m ∈ [0x40, 0x41, 0x44, 0x45, 0x46], ((met 1 576 (message 576 m)).cq 1 576).cells = [held (leBytes 1 m ++ [1])] ∧
        msgOf (held (leBytes 1 m ++ [1])) = m) ∧
    (∀ m ∈ [0x42, 0x43, 0x47, 0x48], ((met 1 553 (message 553 m)).cq 1 553).cells = [held (leBytes 1 m ++ [1])] ∧
        msgOf (held (leBytes 1 m ++ [1])) = m) ∧
    msgOf (held [0x3F, 1]) < 0x40 ∧ 0x48 < msgOf (held [0x49, 1]) ∧ (1 : Nat) < 2 := by
  unfold State.ready State.awake
  decide +kernel

theorem witness_SingleAccesses :
    (node .run id).awake ∧ (1 : Die).val < (node .run id).hw.dies ∧ (node .run id).hw.dies ≤ (2 : Die).val ∧
    (∀ x ∈ [(0, 0x1FFFFC, 4), (4, 256 * 8191 + 0x44, 4), (4, 256 * 8191, 64), (0x11, 0, 256), (0x01, 0, 0)],
      (node .run id).hw.lockOn ((node .run id).hw.rowReq 0xA0 1 x.1 x.2.1 x.2.2 (.management 1) false []) = none) ∧
    (∀ x ∈ [(0, 0x1FFFFC), (4, 256 * 8191)],
      (node .run id).hw.lockOn ((node .run id).hw.rowReq 0xA1 1 x.1 x.2 4 (.host 0) false [0, 0, 0, 0]) = none) ∧
    (node .run id).hw.lockOn ((node .run id).hw.rowReq 0xA1 1 0 0x1FFFFC 4 (.ring 9) true [0, 0, 0, 0]) = none ∧
    (performWrite ((node .run id).hw.entryOf (.ring 9)) 1 0 0x1FFFFC [0, 0, 0, 0] (.ring 9) .clean ((node .run id).hw, .empty)).1.code ≠ 0 ∧
    (performWrite ((managed .run id).hw.entryOf (.ring 9)) 1 0 0xB0020 [0, 0, 0, 0] (.ring 9) .clean ((managed .run id).hw, .empty)).1.code = 0 ∧
    ((node .run id).hw.mgt.isOpen && (node .run id).hw.ustate == 3) = false ∧
    (let s := node .run fun h => ({ h with mgt := { h.mgt with isOpen := true } } : Hw).wr 0 R.MGT_USTAT_USTATE 3
     (s.hw.mgt.isOpen && s.hw.ustate == 3) = true ∧ s.hw.lockOn (s.hw.rowReq 0xA0 1 0x01 0 4 (.host 0) false []) = none) := by
  unfold State.awake
  decide +kernel

/-- Pin 191 of die 1 an input, checked as `check` says, with what `f` changes. -/
def input (check : Nat) (f : Hw → Hw) : State :=
  node .run fun h => f ((h.wr 1 R.MIO_PCFG_FUNC 1 191).wr 1 R.MIO_PFLT_CHECK check 191)

/-- What a sample cycle of that pin leaves before its timeout is counted, whether it then sees an active edge, and what it leaves before
its open measure and before its readback. -/
def qualified (s : State) : Hw :=
  let g := s.hw.chainStep 1 191
  qualifiedChange 1 (if g.chainOut 1 191 != (g.pin 1 191).qual then [191] else []) g

def edgeOf (s : State) : Bool :=
  let g := s.hw.chainStep 1 191
  (if g.chainOut 1 191 != (g.pin 1 191).qual then [191] else []).contains 191 && (qualified s).activeEdge 1 191 ((qualified s).pin 1 191).qual

def timed (s : State) : Hw := (qualified s).timeoutStep 1 191 (edgeOf s)

def measured (s : State) : Hw :=
  let g := (timed s).openLimit 1 191
  if g.rd 1 R.MIO_PCFG_FUNC 191 = 6 then g.refreshPin 1 191 else g

/-- That pin as `f` makes it, after eight core cycles. -/
def pinned (f : Hw → Hw) (x : Pin → Pin) : State := input 1 fun h => f ({ h with now := 8 }.setPin 1 191 (x (h.pin 1 191)))

/-- That pin an output with readback. -/
def readBack (x : Pin → Pin) : State := pinned (fun h => (h.wr 1 R.MIO_PCFG_MODE 1 191).wr 1 R.MIO_PCFG_RBEN 1 191) x

theorem witness_Pins :
    (pinned id id).ready 1 ∧ (pinned id id).hw.sampleDue 1 191 = true ∧
        (pinned id fun x => { x with sampledAt := some 8 }).hw.sampleDue 1 191 = false ∧
    (pinned id id).hw.rd 1 R.MIO_PFLT_FILT 191 = 0 ∧
    (∀ run ∈ [0, 1], let s := pinned (fun h => h.wr 1 R.MIO_PFLT_FILT 1 191) fun x => { x with run := run }
      s.hw.rd 1 R.MIO_PFLT_FILT 191 = 1 ∧ (s.hw.pin 1 191).run = run) ∧
    (∀ edge ∈ [true, false], let s := pinned (fun h => h.wr 1 R.MIO_PTMO_TMO 1 191) fun x => { x with sync := edge, tmo := some 0 }
      (qualified s).guarded = true ∧ (qualified s).node.state ≠ .dawn ∧ (qualified s).isInput 1 191 = true ∧
      (qualified s).rd 1 R.MIO_PTMO_TMO 191 = 1 ∧ ((qualified s).pin 1 191).tmo = some 0 ∧ ((qualified s).pin 1 191).tmoFired = false ∧
          edgeOf s = edge) ∧
    ((timed (pinned id id)).pin 1 191).openAt = none ∧
    (∀ c ∈ [1, 2], let s := pinned (fun h => (h.wr 1 R.MIO_PFLT_CHECK c 191).wr 1 R.MIO_PRNG_MAX 0 191) fun x => { x with openAt := some 0 }
      (timed s).guarded = true ∧ (timed s).isInput 1 191 = true ∧ (timed s).rd 1 R.MIO_PFLT_CHECK 191 = c ∧
      ((timed s).pin 1 191).openAt = some 0 ∧ (timed s).rd 1 R.MIO_PRNG_MAX 191 < (timed s).tickOf 1 191 - 0) := by
  unfold State.ready State.awake
  decide +kernel

theorem witness_Pins_readback :
    (∀ x ∈ [fun x : Pin => { x with rbArmed := false }, fun x => { x with rbArmed := true, drv := none },
        fun x => { x with rbArmed := true, drv := some false }, fun x => { x with rbArmed := true, drv := some true, rbBad := true },
        fun x => { x with rbArmed := true, drv := some true, rbBad := false }],
      let k := measured (readBack x)
      let z := k.pin 1 191
      k.on 1 R.MIO_PCFG_RBEN 191 = true ∧ k.rd 1 R.MIO_PCFG_MODE 191 ≠ 0 ∧ k.configured = true ∧ z.drvAt ≠ some k.now ∧
      z.rbArmed = ((readBack x).hw.pin 1 191).rbArmed ∧ z.drv = ((readBack x).hw.pin 1 191).drv ∧ z.sync = false ∧
      z.rbBad = ((readBack x).hw.pin 1 191).rbBad) ∧
    (pinned id id).hw.rd 1 R.MIO_PCFG_FUNC 191 ≠ 0 ∧ ((pinned id id).hw.pin 1 191).sync = false ∧ ((pinned id id).hw.pin 1 191).sync ≠ true := by
  decide +kernel

/-- Tracker 7 of die 1 in state `st`. -/
def tracker (st : Nat) (f : Hw → Hw) : State := node .run fun h => f (h.wr 1 R.PHS_TSTAT_STATE st 7)

theorem witness_PhaseTrackers :
    (tracker 1 id).ready 1 ∧ (∀ st ∈ [1, 2, 3, 4], (tracker st id).hw.trkState 1 7 = st ∧ st ≠ 0 ∧ st ≠ 5) ∧
    (∀ st ∈ [0, 5], (tracker st id).hw.trkState 1 7 = st) ∧
    (tracker 1 id).hw.updateDue 1 7 = true ∧
    (tracker 1 fun h => ({ h with now := 1 } : Hw).wr 1 R.PHS_TLOOP_UPDSH 1 7).hw.updateDue 1 7 = false ∧
    ((tracker 1 id).hw.trackerTick 1 7).rd 1 R.PHS_TPIO_PIOFF 7 = 0 ∧
    ((tracker 1 fun h => h.wr 1 R.PHS_TPIO_PIOFF 65535 7).hw.trackerTick 1 7).rd 1 R.PHS_TPIO_PIOFF 7 ≠ 0 ∧
    ((tracker 1 fun h => h.wr 1 R.PHS_TPIO_PIOFF 65535 7).hw.trackerFault 1 7).rd 1 R.PHS_TPIO_PIOFF 7 ≠ 0 ∧
    (tracker 0 fun h => h.wr 1 R.PHS_TPIO_PIOFF 65535 7).hw.rd 1 R.PHS_TPIO_PIOFF 7 ≠ 0 ∧
    (∀ c ∈ [1, 3], let h := (tracker 2 fun h => ((h.wr 1 R.PHS_TLOS_GAP 1 7).wr 1 R.PHS_TCFG_SRC c 7).wr 1 R.PHS_TSCALE_COUNTS 1 7
          |>.setTrk 1 7 { h.trk 1 7 with last := some (2 ^ 40, 0) }).hw
      h.trkState 1 7 = 2 ∧ h.rd 1 R.PHS_TLOS_GAP 7 ≠ 0 ∧ h.rd 1 R.PHS_TCFG_SRC 7 = c ∧ h.gapPassed 1 7 = true) ∧
    (tracker 2 id).hw.gapPassed 1 7 = false ∧
    (tracker 2 fun h => h.wr 1 R.PHS_TLOS_LOSTO 1 7).hw.rd 1 R.PHS_TLOS_LOSTO 7 ≠ 0 ∧
    (tracker 2 fun h => h.wr 1 R.PHS_TPACE_PACE 1 7).hw.rd 1 R.PHS_TPACE_PACE 7 ≠ 0 := by
  unfold State.ready State.awake
  decide +kernel
/-- Entry 4095 of die 1 armed at tracker 7, which is Locked and turns at velocity `w`, with its next crossing at 5. -/
def armedAt (w : Int) (pending : List Nat) : State := tracker 2 fun h =>
  let h := ((h.flag 1 R.PHS_EVTC_EN 4095).flag 1 R.PHS_EVTC_ARM 4095).wr 1 R.PHS_EVTC_TRK 7 4095
  (h.setTrk 1 7 { h.trk 1 7 with w := w }).setEvt 1 { h.evt 1 with next := (h.evt 1).next.put none 4095 (some 5), pending := pending }

/-- Die 1 with this event engine. -/
def engine (e : Evt) : State := node .run fun h => h.setEvt 1 e

/-- The same entry with what `f` changes after it. -/
def armedWith (w : Int) (f : Hw → Hw) : State := { armedAt w [] with hw := f (armedAt w []).hw }

/-- That entry committed for `tc` at core cycle `now`. -/
def committedFor (tc now : Nat) : State := armedWith (2 ^ 40) fun h =>
  { h with now := now }.setEvt 1 { h.evt 1 with committed := [⟨4095, 5, tc, false, 1⟩] }

theorem witness_EventEngine :
    (armedAt (2 ^ 40) [4095]).ready 1 ∧
    (∀ w ∈ [2 ^ 40, 1], let g := (armedAt w [4095]).hw.trimPending 1
      (g.evt 1).next.get none 4095 = some 5 ∧
      (((g.evt 1).pending.contains 4095 = true ∧ 0 < g.toCross 1 4095 5 ∧ g.toCross 1 4095 5 ≤ g.speed 1 4095 * 256) ↔ w = 2 ^ 40)) ∧
    (((node .run id).hw.trimPending 1).evt 1).next.get none 4095 = none ∧
    (∀ now ∈ [5, 6], let x := (committedFor 5 now).hw.evt 1
      x.committed.find? (·.entry == 4095) = some ⟨4095, 5, 5, false, 1⟩ ∧ (decide ((committedFor 5 now).hw.now < 5 * 5 / 4) = (now == 5)) ∧
      sameInstant x.committed ⟨4095, 5, 5, false, 1⟩ = []) ∧
    ((node .run id).hw.evt 1).committed.find? (·.entry == 4095) = none ∧
    ((engine { Evt.init with cells := [cellOf [1]] }).hw.evt 1).cells = [cellOf [1]] ∧
    (engine { Evt.init with cells := [cellOf [1]] }).hw.mayPresent 1 6 (cellOf [1]).klass = true ∧
    (node .run fun h => (h.wr 1 R.SWC_INRES_RES 0 6 (cellOf [1]).klass).setEvt 1 { Evt.init with
        cells := [cellOf [1]] }).hw.mayPresent 1 6 (cellOf [1]).klass = false ∧
    (armedAt 1 []).hw.on 1 R.PHS_EVTC_ARM 4095 = true ∧ (node .run id).hw.on 1 R.PHS_EVTC_ARM 4095 = false ∧
    (((node .run id).hw.evt 1).edges.filter fun x => x.1 == ((node .run id).hw.evt 1).placer / 3 &&
        decide ((node .run id).hw.coreNs ≤ x.2)).length < 3 := by
  unfold State.ready State.awake
  decide +kernel

theorem witness_EventEngine_scan :
    (((armedAt 1 []).hw.trimPending 1).evt 1).bad.contains 4095 = false ∧
    (((engine { Evt.init with bad := [4095] }).hw.trimPending 1).evt 1).bad.contains 4095 = true ∧
    (armedAt 1 []).hw.entryLive 1 4095 = true ∧
    ((node .run id).hw.trimPending 1).entryLive 1 4095 = false ∧
    (((committedFor 5 0).hw.trimPending 1).evt 1).committed.any (·.entry == 4095) = true ∧
    (∀ w ∈ [2 ^ 40, 1], let g := (armedAt w []).hw.trimPending 1
      ¬(g.entryLive 1 4095 = false ∨ (g.evt 1).committed.any (·.entry == 4095) = true) ∧ (g.evt 1).next.get none 4095 = some 5 ∧
      0 < g.toCross 1 4095 5 ∧
      ((g.crossingNear 1 4095 5 = true ∧ (g.evt 1).pending.contains 4095 = false ∧ (g.evt 1).pending.length < 64) ↔ w = 2 ^ 40)) ∧
    (∀ a ∈ [0, 1], let g := (armedWith 1 fun h => (h.flag 1 R.PHS_EVTC_DIR 4095).wr 1 R.PHS_EVTC_ACTION a 4095).hw.trimPending 1
      ¬(g.entryLive 1 4095 = false ∨ (g.evt 1).committed.any (·.entry == 4095) = true) ∧ (g.evt 1).next.get none 4095 = some 5 ∧
      g.toCross 1 4095 5 ≤ 0 ∧ g.edgeBank 1 4095 = if a = 1 then some 0 else none) := by
  decide +kernel

/-- CAN controller 15 of die 1 enabled and in state `st`, with what `f` changes. -/
def can (st : Nat) (f : Hw → Hw) : State := node .run fun h => f ((h.wr 1 R.CAN_CFG_EN 1 15).setCanState 1 15 st)

/-- That it is sending from queue `i`. -/
def sends (i : Nat) (h : Hw) : Hw := h.setCan 1 15 { h.can 1 15 with tx := some i }

/-- Asleep, to be woken by a frame, after `errors` errors. -/
def decoding (errors : Nat) : State := can 5 fun h => (h.wr 1 R.CAN_WKCFG_WAKEMODE 1 15).wr 1 R.CAN_WKCFG_WKERR errors 15

theorem witness_CanCommands :
    (∀ st ∈ [0, 1, 2, 3, 4, 5], (can st id).ready 1 ∧ (can st id).hw.canRuns 1 15 = true ∧ (can st id).hw.canState 1 15 = st) ∧
    ((can 0 id).hw.can 1 15).stopping = false ∧ ((can 2 (sends 1)).hw.can 1 15).tx ≠ none ∧ ((can 2 id).hw.can 1 15).tx = none ∧
        (can 2 id).hw.on 1 R.CAN_STAT_RXING 15 = false ∧
    (can 5 id).hw.on 1 R.CAN_WKCFG_WAKEMODE 15 = false ∧ (decoding 0).hw.on 1 R.CAN_WKCFG_WAKEMODE 15 = true ∧
    (decoding 0).hw.canState 1 15 = 5 ∧ bit (0#32).toNat 31 = false ∧
    (let g := (decoding 0).hw.wr 1 R.CAN_WKCFG_WKERR ((decoding 0).hw.rd 1 R.CAN_WKCFG_WKERR 15 - 1) 15;
      g.wakeMatch 1 15 0 0 [] = true ∧ g.wakeMatch 1 15 0 1 [0] = false) ∧
    min 32 ((decoding 31).hw.rd 1 R.CAN_WKCFG_WKERR 15 + 1) = 32 ∧ min 32 ((decoding 30).hw.rd 1 R.CAN_WKCFG_WKERR 15 + 1) ≠ 32 := by
  unfold State.ready State.awake
  decide +kernel

/-- Frames in the queues of controller 15: the classic frame of identifier 0 without data, in TX (0) or TXH (1). -/
def framed (i : Nat) (h : Hw) : Hw := queue 1 (canQ 15 i) [held []] h

theorem witness_CanFrames :
    (can 2 id).ready 1 ∧ (can 2 id).hw.canSends 1 15 = true ∧ ((can 2 id).hw.can 1 15).tx = none ∧
    (∀ x ∈ [(framed 1, true, false), (framed 0, false, true), (id, false, false)],
      let h := (can 2 x.1).hw
      let g := (h.meet 1 (canQ 15 (if (h.cq 1 (canQ 15 1)).cells.isEmpty then 0 else 1)) .clean).2
      let g := Hw.cleanQueue 1 15 1 (g.cq 1 (canQ 15 1)).cells.length g
      let g := Hw.cleanQueue 1 15 0 (g.cq 1 (canQ 15 0)).cells.length g
      h.canSends 1 15 = true ∧ (h.can 1 15).tx = none ∧ g.selectable 1 15 1 = x.2.1 ∧ g.selectable 1 15 0 = x.2.2) ∧
    (∀ i ∈ [0, 1], ((can 2 fun h => sends i (framed i h)).hw.can 1 15).tx = some i ∧
      (can 2 fun h => sends i (framed i h)).hw.headCells 1 (canQ 15 i) = [(cellOf []).data]) ∧
    (can 2 id).hw.canState 1 15 = 2 ∧ ((can 2 (sends 1)).hw.can 1 15).tx.isSome = true ∧
    ((can 2 (sends 1)).hw.wr 1 R.CAN_FLAGS_LEC 6 15).counts 1 15 = true ∧ (can 1 id).hw.canState 1 15 ≠ 2 ∧
    bit (0x80000000#32).toNat 31 = true ∧ (can 2 id).hw.on 1 R.CAN_CFG_FDEN 15 = false ∧ bit (0#32).toNat 31 = false ∧
    (can 2 fun h => h.wr 1 R.CAN_CFG_FDEN 1 15).hw.on 1 R.CAN_CFG_FDEN 15 = true := by
  unfold State.ready State.awake
  decide +kernel

/-- The host port of die 1 with its link up, its window 255 on this node's die 0 and its window 254 on another node. -/
def linked (f : Hw → Hw) : State := node .run fun h => f ((((h.wr 1 R.BRG_HSTAT_LINKUP 1).wr 1 R.BRG_WINA_VALID 1 255).wr 1 R.BRG_WINA_VALID 1 254).wr 1
  R.BRG_WINA_NODE 9 254)

theorem witness_HostRequests :
    (linked id).ready 1 ∧ (1 : Die).val < 2 ∧ (linked id).hw.on 1 R.BRG_HSTAT_LINKUP = true ∧ Bar.bar2 ≠ .bar4 ∧ (linked id).hw.remoteReads 1 < 64 ∧
    (60 : BitVec 40).toNat % 64 + [(1 : Byte), 2, 3, 4].length ≤ 64 ∧ (linked id).hw.barTarget 1 .bar2 0 true = none ∧
    ((linked id).hw.barTarget 1 .bar2 (255 * 2 ^ 30 + 60) true).isSome = true ∧
    (node .run fun h => h.wr 1 R.BRG_HSTAT_ENABLED 1).hw.on 1 R.BRG_HSTAT_ENABLED = true ∧
    (node .run fun h => h.wr 1 R.BRG_HSTAT_ENABLED 0).hw.on 1 R.BRG_HSTAT_ENABLED = false ∧
    (let s := node .run fun h => h.setHost 1 { h.host 1 with reads := [⟨1023, 0, [⟨0, 9 * 2 ^ 48, 4, none⟩]⟩] };
      (s.hw.host 1).reads = [⟨1023, 0, [⟨0, 9 * 2 ^ 48, 4, none⟩]⟩] ∧ s.hw.localAddr (9 * 2 ^ 48) = false) := by
  unfold State.ready State.awake
  decide +kernel

/-- Whatever the offset of the MSI-X capability, some word of the configuration space is not its first. -/
theorem witness_HostRequests_word : ∃ word : BitVec 10, 4 * word.toNat ≠ Config.msixCap := by
  by_cases h : Config.msixCap = 0
  · exact ⟨1, by rw [h]; decide⟩
  · exact ⟨0, fun e => h (by simpa using e.symm)⟩
/-- Die 1 on the backplane, its slave window 7 of 64 KiB on die `target`, supervisory A32, with what `f` changes. -/
def onBus (target : Nat) (f : Hw → Hw) : State := node .run fun h =>
  let h := ((committed h).wr 1 R.BRG_BCFG_ENABLED 1).wr 1 R.BRG_SWA_VALID 1 7
  f ((((h.wr 1 R.BRG_SWA_ASP 2 7).wr 1 R.BRG_SWA_SUP 1 7).wr 1 R.BRG_SWA_SIZESH 16 7).wr 1 R.BRG_SWC_DIE target 7)

/-- With bit `F` of the window set. -/
def windowBit (F : Fld) (h : Hw) : Hw := h.wr 1 F 1 7

/-- With this in the bridge of die 1. -/
def bridge (f : Bp → Bp) (h : Hw) : Hw := h.setBp 1 (f (h.bp 1))

/-- With the last prefetch slot taken by the read of 0xFFFC, and what it got. -/
def slot15 (got : Option (Nat × List Byte)) : Hw → Hw :=
  bridge fun b => { b with slots := b.slots.put none 15 (some ⟨false, 0xFFFC, 0x0D, 4, 0, got⟩) }

/-- With every prefetch slot taken by the read of 0. -/
def slotsFull : Hw → Hw := bridge fun b => { b with slots := iter 16 (fun i x => x.put none i (some ⟨false, 0, 0x0D, 4, i, none⟩)) b.slots }

/-- With a locked sequence at the local master. -/
def locking (rdonly busy : Bool) : Hw → Hw := bridge fun b =>
  { b with asLow := true, lock := some ⟨2 ^ 45, 4, 7, rdonly, busy⟩ }

/-- A slave cycle held. -/
def cycleHeld (kind : Nat) : Hw → Hw := bridge fun b => { b with held := some ⟨kind, 0, 0x0D, 4, 7⟩ }

theorem witness_SlaveCycles :
    (onBus 1 id).ready 1 ∧ ((onBus 1 id).hw.bp 1).held = none ∧
    (∀ w ∈ [true, false], (onBus 1 id).hw.answered 1 0x10000 0x0D 4 w = none ∧
      ((onBus 1 id).hw.answered 1 0xFFFC 0x0D 4 w).map (fun c => (c.locken, c.postw)) = some (false, true)) ∧
    ((onBus 1 (windowBit R.BRG_SWA_LOCKEN)).hw.answered 1 0xFFFC 0x0D 4 false).map (·.locken) = some true ∧
    ((onBus 1 fun h => h.wr 1 R.BRG_SWA_POSTW 0 7).hw.answered 1 0xFFFC 0x0D 4 true).map (·.postw) = some false ∧
    ((onBus 1 id).hw.answered 1 0xFFFC 0x0D 4 false).map (fun c => (onBus 1 id).hw.direct 1 c.addr) = some true ∧
    ((onBus 0 id).hw.answered 1 0xFFFC 0x0D 4 false).map (fun c => (onBus 0 id).hw.direct 1 c.addr) = some false ∧
    (onBus 0 id).hw.on 1 R.BRG_BCFG_RTYMODE = false ∧ (onBus 0 fun h => h.wr 1 R.BRG_BCFG_RTYMODE 1).hw.on 1 R.BRG_BCFG_RTYMODE = true ∧
    (∀ got ∈ [none, some (0, [1, 2, 3, 4]), some (3, [])],
      findSlot ((onBus 0 (slot15 got)).hw.bp 1) false 0xFFFC 0x0D 4 = some 15 ∧
          (((onBus 0 (slot15 got)).hw.bp 1).slots.get none 15).bind (·.got) = got) ∧
    findSlot ((onBus 0 slotsFull).hw.bp 1) false 0xFFFC 0x0D 4 = none ∧
    ((List.range 16).find? fun i => (((onBus 0 slotsFull).hw.bp 1).slots.get none i).isNone) = none ∧
    findSlot ((onBus 0 id).hw.bp 1) false 0xFFFC 0x0D 4 = none ∧
    ((List.range 16).find? fun i => (((onBus 0 id).hw.bp 1).slots.get none i).isNone) = some 0 := by
  unfold State.ready State.awake
  decide +kernel

theorem witness_SlaveCycles_locks :
    (let b := (onBus 1 (bridge fun b => { b with asLow := true })).hw.bp 1; b.asLow = true ∧ b.held = none ∧ b.lock = none ∧ b.waitAs = none) ∧
    (∀ r ∈ [true, false], ((onBus 1 (locking r false)).hw.bp 1).asLow = true ∧ ((onBus 1 (locking r false)).hw.bp 1).held = none ∧
      ((onBus 1 (locking r false)).hw.bp 1).lock = some ⟨2 ^ 45, 4, 7, r, false⟩) ∧
    (let b := (onBus 1 (bridge fun b => { b with waitAs := some ((onBus 1 id).hw.rowReq 0xA0 1 8 0 4 (.management 1) false []) })).hw.bp 1;
      b.lock = none ∧ b.waitAs.isSome = true) ∧
    ((onBus 1 fun h => cycleHeld 2 (locking false true h)).hw.bp 1).lock = some ⟨2 ^ 45, 4, 7, false, true⟩ ∧
    ((onBus 1 fun h => cycleHeld 2 (locking false true h)).hw.bp 1).awaitsLock = true ∧
    (∀ k ∈ [0, 1, 2, 3], ((onBus 1 (cycleHeld k)).hw.bp 1).held = some ⟨k, 0, 0x0D, 4, 7⟩) ∧
    (((onBus 0 (slot15 (some (0, [])))).hw.bp 1).slots.get none 15).bind (·.got) = some (0, []) ∧
    (((onBus 0 id).hw.bp 1).slots.get none 15).bind (·.got) = none := by
  decide +kernel

/-- A read of 8 bytes at offset 0 of space 0x08 of die 1, by management origin; `lock` makes it a lock write's. -/
def busRead (msg : Nat) : Req := (onBus 1 id).hw.rowReq msg 1 8 0 8 (.management 1) false []

/-- It runs on the bus of die 1 with `done` bytes done. -/
def runningWith (done : List Byte) (f : Hw → Hw) : State :=
  onBus 1 fun h => f (bridge (fun b => { b with masters := [⟨busRead 0xA0, done⟩], bus := true }) h)

/-- Entry 7 of the master map takes space 0x08 from 0. -/
def mapped (h : Hw) : Hw := (((h.wr 1 R.BRG_MMA_START 0 7).wr 1 R.BRG_MMA_END 65535 7).wr 1 R.BRG_MMB_VALID 1 7).wr 1 R.BRG_MMB_D32EN 1 7

/-- A far holder of a unit of this node, or of the bus. -/
def holder : UnitLock := ⟨2 ^ 45, 9, 1, 7⟩

/-- BP_IRQ_N asserted at level 7. -/
def interrupting (h : Hw) : Hw := ((h.wr 1 R.BRG_BIRQ_LEVEL 7).wr 1 R.BRG_BIRQ_SRCMASK 1).wr 1 R.BRG_ISTAT_SRC 1

theorem witness_MasterCycles :
    (onBus 1 id).ready 1 ∧ (onBus 1 mapped).hw.gate 1 8 0 8 false (.management 1) = 0 ∧ (onBus 1 id).hw.gate 1 8 0 8 true (.management 1) ≠ 0 ∧
    (runningWith [] id).hw.busOn 1 = true ∧ (runningWith [] id).hw.on 1 R.BRG_BCFG_MODE = false ∧ ((runningWith [] id).hw.running 1).isSome = true ∧
    (onBus 1 id).hw.running 1 = none ∧
    (∀ x ∈ [([], false), ([1, 2, 3, 4], true)], (runningWith x.1 mapped).hw.running 1 = some ⟨busRead 0xA0, x.1⟩ ∧
      ((runningWith x.1 mapped).hw.bp 1).bus = true ∧
      decide ((busRead 0xA0).len ≤ x.1.length + (leBytes ((runningWith x.1 mapped).hw.cycleWidth 1 ⟨busRead 0xA0, x.1⟩) 5).length) = x.2) ∧
    (∀ by1 ∈ [none, some holder],
      let h := (onBus 1 (bridge fun b => { b with
          masters := [⟨{ busRead 0x45 with snode := 9, sdie := 1, tag := 7 }, []⟩], bus := true, lockBy := by1 })).hw;
      (h.running 1).isSome = true ∧ (((h.bump 1 R.BRG_BCNTB_BERRM).endMaster 1 ⟨{ busRead 0x45 with snode := 9, sdie := 1, tag := 7 }, []⟩ 4 []).bp 1).lockBy = none) ∧
    (∀ a ∈ [0, 1], let h := (runningWith [] fun h => (h.wr 1 R.BRG_BCFG_MODE 1).wr 1 R.BRG_BCFG_ACKMODE a).hw;
      h.busOn 1 = true ∧ h.on 1 R.BRG_BCFG_MODE = true ∧ (h.running 1).isSome = true ∧ h.on 1 R.BRG_BCFG_ACKMODE = decide (a = 1)) ∧
    ((onBus 1 id).hw.bp 1).bus = false ∧
    (let h := (onBus 1 (bridge fun b => { b with bus := true })).hw; (h.bp 1).bus = true ∧ h.running 1 = none ∧ (h.bp 1).lockBy = none) ∧
    ((onBus 1 (bridge fun b => { b with lockBy := some holder })).hw.bp 1).lockBy = some holder ∧
    ((onBus 1 fun h => h.setEng 1 { h.eng 1 with units := [holder] }).hw.eng 1).units[0]? = some holder ∧
    (onBus 1 interrupting).hw.irqLow 1 = true ∧ (7 : Fin 8).val = (onBus 1 interrupting).hw.rd 1 R.BRG_BIRQ_LEVEL ∧
    (onBus 1 id).hw.irqLow 1 = false ∧ (6 : Fin 8).val ≠ (onBus 1 interrupting).hw.rd 1 R.BRG_BIRQ_LEVEL ∧
    (let h := (onBus 1 (bridge fun b => { b with lock := some ⟨9 * 2 ^ 48, 4, 7, false, false⟩ })).hw;
      (h.bp 1).lock = some ⟨9 * 2 ^ 48, 4, 7, false, false⟩ ∧ h.localAddr (9 * 2 ^ 48) = false ∧ (h.bp 1).waitAs = none) := by
  unfold State.ready State.awake
  decide +kernel

/-- A Wellhouse that `f` changes, its card in Night. -/
def well (f : Wlh → Wlh) : State := node .night fun h => { h with wlh := f h.wlh }

/-- With this word for `F` in the Wellhouse's own settings. -/
def conf (F : Fld) (v : Nat) (h : Hw) : Hw :=
  { h with wlh := { h.wlh with conf := h.wlh.conf.put (resetWord h.straps h.grade F.addr) (F.addr - 0xA0000) (BitVec.ofNat 32 (v * 2 ^ F.lo)) } }

theorem witness_HotSwap :
    (∀ n ∈ [0, 1, 2, 3, 4, 5], ∀ b ∈ [true, false], (well fun w => { w with inWindow := b, hs := n }).hw.wlh.inWindow = b ∧
      (well fun w => { w with inWindow := b, hs := n }).hw.wlh.hs = n) ∧
    (∀ b ∈ [true, false], ∀ n ∈ [2, 3],
      let w := (well fun w => { w with hs := n, hold := b, timer := b, gate := b, pg := b }).hw.wlh;
      w.hs = n ∧ w.hold = b ∧ w.timer = b ∧ w.gate = b ∧ w.pg = b) ∧
    (let h := (well fun w => { w with hs := 2, timer := true, pg := false, retry := 3 }).hw;
      h.wlh.timer = true ∧ h.wlh.hs = 2 ∧ h.wlh.pg = false ∧ ¬(h.wconf R.WLH_INTIM_RETRY = 1 ∧ h.wlh.retry < 3)) ∧
    (∀ x ∈ [(1, 2), (1, 3), (0, 0)],
      let h := (node .night fun h => conf R.WLH_INTIM_RETRY x.1 { h with wlh := { h.wlh with hs := 3, timer := true, retry := x.2 } }).hw;
      h.wlh.timer = true ∧ h.wlh.hs = 3 ∧ h.wlh.pg = true ∧ decide (h.wconf R.WLH_INTIM_RETRY = 1 ∧ h.wlh.retry < 3) = decide (x = (1, 2))) ∧
    (well id).hw.wlh.pg = true ∧ (well id).hw.wlh.off = false := by
  decide +kernel
/-- The Wellhouse as `f` changes it, in Run. -/
def feeding (f : Wlh → Wlh) : State := node .run fun h => { h with wlh := f h.wlh }

/-- Both 48 V feeds lost. -/
def lost (w : Wlh) : Wlh := { w with a := { w.a with ok := false }, b := { w.b with ok := false } }

/-- Both 24 V feeds good, feed `n` on. -/
def fielded (n : Nat) (w : Wlh) : Wlh := { w with f1 := ⟨true, 0⟩, f2 := ⟨true, 0⟩, fsel := n }

theorem witness_FeedsAndFrames :
    (wlhConvert [] [] (feeding id).hw).wlh.auto = false ∧
    (let g := wlhConvert [] [] (feeding fun w => { lost w with auto := true }).hw;
      g.wlh.auto = true ∧ g.wlh.bothLost = true ∧ g.wlh.off = false ∧ 0 ≤ 8 * g.wconf R.WLH_HUV_VMIN) ∧
    (feeding id).ready 1 ∧ (node .run fun h => { h with part := .opr108 }).ready 2 ∧ (node .run fun h => { h with part := .opr108 }).ready 7 ∧
    (feeding id).hw.wlh.auto = false ∧ (feeding id).hw.wlh.bothLost = false ∧ 1 ≠ (feeding id).hw.node.owner ∧
    (feeding fun w => { w with auto := true }).hw.wlh.auto = true ∧ (0 : Nat) = (feeding id).hw.node.owner ∧
    (∀ x ∈ [0, 1], (let h := (node .run fun h => conf R.WLH_FCFG_FEN 1 { h with wlh := { h.wlh with fon := true } }).hw;
      ({ h with wlh := { h.wlh with auto := true, flags := h.wlh.flags ||| 2 ^ 11, foff := decide (x = 1) } } : Hw).fieldAllowed = decide (x = 0))) ∧
    (node .run (conf R.WLH_FCFG_FAUTO 1)).hw.wconf R.WLH_FCFG_FAUTO = 1 ∧
    (∀ n ∈ [0, 1, 2], (feeding (fielded n)).hw.wlh.fsel = n ∧ (feeding (fielded n)).hw.wlh.f1.good = true ∧
        (feeding (fielded n)).hw.wlh.f2.good = true) ∧
    (feeding (fielded 0)).hw.wlh.ftarget = none ∧
    (∀ b ∈ [true, false], (feeding fun w => { w with fbreak := b }).hw.wlh.fbreak = b) ∧
    (∀ x ∈ [0, 1], let h := (node .run fun h => conf R.WLH_FCFG_FRETEN x { h with wlh := fielded 2 h.wlh }).hw;
      h.wconf R.WLH_FCFG_FRETEN = x ∧ h.wlh.fsel = otherField h.preferred ∧ h.wlh.fieldGood h.preferred = true) ∧
    (feeding id).awake := by
  unfold State.ready State.awake
  decide +kernel

theorem witness_FeedsAndTamper :
    (well id).hw.node.state = .night ∧ (feeding id).awake ∧ (feeding id).hw.wlh.bothLost = false ∧ (feeding lost).hw.wlh.bothLost = true ∧
    (∀ f : Fin 2,
      ((feeding lost).hw.wlh.feed f.val).ok = false ∧ ((feeding id).hw.wlh.feed f.val).ok = true ∧
      (let w := (feeding lost).hw.wlh;
       let g : Hw := { (feeding lost).hw with wlh := w.setFeed f.val { w.feed f.val with ever := true, ok := true } };
        ((g.endFault g.node.owner 0x61 f.val).wlh.feed (1 - f.val)).ever = true) ∧
      (let w := (feeding fun w => w.setFeed (1 - f.val) { w.feed (1 - f.val) with ok := false }).hw.wlh;
        (w.feed f.val).ok = true ∧ (w.feed (1 - f.val)).ok = false)) ∧
    tamperAlarms (tamperRuns (feeding id).hw.nightDom.tampCfg (feeding id).hw.nightDom.tampRun [true]) = [] ∧
    (∀ i ∈ [0, 6], tamperAlarms (tamperRuns 0x7F (List.replicate 7 1) ((List.range 7).map fun k => decide (k = i))) = [i]) := by
  unfold State.awake
  decide +kernel

/-- Slot `n` of die 1 with this. -/
def keyed (n : Nat) (k : KeySlot) : State := node .run fun h =>
  { h with vlt := { h.vlt with slots := h.vlt.slots.put .init (64 + n) k } }

/-- What the hold-up check asks holds (R121). -/
def holdup (h : Hw) : Hw :=
  { (h.wr 0 R.WLH_STAT_EVALID 1).wr 0 R.WLH_HUE_E 0xFFFFFF with wlh := { h.wlh with frameAt := h.wlh.frameAt.put none 0 (some 0) } }

theorem witness_VaultCommands :
    (node .run id).awake ∧ (1 : Die).val < (node .run id).hw.dies ∧
    (∀ n ∈ [2, 63], let k := (keyed n ⟨true, false, 1, 0x3F, 1, 1, false, false, 5⟩).hw.keySlot 1 n;
      k.valid = true ∧ k.revoked = false ∧ (∀ e : Fin 6, bit k.engines e.val = true)) ∧
    ((keyed 63 ⟨true, true, 1, 0x3F, 1, 1, false, false, 5⟩).hw.keySlot 1 63).revoked = true ∧ ((node .run id).hw.keySlot 1 63).valid = false ∧
    bit ((keyed 63 ⟨true, false, 1, 0x1F, 1, 1, false, false, 5⟩).hw.keySlot 1 63).engines 5 = false ∧
    (Origin.management 1).isManagement = true ∧ (0xFFFF : BitVec 40).toNat ≤ 0xFFFF ∧ 0xFFFF < (0x10000 : BitVec 40).toNat ∧
        (Origin.host 1).isManagement = false ∧
    (Origin.host 0).isManagement = false ∧ (Origin.management 0).isManagement = true ∧
    (∀ st ∈ [NodeState.run, .degraded, .safe], (node st id).hw.node.state = st ∧ (node st id).awake) ∧ (node .quarantine id).awake ∧
    (node .run fun h => { h with vlt := { h.vlt with producing := true } }).hw.vlt.producing = true ∧ (node .run holdup).hw.attestRefusal = 0 ∧
    (∀ x ∈ [(some 0, false, 2), (none, true, 4)],
      (node .run fun h => holdup { h with vlt := { h.vlt with lastSigned := x.1, entFail := x.2.1 } }).hw.attestRefusal = x.2.2) ∧
    (node .run id).hw.attestRefusal = 3 ∧
    (node .run fun h => { h with
        vlt := { h.vlt with slots := h.vlt.slots.put .init 63 ⟨true, false, 1, 0x3F, 1, 1, false, false, 5⟩ } }).hw.mayRevoke 63 = true ∧
    (node .run id).hw.mayRevoke 2 = false ∧ (1 : Fin 64).val < 2 ∧
    (node .dusk id).awake ∧ (node .dusk id).hw.node.state = .dusk ∧ (1 : Fin 6).val ≠ 2 ∧ (node .run id).hw.nightDom.nightKey = 0 ∧
    (node .run fun h => { h with nightDom := { h.nightDom with nightKey := 1 } }).hw.nightDom.nightKey ≠ 0 ∧
        (node .run id).hw.vlt.producing = false := by
  unfold State.awake
  decide +kernel

/-- A ledger body, and an entry with it. -/
def body0 : LedgerBody := ⟨5, 0, 0, 0, 0xFFFF, 0, 0, 0, 0, 0, 0⟩

def entry0 (n : Nat) : LedgerEntry := ⟨n, 0, 1, false, body0, 0, n⟩

/-- The ledger as `f` changes it, the hold-up energy there. -/
def ledger (f : Ldg → Ldg) : State := node .run fun h => holdup { h with ldg := f h.ldg }

theorem witness_LedgerCommands :
    (ledger id).awake ∧
    (let h := (ledger fun l => { l with staging := [entry0 1] }).hw;
      h.ldg.staging = [entry0 1] ∧ h.ldg.op = none ∧ h.ldg.retry = none ∧ h.mgt.headless = false) ∧
    (ledger id).hw.ldg.staging = [] ∧ (ledger fun l => { l with op := some ⟨0, [1], [], 1⟩ }).hw.ldg.op ≠ none ∧
    (let h := (ledger fun l => { l with retry := some ⟨0, [1], [], 1⟩ }).hw; h.ldg.retry = some ⟨0, [1], [], 1⟩ ∧ h.ldg.op = none) ∧
    (ledger id).hw.ldg.retry = none ∧ (ledger id).hw.ldg.waiting = [] ∧ (ledger id).hw.ldg.forced = [] ∧
    (let h := (ledger fun l => { l with waiting := [body0], staging := (List.range 19).map entry0 }).hw;
      h.ldg.waiting = [body0] ∧ h.ldg.staging.length < 20 ∧ h.ldg.forced = [] ∧ h.ldg.nextLseq % 1024 ≠ 0 ∧ h.mgt.headless = false ∧
      h.holdupOk h.ldg.staging.length = true) ∧
    24 ≤ (ledger fun l => { l with staging := (List.range 24).map entry0 }).hw.ldg.staging.length ∧
    (let h := (ledger fun l => { l with forced := [body0], staging := (List.range 23).map entry0 }).hw;
      h.ldg.forced = [body0] ∧ h.ldg.staging.length < 24 ∧ h.ldg.nextLseq % 1024 ≠ 0 ∧ h.mgt.headless = false) ∧
    (∀ x ∈ [(1, false), (0xFFFFFFFF, true)],
      let h := (ledger fun l => { l with nextLseq := x.1 }).hw;
      let g := h.wr 0 R.LDG_MARKHI_MARK 0;
      let g : Hw := { g with ldg := { h.ldg with mark := h.rd 0 R.LDG_MARKLO_MARK } };
      g.nearFull = x.2 ∧ g.on 0 R.LDG_STAT_NEARFULL = false) ∧
    latestSet (ledgerViews (ledger id).hw) = none ∧
    (latestSet (ledgerViews (ledger fun l => { l with staging := [{ entry0 1 with body := { body0 with kind := 0xA } }] }).hw)).isSome = true := by
  unfold State.awake
  decide +kernel

/-- R561, R563: a key operation in progress at an alarm is aborted, and its slot zeroised. -/
theorem test_tamper_keyUse :
    (let k := keyed 63 ⟨true, false, 1, 0x3F, 1, 1, false, false, 5⟩
     let h := Hw.abortKeyUse { k.hw with vlt := { k.hw.vlt with inUse := [(11, 63)] } }
     h.vlt.inUse = [] ∧ h.on 0 R.VLT_ERR_ABORT = true ∧ (k.hw.keySlot 1 63).key = 5 ∧ (h.keySlot 1 63).key = 0) := by
  decide +kernel
/-- A report, with the flags of R502. -/
def report0 (flags : Nat) : Report := ⟨0, .duskRecord, 0, flags, 0, 0, 0, 0, 0⟩

/-- The recorder of die 1 as `f` changes it, the hold-up energy there. -/
def recorder (f : Rcd → Rcd) : State := node .run fun h => holdup (h.setRcd 1 (f (h.rcd 1)))

theorem witness_RecorderCommands :
    (recorder id).awake ∧ (1 : Die).val < (recorder id).hw.dies ∧ ((recorder id).hw.rcd 1).pending = [] ∧ ((recorder id).hw.rcd 1).input = [] ∧
    (∀ n ∈ [0, 63, 64], let r := (recorder fun r => { r with pending := [report0 0], input := List.replicate n (report0 0) }).hw.rcd 1;
      r.pending = [report0 0] ∧ r.input.length = n) ∧
    (let h := (recorder fun r => { r with input := [report0 0] }).hw;
      (h.rcd 1).input = [report0 0] ∧ bit (report0 0).flags 0 = false ∧ bit (report0 0).flags 2 = false ∧
      (h.rcd 1).slots.get none ((h.rd 1 R.EVR_SEQ_VALUE % 0xFFFFFFFF + 1 - 1) % 4096) = none) ∧
    (∀ x ∈ [(holdup, true), (id, false)],
      let h := (node .run fun h => x.1 (h.setRcd 1 { h.rcd 1 with clrOrigin := some (.host 1) })).hw;
      (h.rcd 1).clrOrigin = some (.host 1) ∧ h.mgt.headless = false ∧ h.ldg.nextLseq % 1024 ≠ 0 ∧ h.requestedWaits = false ∧
      h.holdupOk h.ldg.staging.length = x.2) ∧
    (let h := (ledger fun l => { l with forced := [body0] }).hw; h.requestedWaits = true) ∧
    (node .run fun h => { h with mgt := { h.mgt with headless := true } }).hw.mgt.headless = true ∧
    ((recorder id).hw.rcd 1).clrOrigin = none ∧ uncopiedAll (recorder id).hw = [] ∧
    (let h := (recorder fun r => { r with uncopied := [1] }).hw;
      uncopiedAll h ≠ [] ∧ h.ldg.op = none ∧ h.ldg.retry = none ∧ h.holdupOk h.ldg.staging.length = true ∧ h.mgt.headless = false ∧
          h.node.replay = false) ∧
    (recorder fun r => { r with uncopied := List.range 16 }).hw.pageBytes / 32 ≤
      (uncopiedAll (recorder fun r => { r with uncopied := List.range 16 }).hw).length ∧
    (node .run id).hw.node.state ≠ .dusk ∧
    (let h := (node .dusk id).hw; h.node.state = .dusk ∧ (node .dusk id).awake ∧ h.ldg.staging = [] ∧ h.ldg.op = none ∧ h.mgt.headless = false) ∧
    (let h := (node .dusk fun h => { h with ldg := { h.ldg with staging := [entry0 1], op := some ⟨0, [1], [], 1⟩ } }).hw;
      h.node.state = .dusk ∧ h.ldg.staging ≠ [] ∧ h.ldg.op ≠ none) := by
  unfold State.awake
  decide +kernel

/-- The journal of die 1 in state `st`, as `f` changes it. -/
def journal (st : Nat) (f : Jrn → Jrn) (g : Hw → Hw) : State :=
  node .run fun h => g ((h.wr 1 R.JRN_STAT_STATE st 0).setJrn 1 (f (h.jrn 1)))

theorem witness_JournalCommands :
    (journal 1 id id).awake ∧ (∀ st ∈ [0, 1, 2, 3, 5], (journal st id id).hw.rd 1 R.JRN_STAT_STATE = st ∧
      (journal st id id).hw.journaling 1 = decide (st = 1 ∨ st = 2)) ∧
    (journal 1 id id).hw.on 1 R.JRN_STAT_CKOPEN = false ∧
    (∀ m ∈ [0, 1],
      let h := (journal 1 (fun j => { j with undrained := jrnSize }) fun h => (h.wr 1 R.JRN_CFG_MODE m).wr 1 R.JRN_STAT_CKOPEN 1).hw;
      h.on 1 R.JRN_STAT_CKOPEN = true ∧ h.journaling 1 = true ∧ (h.jrnFlush 1).on 1 R.JRN_CFG_MODE = decide (m = 1) ∧
      jrnSize < ((h.jrnFlush 1).jrn 1).undrained + (h.jrn 1).ckptWords.length + 2) ∧
    (let h := (journal 1 (fun j => { j with inLoss := true }) fun h => h.wr 1 R.JRN_CFG_MODE 0).hw;
      (h.jrn 1).inLoss = true ∧ h.journaling 1 = true ∧ (h.jrn 1).buffer.length + 3 ≤ 2048 ∧ h.on 1 R.JRN_CFG_MODE = false) ∧
    ((journal 1 id id).hw.jrn 1).inLoss = false ∧
    (journal 1 id id).hw.now % 1250000 = 0 ∧ (journal 1 id fun h => { h with now := 1 }).hw.now % 1250000 ≠ 0 ∧
    (let h := (journal 2 (fun j => { j with next := 8192 }) fun h => h.wr 1 R.JRN_CFG_POST 1).hw;
      h.rd 1 R.JRN_STAT_STATE = 2 ∧ (h.jrnClose 1).postWritten 1 = true) ∧
    (let h := (journal 2 id fun h => h.wr 1 R.JRN_CFG_POST 1).hw; h.rd 1 R.JRN_STAT_STATE = 2 ∧ (h.jrnClose 1).postWritten 1 = false) ∧
    (((List.range (journal 1 id id).hw.dies).any fun d => (journal 1 (fun j => { j with ckptDue := true }) id).hw.ckptNow d) = true) ∧
    (((List.range (journal 0 id id).hw.dies).any fun d => (journal 0 id fun h => h.wr 0 R.JRN_STAT_STATE 0).hw.ckptNow d) = false) ∧
    (journal 1 id id).hw.freeze = none ∧ (∀ now ∈ [3, 4],
      let h := (journal 1 id fun h => { h with now := now, freeze := some ⟨1, 0, 0, 0⟩ }).hw;
      h.freeze = some ⟨1, 0, 0, 0⟩ ∧ decide (h.now < (⟨1, 0, 0, 0⟩ : Freeze).cycle + 4) = (now == 3)) := by
  unfold State.awake
  decide +kernel

theorem witness_ReplayCommands :
    (node .run id).awake ∧ (node .run id).hw.node.replay = false ∧
    (∀ st ∈ [5, 6, 7], let s := journal st id fun h => { h with node := { h.node with replay := true } };
      s.hw.node.replay = true ∧ s.hw.rd 1 R.JRN_STAT_STATE = st ∧ s.awake) ∧
    (node .run fun h => h.wr 0 R.JRN_RCTL_STOPEN 1).hw.on 0 R.JRN_RCTL_STOPEN = true ∧
    (node .run fun h => h.wr 0 R.JRN_RCTL_STOPEN 1).hw.replayStopAt ≤ (node .run fun h => h.wr 0 R.JRN_RCTL_STOPEN 1).hw.now ∧
    (node .run fun h => h.wr 0 R.JRN_RSTOPLO_VALUE 1).hw.now < (node .run fun h => h.wr 0 R.JRN_RSTOPLO_VALUE 1).hw.replayStopAt ∧
    (node .run id).hw.on 0 R.JRN_RCTL_STOPEN = false := by
  unfold State.awake
  decide +kernel

/-- An update open in USTATE `st`, `f` changing the update engine, the hold-up energy there. -/
def updating (st : Nat) (f : Mgt → Mgt) : State := node .run fun h =>
  holdup { h.wr 0 R.MGT_USTAT_USTATE st with mgt := f { h.mgt with isOpen := true } }

/-- The conditions of a judgement of 0 rest on signatures that `Config` leaves open. -/
theorem witness_UpdateCommands :
    (updating 1 id).awake ∧ (node .quarantine id).hw.loaderState = false ∧ (updating 1 id).hw.loaderState = true ∧
    (updating 1 id).hw.mgt.isOpen = true ∧ (node .run id).hw.mgt.isOpen = false ∧ (1 : Die).val < (updating 1 id).hw.dies ∧
    (∀ st ∈ [1, 3, 4], (updating st id).hw.ustate = st) ∧
    (updating 1 fun m => { m with stagedLen := 2 ^ 24 }).hw.stageFull = true ∧ (updating 1 id).hw.stageFull = false ∧
    (((updating 1 id).hw.wr 0 R.MGT_UCMD_CMD 2).wr 0 R.MGT_USTAT_USTATE 2).judgeUpdate ≠ 0 ∧
    (updating 3 fun m => { m with norDone := true, readbackFails := 1 }).hw.eraseHeader.mgt.readbackFails = 1 ∧
    (let g := (updating 3 fun m => { m with norDone := true }).hw.eraseHeader;
      g.mgt.norDone = true ∧ g.holdupOk g.ldg.staging.length = true ∧ g.mgt.readbackFails = 0) ∧
    (node .run fun h => { h.wr 0 R.MGT_USTAT_USTATE 3 with mgt := { h.mgt with isOpen := true } }).hw.eraseHeader.mgt.norDone = false ∧
    (∀ x ∈ [([], some 1), ([1], some 0), ([1, 0], none)], (updating 4 fun m => { m with handed := x.1 }).hw.nextHandover = x.2) ∧
    (∀ w ∈ [0, 1], let h := (node .run fun h => holdup (((h.wr 0 R.NOD_DAWN_SRC 3).wr 0 R.NOD_DAWN_FALLBACK 1).wr 0 R.MGT_CFG_RBWB w)).hw;
      h.loaderState = true ∧ h.node.replay = false ∧ h.rd 0 R.NOD_DAWN_FALLBACK ≠ 0 ∧ h.rd 0 R.NOD_DAWN_SRC = 3 ∧
      h.on 0 R.MGT_CFG_RBWB = decide (w = 1) ∧ h.mgt.isOpen = false ∧
      (let g := (h.norWrite 0 (List.replicate 512 0xFF)).norWrite 0x200 []; g.holdupOk g.ldg.staging.length = true)) := by
  unfold State.awake
  decide +kernel

/-- R576: the handover command to D1 is the start of its blackout; an abort ends it (R583). -/
theorem test_blackout :
    (let h := ((updating 4 id).hw.wr 1 R.MGT_STAT_PAIR 1).showHandover
     h.rd 1 R.MGT_STAT_PAIR = 3 ∧ h.rd 0 R.MGT_USTAT_HODIE = 1 ∧ (updateAbort h).rd 1 R.MGT_STAT_PAIR = 1) := by
  decide +kernel
end Sys2Proof.Tests
end

section
/-!
PROOFS. Two single rules of the node: sleep in Safe (R37), and the bridge block on the dies without bridge pins (R34).
-/

namespace Sys2Proof.Machine

/-! ## Sleep in Safe (R37) -/

/-- The command accepted in this core cycle is among the others that a further command of the cycle meets (R624). -/
theorem mem_cmdOthers_of_accepted {h : Hw} {c : Nat} (same : Nat) (lo : 1 ≤ c) (hi : c < 6) (now : h.cmdNow = true)
    (acc : h.rd 0 R.NOD_CMD_CMD = c) : c ∈ h.cmdOthers same := by
  unfold Hw.cmdOthers
  simp [List.mem_filter, lo, hi, now, acc]

/-- A command of the cycle that goes before another in the order of R624 and has a transition overrules it. -/
theorem cmdOverruled_of_before {h : Hw} {c cmd same : Nat} (m : c ∈ h.cmdOthers same) (rank : cmdRank c < cmdRank cmd)
    (tr : h.cmdTransition c = true) : h.cmdOverruled same cmd = true := by
  have before : (h.cmdOthers same).any (fun c => decide (cmdRank c < cmdRank cmd) && h.cmdTransition c) = true :=
    List.any_eq_true.mpr ⟨c, m, by simp [rank, tr]⟩
  unfold Hw.cmdOverruled
  rw [before, Bool.or_true]

/-- A violation record leaves the core cycle and the commands accepted in it. -/
theorem violation_cmdNow (h : Hw) (d : Nat) (o : Origin) (a : Nat) : (h.violation d o a).cmdNow = h.cmdNow := by
  obtain ⟨_, _, e⟩ := violation_only h d o a
  rw [e]; rfl

theorem exec_nodCmdSleep (die : Die) (o : Origin) (same : BitVec 7) (s : State) :
    exec (.nodCmdSleep die o same) s = s.onReg die o 0xC (nodCommand 3 die.val o same.toNat) := rfl

/-- A sleep that its origin may write is refused in Safe: without an accepted command Safe has no transition for it, and an
enter-Safe accepted in the cycle overrules it. -/
theorem nodCommand_sleep_safe {h : Hw} (d same : Nat) (o : Origin) (safe : h.node.state = .safe) (ok : h.cmdAllowed o 3 = true)
    (c : h.cmdNow = false ∨ (h.rd 0 R.NOD_CMD_CMD = 1 ∧ h.cmdTransition 1 = true)) :
    nodCommand 3 d o same h = h.refuseCmd 3 o := by
  cases now : h.cmdNow with
  | false => exact nc_ref (by decide) ok (by rw [now]; rfl) (.inl (cmdTransition_safe h safe now))
  | true =>
    obtain ⟨acc, tr⟩ := c.resolve_left (by rw [now]; decide)
    have overruled := cmdOverruled_of_before (cmd := 3) (mem_cmdOthers_of_accepted same (by decide) (by decide) now acc) (by decide) tr
    exact nc_ref (by decide) ok (by rw [now, acc]; rfl) (.inr overruled)

/-- A sleep that its origin may not write is in Safe both an access violation and a refused command. -/
theorem nodCommand_sleep_safe_denied {h : Hw} (d same : Nat) (o : Origin) (safe : h.node.state = .safe)
    (no : h.cmdAllowed o 3 = false) (now : h.cmdNow = false) :
    nodCommand 3 d o same h = (h.violation d o 0xC).refuseCmd 3 o := by
  have noTr : (h.violation d o 0xC).cmdTransition 3 = false :=
    cmdTransition_safe _ (by rw [violation_node, safe]) (by rw [violation_cmdNow, now])
  rw [nc_viol (by decide) no, noTr, if_neg Bool.false_ne_true]

/-- Settles O12: in each case the sleep ends in its records, which leave the node state. -/
theorem sleepInSafeIsRefused : Obligations.SleepInSafeIsRefused := by
  intro s die o same r safe h
  refine ⟨fun ok c => ⟨?_, ?_⟩, fun no now => ⟨?_, ?_⟩⟩
  · exact gives_of_reg (exec_nodCmdSleep die o same s) r (nodCommand_sleep_safe die.val same.toNat o safe ok c)
  · dsimp only
    rw [refuseCmd_node, safe]
  · exact gives_of_reg (exec_nodCmdSleep die o same s) r (nodCommand_sleep_safe_denied die.val same.toNat o safe no now)
  · dsimp only
    rw [refuseCmd_node, violation_node, safe]

/-! ## The bridge block (R34) -/

/-- The blocks BRG and WLH are not on the dies from D2 on: a read there answers 0 and does nothing. -/
theorem readReg_beyondD1 {d off : Nat} (h : Hw) (die : 2 ≤ d) (block : off / 0x10000 = 9 ∨ off / 0x10000 = 10) :
    readReg d off h = (0, h) := if_pos ⟨block, die⟩

/-- The blocks BRG and WLH are not on the dies from D2 on: a write there is answered as done and does nothing. -/
theorem writeReg_beyondD1 {d off : Nat} (w : Nat) (o : Origin) (x : Hw × SMap Byte) (die : 2 ≤ d)
    (block : off / 0x10000 = 9 ∨ off / 0x10000 = 10) : writeReg d off w o x = (0, x) := if_pos ⟨block, die⟩

/-- Settles O18: an offset of the range is one of block 9, BRG. -/
theorem noBridgeBlockBeyondD1 : Obligations.NoBridgeBlockBeyondD1 := by
  intro d off w o x die lo hi
  have brg : off / 0x10000 = 9 := by omega
  exact ⟨readReg_beyondD1 x.1 die (.inl brg), writeReg_beyondD1 w o x die (.inl brg)⟩

end Sys2Proof.Machine
end

section
/-!
PROOFS. Two single rules of the test access port: the IDCODE of a die (R75), and the reserved instruction codes (R73).
-/

namespace Sys2Proof.Machine

/-! ## IDCODE (R75) -/

theorem exec_idcode (die : Die) (s : State) : exec (.idcode die) s = s.onDie die fun h => h.loadIr die.val 0x02 id := rfl

/-- The instruction register of a die holds the code just loaded. -/
theorem loadIr_id_ir (h : Hw) (d ir : Nat) : ((h.loadIr d ir id).tap d).ir = ir :=
  congrArg Tap.ir (loadIr_tap h d ir id)

/-- A die that holds IDCODE has its identification as its data register. -/
theorem tapData_of_idcode {h : Hw} {d : Nat} (ir : (h.tap d).ir = 0x02) :
    h.tapData d = (List.range 32).map fun k => bit 0x2B1015CB k := by
  rw [tapData_of h d _ rfl, if_neg (by simp [ir]), if_pos ir]

/-- Settles O13: the code of IDCODE stands in the instruction register and selects the identification. -/
theorem idCode : Obligations.IdCode := fun s die r =>
  comp_die (exec_idcode die s) r (tapData_of_idcode (loadIr_id_ir s.hw die.val 0x02))

/-! ## Reserved instruction codes (R73) -/

/-- The codes of R72 and R74 but that of BYPASS. -/
def actingCodes : List Nat := [0x00, 0x01, 0x02, 0x03, 0x04, 0x20, 0x21]

/-- BYPASS may be loaded with its own code and with every reserved one: that code goes to the instruction register as it is. -/
theorem exec_bypass_of_not_acting {code : BitVec 6} (n : code.toNat ∉ actingCodes) (die : Die) (s : State) :
    exec (.bypass die code) s = s.onDie die fun h => h.loadIr die.val code.toNat id := by
  have own : ¬(code.toNat ≤ 4 ∨ code.toNat = 0x20 ∨ code.toNat = 0x21) := by
    simp only [actingCodes, List.mem_cons, List.not_mem_nil, or_false] at n
    omega
  rw [exec_byp, if_neg own]

/-- A code that does not act puts no instruction in force, connects no debug port and clears the bypass bit. -/
theorem loadIr_tap_of_not_acting {ir : Nat} (n : ir ∉ actingCodes) (h : Hw) (d : Nat) :
    (h.loadIr d ir id).tap d = { h.tap d with ir := ir, inForce := false, mdbg := false, bypass := false } := by
  simp only [actingCodes, List.mem_cons, List.not_mem_nil, or_false, not_or] at n
  obtain ⟨extest, -, -, highz, clamp, -, mdbg⟩ := n
  simp [loadIr_tap, extest, highz, clamp, mdbg]

/-- Under a code that does not act a die's data register is the cleared bypass bit. -/
theorem loadIr_tapData_of_not_acting {ir : Nat} (n : ir ∉ actingCodes) (h : Hw) (d : Nat) :
    (h.loadIr d ir id).tapData d = [false] := by
  rw [tapData_of _ d _ (loadIr_tap_of_not_acting n h d)]
  simp only [actingCodes, List.mem_cons, List.not_mem_nil, or_false, not_or] at n
  obtain ⟨extest, sample, idcode, -, -, rply, mdbg⟩ := n
  simp [extest, sample, idcode, rply, mdbg]

/-- A code that does not act leaves all but the test ports as the code of BYPASS does. -/
theorem loadIr_same_of_not_acting {ir : Nat} (n : ir ∉ actingCodes) (h : Hw) (d : Nat) :
    { h.loadIr d ir id with taps := (h.loadIr d 0x3F id).taps } = h.loadIr d 0x3F id := by
  refine loadIr_same h d ir id ?_
  have tap := loadIr_tap_of_not_acting n h d
  rw [loadIr_tap] at tap
  exact congrArg Tap.inForce tap

/-- Settles O14: neither a reserved code nor that of BYPASS is an acting one, so that what holds of every code that does not act holds
of both. -/
theorem reservedCodesBypass : Obligations.ReservedCodesBypass := by
  intro s die code r unlisted
  have listed : actingCodes ⊆ [0x00, 0x01, 0x02, 0x03, 0x04, 0x3F, 0x20, 0x21] := by decide
  have reserved : code.toNat ∉ actingCodes := fun m => unlisted (listed m)
  have bypass : 0x3F ∉ actingCodes := by decide
  have data := loadIr_tapData_of_not_acting reserved s.hw die.val
  refine comp_die (exec_bypass_of_not_acting reserved die s) r (byp_of r ⟨?_, ?_, ?_, data⟩)
  · exact congrArg (fun h => { s with hw := h }) (loadIr_same_of_not_acting reserved s.hw die.val)
  · dsimp only
    rw [loadIr_tap_of_not_acting reserved, loadIr_tap_of_not_acting bypass]
  · exact data.trans (loadIr_tapData_of_not_acting bypass s.hw die.val).symm

end Sys2Proof.Machine
end

section
/-!
PROOFS. One rule of the bridges: POP of the posted write fault log (R435).
-/

namespace Sys2Proof.Machine

/-! ## What the registers of the fault log read (R434) -/

/-- A register of the block BRG reads what the block's view gives, where that does not turn on the stored word. -/
theorem readReg_of_viewBridge {d off v : Nat} {h : Hw} (die : d < 2) (listed : (findReg off).isSome = true)
    (block : off / 0x10000 = 9) (view : ∀ w, h.viewBridge d off w = v) : (readReg d off h).1 = v := by
  rw [view_pw d off h die listed block, latch_pw d off h block, view]

/-- BRG_PWADRLO to BRG_PWTHI read the oldest entry of the fault log. -/
theorem readReg_oldestFault {d : Nat} {h : Hw} {f : PwFault} {rest : List PwFault} (die : d < 2)
    (log : (h.host d).log = f :: rest) :
    (readReg d 0x90014 h).1 = f.addr % 2 ^ 32 ∧ (readReg d 0x90018 h).1 = f.addr / 2 ^ 32 % 2 ^ 32 ∧
      (readReg d 0x9001C h).1 = f.port % 16 + f.code * 2 ^ 8 + f.reqid * 2 ^ 16 ∧
      (readReg d 0x90020 h).1 = f.ftime % 2 ^ 32 ∧ (readReg d 0x90024 h).1 = f.ftime / 2 ^ 32 % 2 ^ 32 := by
  have present : ¬2 ≤ d := Nat.not_le.mpr die
  refine ⟨?_, ?_, ?_, ?_, ?_⟩ <;> refine readReg_of_viewBridge die (by decide) rfl fun w => ?_
  all_goals simp [Hw.viewBridge, present, log, low]

/-! ## POP (R435) -/

/-- A write of BRG_PWST acts by its bit POP alone. -/
theorem writeOpr_pwst (d w : Nat) (o : Origin) (x : Hw × SMap Byte) :
    writeOpr d 0x90010 w o x = if bit w 8 then (popFault d x.1, x.2) else x := by
  have arm : writeOpr d 0x90010 w o x = (if bit w 8 then popFault d x.1 else x.1, x.2) := by simp [writeOpr]
  rw [arm]
  split <;> rfl

/-- A POP reaches nothing but the host ports. -/
theorem popFault_hosts_only (d : Nat) (h : Hw) : { popFault d h with hosts := h.hosts } = h := by
  unfold popFault
  split <;> rfl

/-- A POP of an empty log leaves every host port as it reads. -/
theorem popFault_host_of_empty {d : Nat} {h : Hw} (empty : (h.host d).log = []) (e : Nat) : (popFault d h).host e = h.host e := by
  have same : { h.host d with log := (h.host d).log.drop 1 } = h.host d := by rw [empty, List.drop_nil, ← empty]
  unfold popFault
  split
  · rw [same]
    unfold Hw.setHost Hw.host
    rw [SMap.get_put]
    split
    next own => rw [own]
    next => rfl
  · rfl

theorem exec_pop (die : Die) (s : State) : exec (.pop die) s = s.onDie die (popFault die.val) := rfl

/-- Settles O16: a POP drops the head of the log, and the registers read the head of what is left. -/
theorem popRemovesTheOldestFault : Obligations.PopRemovesTheOldestFault := by
  refine ⟨writeOpr_pwst, fun s die r lt => ⟨fun empty => ?_, fun e f rest log => ?_, fun e log => ?_⟩⟩
  · refine complete_of (exec_pop die s) r ⟨popFault_host_of_empty empty, ?_⟩
    exact congrArg (fun h => { s with hw := h }) (popFault_hosts_only die.val s.hw)
  · have left : ((popFault die.val s.hw).host die.val).log = f :: rest := by rw [host_pop s.hw die.val lt, log]; rfl
    exact complete_of (exec_pop die s) r ⟨left, readReg_oldestFault lt left⟩
  · exact complete_of (exec_pop die s) r (by rw [host_pop s.hw die.val lt, log]; rfl)

end Sys2Proof.Machine
end

section
/-!
PROOFS. One rule of the update: a START while an update is open (R582).
-/

namespace Sys2Proof.Machine

/-- A node in a state that takes updates is out of Night. -/
theorem awake_of_loaderState {s : State} (takes : s.hw.loaderState = true) : s.awake := by
  intro night
  have refuses : s.hw.loaderState = false := by rw [Hw.loaderState, night]; decide
  exact Bool.false_ne_true (refuses.symm.trans takes)

theorem exec_updateStart (s : State) : exec .updateStart s = s.on updateStart := rfl

/-- Settles O17: a START while an update is open ends in its writes of MGT_UCMD and of the code, and a field write leaves the update
engine and the ledger. -/
theorem openUpdateRefusesStart : Obligations.OpenUpdateRefusesStart := by
  intro s takes isOpen
  refine complete_of_awake (exec_updateStart s) (awake_of_loaderState takes) ?_
  rw [start_busy s.hw takes isOpen]
  exact ⟨rd_wr _ 0 R.MGT_USTAT_CODE 0x0C 0 0 rfl, by simp only [wr_frame], by simp only [wr_frame]⟩

end Sys2Proof.Machine
end

section
/-!
PROOFS. The whole machine: one step, and the Process Image RAM's form.
-/

namespace Sys2Proof.Machine

/-- Settles O1: `step` reads the front of the queue. -/
theorem stepRunsTheFrontCommand : Obligations.StepRunsTheFrontCommand := by
  intro s c rest front
  unfold step
  rw [front]

/-- Settles O7: a RAM that lists nothing lists it in order. -/
theorem processImageCanonicalAtReset : Obligations.ProcessImageCanonicalAtReset := SMap.wf_empty 0

/-- The core cycle that passes on an empty queue keeps the canonical form. -/
theorem idle_wf {s : State} (w : Memory.wf s.pir = true) : Memory.wf s.idle.pir = true := tick_wf (s.hw, s.pir) w

/-- Settles O6: a step is one core cycle or a command, and each keeps the canonical form. -/
theorem processImageStaysCanonical : Obligations.ProcessImageStaysCanonical := by
  intro s t next w
  unfold step at next
  split at next
  · exact Host.Outcome.next.inj next ▸ idle_wf w
  · exact exec_wf _ _ t next w

end Sys2Proof.Machine
end

section
/-!
PROOFS. Night (R36, R452): nothing but the release of power-on reset reaches the hub dies.
-/

namespace Sys2Proof.Machine

/-! ## Operations that act on the supply alone -/

/-- But for the Wellhouse, the always-powered domain and the supply of open values, `g` is `h`. -/
def Hw.onlySupply (g h : Hw) : Prop := g = { h with wlh := g.wlh, nightDom := g.nightDom, freeCtr := g.freeCtr }

theorem Hw.onlySupply.trans {f g h : Hw} (a : f.onlySupply g) (b : g.onlySupply h) : f.onlySupply h :=
  Eq.trans a (congrArg (fun x : Hw => { x with wlh := f.wlh, nightDom := f.nightDom, freeCtr := f.freeCtr }) b)

theorem Hw.onlySupply.night {g h : Hw} (a : g.onlySupply h) (n : h.node.state = .night) : g.node.state = .night := by
  rw [Hw.onlySupply] at a
  rw [a, n]

theorem Hw.onlySupply.ite {c : Prop} [Decidable c] {a b h : Hw} (x : a.onlySupply h) (y : b.onlySupply h) :
    (if c then a else b).onlySupply h := by
  split
  · exact x
  · exact y

theorem onlySupply_self (h : Hw) : h.onlySupply h := rfl

theorem onlySupply_wlh (h : Hw) (w : Wlh) : ({ h with wlh := w } : Hw).onlySupply h := rfl

theorem onlySupply_draw (h : Hw) : h.draw.2.onlySupply h := rfl

theorem onlySupply_nightDom (h : Hw) (x : Night) : ({ h with nightDom := x } : Hw).onlySupply h := rfl

/-! ## What they do in Night -/

section
variable {h : Hw} (n : h.node.state = .night)
include n

/-- What the Wellhouse tells the hub dies finds nothing in Night. -/
theorem onHub_onlySupply (f : Hw → Hw) : (h.onHub f).onlySupply h := by
  rw [hub_night h f n]
  exact onlySupply_self h

theorem wlhFault_onlySupply (code unit : Nat) : (h.wlhFault code unit).onlySupply h := onHub_onlySupply n _

theorem powerDrop_onlySupply : h.powerDrop.onlySupply h := by
  have stays : h.powerDrop = { h with wlh := { h.wlh with pg := false, store := false } } := if_pos n
  rw [stays]
  exact onlySupply_wlh ..

theorem checkFieldLoss_onlySupply : h.checkFieldLoss.onlySupply h :=
  .ite (.trans (wlhFault_onlySupply (h := ({ h with wlh.noFeed := true } : Hw).wlhFlag 8) n _ _) (onlySupply_wlh ..)) (onlySupply_self h)

theorem fieldOn_onlySupply (f : Nat) : (h.fieldOn f).onlySupply h := by
  unfold Hw.fieldOn
  extract_lets switch w g x k
  have on : g.onlySupply h := onlySupply_wlh h _
  have turned : k.onlySupply h := .ite (.trans (onlySupply_wlh g _) on) on
  exact (onHub_onlySupply (turned.night n) _).trans turned

theorem fieldSelect_onlySupply : h.fieldSelect.onlySupply h := by
  unfold Hw.fieldSelect
  split
  · exact checkFieldLoss_onlySupply n
  extract_lets pick
  clear_value pick
  split
  · exact fieldOn_onlySupply n _
  · exact checkFieldLoss_onlySupply n

theorem bbmEnd_onlySupply : (if h.wlh.fbreak then ({ h with wlh.fbreak := false } : Hw).fieldSelect else h).onlySupply h :=
  .ite (.trans (fieldSelect_onlySupply (h := { h with wlh.fbreak := false }) n) (onlySupply_wlh ..)) (onlySupply_self h)

theorem fieldBad_onlySupply (both : Bool) : (fieldBad both h).onlySupply h := by
  unfold fieldBad
  extract_lets f w
  exact .ite (onlySupply_self h) (.ite
    (.trans (wlhFault_onlySupply (h := { h with wlh := { w with ftarget := some (otherField f) } }) n _ _) (onlySupply_wlh ..))
    (.trans (checkFieldLoss_onlySupply (h := { h with wlh := w }) n) (onlySupply_wlh ..)))

theorem fieldOvercurrent_onlySupply : (fieldOvercurrent h).onlySupply h := by
  unfold fieldOvercurrent
  extract_lets f g
  exact .ite (onlySupply_self h)
    (.trans (wlhFault_onlySupply (h := ({ g with wlh.foclat := true } : Hw).wlhFlag 9) n _ _) (onlySupply_wlh h _))

theorem holdupFault_onlySupply (reached : Bool) : (holdupFault reached h).onlySupply h :=
  .ite (onlySupply_wlh ..) (.ite (.trans (wlhFault_onlySupply (h := h.wlhFlag 10) n _ _) (onlySupply_wlh ..)) (onlySupply_self h))

theorem faultTimerExpiry_onlySupply : (faultTimerExpiry h).onlySupply h := by
  unfold faultTimerExpiry
  extract_lets again w g
  have off : g.onlySupply h := onlySupply_wlh ..
  exact .ite (.ite ((powerDrop_onlySupply (off.night n)).trans off) off) (onlySupply_self h)

theorem feedPresent_onlySupply (f : Nat) : (feedPresent f h).onlySupply h := by
  unfold feedPresent
  extract_lets both x g
  have present : g.onlySupply h := onlySupply_wlh ..
  exact (onHub_onlySupply (present.night n) _).trans present

theorem feedLost_onlySupply (f : Nat) (other : Bool) : (feedLost f other h).onlySupply h := by
  unfold feedLost
  extract_lets g x k
  have seen : g.onlySupply h := .ite (feedPresent_onlySupply n _) (onlySupply_self h)
  have lost : k.onlySupply h := .trans (onlySupply_wlh g _) seen
  exact .ite (.ite ((wlhFault_onlySupply (lost.night n) _ _).trans lost) ((onHub_onlySupply (lost.night n) _).trans lost))
    (onlySupply_self h)

end

theorem fitSigned_onlySupply (h : Hw) (w : Nat) (v : Int) : (h.fitSigned w v).2.onlySupply h := by
  unfold Hw.fitSigned
  split
  · exact onlySupply_self h
  · exact onlySupply_draw h

theorem fitAll_onlySupply (w : Nat) (vs : List Int) (h : Hw) : (Hw.fitAll w vs h).2.onlySupply h := by
  induction vs generalizing h with
  | nil => exact onlySupply_self h
  | cons v vs ih => exact (ih _).trans (fitSigned_onlySupply h w v)

/-- A field feed's voltage changes the Wellhouse alone. -/
theorem fieldConvert_onlySupply (h : Hw) (f v : Nat) : (h.fieldConvert f v).onlySupply h := onlySupply_wlh h _

/-- A conversion takes down its sample and lets the field feeds follow it. -/
theorem wlhConvert_onlySupply {h : Hw} (n : h.node.state = .night) (volts : List Nat) (shunts : List Int) :
    (wlhConvert volts shunts h).onlySupply h := by
  unfold wlhConvert
  extract_lets v ohms amps watts totals is ps e
  have fits : ps.2.onlySupply h := (fitAll_onlySupply 32 watts is.2).trans (fitAll_onlySupply 16 amps h)
  clear_value ps
  have noted : (ps.2.noteSample totals ((List.range 7).map v) is.1 ps.1 e).onlySupply h := (onlySupply_wlh ps.2 _).trans fits
  generalize ps.2.noteSample totals ((List.range 7).map v) is.1 ps.1 e = g at noted ⊢
  have seen : ((g.fieldConvert 1 (v 4)).fieldConvert 2 (v 5)).onlySupply h :=
    (fieldConvert_onlySupply ..).trans ((fieldConvert_onlySupply ..).trans noted)
  exact (fieldSelect_onlySupply (seen.night n)).trans seen

theorem wellhouseConversion_onlySupply {h : Hw} (n : h.node.state = .night) (volts : List Nat) (shunts : List Int) :
    (wellhouseConversion volts shunts h).onlySupply h := by
  have conv := wlhConvert_onlySupply n volts shunts
  unfold wellhouseConversion
  extract_lets g w k
  have off : (if k.node.state = .night then k else k.enterNight) = k := if_pos (conv.night n)
  rw [off]
  exact .ite (.trans (onlySupply_wlh g _) conv) conv

/-! ## Tamper samples -/

theorem drawNightKey_onlySupply (h : Hw) : h.drawNightKey.onlySupply h :=
  .ite (onlySupply_nightDom ..) (.trans (onlySupply_nightDom h.draw.2 _) (onlySupply_draw h))

/-- An alarm writes the always-powered domain alone. -/
theorem tamperEntry_onlySupply (h : Hw) (s : Nat) : (h.tamperEntry s).onlySupply h :=
  .trans (drawNightKey_onlySupply { h with nightDom := _ }) (onlySupply_nightDom h _)

theorem tamperSample_onlySupply {h : Hw} (n : h.node.state = .night) (holds : List Bool) : (tamperSample holds h).onlySupply h := by
  unfold tamperSample
  extract_lets runs now x g
  have sampled : g.onlySupply h :=
    .trans (onHub_onlySupply (h := { h with nightDom := { h.nightDom with tampRun := runs } }) n _) (onlySupply_nightDom h _)
  refine each_keeps (Hw.onlySupply · h) _ _ (fun s g e => ?_) _ sampled
  have entered : (g.tamperEntry s).onlySupply h := (tamperEntry_onlySupply g s).trans e
  exact (onHub_onlySupply (entered.night n) _).trans entered

/-! ## Every command -/

/-- What a command that acts in Night leaves, where its operation acts on the supply alone. -/
theorem onAny_onlySupply {s t : State} {g : Hw} (e : (.next { s with hw := g } : Host.Outcome State Fault Refusal) = .next t)
    (k : g.onlySupply s.hw) :
    t = { s with hw := { s.hw with wlh := t.hw.wlh, nightDom := t.hw.nightDom, freeCtr := t.hw.freeCtr } } := by
  obtain rfl := Host.Outcome.next.inj e
  exact congrArg (fun g => { s with hw := g }) k

/-- A command that does not reach the node in Night leaves all of the state. -/
theorem exec_night {c : Instr} {s t : State} (e : exec c s = .next t) (n : s.hw.node.state = .night) (a : actsInNight c = false) : t = s := by
  obtain ⟨f, -, shape⟩ := exec_shape c
  rw [shape] at e
  exact (shaped_next e).resolve_right fun x => x.1 ⟨a, n⟩

/-- Settles O9: of the commands that act in Night, each but the release acts on the supply alone. -/
theorem nightIsolatesTheHubs : Obligations.NightIsolatesTheHubs := by
  intro c s t e n release
  by_cases a : actsInNight c = false
  · obtain rfl := exec_night e n a
    rfl
  cases c with
  | powerOnResetRelease straps slot void ticks => exact absurd rfl (release straps slot void ticks)
  | wellhouseConversion volts shunts => exact onAny_onlySupply e (wellhouseConversion_onlySupply n _ _)
  | refclkQualified => exact onAny_onlySupply e (onlySupply_wlh ..)
  | inputWindowEnter => exact onAny_onlySupply e (.ite (onlySupply_self _) (onlySupply_wlh ..))
  | inputWindowLeave above => exact onAny_onlySupply e (.ite (onlySupply_self _) (onlySupply_wlh ..))
  | insertionDelayEnd => exact onAny_onlySupply e (.ite (onlySupply_wlh ..) (onlySupply_self _))
  | hotswapOn => exact onAny_onlySupply e (.ite (onlySupply_wlh ..) (onlySupply_self _))
  | powerGoodQualified timerStart => exact onAny_onlySupply e (.ite (onlySupply_wlh ..) (onlySupply_self _))
  | faultTimerExpiry => exact onAny_onlySupply e (faultTimerExpiry_onlySupply n)
  | faultTimerClear => exact onAny_onlySupply e (.ite (onlySupply_self _) (onlySupply_wlh ..))
  | fastTrip => exact onAny_onlySupply e (.ite (onlySupply_wlh ..) (onlySupply_self _))
  | fastTripHoldEnd => exact onAny_onlySupply e (onlySupply_wlh ..)
  | retryWaitEnd => exact onAny_onlySupply e (.ite (.ite (onlySupply_wlh ..) (onlySupply_wlh ..)) (onlySupply_self _))
  | retryCountClear => exact onAny_onlySupply e (.ite (onlySupply_wlh ..) (onlySupply_self _))
  | powerGoodDrop => exact onAny_onlySupply e (.ite (powerDrop_onlySupply n) (onlySupply_self _))
  | overvoltageEvent => exact onAny_onlySupply e (.ite (onlySupply_wlh ..) (onlySupply_self _))
  | reverseTurnOff feed => exact onAny_onlySupply e (onlySupply_wlh ..)
  | idealDiodeResume feed => exact onAny_onlySupply e (onlySupply_wlh ..)
  | feedPresent feed => exact onAny_onlySupply e (feedPresent_onlySupply n _)
  | feedLost feed other => exact onAny_onlySupply e (feedLost_onlySupply n _ _)
  | fieldFeedBad both => exact onAny_onlySupply e (fieldBad_onlySupply n both)
  | bbmEnd => exact onAny_onlySupply e (bbmEnd_onlySupply n)
  | fieldReturn => exact onAny_onlySupply e (.ite (onlySupply_wlh ..) (onlySupply_self _))
  | fieldOvercurrent => exact onAny_onlySupply e (fieldOvercurrent_onlySupply n)
  | autoEntry frame => exact onAny_onlySupply e (.ite (onlySupply_wlh ..) (.ite (onlySupply_wlh ..) (onlySupply_wlh ..)))
  | holdupFault reached => exact onAny_onlySupply e (holdupFault_onlySupply n reached)
  | tamperSample holds => exact onAny_onlySupply e (tamperSample_onlySupply n holds)
  | currentLimitActive => exact onAny_onlySupply e (.ite (onlySupply_wlh ..) (onlySupply_self _))
  | storeFetConduct => exact onAny_onlySupply e (.ite (onlySupply_wlh ..) (onlySupply_self _))
  | storeFetOff => exact onAny_onlySupply e (onlySupply_wlh ..)
  | _ => exact absurd rfl a

end Sys2Proof.Machine
end

section
/-!
PROOFS. What outlasts power (R36, R68, R96, R488, R539): a command that programs a lasting memory leaves the others, and every other
command leaves all of them.
-/

namespace Sys2Proof.Machine

/-! ## What lasts, but for one memory -/

/-- What lasts, but for the one-time programmable memory. -/
def Lasting.exceptOtp (l : Lasting) : Part × Grade × SMap Byte × SMap Byte := (l.part, l.grade, l.logNvm, l.nor)

/-- What lasts, but for the NOR memory. -/
def Lasting.exceptNor (l : Lasting) : Part × Grade × Otp × SMap Byte := (l.part, l.grade, l.otp, l.logNvm)

/-- What lasts, but for the log memory. -/
def Lasting.exceptLog (l : Lasting) : Part × Grade × Otp × SMap Byte := (l.part, l.grade, l.otp, l.nor)

@[simp] theorem exceptOtp_otp (h : Hw) (o : Otp) : Lasting.exceptOtp ⟨h.part, h.grade, o, h.logNvm, h.nor⟩ = h.lasting.exceptOtp := rfl

@[simp] theorem exceptOtp_ite (c : Prop) [Decidable c] (a b : Lasting) :
    (if c then a else b).exceptOtp = if c then a.exceptOtp else b.exceptOtp := apply_ite ..

@[simp] theorem exceptNor_ite (c : Prop) [Decidable c] (a b : Lasting) :
    (if c then a else b).exceptNor = if c then a.exceptNor else b.exceptNor := apply_ite ..

@[simp] theorem exceptLog_ite (c : Prop) [Decidable c] (a b : Lasting) :
    (if c then a else b).exceptLog = if c then a.exceptLog else b.exceptLog := apply_ite ..

@[simp] theorem norWrite_exceptNor (h : Hw) (o : Nat) (bs : List Byte) : (h.norWrite o bs).lasting.exceptNor = h.lasting.exceptNor := rfl

@[simp] theorem logWrite_exceptLog (h : Hw) (o : Nat) (bs : List Byte) : (h.logWrite o bs).lasting.exceptLog = h.lasting.exceptLog := rfl

/-! ## The one-time programmable memory: the first start, the end of Dawn, the adoption of a firmware -/

@[simp] theorem firstStart_exceptOtp (h : Hw) : h.firstStart.lasting.exceptOtp = h.lasting.exceptOtp := by
  unfold Hw.firstStart
  split
  · simp
  · rfl

theorem powerOnRelease_exceptOtp (straps slot : Nat) (void : Bool) (ticks : Nat) (h : Hw) :
    (powerOnRelease straps slot void ticks h).lasting.exceptOtp = h.lasting.exceptOtp := by
  unfold powerOnRelease
  split
  · rfl
  · simp

@[simp] theorem stepTenEntries_exceptOtp (h : Hw) : h.stepTenEntries.lasting.exceptOtp = h.lasting.exceptOtp := by
  simp [Hw.stepTenEntries]

@[simp] theorem dawnComplete_exceptOtp (h : Hw) : h.dawnComplete.lasting.exceptOtp = h.lasting.exceptOtp := by
  simp [Hw.dawnComplete]

@[simp] theorem nodeOnTrain_exceptOtp (h : Hw) : h.nodeOnTrain.lasting.exceptOtp = h.lasting.exceptOtp := by
  unfold Hw.nodeOnTrain
  extract_lets lost n g m
  have same : g.lasting = h.lasting := by simp [g]
  clear_value g
  split
  · split
    · simp [same]
    · split <;> simp [same]
  all_goals simp [same]

theorem acceptTrain_exceptOtp (d p : Nat) (g : Passage) (hd : TrainHdr) (data : List Byte) (x : Hw × SMap Byte) :
    (acceptTrain d p g hd data x).1.lasting.exceptOtp = x.1.lasting.exceptOtp := by
  unfold acceptTrain
  extract_lets h k new y z g open1 mark f
  have counted : k.lasting = x.1.lasting := by simp [k, h]
  have first : y.1.lasting = x.1.lasting := by simp [y, counted]
  have both : z.1.lasting = x.1.lasting := by
    simp only [z]
    split <;> simp [first]
  have completed : g.lasting.exceptOtp = x.1.lasting.exceptOtp := by simp [g, both]
  clear_value y z g
  split
  · exact congrArg Lasting.exceptOtp counted
  split
  · rw [← completed]
    split <;> simp [f, mark]
  · rw [both]

theorem headerSegment_exceptOtp (d p : Nat) (g : Passage) (bytes : List Byte) (good : Bool) (x : Hw × SMap Byte) :
    (headerSegment d p g bytes good x).1.lasting.exceptOtp = x.1.lasting.exceptOtp := by
  unfold headerSegment
  extract_lets h data hd foreign slots j noted filled y g' out
  have journaled : j.lasting = x.1.lasting := by simp [j, h]
  have told : noted.lasting = x.1.lasting := by simp [noted, journaled]
  have latched : filled.lasting = x.1.lasting := by simp [filled, journaled]
  have routed : y.2.lasting = x.1.lasting := by
    simp only [y]
    split <;> split <;> simp [latched]
  have sent : out.lasting = x.1.lasting := by simp [out, routed]
  clear_value j noted out
  split
  · simp [told]
  split
  · simp [journaled]
  split
  · simp [journaled]
  split
  · simp [acceptTrain_exceptOtp, sent]
  · rw [sent]

theorem trainSegment_exceptOtp (d p : Nat) (bytes : List Byte) (tamper : Bool) (x : Hw × SMap Byte) :
    (trainSegment d p bytes tamper x).1.lasting.exceptOtp = x.1.lasting.exceptOtp := by
  unfold trainSegment
  extract_lets y
  have first : y.1.lasting = x.1.lasting := ite_lasting1 (Hw_dawnFail_lasting ..) rfl
  clear_value y
  split
  · rw [first]
  next g _ =>
    dsimp only
    split
    · simp [headerSegment_exceptOtp, first]
    · simp [first]

@[simp] theorem raiseFwFloor_exceptOtp (h : Hw) (v : Nat) : (h.raiseFwFloor v).lasting.exceptOtp = h.lasting.exceptOtp := by
  simp [Hw.raiseFwFloor]

@[simp] theorem finishUpdate_exceptOtp (h : Hw) (all : Bool) : (h.finishUpdate all).lasting.exceptOtp = h.lasting.exceptOtp := by
  simp [Hw.finishUpdate]

theorem handover_exceptOtp (accepts : Bool) (blackout : Nat) (h : Hw) :
    (handover accepts blackout h).lasting.exceptOtp = h.lasting.exceptOtp := by
  unfold handover
  split
  · rfl
  · split
    · rfl
    · simp

theorem handoverTimeout_exceptOtp (h : Hw) : (handoverTimeout h).lasting.exceptOtp = h.lasting.exceptOtp := by
  unfold handoverTimeout
  split
  · rfl
  · split
    · rfl
    · simp

/-! ## The NOR memory: the image read in Dawn, an update, a write-back -/

theorem imageHeader_exceptNor (bytes : List Byte) (h : Hw) : (imageHeader bytes h).lasting.exceptNor = h.lasting.exceptNor := by
  simp [imageHeader]

theorem imageRecord_exceptNor (first reread : List Word) (h : Hw) :
    (imageRecord first reread h).lasting.exceptNor = h.lasting.exceptNor := by
  unfold imageRecord
  split
  · rfl
  · split <;> simp

theorem endRecord_exceptNor (first reread : List Word) (firmware : List Byte) (supplies : List (Nat × Nat × Nat)) (h : Hw) :
    (endRecord first reread firmware supplies h).lasting.exceptNor = h.lasting.exceptNor := by
  unfold endRecord
  split
  · rfl
  next hd _ =>
    split
    · rfl
    split
    · split
      · rfl
      · split
        · simp
        · split <;> simp
    · split <;> simp

@[simp] theorem eraseHeader_exceptNor (h : Hw) : h.eraseHeader.lasting.exceptNor = h.lasting.exceptNor := by
  unfold Hw.eraseHeader
  generalize List.replicate 512 (0xFF : Byte) = blank
  split
  · exact norWrite_exceptNor h 0 blank
  · rfl

@[simp] theorem updateCommit_exceptNor (h : Hw) : (updateCommit h).lasting.exceptNor = h.lasting.exceptNor := by
  simp [updateCommit]

@[simp] theorem updateCommand_exceptNor (cmd : Nat) (h : Hw) : (updateCommand cmd h).lasting.exceptNor = h.lasting.exceptNor := by
  unfold updateCommand
  split <;> simp

@[simp] theorem amendAct_exceptNor (d off w : Nat) (holds : Bool) (h : Hw) :
    (amendAct d off w holds h).lasting.exceptNor = h.lasting.exceptNor := by
  unfold amendAct
  simp

@[simp] theorem amendAccept_exceptNor (o : Origin) (bs : List Byte) (holds : Bool) (h : Hw) :
    (amendAccept o bs holds h).lasting.exceptNor = h.lasting.exceptNor := by
  simp [amendAccept]

theorem amendCell_exceptNor (holds : Bool) (u : Upset) (h : Hw) : (amendCell holds u h).lasting.exceptNor = h.lasting.exceptNor := by
  unfold amendCell
  split
  · rfl
  next q _ =>
    split
    · rfl
    extract_lets g
    have met : g.lasting = h.lasting := by simp [g]
    clear_value g
    split
    · rw [met]
    next c _ _ =>
      have checked : (amendCheck c.origin c.cell.data g).2.lasting = h.lasting := (amendCheck_lasting ..).trans met
      extract_lets bs
      split
      all_goals
        next judged =>
          have same := (snd_lasting judged).trans checked
          simp [same]

theorem norWriteComplete_exceptNor (equal : Bool) (h : Hw) :
    (norWriteComplete equal h).lasting.exceptNor = h.lasting.exceptNor := by
  unfold norWriteComplete
  simp [-List.reduceReplicate]

theorem ringBootWriteBack_exceptNor (bytes : List Byte) (h : Hw) :
    (ringBootWriteBack bytes h).lasting.exceptNor = h.lasting.exceptNor := by
  simp [ringBootWriteBack, -List.reduceReplicate]

/-! ## The log memory: the pages of the Ledger and of the recorder -/

@[simp] theorem each_exceptLog {γ : Type} (l : List γ) (f : γ → Hw → Hw) (h : Hw)
    (k : ∀ c a, (f c a).lasting.exceptLog = a.lasting.exceptLog) : (each l f h).lasting.exceptLog = h.lasting.exceptLog :=
  each_keeps (fun a => a.lasting.exceptLog = h.lasting.exceptLog) l f (fun c a e => (k c a).trans e) h rfl

@[simp] theorem iter_exceptLog (n : Nat) (f : Nat → Hw → Hw) (h : Hw)
    (k : ∀ c a, (f c a).lasting.exceptLog = a.lasting.exceptLog) : (iter n f h).lasting.exceptLog = h.lasting.exceptLog :=
  iter_keeps (fun a => a.lasting.exceptLog = h.lasting.exceptLog) n f (fun c a e => (k c a).trans e) h rfl

@[simp] theorem storeBack_exceptLog (h : Hw) (page : Nat) (slots : List (Nat × List Byte)) (rb : Option (List Byte)) :
    (storeBack h page slots rb).lasting.exceptLog = h.lasting.exceptLog := by
  unfold storeBack
  split
  · exact each_exceptLog _ _ _ fun _ _ => logWrite_exceptLog ..
  · exact each_exceptLog _ _ _ fun _ _ => logWrite_exceptLog ..

@[simp] theorem blankSlots_exceptLog (h : Hw) : (blankSlots h).lasting.exceptLog = h.lasting.exceptLog := by
  unfold blankSlots
  split
  · rfl
  · exact iter_exceptLog _ _ _ fun _ _ => logWrite_exceptLog ..

@[simp] theorem ledgerReadback_exceptLog (h : Hw) (op : PageOp) (rb : Option (List Byte)) :
    (ledgerReadback h op rb).lasting.exceptLog = h.lasting.exceptLog := by
  simp [ledgerReadback]

@[simp] theorem recorderReadback_exceptLog (h : Hw) (op : PageOp) :
    (recorderReadback h op).lasting.exceptLog = h.lasting.exceptLog := by
  unfold recorderReadback
  extract_lets w m
  have written : w.lasting.exceptLog = h.lasting.exceptLog := each_exceptLog _ _ _ fun _ _ => logWrite_exceptLog ..
  have marked : m.lasting = w.lasting := by simp [m]
  exact (congrArg Lasting.exceptLog marked).trans written

@[simp] theorem copyNow_exceptLog (x : Nat × Nat) (h : Hw) : (copyNow x h).lasting.exceptLog = h.lasting.exceptLog := by
  simp [copyNow]

@[simp] theorem duskRecord_exceptLog (count : Nat) (h : Hw) : (duskRecord count h).lasting.exceptLog = h.lasting.exceptLog := by
  unfold duskRecord
  split
  · extract_lets d r c
    have told : r.lasting = h.lasting := by simp [r]
    have copied : c.lasting.exceptLog = h.lasting.exceptLog := by simp [c, told]
    exact (each_exceptLog _ _ _ copyNow_exceptLog).trans copied
  · rfl

@[simp] theorem logNvmWriteDone_exceptLog (rb : Option (List Byte)) (h : Hw) :
    (logNvmWriteDone rb h).lasting.exceptLog = h.lasting.exceptLog := by
  unfold logNvmWriteDone
  split
  · rfl
  · split <;> simp

/-! ## Every command -/

section
variable {α : Type} {p : Hw → α} {s t : State} {d : Die} {f : Hw → Hw} {m : Hw × SMap Byte → Hw × SMap Byte}

/-- What an operation of the node keeps, its command keeps; the lemmas after it say so of the other kinds of commands. -/
theorem on_keeps (e : s.on f = .next t) (k : ∀ h, p (f h) = p h) : p t.hw = p s.hw := by
  unfold State.on at e
  split at e <;> obtain rfl := Host.Outcome.next.inj e
  · rfl
  · exact k s.hw

theorem onAny_keeps {g : Hw} (e : (.next { s with hw := g } : Host.Outcome State Fault Refusal) = .next t) (k : p g = p s.hw) :
    p t.hw = p s.hw := by
  obtain rfl := Host.Outcome.next.inj e
  exact k

theorem onDie_keeps (e : s.onDie d f = .next t) (k : ∀ h, p (f h) = p h) : p t.hw = p s.hw := by
  unfold State.onDie at e
  split at e
  · exact on_keeps e k
  · obtain rfl := Host.Outcome.next.inj e
    rfl

theorem onMem_keeps (e : s.onMem m = .next t) (k : ∀ x, p (m x).1 = p x.1) : p t.hw = p s.hw := by
  unfold State.onMem at e
  split at e <;> obtain rfl := Host.Outcome.next.inj e
  · rfl
  · exact k (s.hw, s.pir)

/-- As `onMem_keeps`, with a name for what the operation gives: the kernel then does not evaluate it. -/
theorem onMem_keeps' (e : s.onMem m = .next t) (k : ∀ x, ∃ y, m x = y ∧ p y.1 = p x.1) : p t.hw = p s.hw :=
  onMem_keeps e fun x => by
    obtain ⟨y, gives, kept⟩ := k x
    rw [gives, kept]

theorem onDieMem_keeps (e : s.onDieMem d m = .next t) (k : ∀ x, p (m x).1 = p x.1) : p t.hw = p s.hw := by
  unfold State.onDieMem at e
  split at e
  · exact onMem_keeps e k
  · obtain rfl := Host.Outcome.next.inj e
    rfl

theorem onReg_keeps {o : Origin} {a : Nat} (e : s.onReg d o a f = .next t) (k : ∀ h, (f h).lasting = h.lasting) :
    t.hw.lasting = s.hw.lasting := by
  refine on_keeps e fun h => ?_
  split
  · exact k h
  · exact Hw_noSuchDie_lasting ..

end

theorem windowDataRead_lasting {s t : State} {d off : Nat} {g : Hw → Hw} {n : Hw → Nat} {o : Origin} {u : Upset}
    (e : s.onMem (fun x => rowRead d 4 off (n (g x.1)) o u (g x.1, x.2)) = .next t) (k : ∀ h, (g h).lasting = h.lasting) :
    t.hw.lasting = s.hw.lasting :=
  onMem_keeps' e fun x => ⟨rowRead d 4 off (n (g x.1)) o u (g x.1, x.2), rfl, (rowRead_lasting ..).trans (k x.1)⟩

theorem masterAccess_lasting {s t : State} {en : Hw → Nat} {r : Hw → Req} {u : Upset}
    (e : s.onMem (fun x => submit (en x.1) (r x.1) u x) = .next t) : t.hw.lasting = s.hw.lasting :=
  onMem_keeps' e fun x => ⟨submit (en x.1) (r x.1) u x, rfl, submit_lasting ..⟩

/-- A command that programs no memory leaves all that lasts. -/
theorem exec_lasting {c : Instr} {s t : State} (e : exec c s = .next t) (otp : programsOtp c = false) (nor : programsNor c = false)
    (log : programsLog c = false) : t.hw.lasting = s.hw.lasting := by
  cases c with
  | powerOnResetRelease | trainSegment | handover | handoverTimeout => exact absurd otp nofun
  | imageHeader | imageRecord | endRecord | amendCell | updateCommit | norWriteComplete | ringBootWriteBack => exact absurd nor nofun
  | logNvmWriteDone | duskRecord => exact absurd log nofun
  | bootRequest | ringWake | extest | samplePreload | idcode | highz | clamp | bypass | rply | mdbg | blockLockLoss
  | deskewLoss | frameSilenceTimeout | blockLock | deskew | trainingExchange | trainingAuthFrame | trainingTimeout
  | trainingRetry | lesDecay | offHoldExpiry | offcntClear | retrain | forceOff | portRelease | trainStartBlock | trainEndBlock
  | trainWindowExpiry | trainOriginate | phaseLockedBound | originationStart | cellFrame | replayTimeout | keepalive
  | creditSync | creditFrameDue | outputSelect | presenceSend | presenceCell | nodeAbsent | errorPacketSend | multicastCopy
  | multicastGiveUp | lpMpRelink | dieLinkSilence | clockMonitor | ftimeCompare | writeBufferRelease | forwardPresent
  | wordCellClose | creditReturnTimer | creditReturnCell | queueSweepEnd | freeListRebuildEnd | cellScrub | linkRamScrub
  | descriptorScrub | pumpStart | pumpStartEffect | pumpStopNow | pumpStopAtBoundary | stopBoundaryReached | stopTimeout | nop
  | draw | pour | gather | store | await | loadx | loady | loadxh | loadyh | moveOp | addOp | xorOp | testOp | countLoad
  | countLoadX | countDecrement | signal | crcInit | crcFeed | crcFinal | stuff | codeEncode | codeDecode | halt
  | illegalInstruction | shiftStageFree | gatherDelivery | awaitConditionMet | awaitTimeout | storeCreditWaitEnd
  | pumpParityCheck | pinTransition | qualifiedLevelChange | rangeOpenLimit | pinTimeout | tripRelease | mioOutWrite
  | outmvWrite | readbackSettleEnd | readbackMismatch | receiverMismatch | canStart | canStop | canSleep | canWake | canAbort
  | frameSelection | canFrameTransmitted | arbitrationLost | canError | canFrameReceived | integrationComplete
  | recoveryComplete | canWakeDominant | canWakeFrame | wakeErrorLimit | canParityCheck | gapLimit | trackerSilence
  | holdoverTimeout | pacingRaise | entryScan | eventCommit | eventFire | eventCellPresent | placerCalibration | entryArm
  | trackerLiveRead | delayRequestSend | delayRequest | delayResponse | pcieConfiguration | unsupportedRequest
  | functionLevelReset | hostLinkDown | hostLinkUp | hostReadTimeout | readCompletion | writeCompletion | lockBusy
  | errorPacket | badAccessCell | pop | holdmaxExpiry | slotTimeout | masterCycleEnd | fetchTimeout | interruptAcknowledge
  | strobeBusAccess | busClear | controlFrameSend | measurementFrame | wlhLinkSilent | eventReport | recordWrite | clearRetry
  | digest | checkpointEnd | jrnFreeze | postComplete | journalLossEnd | replayRun | replayPause | replayFeed | replayEnd
  | engineRequest | keySlotCheck | watchdogExpiry | lockstepMismatch | pairRestart | pourGroupEmit | dieLinkTrained | busGrant
  | processImageScrub | supplyConditionChange | temperatureConditionChange =>
    exact onDie_keeps e (by simp)
  | porstNAssert | norDiscovery | keytreeUnwrap | builtInSelfTest | quarantineToDusk | ringBootTimeout | imageStreamCell
  | duskCanLimit | takeover | testLogicReset | secondEdge | ppsLoss | ftmAccept | utcOffsetChange | calendarSet | ppsOutPulse
  | fieldResume | fieldOff | requestedEntryWaitEnd | forcedEntryWaitEnd | ledgerPageWrite | ledgerPageRetry | lastSeqRebuild
  | archiveMark | recorderCopy | freezeEffect | jrnRearm | replayStop | entropyHealthFail | vltRevoke | statementSigned
  | tamperLogClear | mirrorRebuild | updateStart | updateAbort | holdupWaitTimeout | faultReport | fltSclr | restore
  | entropyHealthPass =>
    exact on_keeps e (by simp)
  | nodCmdEnterSafe | nodCmdResume | nodCmdSleep | nodCmdDusk | nodCmdReset | pumpClear | canRecover | canCmdReserved | evrClr
  | replayCmdReserved | vaultCommand | attestationRequest | heartbeat | mgtUdata =>
    exact onReg_keeps e (by simp)
  | trackerUpdate | pcieMemoryRead | pcieMemoryWrite | readRequest | writeRequest | lockRead | lockWrite | unlock | slaveRead
  | slaveWrite | slaveLockRead | slaveLockWrite | asRelease | lockTimeout | lockReadResend | backplaneSysreset | replayLoad =>
    exact onDieMem_keeps e (by simp)
  | qgrantRead | windowDataWrite | ledgerRead | imageShadowRead | checkpointBegin | rcRead | registerWrite =>
    exact onMem_keeps e (by simp)
  | wellhouseConversion | inputWindowEnter | inputWindowLeave | powerGoodQualified | faultTimerExpiry | fastTrip | retryWaitEnd
  | reverseTurnOff | feedPresent | feedLost | fieldFeedBad | fieldReturn | fieldOvercurrent | autoEntry | holdupFault
  | tamperSample
  | refclkQualified | insertionDelayEnd | hotswapOn | faultTimerClear | fastTripHoldEnd | retryCountClear | powerGoodDrop
  | overvoltageEvent | idealDiodeResume | bbmEnd | currentLimitActive | storeFetConduct | storeFetOff =>
    exact onAny_keeps e (by simp)
  | inputPowerLost => exact on_keeps (f := fun h => if h.node.state = .dawn then h.powerDrop else h) e (by simp)
  | duskCopyLimit => exact on_keeps (f := fun h => if h.node.state = .dusk then h.duskEnd else h) e (by simp)
  | nodCmdReserved die origin value => exact onReg_keeps (f := fun h => h.violation die.val origin 0xC) e (by simp)
  | pumpCmdReserved die pump origin =>
    exact onReg_keeps (f := fun h => h.violation die.val origin (0x40000 + 0x400 * pump.val)) e (by simp)
  | windowDataRead die origin queue upset arrived =>
    exact windowDataRead_lasting (g := fun h => h.countArrival die.val queue.val
      (arrived && decide (die.val < h.dies) && h.dataOpen die.val queue.val false && !h.justFilled die.val queue.val))
      (n := fun h => if h.isWord die.val queue.val then 4 else 64) e fun _ => Hw_countArrival_lasting ..
  | masterAccess die origin offset write posted bytes =>
    exact masterAccess_lasting (en := fun h => h.entryOf origin) (r := fun h =>
      h.rowReq (if write then 0xA1 else 0xA0) die.val 8 offset.toNat bytes.length origin (write && posted)
        (if write then bytes else [])) e

/-- A command that programs the one-time programmable memory leaves the other two. -/
theorem exec_exceptOtp {c : Instr} {s t : State} (e : exec c s = .next t) (otp : programsOtp c = true) :
    t.hw.lasting.exceptOtp = s.hw.lasting.exceptOtp := by
  cases c with
  | powerOnResetRelease => exact onAny_keeps (p := fun h => h.lasting.exceptOtp) e (powerOnRelease_exceptOtp ..)
  | trainSegment => exact onDieMem_keeps (p := fun h => h.lasting.exceptOtp) e (trainSegment_exceptOtp _ _ _ _)
  | handover => exact on_keeps (p := fun h => h.lasting.exceptOtp) e (handover_exceptOtp _ _)
  | handoverTimeout => exact on_keeps (p := fun h => h.lasting.exceptOtp) e handoverTimeout_exceptOtp
  | _ => exact absurd otp nofun

/-- A command that writes the NOR memory leaves the other two. -/
theorem exec_exceptNor {c : Instr} {s t : State} (e : exec c s = .next t) (nor : programsNor c = true) :
    t.hw.lasting.exceptNor = s.hw.lasting.exceptNor := by
  cases c with
  | imageHeader => exact on_keeps (p := fun h => h.lasting.exceptNor) e (imageHeader_exceptNor _)
  | imageRecord => exact on_keeps (p := fun h => h.lasting.exceptNor) e (imageRecord_exceptNor _ _)
  | endRecord => exact on_keeps (p := fun h => h.lasting.exceptNor) e (endRecord_exceptNor _ _ _ _)
  | amendCell => exact on_keeps (p := fun h => h.lasting.exceptNor) e (amendCell_exceptNor _ _)
  | updateCommit => exact on_keeps (p := fun h => h.lasting.exceptNor) e updateCommit_exceptNor
  | norWriteComplete => exact on_keeps (p := fun h => h.lasting.exceptNor) e (norWriteComplete_exceptNor _)
  | ringBootWriteBack => exact on_keeps (p := fun h => h.lasting.exceptNor) e (ringBootWriteBack_exceptNor _)
  | _ => exact absurd nor nofun

/-- A command that writes the log memory leaves the other two. -/
theorem exec_exceptLog {c : Instr} {s t : State} (e : exec c s = .next t) (log : programsLog c = true) :
    t.hw.lasting.exceptLog = s.hw.lasting.exceptLog := by
  cases c with
  | duskRecord count =>
    exact on_keeps (p := fun h => h.lasting.exceptLog) (f := fun h => (duskRecord count h).duskCheck) e (by simp)
  | logNvmWriteDone readback =>
    exact on_keeps (p := fun h => h.lasting.exceptLog) (f := fun h => (logNvmWriteDone readback h).duskCheck) e (by simp)
  | _ => exact absurd log nofun

/-- Settles O8: a command that programs one memory leaves the others, every other command leaves all. -/
theorem lastingMemory : Obligations.LastingMemory := by
  intro c s t e
  by_cases otp : programsOtp c = true
  · have kept := exec_exceptOtp e otp
    simp only [Lasting.exceptOtp, Prod.mk.injEq] at kept
    obtain ⟨part, grade, log, nor⟩ := kept
    exact ⟨part, grade, fun no => absurd (otp.symm.trans no) nofun, fun _ => nor, fun _ => log⟩
  by_cases nor : programsNor c = true
  · have kept := exec_exceptNor e nor
    simp only [Lasting.exceptNor, Prod.mk.injEq] at kept
    obtain ⟨part, grade, otp, log⟩ := kept
    exact ⟨part, grade, fun _ => otp, fun no => absurd (nor.symm.trans no) nofun, fun _ => log⟩
  by_cases log : programsLog c = true
  · have kept := exec_exceptLog e log
    simp only [Lasting.exceptLog, Prod.mk.injEq] at kept
    obtain ⟨part, grade, otp, nor⟩ := kept
    exact ⟨part, grade, fun _ => otp, fun _ => nor, fun no => absurd (log.symm.trans no) nofun⟩
  have kept := exec_lasting e (Bool.eq_false_iff.mpr otp) (Bool.eq_false_iff.mpr nor) (Bool.eq_false_iff.mpr log)
  exact ⟨congrArg Lasting.part kept, congrArg Lasting.grade kept, fun _ => congrArg Lasting.otp kept, fun _ => congrArg Lasting.nor kept,
    fun _ => congrArg Lasting.logNvm kept⟩

end Sys2Proof.Machine
end

section
/-!
PROOFS. Single rules on the whole machine: the frame of every command, the empty queue, the state after reset, reads after writes.
-/

namespace Sys2Proof.Machine

/-! ## Every command -/

/-- A command of any shape completes. -/
theorem shaped_completes (d : Option Die) (night : Bool) (f : Hw × SMap Byte → Hw × SMap Byte) (s : State) :
    ∃ t, shaped d night f s = .next t := by
  unfold shaped
  split
  · exact ⟨_, rfl⟩
  · split <;> exact ⟨_, rfl⟩

/-- Settles O4: every command has the shape of its kind, and a shape completes, with nothing changed at an absent die. -/
theorem everyCommandCompletes : Obligations.EveryCommandCompletes := by
  intro c s
  obtain ⟨f, -, shape⟩ := exec_shape c
  rw [shape]
  exact ⟨shaped_completes .., fun d named absent => if_pos ⟨d, named, absent⟩⟩

/-- Settles O5: the shape of a command's kind says what it leaves. -/
theorem commandFrames : Obligations.CommandFrames := by
  intro c s t e
  refine ⟨?_, ?_, exec_night e⟩
  all_goals
    obtain ⟨f, keepsPir, shape⟩ := exec_shape c
    rw [shape] at e
    obtain rfl | ⟨-, rfl⟩ := shaped_next e
  · rfl
  · rfl
  · exact fun _ _ _ _ => rfl
  · exact fun k d o n => congrArg (pirRead · d o n) (keepsPir k _)

/-! ## One core cycle on an empty queue -/

theorem step_of_empty {s : State} (empty : s.pending = []) : step s = .next s.idle := by
  unfold step
  rw [empty]

/-- Settles O2: `tick` in Night, and out of Night and of a running replay. -/
theorem stepOnAnEmptyQueue : Obligations.StepOnAnEmptyQueue := by
  intro s empty
  rw [step_of_empty empty]
  refine ⟨⟨s.idle, rfl, empty⟩, fun night => ?_, fun awake still => ?_⟩
  · have stands : tick (s.hw, s.pir) = (s.hw, s.pir) := if_pos night
    unfold State.idle
    rw [stands]
  · have ticks : tick (s.hw, s.pir) = retryParked (s.hw.domainCycle.serveCell, s.pir) :=
      (if_neg awake).trans (if_neg (Bool.eq_false_iff.mp still))
    unfold State.idle
    rw [ticks]
    refine ⟨rfl, fun none => ?_⟩
    rw [retryParked_none none]

/-! ## Right after reset -/

theorem pumps_stopped_at_reset : ∀ d < 2, ∀ n < 64, State.reset.hw.pumpState d n = 0 := by decide +kernel

theorem cans_off_at_reset : ∀ d < 2, ∀ k < 16, State.reset.hw.canState d k = 0 := by decide +kernel

/-- Settles O3: the components of a fresh node, and its Reset columns for every Pump and CAN controller. -/
theorem resetState : Obligations.ResetState :=
  ⟨rfl, rfl, rfl, rfl, rfl, fun _ => rfl, pumps_stopped_at_reset, cans_off_at_reset, by decide +kernel, by decide +kernel⟩

/-! ## The Process Image RAM -/

/-- The key of an offset of a die's Process Image RAM. -/
theorem pirRead_getElem (m : SMap Byte) (d o n k : Nat) (l : k < n) :
    (pirRead m d o n)[k]'(by simpa [pirRead] using l) = m.get 0 (d * 2 ^ 20 + (o + k) % 2 ^ 20) := by
  simp [pirRead]

/-- A write reaches no key but its own. -/
theorem pirWrite_get_outside {d o k : Nat} {bs : List Byte} (m : SMap Byte)
    (out : ∀ i < bs.length, k ≠ d * 2 ^ 20 + (o + i) % 2 ^ 20) : (pirWrite m d o bs).get 0 k = m.get 0 k := by
  unfold pirWrite
  generalize bs.length = n at out
  induction n with
  | zero => rfl
  | succ n ih =>
    rw [iter_succ, SMap.get_put_of_ne _ _ _ _ (out n (by omega))]
    exact ih fun i l => out i (by omega)

/-- A write that does not run past the die's MiB leaves its bytes at their keys. -/
theorem pirWrite_get_inside {d o k : Nat} {bs : List Byte} (m : SMap Byte) (fits : o + bs.length ≤ 2 ^ 20) (l : k < bs.length) :
    (pirWrite m d o bs).get 0 (d * 2 ^ 20 + (o + k) % 2 ^ 20) = bs[k] := by
  rw [← List.getD_eq_getElem _ 0 l]
  unfold pirWrite
  generalize bs.length = n at fits l
  induction n with
  | zero => omega
  | succ n ih =>
    rw [iter_succ]
    by_cases last : k = n
    · rw [← last, SMap.get_put_self]
    · rw [SMap.get_put_of_ne _ _ _ _ (by omega)]
      exact ih (by omega) (by omega)

/-- Settles O10: the bytes' own keys, and the keys of every other byte. -/
theorem processImageReadAfterWrite : Obligations.ProcessImageReadAfterWrite := by
  intro m d o bs fits
  refine ⟨List.ext_getElem (by simp [pirRead]) fun k read l => ?_, fun e a la out => ?_⟩
  · rw [pirRead_getElem _ _ _ _ _ l, pirWrite_get_inside m fits l]
  · refine List.ext_getElem (by simp [pirRead]) fun k l _ => ?_
    have first : k = 0 := by simpa [pirRead] using l
    subst first
    rw [pirRead_getElem _ _ _ _ _ (by omega), pirRead_getElem _ _ _ _ _ (by omega)]
    exact pirWrite_get_outside m fun i li => by omega

/-! ## Register fields -/

/-- Settles O11: the field itself, another field of its register, another register. -/
theorem fieldReadAfterWrite : Obligations.FieldReadAfterWrite := by
  intro h d F v i j fits
  refine ⟨rd_wr_self h d F v i j fits, fun e G k l apart => ?_⟩
  by_cases same : G.key e k l = F.key d i j
  · exact rd_wr_of_field_ne h d F v i j e G k l same fits (apart.resolve_left (absurd same)).symm
  · exact rd_wr_of_key_ne h d F v i j e G k l same

/-! ## Pump data units -/

/-- Settles O19: `lc_round` from the first group on. -/
theorem lineCodeRoundTrip : Obligations.LineCodeRoundTrip := by
  intro h d n x g v p q inw outw prev symbols i1 o1 i4 apart encoded
  obtain ⟨w, rfl, lt, decoded⟩ := lc_round h d n x i1 o1 i4 apart g 0 p v q encoded
  have first : w * 2 ^ (h.rd d R.PMP_LCCFG_OUTW n * 0) = w := by rw [Nat.mul_zero, Nat.pow_zero, Nat.mul_one]
  have back := decoded w (by rw [Nat.mul_zero, Nat.pow_zero, Nat.div_one, Nat.mod_eq_of_lt lt])
  rw [first]
  refine ⟨lt, back.trans ?_⟩
  rw [Nat.mul_zero, Nat.pow_zero, Nat.div_one, Nat.mul_one]

/-- A reflection undoes itself. -/
theorem reflectBits_reflectBits {w v : Nat} (l : v < 2 ^ w) : reflectBits w (reflectBits w v) = v := by
  refine Nat.eq_of_testBit_eq fun i => ?_
  by_cases li : i < w
  · rw [reflect_bit w _ i li, reflect_bit w v _ (by omega), show w - 1 - (w - 1 - i) = i by omega]
  · rw [testBit_ge (reflect_lt ..) (by omega), testBit_ge l (by omega)]

theorem reflectBits_xor (w a b : Nat) : reflectBits w (a ^^^ b) = reflectBits w a ^^^ reflectBits w b := by
  refine Nat.eq_of_testBit_eq fun i => ?_
  by_cases li : i < w
  · rw [Nat.testBit_xor, reflect_bit w _ i li, reflect_bit w _ i li, reflect_bit w _ i li, Nat.testBit_xor]
  · rw [Nat.testBit_xor, testBit_ge (reflect_lt w _) (by omega), testBit_ge (reflect_lt w _) (by omega),
      testBit_ge (reflect_lt w _) (by omega)]
    rfl

/-- The mirror of a shift to the left is the shift of the mirror to the right. -/
theorem reflectBits_double (w acc : Nat) : reflectBits w (low w (acc * 2)) = reflectBits w acc / 2 := by
  refine Nat.eq_of_testBit_eq fun i => ?_
  rw [Nat.testBit_div_two]
  by_cases inside : i + 1 < w
  · rw [reflect_bit w _ i (by omega), reflect_bit w _ _ inside, low, Nat.testBit_mod_two_pow,
      show w - 1 - i = w - 1 - (i + 1) + 1 by omega, Nat.testBit_add_one, Nat.mul_div_cancel _ (by decide)]
    simp
    omega
  · rw [testBit_ge (reflect_lt ..) (by omega : w ≤ i + 1)]
    by_cases last : i < w
    · rw [reflect_bit w _ i last, show w - 1 - i = 0 by omega, low, Nat.testBit_mod_two_pow]
      simp
    · exact testBit_ge (reflect_lt ..) (by omega)

theorem crcBit_plain (w poly acc : Nat) (b : Bool) : crcBit w poly false acc b =
    if (bit acc (w - 1) != b) = true then low w (acc * 2) ^^^ low w poly else low w (acc * 2) := rfl

theorem crcBit_mirrored (w poly acc : Nat) (b : Bool) : crcBit w poly true acc b =
    if (bit acc 0 != b) = true then acc / 2 ^^^ reflectBits w poly else acc / 2 := rfl

/-- Settles O20: the outgoing bit is the mirror's lowest, and the mirror passes through the shift and the polynomial. -/
theorem crcMirror : Obligations.CrcMirror := by
  intro w poly acc b w1 lp la
  have outgoing : bit (reflectBits w acc) 0 = bit acc (w - 1) := by
    rw [bit_testBit, bit_testBit, reflect_bit w acc 0 w1, Nat.sub_zero]
  refine ⟨?_, reflectBits_reflectBits la, ?_⟩
  · rw [crcBit_mirrored, crcBit_plain, outgoing, apply_ite (reflectBits w), reflectBits_xor, reflectBits_double, low_of_lt lp]
  · rw [crcBit_plain]
    split
    · exact Nat.xor_lt_two_pow (low_lt ..) (low_lt ..)
    · exact low_lt ..

end Sys2Proof.Machine
end

section
/-!
PROOFS. Pump instructions that load a register.
-/

namespace Sys2Proof.Machine

/-- The fields that an instruction can load: none beside PMP_STAT or PMP_FLOW, and of PMP_CNT none but beside PCT. -/
def Fld.loadable (F : Fld) : Bool :=
  F.apart R.PMP_STAT_IP && F.apart R.PMP_FLOW_WRAPIP && decide (F.lo + F.w ≤ 32) && R.PMP_STAT_IP.apart F &&
    (R.PMP_CNT_PCT.apart F || R.PMP_CNT_PCT.beside F)

theorem pumpArg_lt (h : Hw) (d n : Nat) : h.pumpArg d n < 2 ^ 16 := low_lt ..

/-- The high half of a register, loaded: a number of 32 bits. -/
theorem low_high_lt (x : Nat) {a : Nat} (l : a < 2 ^ 16) : low 16 x + a * 2 ^ 16 < 2 ^ 32 := by
  have := low_lt 16 x
  omega

section
variable {s : State} {die : Die} {pump : Fin 64} (r : s.ready die) {c : Instr} {want : Nat → Bool} {act : Nat → Hw → Hw}
  (i : s.hw.issuable die.val pump.val want)
include r i

/-- An instruction whose action is one register write completes with the value in its field. -/
theorem load_completes (F : Fld) (v : Nat) (e : exec c s = s.onDie die fun h => h.simple die.val pump.val .good want act)
    (writes : act (s.hw.pumpArg die.val pump.val) (s.hw.pinned die.val pump.val) =
      (s.hw.pinned die.val pump.val).wr die.val F v pump.val) (loads : F.loadable = true) :
    Completes c s fun t => t.hw.rd die.val F pump.val = low F.w v ∧
      t.hw.pumpAt die.val pump.val (s.hw.nextIp die.val pump.val) ∧ t.hw.onlyPump s.hw ∧
      t.hw.onlyAt s.hw [F.key die.val pump.val 0, R.PMP_STAT_IP.key die.val pump.val 0, R.PMP_CNT_PCT.key die.val pump.val 0] := by
  simp only [Fld.loadable, Bool.and_eq_true, Bool.or_eq_true] at loads
  obtain ⟨⟨⟨⟨stat, flow⟩, fits⟩, stat'⟩, cnt⟩ := loads
  exact complete_of e r (wr_result F v i act writes stat flow fits stat' cnt)

/-- As `load_completes`, where the value fits the field. -/
theorem load_completes_of_lt (F : Fld) (v : Nat) (e : exec c s = s.onDie die fun h => h.simple die.val pump.val .good want act)
    (writes : act (s.hw.pumpArg die.val pump.val) (s.hw.pinned die.val pump.val) =
      (s.hw.pinned die.val pump.val).wr die.val F v pump.val) (loads : F.loadable = true) (fits : v < 2 ^ F.w) :
    Completes c s fun t => t.hw.rd die.val F pump.val = v ∧
      t.hw.pumpAt die.val pump.val (s.hw.nextIp die.val pump.val) ∧ t.hw.onlyPump s.hw ∧
      t.hw.onlyAt s.hw [F.key die.val pump.val 0, R.PMP_STAT_IP.key die.val pump.val 0, R.PMP_CNT_PCT.key die.val pump.val 0] := by
  have := load_completes r i F v e writes loads
  rwa [low_of_lt fits] at this

/-- As `load_completes`, of ADD and XOR, which load X or Y. -/
theorem load_xy {a : Nat} (v : Nat) {w : Nat} (e : exec c s = s.onDie die fun h => h.simple die.val pump.val .good want act)
    (writes : act (s.hw.pumpArg die.val pump.val) (s.hw.pinned die.val pump.val) =
      (s.hw.pinned die.val pump.val).wr die.val (xyField a) v pump.val) (value : low 32 v = w) :
    Completes c s fun t => t.hw.rd die.val (xyField a) pump.val = w ∧
      t.hw.pumpAt die.val pump.val (s.hw.nextIp die.val pump.val) ∧ t.hw.onlyPump s.hw ∧
      t.hw.onlyAt s.hw [(xyField a).key die.val pump.val 0, R.PMP_STAT_IP.key die.val pump.val 0, R.PMP_CNT_PCT.key die.val pump.val 0] := by
  subst value
  generalize xF : xyField a = F at writes
  have known : F = R.PMP_X_VALUE ∨ F = R.PMP_Y_VALUE := by
    rw [← xF, xyField]
    split
    · exact .inr rfl
    · exact .inl rfl
  obtain rfl | rfl := known
  · exact load_completes r i R.PMP_X_VALUE v e writes rfl
  · exact load_completes r i R.PMP_Y_VALUE v e writes rfl

end

/-- Settles O21: each instruction is one register write; MOVE by its destination code. -/
theorem pumpRegisterInstructions : Obligations.PumpRegisterInstructions := by
  intro s die pump r h d n a q result
  have arg : a < 2 ^ 16 := pumpArg_lt ..
  refine ⟨fun i => load_completes_of_lt r i R.PMP_X_VALUE a rfl rfl rfl (arg.trans (by decide)),
    fun i => load_completes_of_lt r i R.PMP_Y_VALUE a rfl rfl rfl (arg.trans (by decide)),
    fun i => load_completes_of_lt r i R.PMP_X_VALUE _ rfl ?_ rfl (low_high_lt _ arg),
    fun i => load_completes_of_lt r i R.PMP_Y_VALUE _ rfl ?_ rfl (low_high_lt _ arg),
    fun i => ?_, fun i => ?_, fun i => ?_⟩
  · rw [pinned_rd]
  · rw [pinned_rd]
  · intro v
    refine ⟨fun code => load_completes r i R.PMP_X_VALUE v rfl ?_ rfl, fun code => load_completes r i R.PMP_Y_VALUE v rfl ?_ rfl,
      fun code => load_completes r i R.PMP_GS_VALUE v rfl ?_ rfl, fun code => load_completes r i R.PMP_PS_VALUE v rfl ?_ rfl,
      fun code => load_completes_of_lt r i R.PMP_CNT_LC (low 16 v) rfl ?_ rfl (low_lt ..),
      fun code => load_completes r i R.PMP_CRCACC_VALUE (low (h.rd d R.PMP_CRCCFG_WIDTH n) v) rfl ?_ rfl⟩
    all_goals
      rw [show bits (s.hw.pumpArg die.val pump.val) 13 3 = _ from code]
    case refine_6 =>
      rw [pinned_rd]
      rfl
    all_goals rfl
  · refine load_xy r i _ rfl ?_ (low_of_lt (low_lt 32 (h.rd d (xyField a) n +
      if bit a 14 then q.pumpSource d n (bits a 11 3) else toTwos 32 (signed 14 (low 14 a)))))
    rw [pinned_rd]
  · refine load_xy r i _ rfl ?_ rfl
    rw [pinned_rd]

end Sys2Proof.Machine
end

section
/-!
PROOFS. Pump instructions that count, code, signal and control.
-/

namespace Sys2Proof.Machine

/-! ## What an issued instruction leaves -/

theorem pinned_onlyPump (h : Hw) (d n : Nat) : (h.pinned d n).onlyPump h := pinAction_onlyPump ..

theorem pinned_onlyAt (h : Hw) (d n : Nat) (ks : List Nat) : (h.pinned d n).onlyAt h ks := sameRegs_onlyAt (pinAction_sameRegs ..)

/-- The completion of an instruction writes none of this field. -/
def Fld.besideFinish (F : Fld) : Bool :=
  (R.PMP_STAT_IP.apart F || R.PMP_STAT_IP.beside F && R.PMP_STAT_STATE.beside F && R.PMP_STAT_PBUSY.beside F &&
    R.PMP_STAT_GBUSY.beside F && R.PMP_STAT_MIDSHIFT.beside F) && (R.PMP_CNT_PCT.apart F || R.PMP_CNT_PCT.beside F)

theorem issued_rd (h g : Hw) (d n : Nat) (F : Fld) (i : Nat) : (h.issued d n g).rd d F i = g.rd d F i := setPump_rd ..

theorem issued_finish_rd (h f : Hw) (d n : Nat) (t : Option Nat) (F : Fld) (kept : F.besideFinish = true) :
    (h.issued d n (f.finish d n t)).rd d F n = f.rd d F n := by
  simp only [Fld.besideFinish, Bool.and_eq_true, Bool.or_eq_true] at kept
  obtain ⟨stat, cnt⟩ := kept
  obtain ⟨a, b, c, e, regs⟩ := finish_rd f d n t F n
  rw [issued_rd, regs]
  have count : ∀ z : Hw, (z.wr d R.PMP_CNT_PCT a n).rd d F n = z.rd d F n := fun z =>
    cnt.elim (rd_wr_apart _ _ _ _ _ _ _) (rd_wr_beside _ _ _ _ _ _ _)
  obtain apart | ⟨⟨⟨⟨ip, state⟩, pbusy⟩, gbusy⟩, shift⟩ := stat
  · have state : R.PMP_STAT_STATE.apart F = true := apart
    have pbusy : R.PMP_STAT_PBUSY.apart F = true := apart
    have gbusy : R.PMP_STAT_GBUSY.apart F = true := apart
    have shift : R.PMP_STAT_MIDSHIFT.apart F = true := apart
    rw [rd_wr_apart _ _ _ _ _ _ _ shift, rd_wr_apart _ _ _ _ _ _ _ gbusy, rd_wr_apart _ _ _ _ _ _ _ pbusy, count,
      rd_wr_apart _ _ _ _ _ _ _ apart, rd_wr_apart _ _ _ _ _ _ _ state]
  · rw [rd_wr_beside _ _ _ _ _ _ _ shift, rd_wr_beside _ _ _ _ _ _ _ gbusy, rd_wr_beside _ _ _ _ _ _ _ pbusy, count,
      rd_wr_beside _ _ _ _ _ _ _ ip, rd_wr_beside _ _ _ _ _ _ _ state]

theorem issued_finish_pump (h f : Hw) (d n : Nat) (t : Option Nat) : (h.issued d n (f.finish d n t)).pump d n =
    { f.pump d n with wait := none, prevIn := h.inSample d n } := by
  unfold Hw.issued
  rw [setPump_pump, finish_pump]

theorem pinned_pump (h : Hw) (d n e m : Nat) : (h.pinned d n).pump e m = h.pump e m := pinAction_pump ..

theorem pinned_encodeGroups (h : Hw) (d n x m k : Nat) (p : Bool) :
    (h.pinned d n).encodeGroups d n x m k p = h.encodeGroups d n x m k p := encodeGroups_congr (pinAction_sameRegs ..) ..

theorem pinned_decodeGroups (h : Hw) (d n x m k : Nat) (p : Bool) :
    (h.pinned d n).decodeGroups d n x m k p = h.decodeGroups d n x m k p := decodeGroups_congr (pinAction_sameRegs ..) ..

/-- A flag of PMP_STAT lies beside its address. -/
theorem stopPend_nextIp (h : Hw) (d n : Nat) : (h.flag d R.PMP_STAT_STOPPEND n).nextIp d n = h.nextIp d n := by
  have ip := rd_wr_beside h d R.PMP_STAT_STOPPEND R.PMP_STAT_IP 1 n 0 rfl
  have wrap := rd_wr_apart h d R.PMP_STAT_STOPPEND R.PMP_FLOW_WRAPIP 1 n 0 rfl
  have wrapTo := rd_wr_apart h d R.PMP_STAT_STOPPEND R.PMP_FLOW_WRAPTO 1 n 0 rfl
  unfold Hw.nextIp Hw.flag
  rw [ip, wrap, wrapTo]

theorem setPump_target (h : Hw) (d n : Nat) (x : Pump) (t : Option Nat) : (h.setPump d n x).target d n t = h.target d n t := by
  cases t with
  | none => exact nextIp_setPump ..
  | some t => rfl

theorem flag_rd_self (h : Hw) (d : Nat) (F : Fld) (i : Nat) (fits : decide (F.lo + F.w ≤ 32) = true) (bit : F.w = 1) :
    (h.flag d F i).rd d F i = 1 := by
  rw [Hw.flag, rd_wr _ _ _ _ _ _ fits, bit]
  rfl

section
variable {s : State} {die : Die} {pump : Fin 64} (r : s.ready die) {c : Instr} {want : Nat → Bool} {act : Nat → Hw → Hw}
  (i : s.hw.issuable die.val pump.val want)
include r i

/-- An instruction whose action completes, from what `f` says before its end. -/
theorem ends_at {f : Hw} {t : Option Nat} {ip : Nat} {also : List Nat} {P : Hw → Prop}
    (e : exec c s = s.onDie die fun h => h.issue die.val pump.val .good want act)
    (acts : act (s.hw.pumpArg die.val pump.val) (s.hw.pinned die.val pump.val) = f.finish die.val pump.val t)
    (only : f.onlyPump s.hw)
    (regs : f.onlyAt s.hw (also ++ [R.PMP_STAT_IP.key die.val pump.val 0, R.PMP_CNT_PCT.key die.val pump.val 0]))
    (goes : f.target die.val pump.val t = ip) (lt : ip < 64)
    (p : P (s.hw.issued die.val pump.val (f.finish die.val pump.val t))) :
    Completes c s fun t => P t.hw ∧ t.hw.pumpAt die.val pump.val ip ∧ t.hw.onlyPump s.hw ∧
      t.hw.onlyAt s.hw (also ++ [R.PMP_STAT_IP.key die.val pump.val 0, R.PMP_CNT_PCT.key die.val pump.val 0]) := by
  subst goes
  obtain ⟨stands, kept, same⟩ := issue_finish rfl i acts only lt
  refine complete_of e r ⟨?_, stands, kept, ?_⟩
  · exact same ▸ p
  · have fields : (s.hw.issue die.val pump.val .good want act).onlyAt s.hw
        (also ++ [R.PMP_STAT_IP.key die.val pump.val 0, R.PMP_CNT_PCT.key die.val pump.val 0]) :=
      same ▸ issued_onlyAt _ _ _ _ regs (by simp) (by simp)
    exact fields

/-- As `ends_at`, of an instruction that writes one register and goes on: the field holds the value. -/
theorem ends_wr (F : Fld) (v : Nat) {w : Nat} {also : List Nat}
    (e : exec c s = s.onDie die fun h => h.simple die.val pump.val .good want act)
    (acts : act (s.hw.pumpArg die.val pump.val) (s.hw.pinned die.val pump.val) =
      (s.hw.pinned die.val pump.val).wr die.val F v pump.val)
    (named : F.key die.val pump.val 0 ∈ also ++ [R.PMP_STAT_IP.key die.val pump.val 0, R.PMP_CNT_PCT.key die.val pump.val 0])
    (goes : ((s.hw.pinned die.val pump.val).wr die.val F v pump.val).nextIp die.val pump.val = s.hw.nextIp die.val pump.val)
    (kept : F.besideFinish = true) (fits : decide (F.lo + F.w ≤ 32) = true) (value : low F.w v = w) :
    Completes c s fun t => t.hw.rd die.val F pump.val = w ∧ t.hw.pumpAt die.val pump.val (s.hw.nextIp die.val pump.val) ∧
      t.hw.onlyPump s.hw ∧
      t.hw.onlyAt s.hw (also ++ [R.PMP_STAT_IP.key die.val pump.val 0, R.PMP_CNT_PCT.key die.val pump.val 0]) := by
  refine ends_at r i (t := none) e (congrArg (·.finish die.val pump.val none) acts) (wr_onlyPump _ _ _ _ _ (pinned_onlyPump ..))
    (wr_onlyAt _ _ _ _ _ named (pinned_onlyAt _ _ _ _)) goes (nextIp_lt ..) (P := fun g => g.rd die.val F pump.val = w) ?_
  rw [issued_finish_rd _ _ _ _ _ _ kept, rd_wr _ _ _ _ _ _ fits, value]

/-- As `ends_at`, of an instruction that does nothing before its end: the loop count stays. -/
theorem ends_plain {t : Option Nat} {ip : Nat}
    (e : exec c s = s.onDie die fun h => h.issue die.val pump.val .good want act)
    (acts : act (s.hw.pumpArg die.val pump.val) (s.hw.pinned die.val pump.val) =
      (s.hw.pinned die.val pump.val).finish die.val pump.val t)
    (goes : (s.hw.pinned die.val pump.val).target die.val pump.val t = ip) (lt : ip < 64) :
    Completes c s fun t => t.hw.rd die.val R.PMP_CNT_LC pump.val = s.hw.rd die.val R.PMP_CNT_LC pump.val ∧
      t.hw.pumpAt die.val pump.val ip ∧ t.hw.onlyPump s.hw ∧
      t.hw.onlyAt s.hw ([] ++ [R.PMP_STAT_IP.key die.val pump.val 0, R.PMP_CNT_PCT.key die.val pump.val 0]) := by
  refine ends_at r i e acts (pinned_onlyPump ..) (pinned_onlyAt _ _ _ _) goes lt
    (P := fun g => g.rd die.val R.PMP_CNT_LC pump.val = s.hw.rd die.val R.PMP_CNT_LC pump.val) ?_
  rw [issued_finish_rd _ _ _ _ _ _ rfl, pinned_rd]

/-- As `ends_at`, of an instruction that writes one register and then the Pump's own state. -/
theorem ends_setPump {f : Hw} {x : Pump} {also : List Nat} {P : Hw → Prop}
    (e : exec c s = s.onDie die fun h => h.simple die.val pump.val .good want act)
    (acts : act (s.hw.pumpArg die.val pump.val) (s.hw.pinned die.val pump.val) = f.setPump die.val pump.val x)
    (only : f.onlyPump s.hw)
    (regs : f.onlyAt s.hw (also ++ [R.PMP_STAT_IP.key die.val pump.val 0, R.PMP_CNT_PCT.key die.val pump.val 0]))
    (goes : f.nextIp die.val pump.val = s.hw.nextIp die.val pump.val)
    (p : ∀ g : Hw, g.pump die.val pump.val = { x with wait := none, prevIn := s.hw.inSample die.val pump.val } →
      (∀ F : Fld, F.besideFinish = true → g.rd die.val F pump.val = f.rd die.val F pump.val) → P g) :
    Completes c s fun t => P t.hw ∧ t.hw.pumpAt die.val pump.val (s.hw.nextIp die.val pump.val) ∧ t.hw.onlyPump s.hw ∧
      t.hw.onlyAt s.hw (also ++ [R.PMP_STAT_IP.key die.val pump.val 0, R.PMP_CNT_PCT.key die.val pump.val 0]) := by
  refine ends_at r i (t := none) e (congrArg (·.finish die.val pump.val none) acts) (setPump_onlyPump _ _ _ only) (setPump_onlyAt _ _ _ regs)
    ((setPump_target ..).trans goes) (nextIp_lt ..) (p _ ?_ fun F kept => ?_)
  · rw [issued_finish_pump, setPump_pump]
  · rw [issued_finish_rd _ _ _ _ _ _ kept, setPump_rd]

end

/-- The stage state after STUFF. -/
def stuffed (a : Nat) (x : Pump) : Pump :=
  let x := if bit a 0 then { x with pourRun := 0 } else x
  if bit a 1 then { x with gathRun := 0, flag := false, abort := false } else x

theorem stuffed_pour {a : Nat} {x : Pump} (pour : bit a 0 = true) : (stuffed a x).pourRun = 0 := by
  unfold stuffed
  rw [if_pos pour]
  split <;> rfl

theorem stuffed_gath {a : Nat} {x : Pump} (gath : bit a 1 = true) :
    (stuffed a x).gathRun = 0 ∧ (stuffed a x).flag = false ∧ (stuffed a x).abort = false := by
  unfold stuffed
  rw [if_pos gath]
  exact ⟨rfl, rfl, rfl⟩

/-- Settles O22: each instruction's effect before its end, then its end. -/
theorem pumpCountCodeAndControl : Obligations.PumpCountCodeAndControl := by
  intro s die pump r h d n a q goes
  have stat : R.PMP_CNT_LC.key d n 0 ∈ [] ++ [R.PMP_STAT_IP.key d n 0, R.PMP_CNT_PCT.key d n 0] := .tail _ (.head _)
  have head : ∀ (k : Nat) (ks : List Nat), k ∈ [k] ++ ks := fun _ _ => .head _
  have next : ∀ (F : Fld) (v : Nat), F.apart R.PMP_STAT_IP = true → F.apart R.PMP_FLOW_WRAPIP = true →
      (q.wr d F v n).nextIp d n = h.nextIp d n := fun F v ip wrap => (nextIp_wr _ _ _ _ _ ip wrap).trans (nextIp_pinned ..)
  have lt : h.nextIp d n < 64 := nextIp_lt ..
  refine ⟨fun i => ?nop, fun i => ?test, fun i => ?load, fun i => ?loadX, fun i => ?decrement, fun i => ?signal, fun i => ?init,
    fun i => ?feed, fun i => ?final, fun i => ?stuff, fun i => ?encode, fun i => ?decode, fun i => ?halt⟩
  case nop => exact ends_plain r i (t := none) (act := fun _ h => h.finish d n none) rfl rfl (nextIp_pinned ..) lt
  case test =>
    refine ends_plain r i (t := if q.testHolds d n (bits a 11 5) (bits a 6 5) then some (low 6 a) else none) rfl ?_ ?_ ?_
    · rfl
    · rw [apply_ite (q.target d n)]
      exact congrArg _ (nextIp_pinned ..)
    · split
      · exact low_lt ..
      · exact lt
  case load =>
    have fits : low 14 a < 2 ^ 16 := (low_lt 14 a).trans (by decide)
    refine ends_wr r i R.PMP_CNT_LC (low 14 a) rfl ?_ stat (next R.PMP_CNT_LC (low 14 a) rfl rfl) rfl rfl (low_of_lt fits)
    rfl
  case loadX =>
    refine ends_wr r i R.PMP_CNT_LC (low 16 (h.rd d R.PMP_X_VALUE n)) rfl ?_ stat (next _ _ rfl rfl) rfl rfl
      (low_of_lt (low_lt ..))
    rw [pinned_rd]
  case decrement =>
    intro lc
    have fits : lc < 2 ^ 16 := Nat.lt_of_le_of_lt (Nat.sub_le _ 1) (rd_lt h d R.PMP_CNT_LC n 0)
    refine ends_at r i (f := q.wr d R.PMP_CNT_LC lc n) (t := if lc = 0 then none else some (low 6 a)) rfl ?_
      (wr_onlyPump _ _ _ _ _ (pinned_onlyPump ..)) (wr_onlyAt _ _ _ _ _ stat (pinned_onlyAt _ _ _ _)) ?_ ?_
      (P := fun g => g.rd d R.PMP_CNT_LC n = lc) ?_
    · rw [pinned_rd]
    · split
      · exact next _ _ rfl rfl
      · rfl
    · split
      · exact lt
      · exact low_lt ..
    · rw [issued_finish_rd _ _ _ _ _ _ rfl, rd_wr _ _ _ _ _ _ rfl]
      exact low_of_lt fits
  case signal =>
    let also := (List.range 64).flatMap fun m => [R.PMP_PEND_SIGP.key d m 0, R.PMP_ERR_SIGOVR.key d m 0]
    have named : ∀ m < 64, ∀ k ∈ [R.PMP_PEND_SIGP.key d m 0, R.PMP_ERR_SIGOVR.key d m 0],
        k ∈ also ++ [R.PMP_STAT_IP.key d n 0, R.PMP_CNT_PCT.key d n 0] := fun m lt k mem =>
      List.mem_append_left _ (List.mem_flatMap.mpr ⟨m, List.mem_range.mpr lt, mem⟩)
    refine ends_at r i (act := fun a h => (h.raiseSignal d (low 5 a)).finish d n none) (t := none) (also := also) rfl rfl ?_ ?_ ?_ lt
      (P := fun g => bit (h.rd d R.PMP_SIGSUB_SUB n) (low 5 a) = true → bit (g.rd d R.PMP_PEND_SIGP n) (low 5 a) = true)
      fun subscribed => ?_
    · exact raiseSignal_keeps _ _ _ (·.onlyPump h) (fun _ _ _ => wr_onlyPump _ _ _ _ _) (fun _ _ => wr_onlyPump _ _ _ _ _)
        (pinned_onlyPump ..)
    · exact raiseSignal_onlyAt _ _ (fun m lt => named m lt _ (.head _)) (fun m lt => named m lt _ (.tail _ (.head _)))
        (pinned_onlyAt _ _ _ _)
    · exact raiseSignal_keeps _ _ _ (·.nextIp d n = h.nextIp d n)
        (fun _ _ _ => (nextIp_wr_any _ _ _ _ _ R.PMP_PEND_SIGP (by decide)).trans)
        (fun _ _ => (nextIp_wr_any _ _ _ _ _ R.PMP_ERR_SIGOVR (by decide)).trans) (nextIp_pinned ..)
    · rw [issued_finish_rd _ _ _ _ _ _ rfl]
      exact signal_pending q d n _ pump.isLt (low_lt ..) (by rwa [pinned_rd])
  case init =>
    refine ends_wr r i R.PMP_CRCACC_VALUE (h.rd d R.PMP_CRCINIT_VALUE n) rfl ?_ (head _ _) (next _ _ rfl rfl) rfl rfl
      (low_of_lt (rd_lt ..))
    rw [pinned_rd]
  case feed =>
    refine ends_wr r i R.PMP_CRCACC_VALUE ((feedBits (q.pumpSource d n (bits a 10 3)) (bitCount a) (h.on d R.PMP_CRCCFG_REFIN n)).foldl
      (crcBit (h.rd d R.PMP_CRCCFG_WIDTH n) (h.rd d R.PMP_CRCPOLY_POLY n) (h.on d R.PMP_CRCCFG_REFIN n)) (h.rd d R.PMP_CRCACC_VALUE n))
      rfl ?_ (head _ _) (next _ _ rfl rfl) rfl rfl rfl
    simp only [Hw.crcFeed, Hw.on, pinned_rd]
    rfl
  case final =>
    refine ends_wr r i R.PMP_X_VALUE (h.rd d R.PMP_CRCACC_VALUE n ^^^ h.rd d R.PMP_CRCXOR_VALUE n) rfl ?_ (head _ _)
      (next _ _ rfl rfl) rfl rfl (low_of_lt (Nat.xor_lt_two_pow (rd_lt ..) (rd_lt ..)))
    rw [pinned_rd, pinned_rd]
  case stuff =>
    refine ends_setPump r i (f := q) (x := stuffed a (h.pump d n)) rfl ?_ (pinned_onlyPump ..) (pinned_onlyAt _ _ _ _)
      (nextIp_pinned ..) (P := fun g => (bit a 0 = true → (g.pump d n).pourRun = 0) ∧
        (bit a 1 = true → (g.pump d n).gathRun = 0 ∧ (g.pump d n).flag = false ∧ (g.pump d n).abort = false))
      fun g own regs => ⟨fun pour => ?_, fun gath => ?_⟩
    · rw [pinned_pump]
      rfl
    · rw [own]
      exact stuffed_pour pour
    · rw [own]
      exact stuffed_gath gath
  case encode =>
    have ⟨_, _, code, legal⟩ := i
    obtain ⟨⟨v, p⟩, encoded⟩ := encode_legal code legal
    refine ⟨v, p, encoded, ends_setPump r i (f := q.wr d R.PMP_PS_VALUE v n) (x := { h.pump d n with enc := p }) rfl ?_
      (wr_onlyPump _ _ _ _ _ (pinned_onlyPump ..)) (wr_onlyAt _ _ _ _ _ (head _ _) (pinned_onlyAt _ _ _ _)) (next _ _ rfl rfl)
      (P := fun g => g.rd d R.PMP_PS_VALUE n = low 32 v ∧ (g.pump d n).enc = p)
      fun g own regs => ⟨(regs _ rfl).trans (rd_wr _ _ _ _ _ _ rfl), by rw [own]⟩⟩
    rw [pinned_rd, pinned_pump, pinned_encodeGroups, show s.hw.encodeGroups die.val pump.val
      (s.hw.rd die.val R.PMP_X_VALUE pump.val) (bits (s.hw.pumpArg die.val pump.val) 1 5) 0 (s.hw.pump die.val pump.val).enc = some (v, p)
      from encoded]
  case decode =>
    intro x
    refine ends_setPump r i (f := q.wr d R.PMP_X_VALUE x.1 n) (x := { h.pump d n with dec := x.2.1, codeErr := !x.2.2 }) rfl ?_
      (wr_onlyPump _ _ _ _ _ (pinned_onlyPump ..)) (wr_onlyAt _ _ _ _ _ (head _ _) (pinned_onlyAt _ _ _ _)) (next _ _ rfl rfl)
      (P := fun g => g.rd d R.PMP_X_VALUE n = low 32 x.1 ∧ (g.pump d n).dec = x.2.1 ∧ (g.pump d n).codeErr = !x.2.2)
      fun g own regs => ⟨(regs _ rfl).trans (rd_wr _ _ _ _ _ _ rfl), by rw [own], by rw [own]⟩
    rw [pinned_rd, pinned_pump, pinned_decodeGroups]
  case halt =>
    refine ends_at r i (f := q.flag d R.PMP_STAT_STOPPEND n) (act := fun _ h => (h.flag d R.PMP_STAT_STOPPEND n).finish d n none)
      (t := none) rfl rfl (wr_onlyPump _ _ _ _ _ (pinned_onlyPump ..))
      (wr_onlyAt _ _ _ _ _ (.head _) (pinned_onlyAt _ _ _ _)) ?_ lt (P := fun g => g.rd d R.PMP_STAT_STOPPEND n = 1) ?_
    · exact (stopPend_nextIp ..).trans (nextIp_pinned ..)
    · rw [issued_finish_rd _ _ _ _ _ _ rfl]
      exact flag_rd_self _ _ _ _ rfl rfl

end Sys2Proof.Machine
end

section
/-!
PROOFS. Pump instructions that use the stages, the queues and the waits.
-/

namespace Sys2Proof.Machine

theorem onlyPump_self (h : Hw) : h.onlyPump h := rfl

theorem onlyAt_self (h : Hw) (ks : List Nat) : h.onlyAt h ks := fun _ _ => rfl

/-- What an instruction that may issue gives. -/
theorem gives_issued {s : State} {die : Die} {pump : Fin 64} (r : s.ready die) {c : Instr} {want : Nat → Bool} {act : Nat → Hw → Hw}
    (i : s.hw.issuable die.val pump.val want) {g : Hw} (e : exec c s = s.onDie die fun h => h.issue die.val pump.val .good want act)
    (acts : act (s.hw.pumpArg die.val pump.val) (s.hw.pinned die.val pump.val) = g) :
    Gives c s (s.hw.issued die.val pump.val g) :=
  gives_of e r (acts ▸ issue_of_issuable act i)

theorem issued_pump (h g : Hw) (d n : Nat) : (h.issued d n g).pump d n = { g.pump d n with prevIn := h.inSample d n } := setPump_pump ..

/-- An instruction that makes the Pump wait: STATE and the wait it is in, and nothing but the fields of the stages written. -/
theorem waits_completes {s : State} {die : Die} {pump : Fin 64} (r : s.ready die) {c : Instr} {want : Nat → Bool} {act : Nat → Hw → Hw}
    (i : s.hw.issuable die.val pump.val want) {w : PumpWait}
    (e : exec c s = s.onDie die fun h => h.issue die.val pump.val .good want act)
    (acts : act (s.hw.pumpArg die.val pump.val) (s.hw.pinned die.val pump.val) = (s.hw.pinned die.val pump.val).pumpWaits die.val pump.val w) :
    Completes c s fun t => t.hw.pumpState die.val pump.val = 2 ∧ (t.hw.pump die.val pump.val).wait = some w ∧ t.hw.onlyPump s.hw ∧
      t.hw.onlyAt s.hw [R.PMP_STAT_IP.key die.val pump.val 0, R.PMP_CNT_PCT.key die.val pump.val 0] := by
  refine gives_complete (gives_issued r i e acts) ⟨?_, ?_, waits_onlyPump .., ?_⟩
  · exact (issued_rd ..).trans (pumpWaits_state ..)
  · rw [issued_pump, pumpWaits_pump]
  · exact setPump_onlyAt _ _ _ (pumpWaits_onlyAt _ _ _ (.head _) (.tail _ (.head _)) (pinned_onlyAt _ _ _ _))

theorem finish_wait (h : Hw) (d n : Nat) (t : Option Nat) : ((h.finish d n t).pump d n).wait = none := by rw [finish_pump]

/-- An instruction that jumps leaves the Pump at its target. -/
theorem jump_at {h : Hw} {d n t : Nat} (lt : t < 64) : (h.finish d n (some t)).pumpAt d n t := finish_at h d n (some t) lt

/-- Where a completed AWAIT leaves the Pump. -/
theorem consume_finish_at (h : Hw) (d n a : Nat) : ((h.consume d n a).finish d n none).pumpAt d n (h.nextIp d n) := by
  have goes : (h.consume d n a).target d n none = h.nextIp d n := (target_none ..).trans (consume_nextIp ..)
  exact goes ▸ finish_at _ d n none (goes ▸ nextIp_lt ..)

theorem shiftStageFree_pour {d n : Nat} {h : Hw} (bad : Bool) (waits : (h.pump d n).wait = some .pour) (idle : (h.pump d n).pour = none) :
    shiftStageFree d n bad h = if bad then h.faultPump d n true else (h.loadPour d n (h.pumpArg d n)).finish d n none := by
  simp only [shiftStageFree, waits, idle, Option.isNone_none, if_true]
  rfl

theorem shiftStageFree_gather {d n : Nat} {h : Hw} (bad : Bool) (waits : (h.pump d n).wait = some .gather)
    (idle : (h.pump d n).gather = none) :
    shiftStageFree d n bad h = if bad then h.faultPump d n true else (h.armGather d n (h.pumpArg d n)).finish d n none := by
  simp only [shiftStageFree, waits, idle, Option.isNone_none, if_true]
  rfl

theorem storeCreditWaitEnd_bad {d n k : Nat} {w : Word} {h : Hw} (u : Upset) (waits : (h.pump d n).wait = some (.store k w)) :
    storeCreditWaitEnd d n u true h = h.faultPump d n true := by
  simp only [storeCreditWaitEnd, waits, if_true]

theorem storeCreditWaitEnd_stored {d n k : Nat} {w : Word} {u : Upset} {h : Hw} (waits : (h.pump d n).wait = some (.store k w))
    (credit : (h.localWord d (pumpQ n k) w u).1 = true) :
    storeCreditWaitEnd d n u false h = (h.localWord d (pumpQ n k) w u).2.finish d n none := by
  have stored : h.localWord d (pumpQ n k) w u = (true, (h.localWord d (pumpQ n k) w u).2) := Prod.ext credit rfl
  simp only [storeCreditWaitEnd, waits, Bool.false_eq_true, if_false]
  rw [stored]

/-- An illegal instruction faults the Pump. -/
theorem issue_illegal {h : Hw} {d n : Nat} {want : Nat → Bool} (act : Nat → Hw → Hw) (runs : h.pumpState d n = 1)
    (good : (h.pump d n).bad.contains (h.rd d R.PMP_STAT_IP n) = false) (wants : want (h.pumpWord d n) = true)
    (illegal : h.illegalNow d n (h.pumpWord d n) = true) : h.issue d n .good want act = h.faultPump d n false := by
  unfold Hw.issue
  simp only [runs, good, wants, illegal, if_true, reduceCtorEq, or_self, Bool.false_eq_true, if_false, not_true_eq_false]

theorem pumpAwait_eq {h : Hw} {d n : Nat} (i : h.issuable d n (isOp 0x05)) (was : Option Bool) : pumpAwait d n .good was h =
    h.issued d n (if (h.pinned d n).awaitHolds d n (h.pumpArg d n) was
      then whenDo ((h.pinned d n).firstTimeout d n (h.pumpArg d n)) (fun g => g.bump d R.PMP_CNTA_MARGIN 1 n)
        (((h.pinned d n).consume d n (h.pumpArg d n)).finish d n none)
      else if (h.pinned d n).firstTimeout d n (h.pumpArg d n) then (h.pinned d n).finish d n (some (low 6 (h.pumpArg d n)))
      else (h.pinned d n).pumpWaits d n .await) := issue_of_issuable _ i

/-- A met AWAIT ends as it stands, or with its signal line or phase channel consumed. -/
theorem awaitMet_sees {h : Hw} {d n : Nat} (waits : (h.pump d n).wait = some .await) (sees : h.awaitSees d n (h.pumpArg d n) = true)
    (again : Bool) : ∃ f : Hw, awaitMet d n again false h = f.finish d n none ∧ f.nextIp d n = h.nextIp d n ∧ f.onlyPump h ∧
      ∀ ks, R.PMP_PEND_SIGP.key d n 0 ∈ ks → R.PMP_PHPEND_PHP.key d n 0 ∈ ks → f.onlyAt h ks := by
  have met : awaitMet d n again false h = (if again then h else h.consume d n (h.pumpArg d n)).finish d n none := by
    simp only [awaitMet, Bool.false_eq_true, false_and, if_false]
    exact if_pos ⟨waits, sees⟩
  cases again with
  | false => exact ⟨_, met, consume_nextIp .., consume_onlyPump _ _ _ rfl, fun ks sig ph => consume_onlyAt _ _ _ sig ph fun _ _ => rfl⟩
  | true => exact ⟨_, met, rfl, rfl, fun _ _ _ _ _ => rfl⟩

/-- A waiting AWAIT that times out jumps. -/
theorem awaitTimeout_jumps {h : Hw} {d n : Nat} (waits : (h.pump d n).wait = some .await) (tmo : bit (h.pumpArg d n) 7 = true) :
    ∃ g : Hw, awaitTimeout d n false false h = g ∧ g.pumpAt d n (low 6 (h.pumpArg d n)) ∧ (g.pump d n).wait = none ∧
      g.onlyPump h ∧ g.onlyAt h [R.PMP_STAT_IP.key d n 0, R.PMP_CNT_PCT.key d n 0] := by
  refine ⟨h.finish d n (some (low 6 (h.pumpArg d n))), ?_, jump_at (low_lt 6 _), finish_wait .., finish_onlyPump _ _ _ (onlyPump_self h),
    finish_onlyAt _ _ _ (.head _) (.tail _ (.head _)) (onlyAt_self _ _)⟩
  simp only [awaitTimeout, Bool.false_eq_true, false_and, if_false]
  exact if_pos ⟨waits, tmo⟩

/-- A count beside the Pump's place. -/
theorem margin_at {h : Hw} {d n ip : Nat} (t : Bool) (stands : h.pumpAt d n ip) :
    (whenDo t (fun g => g.bump d R.PMP_CNTA_MARGIN 1 n) h).pumpAt d n ip := by
  unfold whenDo
  split
  · exact pumpAt_wr R.PMP_CNTA_MARGIN _ rfl stands
  · exact stands

theorem margin_onlyPump {g h : Hw} (d n : Nat) (t : Bool) (e : g.onlyPump h) :
    (whenDo t (fun g => g.bump d R.PMP_CNTA_MARGIN 1 n) g).onlyPump h := by
  unfold whenDo
  split
  · exact wr_onlyPump _ _ _ _ _ e
  · exact e

theorem margin_onlyAt {g h : Hw} {ks : List Nat} (d n : Nat) (t : Bool) (named : R.PMP_CNTA_MARGIN.key d n 0 ∈ ks) (e : g.onlyAt h ks) :
    (whenDo t (fun g => g.bump d R.PMP_CNTA_MARGIN 1 n) g).onlyAt h ks := by
  unfold whenDo
  split
  · exact wr_onlyAt _ _ _ _ _ named e
  · exact e

section
variable {s : State} {die : Die} {pump : Fin 64} (r : s.ready die)
include r

/-- AWAIT completes, times out in its first cycle, or waits. -/
theorem await_completes (i : s.hw.issuable die.val pump.val (isOp 0x05)) (was : Option Bool) :
    let h := s.hw
    let d := die.val
    let n := pump.val
    let a := h.pumpArg d n
    let q := h.pinned d n
    Completes (.await die pump .good was) s fun t => t.hw.onlyPump h ∧
      t.hw.onlyAt h (R.PMP_CNTA_MARGIN.key d n 0 :: [R.PMP_PEND_SIGP.key d n 0, R.PMP_PHPEND_PHP.key d n 0] ++
        [R.PMP_STAT_IP.key d n 0, R.PMP_CNT_PCT.key d n 0]) ∧
      if q.awaitHolds d n a was then t.hw.pumpAt d n (h.nextIp d n)
      else if q.firstTimeout d n a then t.hw.pumpAt d n (low 6 a)
      else t.hw.pumpState d n = 2 ∧ (t.hw.pump d n).wait = some .await := by
  intro h d n a q
  let stat := [R.PMP_STAT_IP.key d n 0, R.PMP_CNT_PCT.key d n 0]
  let signals := [R.PMP_PEND_SIGP.key d n 0, R.PMP_PHPEND_PHP.key d n 0]
  have mem : ∀ k ∈ stat, k ∈ R.PMP_CNTA_MARGIN.key d n 0 :: signals ++ stat := fun k => List.mem_append_right _
  have ip := mem _ (.head _)
  have cnt := mem _ (.tail _ (.head _))
  by_cases holds : q.awaitHolds d n a was = true
  · refine gives_complete (gives_of rfl r ((pumpAwait_eq i was).trans (congrArg _ (if_pos holds)))) ?_
    rw [if_pos holds]
    have stands : ((q.consume d n a).finish d n none).pumpAt d n (h.nextIp d n) :=
      nextIp_pinned h d n ▸ consume_finish_at q d n a
    exact ⟨issued_onlyPump _ _ (margin_onlyPump _ _ _ (finish_onlyPump _ _ _ (consume_onlyPump _ _ _ (pinned_onlyPump ..)))),
      setPump_onlyAt _ _ _ (margin_onlyAt _ _ _ (.head _) (finish_onlyAt _ _ _ ip cnt
        (consume_onlyAt _ _ _ (.tail _ (.head _)) (.tail _ (.tail _ (.head _))) (pinned_onlyAt _ _ _ _)))),
      pumpAt_setPump _ (margin_at _ stands)⟩
  by_cases late : q.firstTimeout d n a = true
  · refine gives_complete (gives_of rfl r ((pumpAwait_eq i was).trans (congrArg _ ((if_neg holds).trans (if_pos late))))) ?_
    rw [if_neg holds, if_pos late]
    exact ⟨issued_onlyPump _ _ (finish_onlyPump _ _ _ (pinned_onlyPump ..)),
      setPump_onlyAt _ _ _ (finish_onlyAt _ _ _ ip cnt (pinned_onlyAt _ _ _ _)), pumpAt_setPump _ (jump_at (low_lt 6 a))⟩
  · refine gives_complete (gives_of rfl r ((pumpAwait_eq i was).trans (congrArg _ ((if_neg holds).trans (if_neg late))))) ?_
    rw [if_neg holds, if_neg late]
    refine ⟨waits_onlyPump .., setPump_onlyAt _ _ _ (pumpWaits_onlyAt _ _ _ ip cnt (pinned_onlyAt _ _ _ _)),
      (issued_rd ..).trans (pumpWaits_state ..), ?_⟩
    rw [issued_pump, pumpWaits_pump]

/-- A waiting AWAIT whose condition holds completes. -/
theorem awaitConditionMet_completes (waits : (s.hw.pump die.val pump.val).wait = some .await)
    (sees : s.hw.awaitSees die.val pump.val (s.hw.pumpArg die.val pump.val) = true) (again : Bool) :
    Completes (.awaitConditionMet die pump again false) s fun t =>
      t.hw.pumpAt die.val pump.val (s.hw.nextIp die.val pump.val) ∧ (t.hw.pump die.val pump.val).wait = none ∧ t.hw.onlyPump s.hw ∧
      t.hw.onlyAt s.hw ([R.PMP_PEND_SIGP.key die.val pump.val 0, R.PMP_PHPEND_PHP.key die.val pump.val 0] ++
        [R.PMP_STAT_IP.key die.val pump.val 0, R.PMP_CNT_PCT.key die.val pump.val 0]) := by
  obtain ⟨f, met, goes, only, regs⟩ := awaitMet_sees waits sees again
  have goes : f.target die.val pump.val none = s.hw.nextIp die.val pump.val := goes
  refine gives_complete (gives_of rfl r met) ⟨goes ▸ finish_at f _ _ none (goes ▸ nextIp_lt ..), finish_wait f _ _ none,
    finish_onlyPump _ _ none only, finish_onlyAt _ _ none ?_ ?_ (regs _ (.head _) (.tail _ (.head _)))⟩
  · exact List.mem_append_right _ (.head _)
  · exact List.mem_append_right _ (.tail _ (.head _))

/-- A waiting AWAIT that times out jumps. -/
theorem awaitTimeout_completes (waits : (s.hw.pump die.val pump.val).wait = some .await)
    (tmo : bit (s.hw.pumpArg die.val pump.val) 7 = true) : Completes (.awaitTimeout die pump false false) s fun t =>
      t.hw.pumpAt die.val pump.val (low 6 (s.hw.pumpArg die.val pump.val)) ∧ (t.hw.pump die.val pump.val).wait = none ∧
      t.hw.onlyPump s.hw ∧ t.hw.onlyAt s.hw [R.PMP_STAT_IP.key die.val pump.val 0, R.PMP_CNT_PCT.key die.val pump.val 0] := by
  obtain ⟨g, jumped, facts⟩ := awaitTimeout_jumps waits tmo
  exact gives_complete (gives_of rfl r jumped) facts

end

/-- Settles O23: each instruction's action on the pinned hardware, each boundary's own branch. -/
theorem pumpStagesAndWaits : Obligations.PumpStagesAndWaits := by
  intro s die pump r h d n a q stat signals
  refine ⟨fun i u => ?draw, fun i idle => ?pour, fun i busy => ?pourWaits, fun i idle => ?gather, fun i busy => ?gatherWaits,
    fun i was => ?await, fun waits sees again => ?met, fun waits tmo => ?timeout, fun runs good illegal => ?illegal,
    fun waits idle => ?pourFree, fun waits idle => ?gatherFree, ?emits, fun samples => ?delivers, fun k w u waits credit => ?stores,
    fun waits => ?awaitBad, fun busy => ?emitBad, fun busy samples => ?deliverBad, fun free => ?freeBad, fun k w u waits => ?storeBad⟩
  case draw =>
    intro F iq m g x y
    have taken : drawWord d n (bit a 0) u q = x := drawWord_eq ..
    have loads : F.besideFinish = true ∧ decide (F.lo + F.w ≤ 32) = true ∧ F.w = 32 := by
      simp only [F]
      split <;> exact ⟨rfl, rfl, rfl⟩
    obtain ⟨beside, fits, wide⟩ := loads
    refine ⟨gives_issued r i (act := fun a h => ((drawWord d n (bit a 0) u h).2.wr d (if bit a 1 then R.PMP_X_VALUE else R.PMP_PS_VALUE)
      (drawWord d n (bit a 0) u h).1.toNat n).finish d n none) rfl (congrArg (fun x => (x.2.wr d F x.1.toNat n).finish d n none) taken), ?_⟩
    simp only [y]
    rw [issued_finish_rd _ _ _ _ _ _ beside, rd_wr _ _ _ _ _ _ fits, wide]
    exact low_of_lt x.1.isLt
  case pour =>
    refine gives_issued r i (act := fun a h => if (h.pump d n).pour.isSome then h.pumpWaits d n .pour
      else ((h.loadPour d n a).emit d n).finish d n none) rfl (if_neg ?_)
    rw [pinned_pump, idle]
    decide
  case pourWaits =>
    refine waits_completes r i (act := fun a h => if (h.pump d n).pour.isSome then h.pumpWaits d n .pour
      else ((h.loadPour d n a).emit d n).finish d n none) rfl (if_pos ?_)
    rw [pinned_pump]
    exact Option.isSome_iff_ne_none.mpr busy
  case gather =>
    refine gives_issued r i (act := fun a h => if (h.pump d n).gather.isSome then h.pumpWaits d n .gather
      else ((h.armGather d n a).takeSample d n (h.inSample d n)).finish d n none) rfl (if_neg ?_)
    rw [pinned_pump, idle]
    decide
  case gatherWaits =>
    refine waits_completes r i (act := fun a h => if (h.pump d n).gather.isSome then h.pumpWaits d n .gather
      else ((h.armGather d n a).takeSample d n (h.inSample d n)).finish d n none) rfl (if_pos ?_)
    rw [pinned_pump]
    exact Option.isSome_iff_ne_none.mpr busy
  case await =>
    exact await_completes r i was
  case met =>
    exact awaitConditionMet_completes r waits sees again
  case timeout =>
    exact awaitTimeout_completes r waits tmo
  case illegal =>
    exact gives_of rfl r (issue_illegal _ runs good illegal illegal)
  case pourFree =>
    exact gives_of rfl r ((shiftStageFree_pour false waits idle).trans (if_neg Bool.false_ne_true))
  case gatherFree =>
    exact gives_of rfl r ((shiftStageFree_gather false waits idle).trans (if_neg Bool.false_ne_true))
  case emits => exact gives_of rfl r rfl
  case delivers => exact gives_of rfl r rfl
  case stores =>
    exact gives_of rfl r (storeCreditWaitEnd_stored waits credit)
  case awaitBad =>
    exact ⟨fun again => gives_of rfl r (if_pos ⟨rfl, waits⟩), fun holds => gives_of rfl r (if_pos ⟨rfl, waits⟩)⟩
  case emitBad =>
    exact gives_of rfl r (if_pos busy)
  case deliverBad =>
    exact gives_of rfl r (if_pos busy)
  case freeBad =>
    obtain ⟨waits, idle⟩ | ⟨waits, idle⟩ := free
    · exact gives_of rfl r ((shiftStageFree_pour true waits idle).trans (if_pos rfl))
    · exact gives_of rfl r ((shiftStageFree_gather true waits idle).trans (if_pos rfl))
  case storeBad =>
    exact gives_of rfl r (storeCreditWaitEnd_bad u waits)

end Sys2Proof.Machine
end

section
/-!
PROOFS. STORE, the commands of a Pump, and its faults.
-/

namespace Sys2Proof.Machine

/-! ## STORE and the commands -/

section
variable {d n o : Nat} {w : Word} {x : Bool × Hw}

theorem storePlaced_entered (placed : x.1 = true) : storePlaced d n o w x = x.2.finish d n none := if_pos placed

theorem storePlaced_dropped (full : x.1 = false) (drops : x.2.on d R.PMP_CTL_STOREMODE n = true) : storePlaced d n o w x =
    ((x.2.flag d (if o = 1 then R.PMP_ERR_DROP1 else R.PMP_ERR_DROP0) n).bump d R.PMP_CNTB_DROPCR 1 n).finish d n none :=
  (if_neg (Bool.eq_false_iff.mp full)).trans (if_pos drops)

theorem storePlaced_waits (full : x.1 = false) (stalls : x.2.on d R.PMP_CTL_STOREMODE n = false) : storePlaced d n o w x =
    (x.2.bump d R.PMP_CNTA_STALLS 1 n).pumpWaits d n (.store (2 + o) w) :=
  (if_neg (Bool.eq_false_iff.mp full)).trans (if_neg (Bool.eq_false_iff.mp stalls))

end

theorem exec_pumpClear (die : Die) (pump : Fin 64) (o : Origin) (s : State) :
    exec (.pumpClear die pump o) s = s.onReg die o (0x40000 + 0x400 * pump.val) (pumpClear die.val pump.val o) := rfl

theorem exec_pumpCmdReserved (die : Die) (pump : Fin 64) (o : Origin) (s : State) :
    exec (.pumpCmdReserved die pump o) s = s.onReg die o (0x40000 + 0x400 * pump.val) fun h =>
      h.violation die.val o (0x40000 + 0x400 * pump.val) := rfl

/-- Settles O24: each command takes the branch of its condition. -/
theorem pumpStoreAndCommands : Obligations.PumpStoreAndCommands := by
  intro s die pump r h d n a q stat ctl
  refine ⟨fun i u => ?store, fun runs stopped good => ?start, fun starting stopped => ?effect, fun live => ?stop, fun live => ?boundary,
    fun faulted o => ?clear, fun live o => ?refused, fun o => ?reserved, fun pend runs whole l => ?reached, fun pend => ?timeout,
    fun e => ?bad, fun e => ?good⟩
  case store =>
    intro w x
    have stored := c_store u i
    exact ⟨fun placed => gives_of rfl r (stored.trans (congrArg _ (storePlaced_entered placed))),
      fun full drops => gives_of rfl r (stored.trans (congrArg _ (storePlaced_dropped full drops))),
      fun full stalls => gives_of rfl r (stored.trans (congrArg _ (storePlaced_waits full stalls)))⟩
  case start =>
    refine gives_complete (gives_of rfl r (c_start runs stopped good)) ?_
    have facts := c_start2 h d n
    generalize (h.startPump d n).wr d R.PMP_CTL_CMD 1 n = g at facts ⊢
    exact facts
  case effect =>
    refine complete_of rfl r ?_
    have facts := c_eff starting stopped
    generalize pumpStartEffect d n h = g at facts ⊢
    exact facts
  case stop =>
    refine complete_of rfl r ?_
    have facts := c_stop live
    generalize pumpStopNow d n h = g at facts ⊢
    exact facts
  case boundary => exact gives_of rfl r (c_bnd live)
  case clear => exact gives_of_reg (exec_pumpClear ..) r (if_pos faulted)
  case refused => exact gives_of_reg (exec_pumpClear ..) r (if_neg live)
  case reserved => exact gives_of_reg (exec_pumpCmdReserved ..) r rfl
  case reached =>
    refine complete_of rfl r ?_
    have facts := c_reach pend runs whole l
    generalize stopBoundaryReached d n l h = g at facts ⊢
    exact facts
  case timeout => exact gives_of rfl r (if_pos pend)
  case bad => exact gives_of rfl r (if_pos rfl)
  case good => exact gives_of rfl r (if_neg Bool.false_ne_true)

/-! ## Faults -/

theorem on_of_rd {h : Hw} {d : Nat} {F : Fld} {i : Nat} (e : h.rd d F i = 1) : h.on d F i = true := by
  rw [Hw.on, e]
  rfl

/-- The Pump stands Faulted, its stages empty, FIP at the instruction, and the fault reported. -/
def Hw.pumpFaulted (h g : Hw) (d n code : Nat) : Prop :=
  g.pumpState d n = 3 ∧ g.rd d R.PMP_ERR_FIP n = h.rd d R.PMP_STAT_IP n ∧ (g.pump d n).pour = none ∧ (g.pump d n).gather = none ∧
    g.flt.reports = h.flt.reports ++ [⟨d, code, n, h.now, false⟩]

section
variable {s : State} {die : Die} {pump : Fin 64} (r : s.ready die) (runs : s.hw.pumpState die.val pump.val = 1) {c : Instr}
  {want : Hw → Nat → Bool} {act : Nat → Hw → Hw}
include r runs

/-- A word with bad parity faults the Pump and stays marked. -/
theorem badWord_faults (e : exec c s = s.onDie die fun h => h.issue die.val pump.val .word (want h) act) :
    Completes c s fun t => s.hw.pumpFaulted t.hw die.val pump.val 0x20 ∧ t.hw.on die.val R.PMP_ERR_PARITY pump.val = true ∧
      s.hw.rd die.val R.PMP_STAT_IP pump.val ∈ (t.hw.pump die.val pump.val).bad := by
  obtain ⟨regs, flt, now⟩ := markBad_same s.hw die.val pump.val (s.hw.rd die.val R.PMP_STAT_IP pump.val)
  have marked := markBad_pump s.hw die.val pump.val (s.hw.rd die.val R.PMP_STAT_IP pump.val)
  refine gives_complete (gives_of e r (issue_word _ _ _ _ _ runs)) ?_
  generalize s.hw.markBad die.val pump.val (s.hw.rd die.val R.PMP_STAT_IP pump.val) = k at regs flt now marked ⊢
  have live : k.pumpState die.val pump.val ≠ 3 := by
    rw [show k.pumpState die.val pump.val = 1 from (regs.rd ..).trans runs]
    decide
  obtain ⟨⟨state, fip, pour, gather, reports⟩, parity, bad⟩ := faultPump_spec k die.val pump.val pump.isLt true live
  refine ⟨⟨state, fip.trans (regs.rd ..), pour, gather, ?_⟩, on_of_rd parity, bad ▸ marked⟩
  rw [← flt, ← now]
  exact reports

/-- A register with bad parity faults the Pump. -/
theorem badRegister_faults (good : (s.hw.pump die.val pump.val).bad.contains (s.hw.rd die.val R.PMP_STAT_IP pump.val) = false)
    (e : exec c s = s.onDie die fun h => h.issue die.val pump.val .reg (want h) act) :
    Completes c s fun t => s.hw.pumpFaulted t.hw die.val pump.val 0x20 ∧ t.hw.on die.val R.PMP_ERR_PARITY pump.val = true := by
  refine gives_complete (gives_of e r (issue_reg _ _ _ _ _ runs good)) ?_
  obtain ⟨faulted, parity, -⟩ := faultPump_spec s.hw die.val pump.val pump.isLt true (by rw [runs]; decide)
  exact ⟨faulted, on_of_rd parity⟩

/-- An illegal instruction faults the Pump. -/
theorem illegal_faults (good : (s.hw.pump die.val pump.val).bad.contains (s.hw.rd die.val R.PMP_STAT_IP pump.val) = false)
    (illegal : s.hw.illegalNow die.val pump.val (s.hw.pumpWord die.val pump.val) = true) :
    Completes (.illegalInstruction die pump .good) s fun t => s.hw.pumpFaulted t.hw die.val pump.val 0x21 ∧
      t.hw.on die.val R.PMP_ERR_ILLOP pump.val = true := by
  refine gives_complete (gives_of rfl r (issue_illegal _ runs good illegal illegal)) ?_
  obtain ⟨faulted, illop, -⟩ := faultPump_spec s.hw die.val pump.val pump.isLt false (by rw [runs]; decide)
  exact ⟨faulted, on_of_rd illop⟩

end

/-- Command `c` is Pump `n`'s instruction: it runs through the issue of the word at IP. -/
def PumpIssues (c : Instr) (die : Die) (n : Nat) (p : Parity) : Prop :=
  ∃ (want : Hw → Nat → Bool) (act : Nat → Hw → Hw), ∀ s, exec c s = s.onDie die fun h => h.issue die.val n p (want h) act

section
variable {c : Instr} {die : Die} {n : Nat} {p : Parity} {want : Hw → Nat → Bool} {act : Nat → Hw → Hw}

theorem PumpIssues.of_issue (e : ∀ s, exec c s = s.onDie die fun h => h.issue die.val n p (want h) act) : PumpIssues c die n p := ⟨want, act, e⟩

theorem PumpIssues.of_simple {form : Nat → Bool} (e : ∀ s, exec c s = s.onDie die fun h => h.simple die.val n p form act) :
    PumpIssues c die n p := ⟨fun _ => form, fun a h => (act a h).finish die.val n none, e⟩

end

/-- The instructions of a Pump. -/
def pumpInstructions (die : Die) (pump : Fin 64) (p : Parity) (was : Option Bool) (u : Upset) : List Instr :=
  [Instr.nop die pump p, .draw die pump p u, .pour die pump p, .gather die pump p, .store die pump p u, .await die pump p was,
   .loadx die pump p, .loady die pump p, .loadxh die pump p, .loadyh die pump p, .moveOp die pump p, .addOp die pump p,
   .xorOp die pump p, .testOp die pump p, .countLoad die pump p, .countLoadX die pump p, .countDecrement die pump p,
   .signal die pump p, .crcInit die pump p, .crcFeed die pump p, .crcFinal die pump p, .stuff die pump p,
   .codeEncode die pump p, .codeDecode die pump p, .halt die pump p, .illegalInstruction die pump p]

theorem pumpInstructions_issue (die : Die) (pump : Fin 64) (p : Parity) (was : Option Bool) (u : Upset) :
    ∀ c ∈ pumpInstructions die pump p was u, PumpIssues c die pump.val p := by
  simp only [pumpInstructions, List.forall_mem_cons, List.not_mem_nil, false_imp_iff, implies_true, and_true]
  exact ⟨.of_simple fun _ => rfl, .of_simple fun _ => rfl, .of_issue fun _ => rfl, .of_issue fun _ => rfl, .of_issue fun _ => rfl,
    .of_issue fun _ => rfl, .of_simple fun _ => rfl, .of_simple fun _ => rfl, .of_simple fun _ => rfl, .of_simple fun _ => rfl,
    .of_simple fun _ => rfl, .of_simple fun _ => rfl, .of_simple fun _ => rfl, .of_issue fun _ => rfl, .of_simple fun _ => rfl,
    .of_simple fun _ => rfl, .of_issue fun _ => rfl, .of_simple fun _ => rfl, .of_simple fun _ => rfl, .of_simple fun _ => rfl,
    .of_simple fun _ => rfl, .of_simple fun _ => rfl, .of_simple fun _ => rfl, .of_simple fun _ => rfl, .of_simple fun _ => rfl,
    .of_issue fun _ => rfl⟩

/-- Settles O25: whichever the instruction, `issue` faults before its action. -/
theorem pumpErrorsFault : Obligations.PumpErrorsFault := by
  intro s die pump r h d n ip faulted instructions runs
  refine ⟨fun was u c mem => ?word, fun was u c mem good => ?reg, fun good illegal => ?illegal⟩
  case word =>
    obtain ⟨want, act, e⟩ := pumpInstructions_issue die pump .word was u c mem
    exact badWord_faults r runs (e s)
  case reg =>
    obtain ⟨want, act, e⟩ := pumpInstructions_issue die pump .reg was u c mem
    exact badRegister_faults r runs good (e s)
  case illegal =>
    exact illegal_faults r runs good illegal

end Sys2Proof.Machine
end

section
/-!
PROOFS. Release into Dawn, and the steps of Dawn that read the configuration NOR.
-/

namespace Sys2Proof.Machine

/-- What the release has sampled: the straps, SLOT and a fresh count. -/
def Hw.sampled (h : Hw) (straps slot : Nat) : Prop := h.straps = straps ∧ h.slotNo = slot ∧ h.now = 0

section
variable {h : Hw} {straps slot : Nat} (e : h.sampled straps slot)
include e

theorem wr_sampled (d : Nat) (F : Fld) (v : Nat) : (h.wr d F v).sampled straps slot := e

theorem nightAtRelease_sampled (void : Bool) (ticks : Nat) : (h.nightAtRelease void ticks).sampled straps slot := by
  unfold Hw.nightAtRelease
  split <;> exact e

theorem firstStart_sampled : h.firstStart.sampled straps slot := by
  unfold Hw.firstStart
  split <;> exact e

theorem slots_sampled : (h.eachDie fun d h => h.wr d R.NOD_NODEID_SLOT slot).sampled straps slot :=
  iter_keeps (Hw.sampled · straps slot) _ _ (fun _ _ e => wr_sampled e _ _ _) _ e

end

/-- In Night with power-good the release samples the pins and begins Dawn. -/
theorem powerOnRelease_begins {h : Hw} (night : h.node.state = .night) (pg : h.wlh.pg = true) (off : h.wlh.off = false)
    (straps slot : Nat) (void : Bool) (ticks : Nat) :
    (powerOnRelease straps slot void ticks h).node.state = .dawn ∧ (powerOnRelease straps slot void ticks h).sampled straps slot := by
  have released : ¬(h.node.state ≠ .night ∨ h.wlh.pg = false ∨ h.wlh.off = true) := by
    rw [night, pg, off]
    decide
  unfold powerOnRelease
  rw [if_neg released]
  extract_lets a b c d
  have sampled : ((d.nightAtRelease void ticks).firstStart).sampled straps slot :=
    firstStart_sampled (nightAtRelease_sampled (wr_sampled (slots_sampled ⟨rfl, rfl, rfl⟩) _ _ _) _ _)
  obtain ⟨node, s, p, n⟩ := moveTo_nodes ((d.nightAtRelease void ticks).firstStart) .dawn 0
  exact ⟨by rw [node], s.trans sampled.1, p.trans sampled.2.1, n.trans sampled.2.2⟩

theorem exec_powerOnResetRelease (straps : BitVec 8) (slot : BitVec 6) (void : Bool) (ticks : Nat) (s : State) :
    exec (.powerOnResetRelease straps slot void ticks) s = s.onAny (powerOnRelease straps.toNat slot.toNat void ticks) := rfl

/-! ## The steps that read the NOR -/

/-- The fields that the answer of the NOR leaves for the next step. -/
theorem norAnswer_reads (k : Hw) (boot : Nat) (t : Sfdp) (x : NorIf) (lt : bootSource boot < 4) :
    let g : Hw := { ((k.wr 0 R.NOD_DAWN_SRC (bootSource boot)).wr 0 R.NOD_DAWN_DTR (b2n (norMode boot t == .m144d))).wr 0 R.NOD_DAWN_STEP 4
      with norIf := x }
    g.dawnStep = 4 ∧ g.rd 0 R.NOD_DAWN_SRC = bootSource boot ∧ g.rd 0 R.NOD_DAWN_DTR = b2n (norMode boot t == .m144d) := by
  intro g
  have regs : ∀ F : Fld, g.rd 0 F = (((k.wr 0 R.NOD_DAWN_SRC (bootSource boot)).wr 0 R.NOD_DAWN_DTR
      (b2n (norMode boot t == .m144d))).wr 0 R.NOD_DAWN_STEP 4).rd 0 F := fun _ => rd_congr rfl rfl rfl ..
  refine ⟨?_, ?_, ?_⟩
  · rw [Hw.dawnStep, regs, rd_wr _ _ _ _ _ _ rfl]
    rfl
  · rw [regs, rd_wr_beside _ _ _ _ _ _ _ rfl, rd_wr_beside _ _ _ _ _ _ _ rfl, rd_wr _ _ _ _ _ _ rfl]
    exact low_of_lt lt
  · rw [regs, rd_wr_beside _ _ _ _ _ _ _ rfl, rd_wr _ _ _ _ _ _ rfl]
    exact bit1 _

theorem bootSource_lt (boot : Nat) : bootSource boot < 4 := by
  unfold bootSource
  split
  · decide
  · split <;> decide

section
variable {h : Hw} (dawn : h.node.state = .dawn) (nor : h.dawn.ringBoot = false)
include dawn nor

theorem imageHeader_step4 (step : h.dawnStep = 4) (bytes : List Byte) :
    imageHeader bytes h = (h.norWrite 0 (slice bytes 0 512)).takeHeader (slice bytes 0 512) :=
  if_neg (by rw [dawn, nor, step]; decide)

theorem imageRecord_step5 (step : h.dawnStep = 5) (first reread : List Word) : imageRecord first reread h =
    match readTwice first reread with
    | none => h.dawnFail 0x08 (recordSeq reread)
    | some (x, ws) => if x.1.typ = 0xFF then h else (h.norWrite h.nextRecord (rawRecord ws)).holdRecord x (rawRecord ws) :=
  if_neg (by rw [dawn, nor, step]; decide)

theorem endRecord_step5 (step : h.dawnStep = 5) {hd : Header} (header : h.dawn.header = some hd) (first reread : List Word)
    (firmware : List Byte) (supplies : List (Nat × Nat × Nat)) : endRecord first reread firmware supplies h =
    match readTwice first reread with
    | none => h.dawnFail 0x08 (recordSeq reread)
    | some (x, ws) =>
      if x.1.typ ≠ 0xFF then h
      else ((h.norWrite h.nextRecord (rawRecord ws)).norWrite hd.fwOff (slice firmware 0 hd.fwLen)).endImage x hd supplies := by
  unfold endRecord
  rw [header]
  exact (if_neg (by rw [dawn, step]; decide)).trans (if_neg (by rw [nor]; decide))

end

/-- The step after a good header. -/
theorem atStep5 (g : Hw) (hd : Option Header) : ({ g.wr 0 R.NOD_DAWN_STEP 5 with dawn.header := hd } : Hw).dawnStep = 5 := by
  rw [Hw.dawnStep, rd_dawn, rd_wr _ _ _ _ _ _ rfl]
  rfl

/-- Settles O26: the release, then each step's branch. -/
theorem dawnReleaseAndNor : Obligations.DawnReleaseAndNor := by
  refine ⟨fun s straps slot void ticks night pg off => ?_, fun s awake dawn nor => ?_⟩
  · exact complete_of_any (exec_powerOnResetRelease ..) (powerOnRelease_begins night pg off straps.toNat slot.toNat void ticks)
  intro h k
  refine ⟨fun step jedec sfdp => ?rom, fun step boot jedec sfdp => ?ring, fun step boot jedec sfdp unread => ?unread,
    fun step boot tables => ?read, fun step bytes => ?header, fun step first reread bad => ?badRecord,
    fun step first reread x ws read other => ?record, fun step first reread x ws hd fw sup read last header => ?last,
    fun step first reread hd fw sup bad header => ?badLast⟩
  case rom => exact gives_of_awake rfl awake (nd h dawn nor step jedec sfdp k rfl).1
  case ring => exact gives_of_awake rfl awake ((nd h dawn nor step jedec sfdp k rfl).2.1 boot)
  case unread => exact gives_of_awake rfl awake ((nd h dawn nor step jedec sfdp k rfl).2.2.1 boot unread)
  case read =>
    intro boot' g
    obtain ⟨at4, src, dtr⟩ := norAnswer_reads k boot' tables (norReading boot' tables) (bootSource_lt _)
    refine ⟨gives_of_awake rfl awake ((nd h dawn nor step true (some tables) k rfl).2.2.2 boot tables), at4, src, dtr, rfl, rfl, rfl,
      fun slow => ?_, fun fast => norMode_dtr fast⟩
    have two : boot' = 2 := by simpa [g] using slow
    change norMode boot' tables = .m111
    rw [two]
    rfl
  case header =>
    intro b code
    have taken := imageHeader_step4 dawn nor step bytes
    refine ⟨fun bad => gives_of_awake rfl awake (taken.trans (takeHeader_bad bad)),
      fun good => ⟨gives_of_awake rfl awake (taken.trans (takeHeader_ok good)), ?_⟩⟩
    exact atStep5 (h.norWrite 0 b) (some (headerOf b))
  case badRecord => exact gives_of_awake rfl awake ((imageRecord_step5 dawn nor step first reread).trans (by rw [bad]))
  case record =>
    refine gives_of_awake rfl awake ((imageRecord_step5 dawn nor step first reread).trans ?_)
    rw [read]
    exact if_neg other
  case last =>
    refine gives_of_awake (exec_endRecord ..) awake ((endRecord_step5 dawn nor step header first reread fw _).trans ?_)
    rw [read]
    exact if_neg (not_not_intro last)
  case badLast =>
    refine gives_of_awake (exec_endRecord ..) awake ((endRecord_step5 dawn nor step header first reread fw _).trans ?_)
    rw [bad]

end Sys2Proof.Machine
end

section
/-!
PROOFS. The commands of the test access port.
-/

namespace Sys2Proof.Machine

/-! ## What an instruction leaves at its die -/

/-- What a loaded instruction leaves of the hardware and of the other test ports. -/
def Hw.onlyTap (h : Hw) (d : Nat) (g : Hw) : Prop := { g with taps := h.taps, pins := h.pins } = h ∧ ∀ e, e ≠ d → g.tap e = h.tap e

/-- A scan of the boundary register has captured the balls, taken the cells shifted in and stands as the data register. -/
def Hw.scannedTap (h : Hw) (d : Nat) (shifted levels : List (Nat × Bool)) (g : Hw) : Prop :=
  (g.tap d).captured = h.capturePins d levels ∧
    (g.tap d).boundary = each (shifted.filter fun x => decide (x.1 < boundaryCells d)) (fun x m => m.put false x.1 x.2) (h.tap d).boundary ∧
    g.tapData d = (List.range (boundaryCells d)).map fun k => (h.capturePins d levels).get false k

/-- The data register after a load, from the port as it was loaded. -/
theorem loadIr_tapData {h : Hw} {d ir : Nat} {f : Tap → Tap} {t : Tap} (tap : (h.loadIr d ir f).tap d = t) : (h.loadIr d ir f).tapData d =
    if t.ir = 0x01 ∨ (t.ir = 0x00 ∧ t.inForce) then (List.range (boundaryCells d)).map fun k => t.captured.get false k
    else if t.ir = 0x02 then (List.range 32).map fun k => bit 0x2B1015CB k
    else if t.ir = 0x20 ∧ d = 0 ∧ h.debugOpen then [h.node.replay]
    else if t.ir = 0x21 ∧ h.debugOpen then (List.range 64).map fun k => bit t.mdbgData k
    else [t.bypass] := by
  obtain ⟨access, node⟩ := loadIr_open h d ir f
  rw [tapData_of _ d t tap, access, node]

section
variable (h : Hw) (d : Nat)

/-- HIGHZ and CLAMP (R77). -/
theorem loadIr_hold {ir : Nat} (i : ir = 0x03 ∨ ir = 0x04) : ((h.loadIr d ir id).tap d).ir = ir ∧
    ((h.loadIr d ir id).tap d).inForce = (h.node.state == .quarantine) ∧ ((h.loadIr d ir id).tap d).mdbg = false ∧
    (h.loadIr d ir id).tapData d = [false] := by
  have tap := loadIr_tap h d ir id
  rw [loadIr_tapData tap, tap]
  obtain rfl | rfl := i <;> exact ⟨rfl, rfl, rfl, rfl⟩

theorem loadIr_idcode : ((h.loadIr d 0x02 id).tap d).ir = 0x02 ∧ ((h.loadIr d 0x02 id).tap d).inForce = false ∧
    ((h.loadIr d 0x02 id).tap d).mdbg = false ∧ (h.loadIr d 0x02 id).tapData d = (List.range 32).map fun k => bit 0x2B1015CB k := by
  have tap := loadIr_tap h d 0x02 id
  rw [tapData_of_idcode (loadIr_id_ir h d 0x02), tap]
  exact ⟨rfl, rfl, rfl, rfl⟩

theorem loadIr_rply : ((h.loadIr d 0x20 id).tap d).ir = 0x20 ∧ ((h.loadIr d 0x20 id).tap d).inForce = false ∧
    ((h.loadIr d 0x20 id).tap d).mdbg = false ∧
    (h.loadIr d 0x20 id).tapData d = if d = 0 ∧ h.debugOpen = true then [h.node.replay] else [false] := by
  have tap := loadIr_tap h d 0x20 id
  rw [loadIr_tapData tap, tap]
  refine ⟨rfl, rfl, rfl, ?_⟩
  simp

/-- MDBG connects, and takes 64 bits into its data register, while debug access is open (R74). -/
theorem mdbg_tap (shifted : Nat) : ((mdbg d shifted h).tap d).ir = 0x21 ∧ ((mdbg d shifted h).tap d).inForce = false ∧
    ((mdbg d shifted h).tap d).mdbg = h.debugOpen ∧
    ((mdbg d shifted h).tap d).mdbgData = (if h.debugOpen then shifted else (h.tap d).mdbgData) ∧
    (mdbg d shifted h).tapData d = if h.debugOpen then (List.range 64).map fun k => bit shifted k else [false] := by
  unfold mdbg
  have tap := loadIr_tap h d 0x21 fun t => if t.mdbg then { t with mdbgData := shifted } else t
  rw [loadIr_tapData tap, tap]
  cases h.debugOpen <;> exact ⟨rfl, rfl, rfl, rfl, rfl⟩

theorem samplePreload_tap (preload levels : List (Nat × Bool)) : ((samplePreload d preload levels h).tap d).ir = 0x01 ∧
    ((samplePreload d preload levels h).tap d).inForce = false ∧ ((samplePreload d preload levels h).tap d).mdbg = false ∧
    h.scannedTap d preload levels (samplePreload d preload levels h) := by
  unfold samplePreload Hw.scannedTap
  have tap := loadIr_tap h d 0x01 (h.scanCells d preload levels)
  rw [loadIr_tapData tap, tap]
  exact ⟨rfl, rfl, rfl, rfl, rfl, rfl⟩

/-- EXTEST scans where it is in force: in Quarantine, and not in the core cycle that leaves it (R77, R79). -/
theorem extest_tap (shifted levels : List (Nat × Bool)) (leaving : Bool) : ((extest d shifted levels leaving h).tap d).ir = 0x00 ∧
    ((extest d shifted levels leaving h).tap d).inForce = ((h.node.state == .quarantine) && !leaving) ∧
    ((extest d shifted levels leaving h).tap d).mdbg = false ∧
    ((h.node.state == .quarantine) = true → leaving = false → h.scannedTap d shifted levels (extest d shifted levels leaving h)) ∧
    (((h.node.state == .quarantine) && !leaving) = false → (extest d shifted levels leaving h).tapData d = [false]) := by
  unfold extest Hw.scannedTap
  have tap := loadIr_tap h d 0x00 fun t =>
    if leaving then { t with inForce := false } else if t.inForce then h.scanCells d shifted levels t else t
  rw [loadIr_tapData tap, tap]
  generalize (h.node.state == NodeState.quarantine) = quarantined
  cases leaving
  case true => exact ⟨rfl, (Bool.and_false _).symm, rfl, fun _ n => absurd n (by decide), fun _ => rfl⟩
  case false =>
    cases quarantined
    case true => exact ⟨rfl, rfl, rfl, fun _ _ => ⟨rfl, rfl, rfl⟩, fun n => absurd n (by decide)⟩
    case false => exact ⟨rfl, rfl, rfl, fun n => absurd n (by decide), fun _ => rfl⟩

end

/-! ## Test-Logic-Reset -/

/-- The level of every pin leaves the test ports. -/
theorem refreshAll_taps (h : Hw) : h.refreshAll.taps = h.taps :=
  iter_keeps (fun g : Hw => g.taps = h.taps) _ _ (fun d g e => (refreshPins_taps g d).trans e) h rfl

/-- Settles O27: each instruction loads its port; what stands in it is read off the load. -/
theorem testAccessPort : Obligations.TestAccessPort := by
  refine ⟨fun s die r => ?_, fun s awake => ?_⟩
  · intro h d quarantined frame scanned
    have framed : ∀ ir f, frame (h.loadIr d ir f) := fun ir f => loadIr_frame h d ir f
    refine ⟨fun shifted levels leaving => ?extest, fun x mem => ?hold, ?idcode, ?rply, fun shifted => ?mdbg,
      fun preload levels => ?sample, fun code => ?bypass⟩
    case extest =>
      exact comp_die (f := extest d shifted levels leaving) rfl r ⟨framed _ _, extest_tap h d shifted levels leaving⟩
    case hold =>
      simp only [List.mem_cons, List.not_mem_nil, or_false] at mem
      obtain rfl | rfl := mem
      · exact comp_die (f := fun g => g.loadIr d 0x03 id) rfl r ⟨framed _ _, loadIr_hold h d (.inl rfl)⟩
      · exact comp_die (f := fun g => g.loadIr d 0x04 id) rfl r ⟨framed _ _, loadIr_hold h d (.inr rfl)⟩
    case idcode => exact comp_die (exec_idcode die s) r ⟨framed _ _, loadIr_idcode h d⟩
    case rply => exact comp_die (f := fun g => g.loadIr d 0x20 id) rfl r ⟨framed _ _, loadIr_rply h d⟩
    case mdbg => exact comp_die (f := mdbg d shifted.toNat) rfl r ⟨framed _ _, mdbg_tap h d shifted.toNat⟩
    case sample => exact comp_die (f := samplePreload d preload levels) rfl r ⟨framed _ _, samplePreload_tap h d preload levels⟩
    case bypass =>
      have loaded : ∃ ir ∉ actingCodes, (if code.toNat ≤ 4 ∨ code.toNat = 0x20 ∨ code.toNat = 0x21 then 0x3F else code.toNat) = ir := by
        refine ⟨_, ?_, rfl⟩
        simp only [actingCodes, List.mem_cons, List.not_mem_nil, or_false]
        split <;> omega
      obtain ⟨ir, free, load⟩ := loaded
      have tap := loadIr_tap_of_not_acting free h d
      have run : exec (.bypass die code) s = s.onDie die fun g => g.loadIr d ir id := by rw [exec_byp, load]
      refine comp_die run r ⟨framed _ _, ?_, ?_, loadIr_tapData_of_not_acting free h d⟩ <;> exact tap ▸ rfl
  · refine ⟨gives_of_awake rfl awake rfl, fun d => ?_⟩
    rw [Hw.tap, refreshAll_taps]
    exact SMap.get_empty ..

end Sys2Proof.Machine
end

section
/-!
PROOFS. The later steps of Dawn: the key tree, the self-test, the ring boot and the image server.
-/

namespace Sys2Proof.Machine

/-! ## What each step finds -/

/-- The hardware with the result of the self-test at every die. -/
def Hw.bistResults (h : Hw) (failOf : Nat → Nat) : Hw :=
  h.eachDie fun d g => (g.wr d R.NOD_BIST_FAIL (failOf d)).wr d R.NOD_BIST_DONE 1

theorem bistResults_keeps (h : Hw) (failOf : Nat → Nat) : (h.bistResults failOf).part = h.part ∧ (h.bistResults failOf).node = h.node :=
  iter_keeps (fun g : Hw => g.part = h.part ∧ g.node = h.node) h.dies
    (fun d g => (g.wr d R.NOD_BIST_FAIL (failOf d)).wr d R.NOD_BIST_DONE 1) (fun _ _ e => e) h ⟨rfl, rfl⟩

theorem bistResults_dies (h : Hw) (failOf : Nat → Nat) : (h.bistResults failOf).dies = h.dies :=
  congrArg Part.dies (bistResults_keeps h failOf).1

theorem any_bist {n : Nat} {failOf : Nat → Nat} : ((List.range n).any fun d => failOf d != 0) = true ↔ ∃ d < n, failOf d ≠ 0 := by
  simp

theorem none_bist {n : Nat} {failOf : Nat → Nat} (passed : ∀ d < n, failOf d = 0) : ¬((List.range n).any fun d => failOf d != 0) = true := by
  rw [any_bist]
  rintro ⟨d, lt, failed⟩
  exact failed (passed d lt)

/-- The fields that stand once the key tree is loaded. -/
theorem treeLoaded_reads (g : Hw) (cache ent : Bool) :
    let x := (((g.wr 0 R.VLT_STAT_TREEOK 1).wr 0 R.VLT_STAT_CACHEOK (b2n cache)).wr 0 R.VLT_STAT_ENTOK (b2n ent)).wr 0 R.NOD_DAWN_STEP 8
    x.dawnStep = 8 ∧ x.rd 0 R.VLT_STAT_TREEOK = 1 ∧ x.rd 0 R.VLT_STAT_CACHEOK = b2n cache ∧ x.rd 0 R.VLT_STAT_ENTOK = b2n ent := by
  refine ⟨?_, ?_, ?_, ?_⟩
  · rw [Hw.dawnStep, rd_wr _ _ _ _ _ _ rfl]
    rfl
  · rw [rd_wr_apart _ _ _ _ _ _ _ rfl, rd_wr_beside _ _ _ _ _ _ _ rfl, rd_wr_beside _ _ _ _ _ _ _ rfl, rd_wr _ _ _ _ _ _ rfl]
    rfl
  · rw [rd_wr_apart _ _ _ _ _ _ _ rfl, rd_wr_beside _ _ _ _ _ _ _ rfl, rd_wr _ _ _ _ _ _ rfl]
    exact bit1 _
  · rw [rd_wr_apart _ _ _ _ _ _ _ rfl, rd_wr _ _ _ _ _ _ rfl]
    exact bit1 _

/-- The image server answers the first request from its first entry for the variant (R94). -/
theorem bootRequest_served {h : Hw} {part : Part} {node : Nat} {e : Serve}
    (runs : h.node.state = .run ∨ h.node.state = .degraded ∨ h.node.state = .safe) (idle : h.cfg.serving = none)
    (entry : h.cfg.serves.find? (fun e => bit e.partMask part.maskBit) = some e) :
    bootRequest part node h = { h with cfg.serving := some (node, e.off, e.off + e.len) } := by
  have accepts : ¬(!(h.node.state == .run || h.node.state == .degraded || h.node.state == .safe) || h.cfg.serving.isSome) = true := by
    rw [idle]
    rcases runs with q | q | q <;> rw [q] <;> decide
  unfold bootRequest
  dsimp only
  rw [if_neg accepts, entry]

/-- A cell from the server that answered first adds its 64 bytes to the stream (R94, R95). -/
theorem imageStreamCell_taken {h : Hw} {server : Nat × Nat} (dawn : h.node.state = .dawn) (ring : h.dawn.ringBoot = true)
    (open' : h.cfg.committed = false) (first : h.dawn.server.getD server = server) (bytes : List Byte) :
    imageStreamCell server bytes h = Hw.workStream { h with dawn := { h.dawn with
      server := some server, streamLen := h.dawn.streamLen + 64,
      streamed := iter 64 (fun k m => m.put 0xFF (h.dawn.streamLen + k) (bytes.getD k 0)) h.dawn.streamed } } :=
  (if_neg (by rw [dawn, ring, open']; decide)).trans (if_neg (not_not_intro first))

theorem exec_keytreeUnwrap (failed : List Die) (s : State) :
    exec (.keytreeUnwrap failed) s = s.on (keytreeUnwrap (failed.map (·.val))) := rfl

theorem exec_bootRequest (die : Die) (port : Fin 4) (part : Part) (node : BitVec 16) (s : State) : exec (.bootRequest die port part node) s =
    s.onDie die fun h => if h.portUp die.val port.val then bootRequest part node.toNat h else h := rfl

/-- Settles O28: each step by the branch that its case takes. -/
theorem dawnLaterSteps : Obligations.DawnLaterSteps := by
  intro s awake h
  refine ⟨fun dawn step failed some => ?engineFailed, fun dawn step failed none => ⟨fun bad => ?noTree, fun good => ?tree⟩,
    fun dawn step fails trains => ?selfTest, fun dawn ring unsettled => ?timeout,
    fun die port part node e present up runs idle entry => ?served, fun dawn ring unsettled server die bytes first => ?stream⟩
  case engineFailed =>
    exact gives_of_awake (exec_keytreeUnwrap failed s) awake ((ku h dawn step _).1 (any_dies some))
  case noTree => exact gives_of_awake (exec_keytreeUnwrap failed s) awake ((ku h dawn step _).2.1 (none_dies none) bad)
  case tree =>
    exact ⟨gives_of_awake (exec_keytreeUnwrap failed s) awake ((ku h dawn step _).2.2 (none_dies none) good),
      treeLoaded_reads h.loadTree.2 h.loadTree.2.vlt.cacheUsed (!h.loadTree.2.vlt.entFail)⟩
  case selfTest =>
    intro failOf k
    obtain ⟨failed, replay, passed⟩ := st h dawn step (fails.map fun x => (x.1.val, x.2.toNat)) trains failOf rfl k rfl
    have dies : k.dies = h.dies := bistResults_dies h failOf
    have node : k.node = h.node := (bistResults_keeps h failOf).2
    clear_value k
    rw [dies] at failed replay passed
    refine ⟨fun bad => gives_of_awake (exec_bist ..) awake (failed (any_bist.mpr bad)), fun good on => ?_, fun good off => ?_⟩
    · exact gives_of_awake (exec_bist ..) awake (replay (none_bist good) (by rw [node]; exact on))
    · exact gives_of_awake (exec_bist ..) awake (passed (none_bist good) (by rw [node]; exact off))
  case timeout => exact gives_of_awake (f := ringBootTimeout) rfl awake (if_pos ⟨dawn, ring, unsettled⟩)
  case served =>
    exact gives_of (exec_bootRequest ..) ⟨present, awake⟩ ((if_pos up).trans (bootRequest_served runs idle entry))
  case stream =>
    exact gives_of_awake (exec_stream ..) awake (imageStreamCell_taken dawn ring unsettled first bytes)

end Sys2Proof.Machine
end

section
/-!
PROOFS. The commands of NOD_CMD.
-/

namespace Sys2Proof.Machine

/-- The commands of NOD_CMD that the encoding lists, with their codes. -/
def nodCommands (die : Die) (o : Origin) (same : BitVec 7) : List (Instr × Nat) :=
  [(.nodCmdEnterSafe die o same, 1), (.nodCmdResume die o same, 2), (.nodCmdSleep die o same, 3),
    (.nodCmdDusk die o same, 4), (.nodCmdReset die o same, 5)]

/-- Each command of NOD_CMD is a write of its code. -/
theorem exec_nodCommands {die : Die} {o : Origin} {same : BitVec 7} {x : Instr × Nat} (mem : x ∈ nodCommands die o same) (s : State) :
    exec x.1 s = s.onReg die o 0xC (nodCommand x.2 die.val o same.toNat) ∧ 1 ≤ x.2 ∧ x.2 ≤ 5 := by
  simp only [nodCommands, List.mem_cons, List.not_mem_nil, or_false] at mem
  obtain rfl | rfl | rfl | rfl | rfl := mem <;> exact ⟨rfl, Nat.le_of_ble_eq_true rfl, Nat.le_of_ble_eq_true rfl⟩

theorem exec_nodCmdReserved (die : Die) (o : Origin) (v : BitVec 4) (s : State) :
    exec (.nodCmdReserved die o v) s = s.onReg die o 0xC fun h => h.violation die.val o 0xC := rfl

/-- What a register write of a command with a row of its own gives at a die that the package does not have. -/
theorem gives_of_reg_absent {c : Instr} {s : State} {f : Hw → Hw} {die : Die} {o : Origin} {a : Nat}
    (e : exec c s = s.onReg die o a f) (absent : s.hw.dies ≤ die.val) (awake : s.awake) : Gives c s (s.hw.noSuchDie o a) :=
  e.trans (State.onReg_absent o a f absent awake)

/-- Settles O29: each case is one branch of the write of a command. -/
theorem nodeCommands : Obligations.NodeCommands := by
  intro s die o same awake h k cmds accepted
  refine ⟨fun absent => ⟨fun x mem => ?_, fun v => gives_of_reg_absent (exec_nodCmdReserved ..) absent awake⟩, fun present => ?_⟩
  · exact gives_of_reg_absent (exec_nodCommands mem s).1 absent awake
  have acts : ∀ x ∈ cmds, accepted x.2 → Gives x.1 s (commandAct x.2 k (h.acceptCmd x.2)) := fun x mem accept =>
    gives_of_reg (exec_nodCommands mem s).1 ⟨present, awake⟩ (nc_act (exec_nodCommands mem s).2 accept)
  refine ⟨fun x mem barred => ?barred, fun x mem may again => ?again, fun x mem may new refused => ?refused,
    fun accept => acts (.nodCmdEnterSafe die o same, 1) (by simp [cmds]) accept, fun accept => acts (.nodCmdResume die o same, 2) (by simp [cmds]) accept, fun accept => acts (.nodCmdSleep die o same, 3) (by simp [cmds]) accept,
    fun accept => ?dusk, fun accept => acts (.nodCmdReset die o same, 5) (by simp [cmds]) accept, fun c => acceptCmd_rd h c,
    fun v => gives_of_reg (exec_nodCmdReserved ..) ⟨present, awake⟩ rfl⟩
  case barred => exact gives_of_reg (exec_nodCommands mem s).1 ⟨present, awake⟩ (nc_viol (exec_nodCommands mem s).2 barred)
  case again => exact gives_of_reg (exec_nodCommands mem s).1 ⟨present, awake⟩ (nc_same (exec_nodCommands mem s).2 may again)
  case refused => exact gives_of_reg (exec_nodCommands mem s).1 ⟨present, awake⟩ (nc_ref (exec_nodCommands mem s).2 may new refused)
  case dusk =>
    exact gives_of_reg rfl ⟨present, awake⟩ ((nc_act (by decide) accept).trans (commandAct_dusk k (h.acceptCmd 4)))

end Sys2Proof.Machine
end

section
/-!
PROOFS. The other transitions between the node states.
-/

namespace Sys2Proof.Machine

theorem exec_duskRecord (n : Nat) (s : State) : exec (.duskRecord n) s = s.on fun h => (duskRecord n h).duskCheck := rfl

theorem exec_logNvmWriteDone (rb : Option (List Byte)) (s : State) :
    exec (.logNvmWriteDone rb) s = s.on fun h => (logNvmWriteDone rb h).duskCheck := rfl

theorem exec_duskCopyLimit (s : State) : exec .duskCopyLimit s = s.on fun h => if h.node.state = .dusk then h.duskEnd else h := rfl

theorem exec_inputPowerLost (s : State) : exec .inputPowerLost s = s.on fun h => if h.node.state = .dawn then h.powerDrop else h := rfl

theorem logNvmWriteDone_ledger {h : Hw} {op : PageOp} (running : h.ldg.op = some op) (ledger : op.recs = []) (rb : Option (List Byte)) :
    logNvmWriteDone rb h = ledgerReadback h op rb := by
  unfold logNvmWriteDone
  rw [running]
  exact if_pos ledger

theorem logNvmWriteDone_records {h : Hw} {op : PageOp} (running : h.ldg.op = some op) (records : op.recs ≠ [])
    (rb : Option (List Byte)) : logNvmWriteDone rb h = recorderReadback h op := by
  unfold logNvmWriteDone
  rw [running]
  exact if_neg records

/-- The end of Dusk takes the node to Night with the store and the gate off. -/
theorem duskEnd_keeps (h : Hw) : h.duskEnd.node.state = .night ∧ h.duskEnd.wlh.off = true ∧ h.duskEnd.wlh.gate = false ∧
    h.duskEnd.wlh.store = false ∧ h.duskEnd.logNvm = h.logNvm ∧ h.duskEnd.otp = h.otp ∧ h.duskEnd.nor = h.nor := by
  obtain ⟨state, log, otp, nor, -⟩ := enterNight_keeps h
  exact ⟨state, rfl, rfl, rfl, log, otp, nor⟩

/-- Settles O30: each transition by the branch that its case takes. -/
theorem nodeTransitions : Obligations.NodeTransitions := by
  intro s awake h
  refine ⟨fun die port present asleep attached => ?wake, fun quarantined lost => ?lost, fun dusk => ?cans, fun n => ?record,
    fun op rb running ledger => ?ledger, fun op rb running records => ?records, fun dusk => ?copies, fun dawn => ?power, ?reset⟩
  case wake => exact gives_of (f := ringWake die.val port.val) rfl ⟨present, awake⟩ (if_pos ⟨asleep, attached⟩)
  case lost => exact gives_of_awake (f := quarantineToDusk) rfl awake (if_pos ⟨quarantined, lost⟩)
  case cans => exact gives_of_awake (f := duskCanLimit) rfl awake (if_pos dusk)
  case record => exact gives_of_awake (exec_duskRecord n s) awake rfl
  case ledger =>
    exact gives_of_awake (exec_logNvmWriteDone rb s) awake (congrArg Hw.duskCheck (logNvmWriteDone_ledger running ledger rb))
  case records =>
    exact gives_of_awake (exec_logNvmWriteDone rb s) awake (congrArg Hw.duskCheck (logNvmWriteDone_records running records rb))
  case copies => exact ⟨gives_of_awake (exec_duskCopyLimit s) awake (if_pos dusk), duskEnd_keeps h⟩
  case power =>
    have gone := powerDrop_eq h (by rw [dawn]; decide)
    obtain ⟨state, log, otp, nor, staging, held, -⟩ := enterNight_keeps { h with wlh := { h.wlh with pg := false, store := false } }
    exact ⟨gives_of_awake (exec_inputPowerLost s) awake ((if_pos dawn).trans gone), state, rfl, log, otp, nor, staging, held⟩
  case reset =>
    obtain ⟨state, log, otp, nor, staging, -, cal⟩ := enterNight_keeps h
    exact ⟨gives_of_awake (f := Hw.enterNight) rfl awake rfl, state, log, otp, nor, staging, cal⟩

end Sys2Proof.Machine
end

section
/-!
PROOFS. The management pairs.
-/

namespace Sys2Proof.Machine

/-- A word of a heartbeat fits its field. -/
theorem low32_word (v : Word) : low 32 v.toNat = v.toNat := low_of_lt v.isLt

/-- What the registers read after a heartbeat that came with the watchdog's expiry. -/
theorem heartbeatMargin_reads (h : Hw) (d : Nat) (v : Word) :
    let g := (h.wr d R.MGT_HBEAT_COUNT v.toNat).bump d R.MGT_CNT_MARGIN
    g.rd d R.MGT_HBEAT_COUNT = v.toNat ∧ g.rd d R.MGT_CNT_MARGIN = satAdd R.MGT_CNT_MARGIN.w (h.rd d R.MGT_CNT_MARGIN) 1 := by
  refine ⟨?_, ?_⟩
  · rw [Hw.bump, rd_wr_apart _ _ _ _ _ _ _ rfl, rd_wr _ _ _ _ _ _ rfl]
    exact low32_word v
  · rw [rd_bump_self _ _ _ _ _ _ (by decide), rd_wr_apart _ _ _ _ _ _ _ rfl]
    rfl

theorem exec_heartbeat (die : Die) (o : Origin) (v : Word) (s : State) :
    exec (.heartbeat die o v) s = s.onReg die o 0xF0008 (heartbeat die.val o v) := rfl

/-- Settles O31: each command by the branch that its case takes. -/
theorem managementPairs : Obligations.ManagementPairs := by
  intro s die r h d
  refine ⟨fun v => ⟨gives_of_reg (exec_heartbeat ..) r (if_pos rfl), ?beat⟩,
    fun o v other => gives_of_reg (exec_heartbeat ..) r (if_neg other),
    fun v => ⟨gives_of (f := watchdogExpiry d (some v)) rfl r rfl, heartbeatMargin_reads h d v⟩,
    fun runs => gives_of (f := watchdogExpiry d none) rfl r (if_pos runs),
    fun runs => gives_of (f := lockstepMismatch d) rfl r (if_pos runs), fun stopped owned => ?restart,
    fun dies owner committed one zero => ?mirror, fun fenced due owner one => ?takeover⟩
  case beat => exact (rd_wr h d R.MGT_HBEAT_COUNT v.toNat 0 0 rfl).trans (low32_word v)
  case restart => exact gives_of (f := pairRestart d) rfl r (if_pos ⟨stopped, by rw [owned]; decide⟩)
  case mirror => exact gives_of_awake (f := mirrorRebuild) rfl r.2 (if_pos ⟨dies, owner, committed, one, zero⟩)
  case takeover => exact gives_of_awake (f := takeover) rfl r.2 (if_pos ⟨fenced, due, owner, one⟩)

end Sys2Proof.Machine
end

section
/-!
PROOFS. Fault reports, the end of a Safe cause, restores and the monitors.
-/

namespace Sys2Proof.Machine

theorem exec_supplyConditionChange (die : Die) (ok : Bool) (s : State) : exec (.supplyConditionChange die ok) s =
    s.onDie die fun h => Hw.checkGuar { h with flt.supplyOk := h.flt.supplyOk.put true die.val ok } := rfl

theorem exec_temperatureConditionChange (die : Die) (ok : Bool) (s : State) : exec (.temperatureConditionChange die ok) s =
    s.onDie die fun h => Hw.checkGuar { h with flt.tempOk := h.flt.tempOk.put true die.val ok } := rfl

/-- The reaction to the earliest report (R598 to R600). -/
theorem faultReport_first {h : Hw} {r : FaultRep} {rest : List FaultRep} (first : firstFault h.flt.reports = some (r, rest)) :
    faultReport h =
      let k := { h with flt.reports := rest }
      let k := if sameCycle r rest then k.bump r.die R.FLT_TOTAL_MARGIN else k
      let k := (k.captureFault r).recordFault r
      if k.node.stepTen then k.react r else { k with flt.deferred := k.flt.deferred ++ [r] } := by
  unfold faultReport
  rw [first]

/-- The cause of a code ends where its fault neither holds nor is reported (R596). -/
theorem fltSclr_ends {h : Hw} {code : Nat} {holds : Bool} (listed : code ∈ faultCodes) (quiet : h.flt.reports = [])
    (gone : (holds || h.flt.present.any (·.1 == code)) = false) :
    fltSclr code holds h = { h.wr 0 R.FLT_SCLR_CODE code with flt.safeCodes := h.flt.safeCodes.filter (· != code) }.checkGuar := by
  unfold fltSclr
  rw [if_pos listed]
  refine (if_neg ?_).trans (if_neg (Bool.not_eq_true _ ▸ gone))
  show ¬(h.flt.reports.any _) = true
  rw [quiet]
  exact Bool.false_ne_true

/-- The restore that has been due longest (R597). -/
theorem restore_due {h : Hw} {code d unit : Nat} (due : (h.flt.restoreDue.find? fun x => h.pairRuns x.2.1) = some (code, d, unit))
    (few : h.restoreCount code d unit < 3) : restore h =
      let n := h.restoreCount code d unit + 1
      let g := { h with flt.restoreDue := h.flt.restoreDue.erase (code, d, unit) }
      let g := { g with flt.restores := (code, d, unit, n) :: h.flt.restores.filter fun x => x.1 != code || x.2.1 != d || x.2.2.1 != unit }
      ((g.restoreUnit code d unit).bump d R.FLT_CODE_RESTORES 1 code).stageForced
        (ledgerBody 0x0B (.management d) (code + d * 2 ^ 8 + unit * 2 ^ 16) (restoreWords code) n 0 0) := by
  unfold restore
  rw [due]
  exact if_neg (Nat.not_lt.mpr few)

/-- Settles O32: each command by the branch that its case takes. -/
theorem faultResponse : Obligations.FaultResponse := by
  intro s awake h
  refine ⟨fun r rest first => gives_of_awake (f := faultReport) rfl awake (faultReport_first first),
    fun code holds listed quiet gone => gives_of_awake (f := fltSclr code.toNat holds) rfl awake (fltSclr_ends listed quiet gone),
    fun code d unit due few => gives_of_awake (f := restore) rfl awake (restore_due due few),
    fun die ok present => gives_of (exec_supplyConditionChange die ok s) ⟨present, awake⟩ rfl,
    fun die ok present => gives_of (exec_temperatureConditionChange die ok s) ⟨present, awake⟩ rfl⟩

end Sys2Proof.Machine
end

section
/-!
PROOFS. The amend cells.
-/

namespace Sys2Proof.Machine

/-! ## The checks of R119, in order -/

section
variable {o : Origin} {bs : List Byte} {h : Hw}

theorem amendCheck_format (bad : amendFormat bs = false) : (amendCheck o bs h).1 = some 9 := by
  simp [amendCheck, bad]

theorem amendCheck_state (format : amendFormat bs = true) (closed : h.loaderState = false) : (amendCheck o bs h).1 = some 8 := by
  simp [amendCheck, format, closed]

theorem amendCheck_target (format : amendFormat bs = true) (state : h.loaderState = true) (none : h.amendTarget bs = false) :
    (amendCheck o bs h).1 = some 5 := by
  simp [amendCheck, format, state, none]

theorem amendCheck_closed (format : amendFormat bs = true) (state : h.loaderState = true) (target : h.amendTarget bs = true)
    (closed : h.amendOpen (amendDie bs) (amendOff bs) (leAt bs 0x18 4) = false) : (amendCheck o bs h).1 = some 5 := by
  simp [amendCheck, format, state, target, closed]

theorem amendCheck_permission (format : amendFormat bs = true) (state : h.loaderState = true) (target : h.amendTarget bs = true)
    (opened : h.amendOpen (amendDie bs) (amendOff bs) (leAt bs 0x18 4) = true)
    (none : h.permitting (amendDie bs) (amendOff bs) o = none) : (amendCheck o bs h).1 = some 2 := by
  simp [amendCheck, format, state, target, opened, amendPermitted, none]

end

/-! ## The cell at the head -/

/-- While no die performs the owner's functions, and in its management blackout, the cell waits. -/
theorem amendCell_waits {h : Hw} (idle : h.mgt.headless = true ∨ h.rd h.node.owner R.MGT_STAT_PAIR = 3) (holds : Bool) (u : Upset) :
    amendCell holds u h = h := by
  unfold amendCell
  split
  · rfl
  · exact if_pos idle

/-- What the owner does with the cell at the head once its checks have answered. -/
def amendAnswer (q : Nat) (o : Origin) (bs : List Byte) (holds : Bool) : Option Nat × Hw → Hw
  | (none, h) => h
  | (some 0, h) => amendAccept o bs holds (h.dropHead q 560)
  | (some code, h) => (h.dropHead q 560).amendResult o bs code 0

theorem amendAnswer_waits {q : Nat} {o : Origin} {bs : List Byte} {holds : Bool} {x : Option Nat × Hw} (waits : x.1 = none) :
    amendAnswer q o bs holds x = x.2 := by
  obtain ⟨_, g⟩ := x
  subst waits
  rfl

theorem amendAnswer_accepts {q : Nat} {o : Origin} {bs : List Byte} {holds : Bool} {x : Option Nat × Hw} (passes : x.1 = some 0) :
    amendAnswer q o bs holds x = amendAccept o bs holds (x.2.dropHead q 560) := by
  obtain ⟨_, g⟩ := x
  subst passes
  rfl

theorem amendAnswer_fails {q : Nat} {o : Origin} {bs : List Byte} {holds : Bool} {x : Option Nat × Hw} {code : Nat}
    (fails : x.1 = some code) (ne : code ≠ 0) : amendAnswer q o bs holds x = (x.2.dropHead q 560).amendResult o bs code 0 := by
  obtain ⟨_, g⟩ := x
  subst fails
  obtain ⟨n, rfl⟩ := Nat.exists_eq_succ_of_ne_zero ne
  rfl

/-- The cell at the head is answered by its checks. -/
theorem amendCell_head {h : Hw} {q : Nat} {u : Upset} {c : CCell} {rest : List CCell} (source : h.amendFrom = some q)
    (head : ((h.meet q 560 u).2.cq q 560).cells = c :: rest) (serves : h.mgt.headless = false)
    (owner : h.rd h.node.owner R.MGT_STAT_PAIR ≠ 3) (holds : Bool) : amendCell holds u h =
      amendAnswer q c.origin c.cell.data holds (amendCheck c.origin c.cell.data (h.meet q 560 u).2) := by
  have acts : ¬(h.mgt.headless = true ∨ h.rd h.node.owner R.MGT_STAT_PAIR = 3) := by
    rw [serves]
    exact fun e => e.elim (fun n => absurd n (by decide)) owner
  unfold amendCell
  rw [source]
  refine (if_neg acts).trans ?_
  dsimp only
  split <;> rename_i eq <;> rw [head] at eq
  · exact absurd eq (List.cons_ne_nil _ _)
  · cases eq
    rfl

/-- Settles O33: the head of the queue is answered by its checks, and each check by those before it. -/
theorem amends : Obligations.Amends := by
  intro s holds u q c rest awake h x
  refine ⟨fun idle => gives_of_awake (f := amendCell holds u) rfl awake (amendCell_waits idle holds u),
    fun source head serves owner => ?_⟩
  have answer := amendCell_head source head serves owner holds
  refine ⟨fun waits => ?waits, fun code fails ne => ?fails, fun passes => ?passes, amendCheck_format, amendCheck_state, amendCheck_target,
    amendCheck_closed, amendCheck_permission⟩
  all_goals refine gives_of_awake (f := amendCell holds u) rfl awake (answer.trans ?_)
  case waits => exact amendAnswer_waits waits
  case fails => exact amendAnswer_fails fails ne
  case passes => exact amendAnswer_accepts passes

end Sys2Proof.Machine
end

section
/-!
PROOFS. The states of a ring port.
-/

namespace Sys2Proof.Machine

/-! ## What a port command reads once it stands in RNG_PCMD -/

section
variable (h : Hw) (d v p : Nat)

theorem pcmd_state : (h.wr d R.RNG_PCMD_CMD v p).rd d R.RNG_PSTAT_STATE p = h.rd d R.RNG_PSTAT_STATE p :=
  rd_wr_apart _ _ _ _ _ _ _ rfl

theorem pcmd_offcnt : (h.wr d R.RNG_PCMD_CMD v p).rd d R.RNG_PSTAT_OFFCNT p = h.rd d R.RNG_PSTAT_OFFCNT p :=
  rd_wr_apart _ _ _ _ _ _ _ rfl

theorem pcmd_up : (h.wr d R.RNG_PCMD_CMD v p).portUp d p = h.portUp d p := by
  unfold Hw.portUp
  rw [pcmd_state]

theorem released_state : ((h.wr d R.RNG_PCMD_CMD v p).wr d R.RNG_PSTAT_OFFCNT 0 p).rd d R.RNG_PSTAT_STATE p = h.rd d R.RNG_PSTAT_STATE p :=
  (rd_wr_beside _ _ _ _ _ _ _ rfl).trans (pcmd_state h d v p)

theorem released_offcnt : ((h.wr d R.RNG_PCMD_CMD v p).wr d R.RNG_PSTAT_OFFCNT 0 p).rd d R.RNG_PSTAT_OFFCNT p = 0 :=
  (rd_wr _ _ _ _ _ _ rfl).trans rfl

end

/-! ## The port commands -/

section
variable {h : Hw} {d : Nat} {port : Fin 4}

/-- RETRAIN by the port as it was before the command (R132, R139, R176). -/
theorem retrain_cases (h : Hw) (d : Nat) (port : Fin 4) : retrain d port.val h =
    let g := h.wr d R.RNG_PCMD_CMD 1 port.val
    if !(h.attached d).contains port.val then g
    else if h.rd d R.RNG_PSTAT_STATE port.val = 4 then
      if (h.port d port.val).forcedOff = true ∨
          (h.rd d R.RNG_LES_REARM ≠ 0 ∧ h.rd d R.RNG_LES_REARM ≤ h.rd d R.RNG_PSTAT_OFFCNT port.val) then g
      else (g.setPort d port.val { h.port d port.val with leavingOff := true }).enterTraining d port.val
    else (if h.portUp d port.val then g.leaveUp d port.val 1 else g).enterTraining d port.val := by
  unfold retrain
  simp only [pcmd_state, pcmd_offcnt, pcmd_up, attached_pcmd, les_pcmd, wr_port]

theorem retrain_stays (stays : (h.attached d).contains port.val = false ∨
    (h.rd d R.RNG_PSTAT_STATE port.val = 4 ∧ ((h.port d port.val).forcedOff = true ∨
      (h.rd d R.RNG_LES_REARM ≠ 0 ∧ h.rd d R.RNG_LES_REARM ≤ h.rd d R.RNG_PSTAT_OFFCNT port.val)))) : retrain d port.val h = h.wr d R.RNG_PCMD_CMD 1 port.val := by
  refine (retrain_cases h d port).trans ?_
  rcases stays with away | ⟨off, kept⟩
  · exact if_pos (by rw [away]; rfl)
  · cases attached : (h.attached d).contains port.val
    · exact if_pos rfl
    · exact (if_neg Bool.false_ne_true).trans ((if_pos off).trans (if_pos kept))

section
variable (attached : (h.attached d).contains port.val = true)
include attached

theorem retrain_off (off : h.rd d R.RNG_PSTAT_STATE port.val = 4) (free : ¬((h.port d port.val).forcedOff = true ∨
      (h.rd d R.RNG_LES_REARM ≠ 0 ∧ h.rd d R.RNG_LES_REARM ≤ h.rd d R.RNG_PSTAT_OFFCNT port.val))) : retrain d port.val h =
    ((h.wr d R.RNG_PCMD_CMD 1 port.val).setPort d port.val { h.port d port.val with leavingOff := true }).enterTraining d port.val :=
  (retrain_cases h d port).trans ((if_neg (by rw [attached]; decide)).trans ((if_pos off).trans (if_neg free)))

theorem retrain_up (up : h.rd d R.RNG_PSTAT_STATE port.val = 2 ∨ h.rd d R.RNG_PSTAT_STATE port.val = 3) : retrain d port.val h =
    ((h.wr d R.RNG_PCMD_CMD 1 port.val).leaveUp d port.val 1).enterTraining d port.val := by
  have on : ¬(!(h.attached d).contains port.val) = true := by rw [attached]; decide
  have off : ¬h.rd d R.RNG_PSTAT_STATE port.val = 4 := by omega
  rw [retrain_cases, if_neg on, if_neg off, if_pos (up_of up)]

theorem retrain_down (down : h.rd d R.RNG_PSTAT_STATE port.val = 0 ∨ h.rd d R.RNG_PSTAT_STATE port.val = 1) : retrain d port.val h =
    (h.wr d R.RNG_PCMD_CMD 1 port.val).enterTraining d port.val := by
  have on : ¬(!(h.attached d).contains port.val) = true := by rw [attached]; decide
  have off : ¬h.rd d R.RNG_PSTAT_STATE port.val = 4 := by omega
  rw [retrain_cases, if_neg on, if_neg off, if_neg (down_of down)]

end

theorem forceOff_eq (h : Hw) (d p : Nat) : forceOff d p h =
    let g := h.wr d R.RNG_PCMD_CMD 2 p
    let x := if h.portUp d p = true then g.leaveUp d p 4 else g.movePort d p 4
    x.setPort d p { x.port d p with forcedOff := true, retryWait := false } := by
  unfold forceOff
  simp only [pcmd_up]

/-- PORT_RELEASE by the port as it was before the command (R139). -/
theorem portRelease_cases (h : Hw) (d : Nat) (port : Fin 4) : portRelease d port.val h =
    let g := (h.wr d R.RNG_PCMD_CMD 3 port.val).wr d R.RNG_PSTAT_OFFCNT 0 port.val
    if h.rd d R.RNG_PSTAT_STATE port.val ≠ 4 then g
    else if (h.attached d).contains port.val then
      (g.setPort d port.val { h.port d port.val with leavingOff := true }).enterTraining d port.val
    else (g.setPort d port.val { h.port d port.val with forcedOff := false }).movePort d port.val 0 := by
  have state := released_state h d 3 port.val
  have attached := (attached_offcnt (h.wr d R.RNG_PCMD_CMD 3 port.val) d 0 port).trans (attached_pcmd h d 3 port)
  have own := (wr_port (h.wr d R.RNG_PCMD_CMD 3 port.val) d R.RNG_PSTAT_OFFCNT 0 port.val 0 d port.val).trans
    (wr_port h d R.RNG_PCMD_CMD 3 port.val 0 d port.val)
  unfold portRelease
  generalize (h.wr d R.RNG_PCMD_CMD 3 port.val).wr d R.RNG_PSTAT_OFFCNT 0 port.val = g at state attached own ⊢
  dsimp only
  rw [state, attached, own]

end

/-! ## Losses and training -/

section
variable {h : Hw} {d p : Nat}

theorem linkLoss_up (up : h.rd d R.RNG_PSTAT_STATE p = 2 ∨ h.rd d R.RNG_PSTAT_STATE p = 3) : h.linkLoss d p =
    (((h.leaveUp d p 0).bump d R.RNG_PERRD_LINKLOSS 1 p).raiseFault d 0x01 p).enterTraining d p := if_pos (up_of up)

theorem blockLockLoss_up (up : h.rd d R.RNG_PSTAT_STATE p = 2 ∨ h.rd d R.RNG_PSTAT_STATE p = 3) (lane : Nat) : blockLockLoss d p lane h =
    ((h.wr d R.RNG_PSTAT_LES (min 1023 (h.rd d R.RNG_PSTAT_LES p + 64)) p).setPort d p { h.port d p with scored := true }).linkLoss d p :=
  if_pos (up_of up)

theorem blockLockLoss_training {lane : Nat} (training : h.rd d R.RNG_PSTAT_STATE p = 1) (lock : bit (h.rd d R.RNG_PSTAT_LOCK p) lane = true) :
    blockLockLoss d p lane h = ((h.wr d R.RNG_PSTAT_LOCK (h.rd d R.RNG_PSTAT_LOCK p &&& (15 - 2 ^ lane)) p).setPort d p
      { h.port d p with deskewed := false }).score d p 64 :=
  (if_neg (down_of (.inr training))).trans (if_pos ⟨training, lock⟩)

theorem blockLock_training (training : h.rd d R.RNG_PSTAT_STATE p = 1) (lane : Nat) :
    blockLock d p lane h = h.wr d R.RNG_PSTAT_LOCK (h.rd d R.RNG_PSTAT_LOCK p ||| 2 ^ lane) p := by
  have up : ¬(h.rd d R.RNG_PSTAT_STATE p = 0 ∧ (h.attached d).contains p = true ∧ (h.port d p).retryWait = false) := fun e =>
    absurd (training.symm.trans e.1) (by decide)
  unfold blockLock
  rw [if_neg up]
  exact if_pos training

end

/-- Settles O34: each transition by the branch that its case takes. -/
theorem ringPorts : Obligations.RingPorts := by
  intro s die port r h d p st attached keptOff
  refine ⟨fun scored => gives_of (f := lesDecay d p) rfl r (if_pos scored), fun quiet => ?decay, fun off free again => ?hold, fun off forced => ?held,
    fun active => gives_of (f := offcntClear d p) rfl r (if_pos active), fun stays => gives_of (f := retrain d p) rfl r (retrain_stays stays),
    fun a off free => gives_of (f := retrain d p) rfl r (retrain_off a off free),
    fun a up => gives_of (f := retrain d p) rfl r (retrain_up a up), fun a down => gives_of (f := retrain d p) rfl r (retrain_down a down),
    ?force, fun off away => ?releaseDown, fun off a => ?releaseTraining, fun on => ?release,
    fun up lane => gives_of (f := blockLockLoss d p lane.val) rfl r (blockLockLoss_up up lane.val),
    fun training lane lock => gives_of (f := blockLockLoss d p lane.val) rfl r (blockLockLoss_training training lock),
    fun up => gives_of (f := fun h => h.linkLoss d p) rfl r (linkLoss_up up),
    fun _ => gives_of (f := frameSilence d p false) rfl r rfl, gives_of (f := frameSilence d p true) rfl r rfl,
    fun training lane => ?lock, fun training => gives_of (f := trainingTimeout d p) rfl r (if_pos training),
    fun down waits a => gives_of (f := trainingRetry d p) rfl r (if_pos ⟨down, waits, a⟩)⟩
  case decay => exact gives_of (f := lesDecay d p) rfl r (if_neg (by rw [quiet]; decide))
  case hold => exact gives_of (f := offHoldExpiry d p) rfl r (if_pos ⟨off, free, again⟩)
  case held => exact gives_of (f := offHoldExpiry d p) rfl r (if_neg fun e => absurd (forced.symm.trans e.2.1) (by decide))
  case force =>
    refine ⟨gives_of (f := forceOff d p) rfl r (forceOff_eq h d p), ?_⟩
    dsimp only
    rw [setPort_port]
    exact ⟨rfl, rfl⟩
  case releaseDown =>
    exact gives_of (f := portRelease d p) rfl r ((portRelease_cases h d port).trans ((if_neg (not_not_intro off)).trans (if_neg (Bool.eq_false_iff.mp away))))
  case releaseTraining =>
    exact gives_of (f := portRelease d p) rfl r ((portRelease_cases h d port).trans ((if_neg (not_not_intro off)).trans (if_pos a)))
  case release =>
    exact ⟨gives_of (f := portRelease d p) rfl r ((portRelease_cases h d port).trans (if_pos on)), released_offcnt h d 3 p,
      released_state h d 3 p⟩
  case lock =>
    exact ⟨gives_of (f := blockLock d p lane.val) rfl r (blockLock_training training lane.val), rd_wr _ _ _ _ _ _ rfl,
      (rd_wr_beside _ _ _ _ _ _ _ rfl).trans training⟩

end Sys2Proof.Machine
end

section
/-!
PROOFS. Presence cells and the ring map.
-/

namespace Sys2Proof.Machine

theorem exec_presenceSend (die : Die) (s : State) : exec (.presenceSend die) s = s.onDie die fun h => h.sendPresence die.val := rfl

section
variable {h : Hw} {d : Nat}

theorem presenceTake_head {u : Upset} {c : CCell} {rest : List CCell} (head : ((h.meet d 552 u).2.cq d 552).cells = c :: rest) :
    presenceTake d u h = ((h.meet d 552 u).2.dropHead d 552).applyPresence d c.cell.data := by
  unfold presenceTake
  dsimp only
  rw [head]

theorem presenceTake_empty {u : Upset} (empty : ((h.meet d 552 u).2.cq d 552).cells = []) : presenceTake d u h = (h.meet d 552 u).2 := by
  unfold presenceTake
  dsimp only
  rw [empty]

end

/-- Settles O35: each command by the branch that its case takes. -/
theorem presence : Obligations.Presence := by
  intro s die r h d
  refine ⟨fun named attached awake => gives_of (exec_presenceSend die s) r (if_pos ⟨named, attached, awake⟩), fun asleep => ?asleep,
    fun u => ⟨fun c rest head => gives_of (f := presenceTake d u) rfl r (presenceTake_head head),
      fun empty => gives_of (f := presenceTake d u) rfl r (presenceTake_empty empty)⟩,
    fun c discarded => if_pos (.inr discarded), fun node heard => gives_of (f := nodeAbsent d node.toNat) rfl r (if_pos heard), fun node unheard => ?unheard⟩
  case asleep => exact gives_of (exec_presenceSend die s) r (if_neg fun e => e.2.2 asleep)
  case unheard => exact gives_of (f := nodeAbsent d node.toNat) rfl r (if_neg (Bool.eq_false_iff.mp unheard))

end Sys2Proof.Machine
end

section
/-!
PROOFS. A ring frame leaves, and a ring frame arrives.
-/

namespace Sys2Proof.Machine

/-! ## A frame leaves -/

section
variable {h : Hw} {d : Nat}

theorem outputSlot_idle {o : Nat} (none : h.chooseClass d o = none) (u : Upset) : outputSlot d o u h = h := by
  unfold outputSlot
  split
  · unfold lpMpSlot
    rw [none]
  · rw [none]

/-- A slot of another port than LP and MP that has a class with a cell sends by its kind of port. -/
theorem outputSlot_sends {o c : Nat} {u : Upset} (other : ¬(o = 6 ∨ o = 7)) (chosen : h.chooseClass d o = some c)
    (kept : ((h.countWaits d o c).meet d (outQueue o c) u).1 = false)
    (cells : (((h.countWaits d o c).meet d (outQueue o c) u).2.cq d (outQueue o c)).cells ≠ []) :
    outputSlot d o u h =
      let g := ((h.countWaits d o c).meet d (outQueue o c) u).2
      if o < 4 then g.sendRing d o c else if 8 ≤ o then g.sendDie d o c else g.sendBridge d o c := by
  unfold outputSlot
  rw [if_neg other, chosen]
  dsimp only
  generalize (h.countWaits d o c).meet d (outQueue o c) u = m at kept cells ⊢
  obtain ⟨reset, g⟩ := m
  dsimp only at kept cells ⊢
  rw [if_neg]
  simp [kept, cells]

section
variable {p : Nat} (waits : (h.port d p).outstanding ≠ []) (up : h.portUp d p = true)
include waits up

/-- A replay timeout of a port that waits for an acknowledge (R166). -/
theorem replayTimeout_due : replayTimeout d p false h =
    let g := h.setPort d p { h.port d p with retries := (h.port d p).retries + 1 }
    if g.rd d R.RNG_LES_RETRYMAX ≤ (h.port d p).retries + 1 then
      let k := g.wr d R.RNG_PSTAT_LES (min 1023 (g.rd d R.RNG_PSTAT_LES p + 16)) p
      (k.setPort d p { k.port d p with scored := true }).linkLoss d p
    else (g.replay d p).score d p 16 := by
  have due : ¬((h.port d p).outstanding.isEmpty = true ∨ h.portUp d p = false) := by simp [waits, up]
  unfold replayTimeout
  exact (if_neg Bool.false_ne_true).trans (if_neg due)

theorem replayTimeout_replays (few : (h.port d p).retries + 1 < h.rd d R.RNG_LES_RETRYMAX) : replayTimeout d p false h =
    ((h.setPort d p { h.port d p with retries := (h.port d p).retries + 1 }).replay d p).score d p 16 :=
  (replayTimeout_due waits up).trans (if_neg (Nat.not_le.mpr (by rw [setPort_rd]; exact few)))

theorem replayTimeout_last (many : h.rd d R.RNG_LES_RETRYMAX ≤ (h.port d p).retries + 1) : replayTimeout d p false h =
    let g := h.setPort d p { h.port d p with retries := (h.port d p).retries + 1 }
    let k := g.wr d R.RNG_PSTAT_LES (min 1023 (h.rd d R.RNG_PSTAT_LES p + 16)) p
    (k.setPort d p { k.port d p with scored := true }).linkLoss d p := by
  rw [replayTimeout_due waits up]
  dsimp only
  rw [setPort_rd, setPort_rd, if_pos many]

end

theorem creditFrameDue_sync {p : Nat} (up : h.portUp d p = true) (due : (h.port d p).syncDue = true) : creditFrameDue d p h =
    (h.setPort d p { h.port d p with syncDue := false }).emitFrame d p (h.controlFrame d (creditSyncMsg (h.port d p))) := by
  unfold creditFrameDue Hw.syncFirst
  rw [if_neg (by rw [up]; decide), if_pos due]
  exact if_pos due

theorem creditFrameDue_keepalive {p : Nat} (up : h.portUp d p = true) (idle : (h.port d p).syncDue = false) :
    creditFrameDue d p h = h.sendControl d p [0x01] := by
  unfold creditFrameDue
  rw [if_neg (by rw [up]; decide), if_neg (by rw [idle]; decide)]

/-! ## A frame arrives -/

section
variable {p : Nat} {bytes : List Byte} {abort : Bool} {blk : Nat} {cut : List Nat}

theorem cellFrameIn_asleep (asleep : h.node.state = .sleep) : cellFrameIn d p bytes abort blk cut h = h := if_pos asleep

theorem cellFrameIn_training (awake : h.node.state ≠ .sleep) (training : h.rd d R.RNG_PSTAT_STATE p = 1) :
    cellFrameIn d p bytes abort blk cut h = (h.blockErrors d p blk).trainingFrame d p bytes abort :=
  (if_neg awake).trans (if_pos training)

section
variable (awake : h.node.state ≠ .sleep) (up : h.portUp d p = true) (trained : h.rd d R.RNG_PSTAT_STATE p ≠ 1)
include awake up trained

theorem cellFrameIn_up : cellFrameIn d p bytes abort blk cut h =
    if (h.blockErrors d p blk).portUp d p = false then (h.blockErrors d p blk).stompFrame d p (parseFrame bytes) cut
    else match (h.blockErrors d p blk).receive d p bytes abort with
      | (some f, h) => if f.ftype = 1 then h.acceptCell d p f else h
      | (none, h) => h.stompFrame d p (parseFrame bytes) cut :=
  (if_neg awake).trans ((if_neg trained).trans (if_pos up))

theorem cellFrameIn_fallen (fallen : (h.blockErrors d p blk).portUp d p = false) : cellFrameIn d p bytes abort blk cut h =
    (h.blockErrors d p blk).stompFrame d p (parseFrame bytes) cut := (cellFrameIn_up awake up trained).trans (if_pos fallen)

section
variable (stays : (h.blockErrors d p blk).portUp d p = true)
include stays

theorem cellFrameIn_clean {f : Frame} (clean : ((h.blockErrors d p blk).receive d p bytes abort).1 = some f) :
    cellFrameIn d p bytes abort blk cut h =
      let g := ((h.blockErrors d p blk).receive d p bytes abort).2
      if f.ftype = 1 then g.acceptCell d p f else g := by
  rw [cellFrameIn_up awake up trained, if_neg (by rw [stays]; decide)]
  generalize (h.blockErrors d p blk).receive d p bytes abort = x at clean ⊢
  obtain ⟨_, g⟩ := x
  subst clean
  rfl

theorem cellFrameIn_fails (fails : ((h.blockErrors d p blk).receive d p bytes abort).1 = none) :
    cellFrameIn d p bytes abort blk cut h =
      ((h.blockErrors d p blk).receive d p bytes abort).2.stompFrame d p (parseFrame bytes) cut := by
  rw [cellFrameIn_up awake up trained, if_neg (by rw [stays]; decide)]
  generalize (h.blockErrors d p blk).receive d p bytes abort = x at fails ⊢
  obtain ⟨_, g⟩ := x
  subst fails
  rfl

end
end

section
variable (up : h.portUp d p = true)
include up

/-- A link control frame on a port that is up leaves what its receipt leaves. -/
theorem controlMsg_hw : (h.controlMsg d p bytes).2 = (h.receive d p bytes false).2 := by
  unfold Hw.controlMsg
  rw [if_pos up]
  generalize h.receive d p bytes false = x
  obtain ⟨_ | f, g⟩ := x <;> rfl

theorem creditSync_applies {f : Frame} (clean : (h.receive d p bytes false).1 = some f) (control : f.ftype = 2)
    (sync : leAt f.cell 0 2 = 0x0103) : creditSync d p bytes h = (h.receive d p bytes false).2.applySync d p f.cell := by
  have message : h.controlMsg d p bytes = (some f.cell, (h.receive d p bytes false).2) := by
    unfold Hw.controlMsg
    rw [if_pos up]
    generalize h.receive d p bytes false = x at clean ⊢
    obtain ⟨_, g⟩ := x
    subst clean
    exact congrArg (fun m => (m, g)) (if_pos control)
  unfold creditSync
  rw [message]
  exact if_pos sync

end
end
end

/-- Settles O36: each frame by the branch that its case takes. -/
theorem linkFrames : Obligations.LinkFrames := by
  intro s die port r h d p x
  refine ⟨fun o u c ring chosen => ?ring, fun o u c link chosen => ?link,
    fun o u none => gives_of (f := outputSlot d o.val u) rfl r (outputSlot_idle none u), fun waits up => ?replay,
    fun up due => gives_of (f := creditFrameDue d p) rfl r (creditFrameDue_sync up due),
    fun up idle => gives_of (f := creditFrameDue d p) rfl r (creditFrameDue_keepalive up idle), fun bytes abort blk cut => ?cell,
    fun up bytes => gives_of (f := keepalive d p bytes) rfl r (controlMsg_hw up),
    fun up bytes f clean control sync => gives_of (f := creditSync d p bytes) rfl r (creditSync_applies up clean control sync),
    fun training lock attached => gives_of (f := deskew d p) rfl r (if_pos ⟨training, lock, attached⟩),
    fun idle => gives_of (f := deskew d p) rfl r (if_neg idle)⟩
  case ring =>
    intro m kept cells
    exact gives_of (f := outputSlot d o.val u) rfl r ((outputSlot_sends (by omega) chosen kept cells).trans (if_pos ring))
  case link =>
    intro m kept cells
    exact gives_of (f := outputSlot d o.val u) rfl r ((outputSlot_sends (by omega) chosen kept cells).trans
      ((if_neg (by omega)).trans (if_pos link)))
  case replay =>
    intro g
    exact ⟨fun few => gives_of (f := replayTimeout d p false) rfl r (replayTimeout_replays waits up few),
      fun many => gives_of (f := replayTimeout d p false) rfl r (replayTimeout_last waits up many)⟩
  case cell =>
    intro k g sent
    have run : exec (.cellFrame die port bytes abort blk cut) s = s.onDie die (cellFrameIn d p bytes abort blk sent) := rfl
    refine ⟨fun asleep => gives_of run r (cellFrameIn_asleep asleep),
      fun awake training => gives_of run r (cellFrameIn_training awake training), fun awake up trained =>
        ⟨fun fallen => gives_of run r (cellFrameIn_fallen awake up trained fallen), fun stays =>
          ⟨fun f clean cell => gives_of run r ((cellFrameIn_clean awake up trained stays clean).trans (if_pos cell)),
            fun f clean other => gives_of run r ((cellFrameIn_clean awake up trained stays clean).trans (if_neg other)),
            fun fails => gives_of run r (cellFrameIn_fails awake up trained stays fails)⟩⟩⟩

end Sys2Proof.Machine
end

section
/-!
PROOFS. The peer's training exchange and its first frame under the session key.
-/

namespace Sys2Proof.Machine

section
variable {h : Hw} {d p : Nat}

theorem exchangeFrame_other (training : h.rd d R.RNG_PSTAT_STATE p = 1) {bytes : List Byte}
    (other : (frameCrcOk bytes && (parseFrame bytes).ftype == 2) = false) :
    exchangeFrame d p bytes h = (h.journalFrame d p 1 (parseFrame bytes)).trainingFrame d p bytes false :=
  (if_neg (not_not_intro training)).trans (if_neg (Bool.eq_false_iff.mp other))

theorem exchangeFrame_control (training : h.rd d R.RNG_PSTAT_STATE p = 1) {bytes : List Byte}
    (crc : frameCrcOk bytes = true) (control : (parseFrame bytes).ftype = 2) :
    exchangeFrame d p bytes h = trainingExchange d p (parseFrame bytes).cell (h.journalFrame d p 4 (parseFrame bytes)) :=
  (if_neg (not_not_intro training)).trans (if_pos (by rw [crc, control]; rfl))

/-- The state of a port and its links is not in the journals. -/
theorem journalFrame_keeps (h : Hw) (d p n : Nat) (f : Frame) : (h.journalFrame d p n f).port d p = h.port d p ∧
    (∀ F i, (h.journalFrame d p n f).rd d F i = h.rd d F i) ∧ (h.journalFrame d p n f).attached d = h.attached d := by
  obtain ⟨j, e⟩ := journalFrame_only h d p n f
  rw [e]
  exact ⟨rfl, fun _ _ => rfl, rfl⟩

/-- The result of the first frame under the session key is journaled and acted on. -/
theorem trainingAuthFrame_checked (training : h.rd d R.RNG_PSTAT_STATE p = 1) (auth : h.on d R.RNG_CFG_AUTHEN = true)
    (session : (h.port d p).sessionRx ≠ none) {bytes : List Byte} {n : Nat}
    (status : (if !frameCrcOk bytes then 1 else if tagOk true (h.port d p) (parseFrame bytes) bytes then 4 else 2) = n) :
    trainingAuthFrame d p bytes h = (h.journalFrame d p n (parseFrame bytes)).authResult d p n (parseFrame bytes) := by
  subst status
  exact if_neg (by rw [training, auth]; simp [session])

end

/-- Settles O37: each frame by its checks, on the hardware with the arrival journaled. -/
theorem linkTraining : Obligations.LinkTraining := by
  intro s die port r h d p x training
  refine ⟨fun bytes other => gives_of (f := exchangeFrame d p bytes) rfl r (exchangeFrame_other training other),
    fun deskewed lock attached bytes => ?exchange, fun auth session bytes => ?first⟩
  case exchange =>
    intro f m crc control message
    have start := exchangeFrame_control training crc control
    obtain ⟨port', reads, attached'⟩ := journalFrame_keeps h d p 4 f
    have run := start.trans (trainingExchange_meets _ d p m x port' ((reads _ _).trans training) (by rw [port']; exact deskewed)
      ((reads _ _).trans lock) (by rw [attached']; exact attached) message)
    intro k why g
    refine ⟨fun fails again => ?_, fun fails new => ?_, fun agrees => ?_⟩
    · refine gives_of (f := exchangeFrame d p bytes) rfl r (run.trans ((if_pos fails).trans ?_))
      rw [if_pos again]
    · refine gives_of (f := exchangeFrame d p bytes) rfl r (run.trans ((if_pos fails).trans ?_))
      rw [if_neg new]
    · exact gives_of (f := exchangeFrame d p bytes) rfl r (run.trans (if_neg (not_not_intro agrees)))
  case first =>
    intro f
    have port' := fun n => (journalFrame_keeps h d p n f).1
    refine ⟨fun crc tag => ?passes, fun crc => ?crc, fun crc tag => ?tag⟩
    case passes =>
      have status : (if !frameCrcOk bytes then 1 else if tagOk true x f bytes then 4 else 2) = 4 := by rw [crc, tag]; rfl
      have run := trainingAuthFrame_checked training auth session status
      exact gives_of (f := trainingAuthFrame d p bytes) rfl r (run.trans (authResult_good _ d p f x (port' 4)))
    case crc =>
      have status : (if !frameCrcOk bytes then 1 else if tagOk true x f bytes then 4 else 2) = 1 := by rw [crc]; rfl
      have run := trainingAuthFrame_checked training auth session status
      exact gives_of (f := trainingAuthFrame d p bytes) rfl r (run.trans (authResult_crc _ d p f))
    case tag =>
      have status : (if !frameCrcOk bytes then 1 else if tagOk true x f bytes then 4 else 2) = 2 := by rw [crc, tag]; rfl
      have run := trainingAuthFrame_checked training auth session status
      obtain ⟨again, new⟩ := authResult_tag (h.journalFrame d p 2 f) d p f x (port' 2)
      exact ⟨fun same => gives_of (f := trainingAuthFrame d p bytes) rfl r (run.trans (again same)),
        fun other => gives_of (f := trainingAuthFrame d p bytes) rfl r (run.trans (new other))⟩

end Sys2Proof.Machine
end

section
/-!
PROOFS. The passage of trains, and their starts.
-/

namespace Sys2Proof.Machine

/-! ## Segments -/

/-- The hardware that a segment meets: with a tamper alarm of the core cycle Dawn has ended already (R40). -/
def Hw.tampered (h : Hw) (tamper : Bool) : Hw := if tamper = true ∧ h.node.state = .dawn then h.dawnFail 0x0F 0 else h

section
variable {h : Hw} {d p : Nat} {tamper : Bool}

theorem trainSegment_tampered (h : Hw) (m : SMap Byte) (d p : Nat) (bytes : List Byte) (tamper : Bool) :
    trainSegment d p bytes tamper (h, m) = trainSegment d p bytes false (h.tampered tamper, m) := by
  have alarm : (if tamper = true ∧ h.node.state = .dawn then (h.dawnFail 0x0F 0, m) else (h, m)) = (h.tampered tamper, m) := by
    unfold Hw.tampered
    split <;> rfl
  have none : ∀ g : Hw, (if false = true ∧ g.node.state = .dawn then (g.dawnFail 0x0F 0, m) else (g, m)) = (g, m) := fun g =>
    if_neg fun e => Bool.false_ne_true e.1
  unfold trainSegment
  dsimp only
  rw [alarm, none]

theorem trainSegment_idle {m : SMap Byte} {bytes : List Byte} (idle : (h.train d).passages.get none p = none) :
    trainSegment d p bytes false (h, m) = (h, m) := by
  have none : (if false = true ∧ h.node.state = .dawn then (h.dawnFail 0x0F 0, m) else (h, m)) = (h, m) :=
    if_neg fun e => Bool.false_ne_true e.1
  unfold trainSegment
  dsimp only
  rw [none, idle]

theorem trainSegment_passes {m : SMap Byte} {bytes : List Byte} {g : Passage} (passage : (h.train d).passages.get none p = some g) :
    trainSegment d p bytes false (h, m) =
      let crcOk := crc32c (slice bytes 0 248) == BitVec.ofNat 32 (leAt bytes 248 4)
      let clean := leAt bytes 252 4 == 0
      let y := if g.next = 0 then headerSegment d p g bytes (crcOk && clean) (h, m) else bucketSegment d p g bytes (crcOk && clean) (h, m)
      (y.1.countSegment d p crcOk clean, y.2) := by
  have none : (if false = true ∧ h.node.state = .dawn then (h.dawnFail 0x0F 0, m) else (h, m)) = (h, m) :=
    if_neg fun e => Bool.false_ne_true e.1
  unfold trainSegment
  dsimp only
  rw [none, passage]

end

/-! ## Windows and starts -/

section
variable {h : Hw} {d : Nat}

section
variable (opened : (h.train d).windowOpen = true)
include opened

theorem windowExpiry_margin : windowExpiry d true h = (h.bump d R.RNG_EXCNT_MARGIN).timeWindowMargin d := by
  unfold windowExpiry
  rw [if_neg (by rw [opened]; decide)]
  exact if_pos rfl

section
variable {g : Hw} (missed : ((h.bump d R.RNG_MISS_CONSEC).bump d R.RNG_MISS_TOTAL).timeWindowMissed d = g)
include missed

theorem windowExpiry_held (few : g.rd d R.RNG_MISS_CONSEC ≤ g.rd d R.NOD_STATE_HOLD) : windowExpiry d false h = g := by
  unfold windowExpiry
  rw [if_neg (by rw [opened]; decide), if_neg Bool.false_ne_true, missed]
  exact if_neg (Nat.not_lt.mpr few)

/-- More trains missed than HOLD put a running node in Safe (R159). -/
theorem windowExpiry_safe (many : g.rd d R.NOD_STATE_HOLD < g.rd d R.RNG_MISS_CONSEC) (runs : g.node.state = .run ∨ g.node.state = .degraded) :
    windowExpiry d false h = { g with node.safeTrains := true }.enterSafe 1 := by
  unfold windowExpiry
  rw [if_neg (by rw [opened]; decide), if_neg Bool.false_ne_true, missed]
  exact (if_pos many).trans (if_pos runs)

end

end

/-- A die that does not originate starts no train. -/
theorem trainOriginate_off (off : h.on d R.RNG_CMSTAT_ORIG = false) : trainOriginate d h = h :=
  if_neg fun e => absurd (off.symm.trans e.1) (by decide)

theorem trainOriginate_waits (locked : h.on d R.RNG_PLOCK_PLEN = true) (waits : h.boundaryNo d = (h.train d).phaseAt ∨ h.trkState d (h.rd d R.RNG_PLOCK_TRACKER) = 3 ∨
    h.trkState d (h.rd d R.RNG_PLOCK_TRACKER) = 4) : trainOriginate d h = h := by
  refine if_neg fun e => ?_
  have due := e.2
  simp only [locked, Bool.not_true, Bool.false_or, Bool.and_eq_true, bne_iff_ne] at due
  obtain ⟨⟨crossed, s3⟩, s4⟩ := due
  rcases waits with w | w | w
  · exact crossed w
  · exact s3 w
  · exact s4 w

section
variable (orig : h.on d R.RNG_CMSTAT_ORIG = true)
include orig

theorem trainOriginate_period (free : h.on d R.RNG_PLOCK_PLEN = false) : trainOriginate d h = h.startTrain d (h.rd d R.RNG_PLOCK_PLEN) :=
  if_pos ⟨orig, by rw [free]; rfl⟩

section
variable (locked : h.on d R.RNG_PLOCK_PLEN = true)
include locked

theorem trainOriginate_boundary (crossed : h.boundaryNo d ≠ (h.train d).phaseAt) (s3 : h.trkState d (h.rd d R.RNG_PLOCK_TRACKER) ≠ 3)
    (s4 : h.trkState d (h.rd d R.RNG_PLOCK_TRACKER) ≠ 4) : trainOriginate d h = h.startTrain d (h.rd d R.RNG_PLOCK_PLEN) :=
  if_pos ⟨orig, by simp [locked, crossed, s3, s4]⟩

theorem phaseLockedBound_hold (lost : h.trkState d (h.rd d R.RNG_PLOCK_TRACKER) = 3 ∨ h.trkState d (h.rd d R.RNG_PLOCK_TRACKER) = 4)
    (b : Bool) : phaseLockedBound d b h = (h.startTrain d 5).flag d R.RNG_EXSTAT_PLHOLD :=
  (if_pos ⟨orig, locked⟩).trans (if_pos lost)

theorem phaseLockedBound_tracks (s3 : h.trkState d (h.rd d R.RNG_PLOCK_TRACKER) ≠ 3) (s4 : h.trkState d (h.rd d R.RNG_PLOCK_TRACKER) ≠ 4)
    (b : Bool) : phaseLockedBound d b h =
      if b then (h.startTrain d 1).bump d R.PHS_EMISC_MARGIN else (h.startTrain d 3).flag d R.RNG_EXSTAT_PLSLIP :=
  (if_pos ⟨orig, locked⟩).trans (if_neg (not_or.mpr ⟨s3, s4⟩))

end
end
end

/-- Settles O38: each command by the branch that its case takes. -/
theorem trains : Obligations.Trains := by
  intro s die port r h d p
  refine ⟨fun up awake res => ?start, gives_of (f := trainEnd d p) rfl r rfl, fun bytes tamper => ?segment,
    fun opened => ?margin, fun opened => ?missed,
    fun orig free => gives_of (f := trainOriginate d) rfl r (trainOriginate_period orig free),
    fun orig locked => ⟨fun crossed s3 s4 => gives_of (f := trainOriginate d) rfl r (trainOriginate_boundary orig locked crossed s3 s4),
      fun waits => gives_of (f := trainOriginate d) rfl r (trainOriginate_waits locked waits)⟩,
    fun off => gives_of (f := trainOriginate d) rfl r (trainOriginate_off off),
    fun orig locked => ⟨fun lost b => gives_of (f := phaseLockedBound d b) rfl r (phaseLockedBound_hold orig locked lost b),
      fun s3 s4 => gives_of (f := phaseLockedBound d true) rfl r ((phaseLockedBound_tracks orig locked s3 s4 true).trans (if_pos rfl)),
      fun s3 s4 => gives_of (f := phaseLockedBound d false) rfl r
        ((phaseLockedBound_tracks orig locked s3 s4 false).trans (if_neg Bool.false_ne_true))⟩,
    fun may => ?origination, gives_of (f := originationStart d true) rfl r (if_pos (.inl rfl))⟩
  case start =>
    have passes : ¬(h.portUp d p = false ∨ (h.node.state = .sleep ∧ h.node.woken = false)) := by
      rw [up]
      exact fun e => e.elim (fun n => absurd n (by decide)) fun e => awake e.1
    exact gives_of (f := trainStart d p res.toNat) rfl r (if_neg passes)
  case segment =>
    intro k
    have run := trainSegment_tampered h s.pir d p bytes tamper
    refine ⟨fun g passage => gives_of_mem (f := trainSegment d p bytes tamper) rfl r (run.trans (trainSegment_passes passage)),
      fun idle => gives_of_mem_only (f := trainSegment d p bytes tamper) rfl r (run.trans (trainSegment_idle idle))⟩
  case margin => exact gives_of (f := windowExpiry d true) rfl r (windowExpiry_margin opened)
  case missed =>
    exact ⟨fun few => gives_of (f := windowExpiry d false) rfl r (windowExpiry_held opened rfl few),
      fun many runs => gives_of (f := windowExpiry d false) rfl r (windowExpiry_safe opened rfl many runs)⟩
  case origination => exact gives_of (f := originationStart d false) rfl r (if_neg (by rw [may]; simp))

end Sys2Proof.Machine
end

section
/-!
PROOFS. Multicast, forwarding, relinking, error packets and die links.
-/

namespace Sys2Proof.Machine

section
variable {h : Hw} {d : Nat}

/-- The destinations still owed are given up all at once, with one residue record (R239). -/
theorem giveUp_owed {m : McCell} (owed : m.owed ≠ []) (h : Hw) (d : Nat) : h.giveUp d m m.owed =
    ({ m with owed := [], gaveUp := m.gaveUp ++ m.owed }, h.residue d { m with owed := [], gaveUp := m.gaveUp ++ m.owed }) := by
  have none : (m.owed.filter fun o => !m.owed.contains o) = [] := by simp
  unfold Hw.giveUp
  rw [if_neg (by simpa using owed), none]

theorem multicastGiveUp_oldest {m : McCell} {rest : List McCell} (pending : (h.switch d).mcs = m :: rest) (owed : m.owed ≠ []) :
    multicastGiveUp d none h =
      let n : McCell := { m with owed := [], gaveUp := m.gaveUp ++ m.owed }
      let g := h.residue d n
      (g.setSwitch d { g.switch d with mcs := n :: rest }).finishMulticast d := by
  unfold multicastGiveUp
  dsimp only
  rw [pending]
  dsimp only
  rw [giveUp_owed owed]

theorem multicastGiveUp_idle (idle : (h.switch d).mcs = []) (o : Option (Fin 10)) : multicastGiveUp d o h = h := by
  unfold multicastGiveUp
  cases o <;> simp [idle]

theorem lpMpSlot_chosen {o c : Nat} (chosen : h.chooseClass d o = some c) (u dest : Upset) : lpMpSlot d o u dest h =
    let m := (h.countWaits d o c).meet d (outQueue o c) u
    if m.1 then m.2 else m.2.relinkHead d o c dest := by
  unfold lpMpSlot
  rw [chosen]

theorem errorPacketSend_oldest {p : ErrPkt} {rest : List ErrPkt} (pending : h.errs.get [] d = p :: rest) : errorPacketSend d h =
    ({ h with errs := h.errs.put [] d rest } : Hw).offer d 7 (blankCell 0 p.node p.die 553 h.nodeId d (errorBytes p)) := by
  unfold errorPacketSend
  rw [pending]

end

/-- Settles O39: each command by the branch that its case takes. -/
theorem switchCommands : Obligations.SwitchCommands := by
  intro s die r h d
  refine ⟨gives_of (f := matchCycle d) rfl r rfl,
    fun m rest pending owed => gives_of (f := multicastGiveUp d none) rfl r (multicastGiveUp_oldest pending owed),
    fun idle o => gives_of (f := multicastGiveUp d o) rfl r (multicastGiveUp_idle idle o),
    fun mp u => gives_of (f := forwardPresent d mp u) rfl r rfl, fun mp u dest c => ?relink,
    fun p rest pending => gives_of (f := errorPacketSend d) rfl r (errorPacketSend_oldest pending),
    fun dp up => gives_of (f := dieLinkSilence d dp.val) rfl r (if_pos up), fun dp => gives_of (f := dieLinkTrained d dp.val) rfl r rfl⟩
  case relink =>
    intro o chosen m
    exact ⟨fun reset => gives_of (f := lpMpSlot d o u dest) rfl r ((lpMpSlot_chosen chosen u dest).trans (if_pos reset)),
      fun kept => gives_of (f := lpMpSlot d o u dest) rfl r ((lpMpSlot_chosen chosen u dest).trans (if_neg (Bool.eq_false_iff.mp kept)))⟩

end Sys2Proof.Machine
end

section
/-!
PROOFS. The commands of fabric time.
-/

namespace Sys2Proof.Machine

/-! ## The second edge -/

/-- The label that waits, where one does, is paired with the second edge. -/
def Hw.pairWaiting (h : Hw) : Hw :=
  match h.ftm.label with
  | some (utc, o) => h.pairLabel utc o
  | none => h

theorem pairWaiting_none {h : Hw} (none : h.ftm.label = none) : h.pairWaiting = h := by
  unfold Hw.pairWaiting
  rw [none]

theorem pairWaiting_some {h : Hw} {utc o : Nat} (label : h.ftm.label = some (utc, o)) : h.pairWaiting = h.pairLabel utc o := by
  unfold Hw.pairWaiting
  rw [label]

/-- An edge of PPS_IN at the time master. -/
theorem secondEdge_pps {h k : Hw} {t : Nat} (master : h.timeMaster = true) (pps : h.on h.node.owner R.FTM_CFG_PPSSRC = false)
    (reached : (h.eachDie fun e g => g.journal e 0xC 0).reachUtcAt = k) (time : k.ftm.time - k.rd k.node.owner R.FTM_REFDLY_PPSDLY * unitsPerNs = t) :
    secondEdge h = Hw.pairWaiting
      (let second := 1000000000 * unitsPerNs
       let g := { k with ftm.lastEdge := some t, ftm.lastInput := k.now }
       if g.on 0 R.FTM_STAT_STEPPED then g.timeInput ((((t + second / 2) / second * second : Nat) : Int) - (t : Int)) second true else g) := by
  subst reached time
  unfold secondEdge
  rw [if_pos master, pps]
  rfl

section
variable {h k g : Hw} {t : Nat} (master : h.timeMaster = true) (pps : h.on h.node.owner R.FTM_CFG_PPSSRC = false)
  (reached : (h.eachDie fun e g => g.journal e 0xC 0).reachUtcAt = k) (time : k.ftm.time - k.rd k.node.owner R.FTM_REFDLY_PPSDLY * unitsPerNs = t)
  (noted : { k with ftm.lastEdge := some t, ftm.lastInput := k.now } = g)
include master pps reached time noted

theorem secondEdge_stepped {second : Nat} {x : Hw} (unit : 1000000000 * unitsPerNs = second) (stepped : g.on 0 R.FTM_STAT_STEPPED = true)
    (input : g.timeInput ((((t + second / 2) / second * second : Nat) : Int) - (t : Int)) second true = x) :
    secondEdge h = x.pairWaiting ∧ x.ftm.label = g.ftm.label := by
  subst noted unit input
  exact ⟨(secondEdge_pps master pps reached time).trans (congrArg Hw.pairWaiting (if_pos stepped)), timeInput_label ..⟩

theorem secondEdge_unstepped (unstepped : g.on 0 R.FTM_STAT_STEPPED = false) : secondEdge h = g.pairWaiting := by
  subst noted
  exact (secondEdge_pps master pps reached time).trans (congrArg Hw.pairWaiting (if_neg (Bool.eq_false_iff.mp unstepped)))

end

/-! ## Steps of the offset, the delay exchange, the checks of the clocks -/

section
variable {h : Hw}

/-- UTCAT is due where the time master's fabric time has reached it and NEXTOFF has not applied (R418). -/
theorem utcDue_iff : h.utcDue = true ↔ h.timeMaster = true ∧ h.rd h.node.owner R.FTM_UTCAT_UTCAT ≠ 0 ∧
    h.rd h.node.owner R.FTM_UTCAT_UTCAT ≠ h.ftm.utcDone ∧ h.rd h.node.owner R.FTM_UTCAT_UTCAT ≤ h.fabricNs / 1000000000 := by
  simp [Hw.utcDue, and_assoc]

section
variable {d p : Nat} {bytes m : List Byte} (message : (h.controlMsg d p bytes).1 = some m)
include message

theorem delayRequest_answers (code : leAt m 0 2 = 0x0101) (turn : Nat) : delayRequest d p bytes turn h =
    (h.controlMsg d p bytes).2.sendControl d p ([0x01, 0x02] ++ slice m 2 2 ++ List.replicate 4 0 ++ slice m 8 8 ++ leBytes 4 turn) := by
  unfold delayRequest
  generalize h.controlMsg d p bytes = x at message ⊢
  obtain ⟨_, g⟩ := x
  subst message
  exact if_pos code

theorem delayResponse_adds (code : leAt m 0 2 = 0x0201) (turn : leAt m 0x10 4 ≤ 20000) (up : (h.controlMsg d p bytes).2.portUp d p = true)
    (stamp : Nat) : delayResponse d p bytes stamp h = (h.controlMsg d p bytes).2.addDelay d p
      (((stamp : Int) - (leAt m 8 8 : Int) - (leAt m 0x10 4 : Int)).fdiv 2 + (h.controlMsg d p bytes).2.rdInt d R.FTM_PASYM_ASYM p) := by
  unfold delayResponse
  generalize h.controlMsg d p bytes = x at message up ⊢
  obtain ⟨_, g⟩ := x
  subst message
  exact if_pos ⟨code, turn, up⟩

end
end

/-- Settles O40: each command by the branch that its case takes. -/
theorem fabricTime : Obligations.FabricTime := by
  intro s awake h second
  refine ⟨fun master pps => ?edge, fun other => gives_of_awake (f := secondEdge) rfl awake (if_neg (Bool.eq_false_iff.mp other)),
    fun master => ?margin, fun master => ?loss, fun stepped => gives_of_awake (f := ftmAccept) rfl awake (if_pos stepped),
    fun unstepped => gives_of_awake (f := ftmAccept) rfl awake (if_neg (Bool.eq_false_iff.mp unstepped)), ?offset,
    fun valid => gives_of_awake (f := calendarSet) rfl awake (if_pos valid),
    fun valid => gives_of_awake (f := ppsOutPulse) rfl awake (if_pos valid), fun invalid => ?invalid, fun die port present up => ?delay,
    fun die diff present => ?clocks⟩
  case edge =>
    intro k t g x
    refine ⟨fun stepped => ?_, fun unstepped => ?_⟩
    · obtain ⟨run, label⟩ := secondEdge_stepped (second := second) (x := x) master pps (k := k) (t := t) rfl rfl rfl rfl stepped rfl
      exact ⟨fun none => gives_of_awake (f := secondEdge) rfl awake (run.trans (pairWaiting_none (label.trans none))),
        fun utc o some => gives_of_awake (f := secondEdge) rfl awake (run.trans (pairWaiting_some (label.trans some)))⟩
    · have run := secondEdge_unstepped master pps (k := k) (t := t) (g := g) rfl rfl rfl unstepped
      exact ⟨fun none => gives_of_awake (f := secondEdge) rfl awake (run.trans (pairWaiting_none none)),
        fun utc o some => gives_of_awake (f := secondEdge) rfl awake (run.trans (pairWaiting_some some))⟩
  case margin =>
    exact ⟨gives_of_awake (f := ppsLoss true) rfl awake ((if_pos master).trans (if_pos rfl)), rd_bump_self _ _ _ _ _ _ (by decide),
      rd_wr_apart _ _ _ _ _ _ _ rfl⟩
  case loss => exact gives_of_awake (f := ppsLoss false) rfl awake ((if_pos master).trans (if_neg Bool.false_ne_true))
  case offset =>
    exact ⟨fun due => gives_of_awake (f := utcOffsetChange) rfl awake (if_pos (utcDue_iff.mpr due)),
      fun early => gives_of_awake (f := utcOffsetChange) rfl awake (if_neg fun due => early (utcDue_iff.mp due))⟩
  case invalid =>
    exact ⟨gives_of_awake (f := calendarSet) rfl awake (if_neg (Bool.eq_false_iff.mp invalid)),
      gives_of_awake (f := ppsOutPulse) rfl awake (if_neg (Bool.eq_false_iff.mp invalid))⟩
  case delay =>
    intro d p n
    exact ⟨gives_of (f := delayRequestSend d p) rfl ⟨present, awake⟩ (if_pos up),
      fun bytes turn m message code => gives_of (f := delayRequest d p bytes turn.toNat) rfl ⟨present, awake⟩
        (delayRequest_answers message code turn.toNat),
      fun bytes stamp m message code turn => fun up => gives_of (f := delayResponse d p bytes stamp.toNat) rfl ⟨present, awake⟩
        (delayResponse_adds message code turn up stamp.toNat)⟩
  case clocks =>
    refine ⟨fun other far => ?_, fun near => ?_, fun far => ?_, fun near => ?_⟩
    · exact gives_of (f := ftimeCompare die.val diff) rfl ⟨present, awake⟩ (if_pos ⟨other, far⟩)
    · exact gives_of (f := ftimeCompare die.val diff) rfl ⟨present, awake⟩ (if_neg fun e => Nat.not_lt.mpr near e.2)
    · exact gives_of (f := clockMonitor die.val diff) rfl ⟨present, awake⟩ (if_pos far)
    · exact gives_of (f := clockMonitor die.val diff) rfl ⟨present, awake⟩ (if_neg (Nat.not_lt.mpr near))

end Sys2Proof.Machine
end

section
/-!
PROOFS. The Cistern's write buffer, sweeps and rebuilds, credit returns, word cells and scrubs.
-/

namespace Sys2Proof.Machine

theorem setCistern_cistern (h : Hw) (d : Nat) (x : Cis) : (h.setCistern d x).cistern d = x := SMap.get_put_self ..

theorem setBank_bank (h : Hw) (d b : Nat) (x : Bank) : (h.setBank d b x).bank d b = x := by
  unfold Hw.setBank Hw.bank
  rw [setCistern_cistern]
  exact SMap.get_put_self ..

/-! ## The write buffer (R247) -/

section
variable {h : Hw} {d : Nat} {w : HeldWrite} {rest : List HeldWrite} (oldest : (h.cistern d).wbuf = w :: rest)
include oldest

/-- Writes that all have their place are linked. -/
theorem writeBufferRelease_placed (placed : (headGroup (w :: rest)).all (·.placed) = true) : writeBufferRelease d h = linkHeld d h := by
  have some : ¬(h.cistern d).wbuf.isEmpty = true := by
    rw [oldest]
    exact Bool.false_ne_true
  unfold writeBufferRelease
  rw [if_neg some, oldest]
  exact if_pos placed

/-- Where one has no place yet, the oldest such takes the cell allocated. -/
theorem writeBufferRelease_unplaced (unplaced : (headGroup (w :: rest)).all (·.placed) = false) : writeBufferRelease d h =
    match h.allocate d with
    | (some i, h) => linkHeld d (h.setCistern d { h.cistern d with wbuf := placeFirst i (h.cistern d).wbuf })
    | (none, h) => h := by
  have some : ¬(h.cistern d).wbuf.isEmpty = true := by
    rw [oldest]
    exact Bool.false_ne_true
  unfold writeBufferRelease
  rw [if_neg some, oldest]
  exact if_neg (Bool.eq_false_iff.mp unplaced)

theorem linkHeld_group (placed : (headGroup (w :: rest)).all (·.placed) = true) : linkHeld d h =
    each (headGroup (w :: rest)) (fun v k => k.linkTail d v.queue v.cell)
      (h.setCistern d { h.cistern d with wbuf := (w :: rest).drop (headGroup (w :: rest)).length }) := by
  unfold linkHeld
  dsimp only
  rw [oldest]
  exact if_pos placed

section
variable (last : w.more = false)
include last

theorem writeBufferRelease_links (placed : w.placed = true) :
    writeBufferRelease d h = (h.setCistern d { h.cistern d with wbuf := rest }).linkTail d w.queue w.cell :=
  (writeBufferRelease_placed oldest (by rw [headGroup_one last]; simpa using placed)).trans (linkHeld_one h d w rest oldest last placed)

section
variable (unplaced : w.placed = false)
include unplaced

theorem writeBufferRelease_full (full : (h.allocate d).1 = none) : writeBufferRelease d h = (h.allocate d).2 := by
  rw [writeBufferRelease_unplaced oldest (by rw [headGroup_one last]; simpa using unplaced)]
  generalize h.allocate d = x at full ⊢
  obtain ⟨_, g⟩ := x
  subst full
  rfl

theorem writeBufferRelease_allocates {i : Nat} {g k : Hw} {v : HeldWrite} (cell : (h.allocate d).1 = some i) (rem : (h.allocate d).2 = g)
    (place : ({ w with cell := { w.cell with index := i }, placed := true } : HeldWrite) = v)
    (held : g.setCistern d { g.cistern d with wbuf := v :: rest } = k) :
    writeBufferRelease d h = (k.setCistern d { k.cistern d with wbuf := rest }).linkTail d w.queue v.cell := by
  have buffer := (allocate_wbuf h d).trans oldest
  rw [writeBufferRelease_unplaced oldest (by rw [headGroup_one last]; simpa using unplaced)]
  generalize h.allocate d = x at cell rem buffer ⊢
  obtain ⟨_, y⟩ := x
  subst cell rem place
  have first : placeFirst i (w :: rest) = { w with cell := { w.cell with index := i }, placed := true } :: rest := by
    unfold placeFirst
    exact if_neg (Bool.eq_false_iff.mp unplaced)
  dsimp only at buffer held ⊢
  rw [buffer, first, held]
  refine linkHeld_one k d { w with cell := { w.cell with index := i }, placed := true } rest ?_ last rfl
  rw [← held, setCistern_cistern]

end
end
end

theorem writeBufferRelease_empty {h : Hw} {d : Nat} (empty : (h.cistern d).wbuf = []) : writeBufferRelease d h = h :=
  if_pos (by rw [empty]; rfl)

/-! ## Credit returns and word cells -/

section
variable {h : Hw} {d : Nat}

theorem creditReturnCell_empty {u : Upset} (empty : ((h.meet d 554 u).2.cq d 554).cells = []) :
    creditReturnCell d u h = (h.meet d 554 u).2 := by
  unfold creditReturnCell
  dsimp only
  rw [empty]

section
variable {u : Upset} {c : CCell} {rest : List CCell} (head : ((h.meet d 554 u).2.cq d 554).cells = c :: rest)
  (code : leAt c.cell.data 0 2 = 0x0120)
include head code

theorem creditReturnCell_head : creditReturnCell d u h =
    match ((h.meet d 554 u).2.dropHead d 554).returnTarget d c.cell with
    | some q => ((h.meet d 554 u).2.dropHead d 554).applyReturn d q c.cell
    | none => ((h.meet d 554 u).2.dropHead d 554).bump d R.CIS_MARGIN_NORET := by
  unfold creditReturnCell
  dsimp only
  rw [head]
  exact if_pos code

theorem creditReturnCell_applies {q : Nat} (target : ((h.meet d 554 u).2.dropHead d 554).returnTarget d c.cell = some q) :
    creditReturnCell d u h = ((h.meet d 554 u).2.dropHead d 554).applyReturn d q c.cell := by
  rw [creditReturnCell_head head code, target]

theorem creditReturnCell_stray (stray : ((h.meet d 554 u).2.dropHead d 554).returnTarget d c.cell = none) :
    creditReturnCell d u h = ((h.meet d 554 u).2.dropHead d 554).bump d R.CIS_MARGIN_NORET := by
  rw [creditReturnCell_head head code, stray]

end

section
variable {q : Nat} {c : CCell} (tail : h.openTail d q = some c)
include tail

theorem wordCellClose_closes : wordCellClose d q none h = h.closeTail d q := by
  unfold wordCellClose
  rw [tail]

/-- A word of the same cycle joins the cell first (R277). -/
theorem wordCellClose_joins (w : Word) : wordCellClose d q (some w) h =
    let g := (h.fillTail d q c w).bump d R.CIS_MARGIN_MARGIN
    if (g.openTail d q).isSome then g.closeTail d q else g := by
  unfold wordCellClose
  rw [tail]

end

/-! ## Scrubs (R272) -/

/-- A link entry that fails its parity, and what it names of the queue that owns the cell. -/
theorem linkRamScrub_bad (scrubs : h.on d R.CIS_CFG_SCRUBEN = true) (b : Nat) (trusted : Bool) {i : Nat} {k bad : Hw}
    (entry : (h.cistern d).scrub.linkRow.get 0 b * 16 + b = i)
    (next : h.setScrub d { (h.cistern d).scrub with
      linkRow := (h.cistern d).scrub.linkRow.put 0 b (((h.cistern d).scrub.linkRow.get 0 b + 1) % 12288) } = k)
    (found : ((k.bump d R.CIS_FLIST_LPARERR).raiseFault d 0x13 ((k.holder d i).getD 0)).journalErr d 0 i 2 = bad) :
    linkRamScrub d b true trusted h =
      match k.holder d i with
      | none => (bad.takeOut d i).retireOut d i
      | some q => if trusted then bad.resetQueue d q 0x11 else ((bad.takeOut d i).retireOut d i).resetQueue d q 0x11 := by
  subst entry next found
  exact (if_pos scrubs).trans (if_pos rfl)

theorem descriptorScrub_on (scrubs : h.on d R.CIS_CFG_SCRUBEN = true) (differ : Bool) : descriptorScrub d differ h =
    let q := (h.cistern d).scrub.descQueue
    let g := h.setScrub d { (h.cistern d).scrub with descQueue := (q + 1) % 8192 }
    let g := if differ then (g.journalErr d 1 q 2).resetQueue d q 0x11 else g
    if q + 1 = 8192 then g.bump d R.CIS_SCRUB_DESCPASS else g := if_pos scrubs

end

/-- Settles O41: each row by the branch that its case takes. -/
theorem cisternUpkeep : Obligations.CisternUpkeep := by
  intro s die r h d
  refine ⟨fun w rest oldest last => ⟨fun placed => ?linked, fun unplaced full => ?full, fun unplaced i cell => ?allocated⟩,
    fun w rest oldest more placed => ?group, fun empty => gives_of (f := writeBufferRelease d) rfl r (writeBufferRelease_empty empty),
    fun q => gives_of (f := queueSweepEnd d q.val) rfl r rfl,
    fun b rebuilding => ⟨gives_of (f := freeListRebuildEnd d b.val) rfl r (if_pos rebuilding), setBank_bank ..⟩,
    fun l valid => gives_of (f := creditReturnTimer d l.val) rfl r (if_pos valid),
    fun l invalid => gives_of (f := creditReturnTimer d l.val) rfl r (if_neg (Bool.eq_false_iff.mp invalid)),
    fun u => ⟨fun empty => gives_of (f := creditReturnCell d u) rfl r (creditReturnCell_empty empty), fun c rest head code =>
      ⟨fun q target => gives_of (f := creditReturnCell d u) rfl r (creditReturnCell_applies head code target),
        fun stray => gives_of (f := creditReturnCell d u) rfl r (creditReturnCell_stray head code stray)⟩⟩,
    fun q c tail => gives_of (f := wordCellClose d q.val none) rfl r (wordCellClose_closes tail), fun q c w tail => ?joined,
    fun off b finds bad trusted differ => ?off, fun scrubs b => ?scrub⟩
  case linked => exact gives_of (f := writeBufferRelease d) rfl r (writeBufferRelease_links oldest last placed)
  case full => exact gives_of (f := writeBufferRelease d) rfl r (writeBufferRelease_full oldest last unplaced full)
  case allocated => exact gives_of (f := writeBufferRelease d) rfl r (writeBufferRelease_allocates oldest last unplaced cell rfl rfl rfl)
  case group =>
    exact gives_of (f := writeBufferRelease d) rfl r ((writeBufferRelease_placed oldest placed).trans (linkHeld_group oldest placed))
  case joined =>
    exact ⟨fun opened => gives_of (f := wordCellClose d q.val (some w)) rfl r ((wordCellClose_joins tail w).trans (if_pos opened)),
      fun closed => gives_of (f := wordCellClose d q.val (some w)) rfl r
        ((wordCellClose_joins tail w).trans (if_neg (Bool.eq_false_iff.mp closed)))⟩
  case off =>
    exact ⟨gives_of (f := cellScrub d b.val finds) rfl r (if_neg (Bool.eq_false_iff.mp off)),
      gives_of (f := linkRamScrub d b.val bad trusted) rfl r (if_neg (Bool.eq_false_iff.mp off)),
      gives_of (f := descriptorScrub d differ) rfl r (if_neg (Bool.eq_false_iff.mp off))⟩
  case scrub =>
    intro x line row k bad
    have entry := fun trusted => linkRamScrub_bad scrubs b.val trusted (i := row * 16 + b.val) (k := k) (bad := bad) rfl rfl rfl
    refine ⟨fun finds => gives_of (f := cellScrub d b.val finds) rfl r (if_pos scrubs),
      fun trusted => gives_of (f := linkRamScrub d b.val false trusted) rfl r ((if_pos scrubs).trans (if_neg Bool.false_ne_true)),
      fun q holder => ?_, fun q holder => ?_, fun trusted none => ?_, ?_⟩
    · refine gives_of (f := linkRamScrub d b.val true true) rfl r ((entry true).trans ?_)
      rw [holder]
      exact if_pos rfl
    · refine gives_of (f := linkRamScrub d b.val true false) rfl r ((entry false).trans ?_)
      rw [holder]
      exact if_neg Bool.false_ne_true
    · refine gives_of (f := linkRamScrub d b.val true trusted) rfl r ((entry trusted).trans ?_)
      rw [none]
    · intro desc
      refine ⟨fun middle => ?_, fun middle => ?_, fun last => ?_⟩
      · exact gives_of (f := descriptorScrub d false) rfl r ((descriptorScrub_on scrubs false).trans ((if_neg middle).trans
          (if_neg Bool.false_ne_true)))
      · exact gives_of (f := descriptorScrub d true) rfl r ((descriptorScrub_on scrubs true).trans ((if_neg middle).trans (if_pos rfl)))
      · exact gives_of (f := descriptorScrub d false) rfl r ((descriptorScrub_on scrubs false).trans ((if_pos last).trans
          (congrArg (fun g : Hw => g.bump d R.CIS_SCRUB_DESCPASS) (if_neg Bool.false_ne_true))))

end Sys2Proof.Machine
end

section
/-!
PROOFS. An access cell at the head of its queue.
-/

namespace Sys2Proof.Machine

/-- The rows of the access cells, each by the message that it takes. -/
theorem exec_accessRequests (die : Die) (u v : Upset) (s : State) :
    exec (.readRequest die u v) s = s.onDieMem die (takeCellOf die.val 576 v [0x40] (takeRequest die.val u)) ∧
    exec (.writeRequest die u v) s = s.onDieMem die (takeCellOf die.val 576 v [0x41] (takeRequest die.val u)) ∧
    exec (.lockRead die v) s = s.onDieMem die (takeCellOf die.val 576 v [0x44] (takeRequest die.val .clean)) ∧
    exec (.lockWrite die v) s = s.onDieMem die (takeCellOf die.val 576 v [0x45] (takeRequest die.val .clean)) ∧
    exec (.unlock die v) s = s.onDieMem die (takeCellOf die.val 576 v [0x46] unlock) := ⟨rfl, rfl, rfl, rfl, rfl⟩

theorem exec_accessAnswers (die : Die) (v : Upset) (s : State) :
    exec (.readCompletion die v) s = s.onDie die (takeAnswer die.val 553 v [0x42] (takeCompletion die.val)) ∧
    exec (.writeCompletion die v) s = s.onDie die (takeAnswer die.val 553 v [0x43] (takeCompletion die.val)) ∧
    exec (.lockBusy die v) s = s.onDie die (takeAnswer die.val 553 v [0x47] fun _ r h => h.lockIsBusy die.val r.tag) :=
  ⟨rfl, rfl, rfl⟩

theorem exec_errorPacket (die : Die) (v : Upset) (s : State) : exec (.errorPacket die v) s = s.onDie die fun h =>
    takeAnswer die.val 553 .clean [0x48] (takeError die.val (errorTime (h.meet die.val 553 v).2 die.val)) (h.meet die.val 553 v).2 := rfl

theorem exec_badAccessCell (die : Die) (errors : Bool) (v : Upset) (s : State) :
    exec (.badAccessCell die errors v) s = s.onDie die (badAccessCell die.val (if errors then 553 else 576) v) := rfl

/-- The time of the failure stands in the error packet at the head. -/
theorem errorTime_head {h : Hw} {d : Nat} {c : CCell} {rest : List CCell} (head : (h.cq d 553).cells = c :: rest) :
    errorTime h d = leAt c.cell.data 0x18 8 := by
  unfold errorTime
  rw [head]
  rfl

/-- Settles O42: a cell of the row's message is taken, a cell of another stays. -/
theorem accessCells : Obligations.AccessCells := by
  intro s die r d
  refine ⟨fun u v c rest => ?requests, fun v c rest => ?answers,
    fun host => gives_of (f := popFault d) rfl r (if_pos host)⟩
  case requests =>
    intro h head x
    obtain ⟨read, write, lockRead, lockWrite, unlock⟩ := exec_accessRequests die u v s
    refine ⟨fun m => gives_of_mem read r (take_hit head m), fun m => gives_of_mem write r (take_hit head m),
      fun m => gives_of_mem lockRead r (take_hit head m), fun m => gives_of_mem lockWrite r (take_hit head m),
      fun m => gives_of_mem unlock r (take_hit head m), fun m => gives_of_mem_only read r (take_miss head m),
      fun m => gives_of (exec_badAccessCell die false v s) r (bad_hit head m)⟩
  case answers =>
    intro h head g code
    obtain ⟨read, write, busy⟩ := exec_accessAnswers die v s
    refine ⟨fun m => gives_of read r (ans_hit head m), fun m => gives_of write r (ans_hit head m), fun m => gives_of busy r (ans_hit head m),
      fun m => ?_, fun m => gives_of (exec_badAccessCell die true v s) r (bad_hit head m)⟩
    refine gives_of (exec_errorPacket die v s) r ?_
    rw [← errorTime_head head]
    exact ans_hit (v := .clean) head m

end Sys2Proof.Machine
end

section
/-!
PROOFS. The rows that make one access.
-/

namespace Sys2Proof.Machine

/-- An answered access: the hardware with the answer in `reply`, and the memory. -/
def answered (y : Reply × (Hw × SMap Byte)) : Hw × SMap Byte := ({ y.2.1 with reply := ⟨y.1.code, y.1.data⟩ }, y.2.2)

section
variable {c : Instr} {s : State} {d space off : Nat} {o : Origin} {u : Upset}

/-- A row that reads, on the hardware `g` that its arrival leaves. -/
theorem reads_row {len : Nat} {g : Hw} {f : Hw × SMap Byte → Hw × SMap Byte} (awake : s.awake) (run : exec c s = s.onMem f)
    (row : f (s.hw, s.pir) = rowRead d space off len o u (g, s.pir)) (die : d < 8) (listed : space < 32) (bus : space ≠ 8) (lt : off < 2 ^ 40)
    (nor : space ≠ 1 ∨ (g.mgt.isOpen && g.ustate == 3) = false) (dies : g.dies = s.hw.dies) :
    g.lockOn (g.rowReq 0xA0 d space off len o false []) = none →
      GivesBoth c s (answered (performRead (g.entryOf o) d space off len o u (g, s.pir))) ∧
      (s.hw.dies ≤ d → performRead (g.entryOf o) d space off len o u (g, s.pir) =
        (⟨1, []⟩, (g.violation (g.decoder (g.entryOf o) d space) o (space * 2 ^ 40 + off), s.pir))) := fun free =>
  ⟨gives_of_awake_mem run awake (row.trans (row_read die listed bus lt nor free rfl)),
    fun absent => read_absent (x := (g, s.pir)) (dies.trans_le absent)⟩

/-- A row that writes and is not posted. -/
theorem writes_row {bs : List Byte} {f : Hw × SMap Byte → Hw × SMap Byte} (awake : s.awake) (run : exec c s = s.onMem f)
    (row : f (s.hw, s.pir) = rowWrite d space off bs o false u (s.hw, s.pir)) (die : d < 8) (listed : space < 32) (bus : space ≠ 8)
    (lt : off < 2 ^ 40) :
    s.hw.lockOn (s.hw.rowReq 0xA1 d space off bs.length o false bs) = none →
      GivesBoth c s (answered (performWrite (s.hw.entryOf o) d space off bs o u (s.hw, s.pir))) ∧
      (s.hw.dies ≤ d → performWrite (s.hw.entryOf o) d space off bs o u (s.hw, s.pir) =
        (⟨1, []⟩, (s.hw.violation (s.hw.decoder (s.hw.entryOf o) d space) o (space * 2 ^ 40 + off), s.pir))) := fun free =>
  ⟨gives_of_awake_mem run awake (row.trans (row_write die listed bus lt free rfl)), fun absent => write_absent (x := (s.hw, s.pir)) absent⟩

end

theorem exec_registerWrite (die : Die) (o : Origin) (off : BitVec 21) (v : Word) (posted : Bool) (s : State) :
    exec (.registerWrite die o off v posted) s = s.onMem (rowWrite die.val 0 off.toNat (leBytes 4 v.toNat) o posted .clean) := rfl

theorem exec_windowDataRead (die : Die) (o : Origin) (q : Fin 8192) (u : Upset) (arrived : Bool) (s : State) :
    exec (.windowDataRead die o q u arrived) s = s.onMem fun x =>
      let h := x.1.countArrival die.val q.val
        (arrived && decide (die.val < x.1.dies) && x.1.dataOpen die.val q.val false && !x.1.justFilled die.val q.val)
      rowRead die.val 4 (256 * q.val) (if h.isWord die.val q.val then 4 else 64) o u (h, x.2) := rfl

theorem exec_imageShadowRead (die : Die) (o : Origin) (off : BitVec 40) (len : Nat) (s : State) :
    exec (.imageShadowRead die o off len) s = s.onMem (rowRead die.val 0x01 off.toNat (min len 256) o .clean) := rfl

/-- What a posted register write from another node ends with: its code, and an error packet where it failed (R425). -/
theorem finish_postedWrite (e n : Nat) {r : Req} {y : Reply × (Hw × SMap Byte)} (write : r.msg = 0xA1) (posted : r.posted = true)
    (ring : r.org = .ring n) :
    (y.1.code = 0 → finish e r y.1.code y.1.data y.2.1 = (answered y).1) ∧
    (y.1.code ≠ 0 → finish e r y.1.code y.1.data y.2.1 = (answered y).1.postedError e n r (if y.1.code = 0x82 then 2 else y.1.code)) := by
  have run := finish_posted e n r y.1.code y.1.data y.2.1 write posted ring
  refine ⟨fun ok => run.trans (if_pos ?_), fun fails => run.trans (if_neg ?_)⟩
  · rw [ok]
    rfl
  · split
    · decide
    · exact fails

/-- A read of the image waits at the engine while the loader writes the NOR (R575). -/
theorem rowRead_parks {h : Hw} {m : SMap Byte} {d off len : Nat} {o : Origin} {u : Upset} (die : d < 8) (lt : off < 2 ^ 40)
    (writing : (h.mgt.isOpen && h.ustate == 3) = true) (free : h.lockOn (h.rowReq 0xA0 d 1 off len o false []) = none) :
    rowRead d 1 off len o u (h, m) = (h.park (h.entryOf o) (h.rowReq 0xA0 d 1 off len o false []), m) := by
  obtain ⟨-, space, -⟩ := addr_parts (space := 1) (off := off) die (by decide) lt
  have address : addrSpace (h.rowReq 0xA0 d 1 off len o false []).addr = 1 := space
  have busy : h.norBusy (h.rowReq 0xA0 d 1 off len o false []) = true := by
    unfold Hw.norBusy
    rw [address, Bool.and_assoc, writing]
    rfl
  have plain : (h.rowReq 0xA0 d 1 off len o false []).isLockWrite = false := rfl
  unfold rowRead submit
  dsimp only
  rw [if_neg (by rw [address]; decide), if_neg (Bool.eq_false_iff.mp plain)]
  unfold submitPlain
  dsimp only
  rw [if_neg (by rw [free]; decide), if_pos busy]

/-- Settles O43: each row makes its access on the engine, whose gate turns away a die that is not present. -/
theorem singleAccesses : Obligations.SingleAccesses := by
  intro s awake h reads writes
  have window : ∀ q : Fin 8192, 256 * q.val + 0x44 < 2 ^ 40 := fun q => by have := q.isLt; omega
  have register : ∀ off : BitVec 21, off.toNat < 2 ^ 40 := fun off => by have := off.isLt; omega
  refine ⟨fun die o => ⟨fun off => ?read, fun off v => ?write, fun q => ?grant, fun q bs u => ?windowWrite, fun q u arrived => ?windowRead⟩,
    fun die n off v => ?posted, fun die o off len => ?ledger, fun die o off len => ?image⟩
  case read =>
    exact reads_row awake (f := rowRead die.val 0 off.toNat 4 o .clean) rfl rfl die.isLt (by decide) (by decide) (register off)
      (.inl (by decide)) rfl
  case write => exact writes_row awake (exec_registerWrite die o off v false s) rfl die.isLt (by decide) (by decide) (register off)
  case grant =>
    exact reads_row awake (f := rowRead die.val 4 (256 * q.val + 0x44) 4 o .clean) rfl rfl die.isLt (by decide) (by decide) (window q)
      (.inl (by decide)) rfl
  case windowWrite =>
    exact writes_row awake (f := rowWrite die.val 4 (256 * q.val) bs o false u) rfl rfl die.isLt (by decide) (by decide)
      (by have := window q; omega)
  case windowRead =>
    intro g
    exact reads_row awake (exec_windowDataRead die o q u arrived s) rfl die.isLt (by decide) (by decide) (by have := window q; omega)
      (.inl (by decide)) (countArrival_dies ..)
  case posted =>
    intro bs r free y g
    have row := row_posted (x := (h, s.pir)) die.isLt (register off) (bs := bs) (r := r) rfl free (y := y) rfl
    have ends := finish_postedWrite (h.entryOf (.ring n)) n (r := r) (y := y) rfl rfl rfl
    exact ⟨fun ok => gives_of_awake_mem (exec_registerWrite die (.ring n) off v true s) awake (row.trans (by rw [ends.1 ok]; rfl)),
      fun fails => gives_of_awake_mem (exec_registerWrite die (.ring n) off v true s) awake (row.trans (by rw [ends.2 fails]; rfl))⟩
  case ledger =>
    exact reads_row awake (f := rowRead die.val 0x11 off.toNat (min len 256) o .clean) rfl rfl die.isLt (by decide) (by decide) off.isLt
      (.inl (by decide)) rfl
  case image =>
    intro r
    refine ⟨fun idle => ?_, fun writing free => ?_⟩
    · exact reads_row awake (exec_imageShadowRead die o off len s) rfl die.isLt (by decide) (by decide) off.isLt (.inr idle) rfl
    · exact gives_of_awake_mem (exec_imageShadowRead die o off len s) awake (rowRead_parks die.isLt off.isLt writing free)

end Sys2Proof.Machine
end

section
/-!
PROOFS. The pins: outputs, trip release, the sample cycle of one pin, synchronised changes.
-/

namespace Sys2Proof.Machine

/-! ## Outputs -/

/-- A write under an empty mask reaches no output. -/
theorem writeOuts_none (h : Hw) (d w v : Nat) : h.writeOuts d w 0 v = h := by
  refine iter_keeps' (fun g : Hw => g = h) _ 32 (fun i g e => ?_) h rfl
  have clear : ¬bit 0 i = true := by simp [bit]
  exact (if_neg clear).trans e

theorem exec_mioOutWrite (die : Die) (w : Fin 6) (v : Word) (s : State) :
    exec (.mioOutWrite die w v) s = s.onDie die fun h => h.writeOuts die.val w.val (2 ^ 32 - 1) v.toNat := rfl

theorem exec_outmvWrite (die : Die) (w : Fin 6) (v m : Word) (s : State) :
    exec (.outmvWrite die w v m) s = s.onDie die fun h => h.writeOuts die.val w.val m.toNat v.toNat := rfl

/-! ## Trip release (R329, R333) -/

/-- The groups that a release leaves latched. -/
def Hw.keptGroups (k : Hw) (d mask : Nat) : Nat :=
  (List.range 16).foldl (fun a g => if bit (k.rd d R.MIO_TRIPST_LATCHED) g && !(bit mask g && !k.groupHolds d g) then a + 2 ^ g else a) 0

/-- A release writes LATCHED and lets the pins follow. -/
theorem tripRelease_eq (d mask : Nat) (h : Hw) : tripRelease d mask h =
    ((h.sampleDie d).wr d R.MIO_TRIPST_LATCHED ((h.sampleDie d).keptGroups d mask)).refreshPins d := rfl

theorem released_reads (k : Hw) (d mask : Nat) : ((k.wr d R.MIO_TRIPST_LATCHED (k.keptGroups d mask)).refreshPins d).rd d R.MIO_TRIPST_LATCHED =
    k.keptGroups d mask := by
  obtain ⟨regs, straps, grade⟩ := refreshPins_regs (k.wr d R.MIO_TRIPST_LATCHED (k.keptGroups d mask)) d
  rw [rd_congr regs straps grade, rd_wr _ _ _ _ _ _ rfl]
  exact low_of_lt (bits_fold _ 16 0).1

theorem released_bit (k : Hw) (d mask : Nat) {g : Nat} (lt : g < 16) : bit (k.keptGroups d mask) g =
    (bit (k.rd d R.MIO_TRIPST_LATCHED) g && !(bit mask g && !k.groupHolds d g)) := (bits_fold _ 16 g).2 lt

theorem released_onlyAt (k : Hw) (d v : Nat) :
    ((k.wr d R.MIO_TRIPST_LATCHED v).refreshPins d).onlyAt k [R.MIO_TRIPST_LATCHED.key d 0 0] := by
  have own : (k.wr d R.MIO_TRIPST_LATCHED v).onlyAt k [R.MIO_TRIPST_LATCHED.key d 0 0] :=
    wr_onlyAt d _ v 0 0 List.mem_cons_self (onlyAt_self k _)
  exact fun i away => (sameRegs_onlyAt (ks := [R.MIO_TRIPST_LATCHED.key d 0 0]) (refreshPins_regs _ d) i away).trans (own i away)

/-! ## The input chain (R319) -/

section
variable {h : Hw} {d p : Nat}

theorem chainStep_record (h : Hw) (d p : Nat) : ((h.chainStep d p).pin d p).hist = ((h.pin d p).filt :: (h.pin d p).hist).take 5 ∧
    ((h.chainStep d p).pin d p).sampledAt = some h.now := by
  rw [chainStep_pin]
  exact ⟨(filterStep_kept ..).1, (filterStep_kept ..).2⟩

theorem chainStep_bypass (bypass : h.rd d R.MIO_PFLT_FILT p = 0) :
    ((h.chainStep d p).pin d p).filt = ((h.pin d p).sync != h.on d R.MIO_PCFG_INV p) := by
  rw [chainStep_pin]
  exact congrArg Pin.filt (if_pos bypass)

section
variable (filters : h.rd d R.MIO_PFLT_FILT p ≠ 0)
include filters

theorem chainStep_counts (short : (h.pin d p).run < h.rd d R.MIO_PFLT_FILT p) : ((h.chainStep d p).pin d p).filt = (h.pin d p).filt ∧
    ((h.chainStep d p).pin d p).run =
      if ((h.pin d p).sync != h.on d R.MIO_PCFG_INV p) == (h.pin d p).filt then 0 else (h.pin d p).run + 1 := by
  rw [chainStep_pin]
  unfold filterStep
  rw [if_neg filters, if_neg (Nat.not_le.mpr short)]
  exact ⟨rfl, rfl⟩

theorem chainStep_takes (long : h.rd d R.MIO_PFLT_FILT p ≤ (h.pin d p).run) : ((h.chainStep d p).pin d p).filt = !(h.pin d p).filt := by
  rw [chainStep_pin]
  unfold filterStep
  rw [if_neg filters, if_pos long]

end

theorem chainStep_out (h : Hw) (d p : Nat) : (h.chainStep d p).chainOut d p =
    if h.on d R.MIO_PFLT_MAJ p then decide (3 ≤ ((h.chainStep d p).pin d p).hist.count true) else ((h.chainStep d p).pin d p).filt := rfl

end

/-! ## Receivers (R590) -/

/-- A fault report leaves the pins. -/
theorem raiseFault_pin (h : Hw) (d c u e p : Nat) : (h.raiseFault d c u).pin e p = h.pin e p := by
  obtain ⟨x, eq⟩ := raiseFault_only h d c u
  rw [eq]
  rfl

/-- A mismatch at a configured pin is a fault, and the receiver whose level changed is followed. -/
theorem receiverMismatch_configured {h : Hw} {d p : Nat} (configured : h.rd d R.MIO_PCFG_FUNC p ≠ 0) (level : Bool) :
    receiverMismatch d p level h =
      if (h.pin d p).sync = level then h.raiseFault d 0x31 p else pinTransition d (p / 16) (2 ^ (p % 16)) (h.raiseFault d 0x31 p) := by
  unfold receiverMismatch
  rw [if_neg configured]
  dsimp only
  rw [raiseFault_pin]

/-! ## The rows that run a sample cycle of one pin -/

/-- Each row of the chain runs one sample cycle of its pin. -/
theorem exec_sampleRows {die : Die} {pin : Fin 192} {c : Instr} (mem : c ∈ [Instr.qualifiedLevelChange die [pin], .rangeOpenLimit die pin,
    .pinTimeout die pin, .readbackSettleEnd die pin, .readbackMismatch die pin]) (s : State) :
    exec c s = s.onDie die (samplePins die.val [pin.val]) := by
  simp only [List.mem_cons, List.not_mem_nil, or_false] at mem
  obtain rfl | rfl | rfl | rfl | rfl := mem <;> rfl

theorem exec_qualifiedLevelChange (die : Die) (pins : List (Fin 192)) (s : State) :
    exec (.qualifiedLevelChange die pins) s = s.onDie die (samplePins die.val (pins.map (·.val))) := rfl

/-- Settles O44: a sample cycle stage by stage, the other rows by the branch that their case takes. -/
theorem pins : Obligations.Pins := by
  intro s die r h d
  refine ⟨fun w v => gives_of (exec_mioOutWrite die w v s) r rfl, fun w v m => gives_of (exec_outmvWrite die w v m s) r rfl,
    fun w v => gives_of (exec_outmvWrite die w v 0 s) r (writeOuts_none ..), fun groups => ?trip, fun pin c mem => ?sample,
    fun pins => gives_of (exec_qualifiedLevelChange die pins s) r rfl, fun pin configured level => ?receiver,
    fun b changed => gives_of (f := pinTransition d b.val changed.toNat) rfl r rfl⟩
  case trip =>
    intro k
    refine complete_of (f := tripRelease d groups.toNat) rfl r ?_
    dsimp only
    rw [tripRelease_eq]
    refine ⟨wr_refreshPins_only k d d _ _, released_onlyAt k d _, fun g lt => ?_⟩
    rw [released_reads]
    exact released_bit k d groups.toNat lt
  case sample =>
    intro p y level filt g1 y1 ch g2 x edge tmo g3 m g4 k z g5
    have run := exec_sampleRows mem s
    refine ⟨fun skip => gives_of run r (samplePins_skip skip),
      fun due => gives_of run r (samplePins_one due rfl rfl rfl rfl rfl rfl), (chainStep_record h d p).1, (chainStep_record h d p).2,
      chainStep_bypass, chainStep_counts, chainStep_takes, chainStep_out h d p,
      fun guarded past input limited n count quiet reached => timeoutStep_due guarded past input limited count quiet reached,
      openLimit_none, fun guarded input check t opened past => openLimit_due guarded input check opened past,
      fun readback mode configured settled => readbackStep_due readback mode configured settled⟩
  case receiver =>
    intro g
    have run := receiverMismatch_configured configured level
    exact ⟨fun same => gives_of (f := receiverMismatch d pin.val level) rfl r (run.trans (if_pos same)),
      fun other => gives_of (f := receiverMismatch d pin.val level) rfl r (run.trans (if_neg other))⟩

end Sys2Proof.Machine
end

section
/-!
PROOFS. The phase trackers.
-/

namespace Sys2Proof.Machine

section
variable {h : Hw} {d t : Nat}

/-! ## An update tick -/

/-- A tick outside the tracker's update cycle does nothing. -/
theorem trackerUpdate_early (early : h.updateDue d t = false) (bad : Bool) (m : SMap Byte) : trackerUpdate d t bad (h, m) = (h, m) :=
  if_pos (by rw [early]; rfl)

theorem trackerUpdate_due (due : h.updateDue d t = true) (bad : Bool) (m : SMap Byte) : trackerUpdate d t bad (h, m) =
    if (h.updateTick d t bad).rd d R.PHS_TPIO_PIOFF t = 0 then (h.updateTick d t bad, m)
    else storePir d (16 * (h.updateTick d t bad).rd d R.PHS_TPIO_PIOFF t) ((h.updateTick d t bad).sampleRecord d t) (h.updateTick d t bad, m) :=
  if_neg (by rw [due]; decide)

/-- A tracker runs unless it is Off or Faulted. -/
def Hw.trkLive (h : Hw) (d t : Nat) : Prop := h.trkState d t ≠ 0 ∧ h.trkState d t ≠ 5

/-- The tick is settled by whether the tracker runs and whether its registers have bad parity. -/
theorem updateTick_of_cases {bad : Bool} {g : Hw} (fault : h.trkLive d t → bad = true → g = h.trackerFault d t)
    (tick : h.trkLive d t → bad = false → g = h.trackerTick d t) (idle : ¬h.trkLive d t → g = h) : h.updateTick d t bad = g := by
  unfold Hw.updateTick
  split
  · exact (idle fun live => (‹_ ∨ _› : h.trkState d t = 0 ∨ h.trkState d t = 5).elim live.1 live.2).symm
  · have live : h.trkLive d t := not_or.mp ‹_›
    cases bad
    · exact (tick live rfl).symm
    · exact (fault live rfl).symm

/-! ## Losses of source (R372 to R374) -/

theorem gapDue_iff : h.gapDue d t = true ↔ h.trkState d t = 2 ∧ h.rd d R.PHS_TLOS_GAP t ≠ 0 ∧
    (h.rd d R.PHS_TCFG_SRC t = 1 ∨ h.rd d R.PHS_TCFG_SRC t = 3) ∧ h.gapPassed d t = true := by
  simp [Hw.gapDue, and_assoc]

theorem gapLimit_due (due : h.gapDue d t = true) (arrival : Bool) : gapLimit d t arrival h =
    if arrival then h.bump d R.PHS_TCNT_MARGIN 1 t else (h.flag d R.PHS_TSTAT_GAPERR t).loseSource d t := if_pos due

theorem gapLimit_idle (idle : h.trkState d t ≠ 2 ∨ h.gapPassed d t = false) (arrival : Bool) : gapLimit d t arrival h = h := by
  refine if_neg fun due => ?_
  obtain ⟨locked, -, -, passed⟩ := gapDue_iff.mp due
  exact idle.elim (fun n => n locked) fun n => absurd (n.symm.trans passed) (by decide)

theorem trackerSilence_locked (locked : h.trkState d t = 2) (limit : h.rd d R.PHS_TLOS_LOSTO t ≠ 0) (arrival : Bool) :
    trackerSilence d t arrival h =
      if arrival then h.bump d R.PHS_TCNT_MARGIN 1 t else (h.flag d R.PHS_TSTAT_SILENT t).loseSource d t := if_pos ⟨locked, limit⟩

theorem holdoverTimeout_held (held : h.trkState d t = 3) (arrival : Bool) : holdoverTimeout d t arrival h =
    if arrival then h.bump d R.PHS_TCNT_MARGIN 1 t else h.stopTracker d t := if_pos held

/-! ## The latched read -/

theorem trackerLiveRead_onlyAt (h : Hw) (d t : Nat) : (trackerLiveRead d t h).onlyAt h
    [R.PHS_TPHLO_VALUE.key d t 0, R.PHS_TPHHI_VALUE.key d t 0, R.PHS_TVEL_VALUE.key d t 0, R.PHS_TRAW_VALUE.key d t 0] := by
  unfold trackerLiveRead
  refine wr_onlyAt _ _ _ _ _ (by simp) (wr_onlyAt _ _ _ _ _ (by simp) (wr_onlyAt _ _ _ _ _ (by simp) (wr_onlyAt _ _ _ _ _ (by simp) ?_)))
  exact onlyAt_self h _

theorem trackerLiveRead_reads (h : Hw) (d t : Nat) :
    (trackerLiveRead d t h).rd d R.PHS_TPHLO_VALUE t = h.estimate d t % 2 ^ 32 ∧
    (trackerLiveRead d t h).rd d R.PHS_TVEL_VALUE t = toTwos 32 (velOf (h.trk d t).w) % 2 ^ 32 ∧
    (trackerLiveRead d t h).rd d R.PHS_TRAW_VALUE t = toTwos 32 (h.trk d t).count % 2 ^ 32 := by
  unfold trackerLiveRead
  refine ⟨?_, ?_, ?_⟩
  · rw [rd_wr_apart _ _ _ _ _ _ _ rfl, rd_wr_apart _ _ _ _ _ _ _ rfl, rd_wr_apart _ _ _ _ _ _ _ rfl, rd_wr _ _ _ _ _ _ rfl]
    exact Nat.mod_mod ..
  · rw [rd_wr_apart _ _ _ _ _ _ _ rfl, rd_wr _ _ _ _ _ _ rfl]
    rfl
  · rw [rd_wr _ _ _ _ _ _ rfl]
    rfl

end

/-- Settles O45: each row by the branch that its case takes. -/
theorem phaseTrackers : Obligations.PhaseTrackers := by
  intro s die trk r h d t live
  refine ⟨fun early bad => gives_of_mem (f := trackerUpdate d t bad) rfl r (trackerUpdate_early early bad s.pir),
    fun due bad g fault tick idle => ?tick, fun locked limit source passed => ?gap, fun locked limit => ?silence, fun held => ?holdover,
    fun idle a => gives_of (f := gapLimit d t a) rfl r (gapLimit_idle idle a), fun other a => ?silent, fun other a => ?free,
    fun paced live => ⟨gives_of (f := pacingRaise d t) rfl r (if_pos ⟨paced, live⟩), rd_wr _ _ _ _ _ _ rfl⟩, ?read⟩
  case tick =>
    have run := trackerUpdate_due due bad s.pir
    rw [updateTick_of_cases fault tick idle] at run
    exact ⟨fun none => gives_of_mem (f := trackerUpdate d t bad) rfl r (run.trans (if_pos none)),
      fun some => gives_of_mem (f := trackerUpdate d t bad) rfl r (run.trans (if_neg some))⟩
  case gap =>
    have due := gapDue_iff.mpr ⟨locked, limit, source, passed⟩
    exact ⟨gives_of (f := gapLimit d t false) rfl r ((gapLimit_due due false).trans (if_neg Bool.false_ne_true)),
      gives_of (f := gapLimit d t true) rfl r ((gapLimit_due due true).trans (if_pos rfl))⟩
  case silence =>
    exact ⟨gives_of (f := trackerSilence d t false) rfl r ((trackerSilence_locked locked limit false).trans (if_neg Bool.false_ne_true)),
      gives_of (f := trackerSilence d t true) rfl r ((trackerSilence_locked locked limit true).trans (if_pos rfl))⟩
  case holdover =>
    exact ⟨gives_of (f := holdoverTimeout d t false) rfl r ((holdoverTimeout_held held false).trans (if_neg Bool.false_ne_true)),
      gives_of (f := holdoverTimeout d t true) rfl r ((holdoverTimeout_held held true).trans (if_pos rfl))⟩
  case silent => exact gives_of (f := trackerSilence d t a) rfl r (if_neg fun e => other e.1)
  case free => exact gives_of (f := holdoverTimeout d t a) rfl r (if_neg other)
  case read =>
    exact complete_of (f := trackerLiveRead d t) rfl r ⟨live_only h d t, trackerLiveRead_onlyAt h d t, trackerLiveRead_reads h d t⟩

end Sys2Proof.Machine
end

section
/-!
PROOFS. The event engine.
-/

namespace Sys2Proof.Machine

section
variable {h : Hw} {d e : Nat}

/-! ## Commits and firings -/

/-- An entry with a next crossing is committed where that is due. -/
theorem eventCommit_next {g : Hw} {n : Nat} (trim : h.trimPending d = g) (next : (g.evt d).next.get none e = some n) : eventCommit d e h =
    if g.commitDue d e n then g.commitAt d e n (g.predicted d e n) else g := by
  subst trim
  unfold eventCommit
  dsimp only
  rw [next]

theorem eventCommit_none {g : Hw} (trim : h.trimPending d = g) (none : (g.evt d).next.get none e = none) : eventCommit d e h = g := by
  subst trim
  unfold eventCommit
  dsimp only
  rw [none]

/-- A crossing is due where it is pending and ahead by no more than 256 core cycles (R384). -/
theorem commitDue_iff {n : Nat} : h.commitDue d e n = true ↔
    (h.evt d).pending.contains e = true ∧ 0 < h.toCross d e n ∧ h.toCross d e n ≤ h.speed d e * 256 := by
  simp [Hw.commitDue, and_assoc]

theorem eventFire_none (none : (h.evt d).committed.find? (·.entry == e) = none) : eventFire d e h = h := by
  unfold eventFire
  rw [none]

section
variable {c : Commit} (committed : (h.evt d).committed.find? (·.entry == e) = some c)
include committed

theorem eventFire_committed : eventFire d e h =
    if h.now < c.tc * 5 / 4 then h
    else (each (sameInstant (h.evt d).committed c) (fun c h => h.fireCommit d c) h).fireCommit d c := by
  unfold eventFire
  rw [committed]

theorem eventFire_alone (due : c.tc * 5 / 4 ≤ h.now) (alone : sameInstant (h.evt d).committed c = []) : eventFire d e h =
    (h.setEvt d { h.evt d with committed := (h.evt d).committed.erase c }).fire d c := by
  rw [eventFire_committed committed, if_neg (Nat.not_lt.mpr due), alone]
  rfl

end

section
variable {c : Cell} {rest : List Cell} (oldest : (h.evt d).cells = c :: rest)
include oldest

theorem eventCellPresent_oldest : eventCellPresent d h =
    if h.mayPresent d 6 c.klass then (h.setEvt d { h.evt d with cells := rest }).present d 6 ⟨c, none⟩ else h := by
  unfold eventCellPresent
  dsimp only
  rw [oldest]

end

/-! ## The scanner -/

theorem entryScan_tracker (live : h.entryLive d e = true) : entryScan d e false true h = h.trackerFault d (h.rd d R.PHS_EVTC_TRK e) :=
  if_pos (by rw [live]; rfl)

theorem entryScan_clean (h : Hw) (d e : Nat) : entryScan d e false false h = scanEntry d e false h := rfl

theorem entryScan_bad (h : Hw) (d e : Nat) (trkBad : Bool) : entryScan d e true trkBad h = scanEntry d e true h :=
  if_neg (by simp)

section
variable {g : Hw} (trim : h.trimPending d = g)
include trim

theorem scanEntry_parity : scanEntry d e true h =
    if (g.evt d).bad.contains e then g
    else ((((g.journalErr d 3 e 2).setEvt d { g.evt d with
      bad := e :: (g.evt d).bad, pending := (g.evt d).pending.filter (· != e) }).raiseFault d 0x50 (8 + e)).report d 0x90 .trackerError e) := by
  subst trim
  rfl

theorem scanEntry_stays (stays : (g.entryLive d e = false ∨ ((g.evt d).committed.any (·.entry == e)) = true) ∨
    (g.evt d).next.get none e = none) : scanEntry d e false h = g := by
  subst trim
  unfold scanEntry
  dsimp only
  rw [if_neg Bool.false_ne_true]
  split
  · rfl
  · next goes =>
    rcases stays with still | none
    · exact absurd (still.imp_left Bool.eq_false_iff.mp) goes
    · rw [none]

section
variable (goes : ¬(g.entryLive d e = false ∨ ((g.evt d).committed.any (·.entry == e)) = true)) {n : Nat}
  (next : (g.evt d).next.get none e = some n)
include goes next

/-- A crossing still ahead becomes pending near its time, while the list has room. -/
theorem scanEntry_ahead (ahead : 0 < g.toCross d e n) : scanEntry d e false h =
    if g.crossingNear d e n ∧ ¬(g.evt d).pending.contains e ∧ (g.evt d).pending.length < 64 then g.setPending d ((g.evt d).pending ++ [e])
    else g := by
  subst trim
  have live : ¬(¬(h.trimPending d).entryLive d e = true ∨ ((h.trimPending d).evt d).committed.any (·.entry == e) = true) := fun e =>
    goes (e.imp_left Bool.eq_false_iff.mpr)
  unfold scanEntry
  dsimp only
  rw [if_neg Bool.false_ne_true, if_neg live, next]
  exact if_neg (Int.not_le.mpr ahead)

/-- A crossing reached without a commit fires at once, late. -/
theorem scanEntry_reached (reached : g.toCross d e n ≤ 0) {tc : Nat} {j k : Hw}
    (placed : (g.edgeBank d e = none ∧ tc = g.coreNs ∧ j = g) ∨ ∃ b, g.edgeBank d e = some b ∧
      tc = (placeEdge (g.evt d).edges b g.coreNs).1 ∧ j = g.noteEdge d b tc)
    (pending : (if (g.evt d).pending.contains e then j.setPending d ((g.evt d).pending.filter (· != e)) else j) = k) :
    scanEntry d e false h = k.fire d ⟨e, n, tc, true, velOf (k.trk d (k.rd d R.PHS_EVTC_TRK e)).w⟩ := by
  subst trim
  have live : ¬(¬(h.trimPending d).entryLive d e = true ∨ ((h.trimPending d).evt d).committed.any (·.entry == e) = true) := fun e =>
    goes (e.imp_left Bool.eq_false_iff.mpr)
  unfold scanEntry
  dsimp only
  rw [if_neg Bool.false_ne_true, if_neg live, next]
  dsimp only
  rw [if_pos reached]
  obtain ⟨bank, rfl, rfl⟩ | ⟨b, bank, rfl, rfl⟩ := placed <;> rw [bank] <;> dsimp only <;> rw [pending]

end
end

/-! ## Arming and calibration -/

theorem entryArm_on (h : Hw) (d e : Nat) (fires : Bool) : entryArm d e true fires h =
    let k := if h.on d R.PHS_EVTC_ARM e then h.flag d R.PHS_EVTC_ARM e else (h.flag d R.PHS_EVTC_ARM e).initNext d e
    if fires then eventFire d e k else k := rfl

/-- The calibrator takes a placer that holds no committed edge. -/
theorem placerCalibration_free
    (free : ((h.evt d).edges.filter fun x => x.1 == (h.evt d).placer / 3 && decide (h.coreNs ≤ x.2)).length < 3) (ok : Bool) :
    placerCalibration d ok h =
      let k := (h.setEvt d { h.evt d with placer := ((h.evt d).placer + 1) % 36 }).journalErr d 15 (h.evt d).placer (if ok then 0 else 3)
      if ok then k else ((k.bump d R.PHS_EMISC_CALFAIL).raiseFault d 0x51 ((h.evt d).placer / 3)).report d 0x90 .placerCal ((h.evt d).placer / 3) :=
  if_neg (Nat.not_le.mpr free)

end

theorem exec_entryScan (die : Die) (entry : Fin 4096) (bad trkBad : Bool) (s : State) :
    exec (.entryScan die entry bad trkBad) s = s.onDie die (entryScan die.val entry.val bad trkBad) := rfl

/-- A scan without parity errors gives what the scanner's evaluation gives. -/
theorem gives_scan {die : Die} {entry : Fin 4096} {s : State} {g : Hw} (r : s.ready die) (scan : scanEntry die.val entry.val false s.hw = g) :
    Gives (.entryScan die entry false false) s g :=
  gives_of (exec_entryScan die entry false false s) r ((entryScan_clean s.hw die.val entry.val).trans scan)

/-- Settles O46: each row by the branch that its case takes. -/
theorem eventEngine : Obligations.EventEngine := by
  intro s die entry r h d e g
  refine ⟨fun n next => ?commit, fun none => gives_of (f := eventCommit d e) rfl r (eventCommit_none rfl none), fun c committed => ?fire,
    fun none => gives_of (f := eventFire d e) rfl r (eventFire_none none),
    fun c rest oldest may => gives_of (f := eventCellPresent d) rfl r ((eventCellPresent_oldest oldest).trans (if_pos may)),
    fun c rest oldest full => gives_of (f := eventCellPresent d) rfl r ((eventCellPresent_oldest oldest).trans (if_neg (Bool.eq_false_iff.mp full))),
    fun bad trkBad => ⟨_, State.onDie_ready (entryScan d e bad trkBad) r⟩, fun trkBad => ?parity,
    fun live => gives_of (exec_entryScan die entry false true s) r (entryScan_tracker live), ?scan,
    fun armed => ?rearm, fun idle => ?arm, ?armFire, fun fires => gives_of (f := entryArm d e false fires) rfl r rfl, fun free => ?calibrate⟩
  case commit =>
    intro due
    have run := eventCommit_next (h := h) (d := d) (e := e) (g := g) rfl next
    exact ⟨fun soon => gives_of (f := eventCommit d e) rfl r (run.trans (if_pos (commitDue_iff.mpr soon))),
      fun far => gives_of (f := eventCommit d e) rfl r (run.trans (if_neg fun q => far (commitDue_iff.mp q)))⟩
  case fire =>
    have run := eventFire_committed committed
    exact ⟨fun early => gives_of (f := eventFire d e) rfl r (run.trans (if_pos early)),
      fun due alone => gives_of (f := eventFire d e) rfl r (eventFire_alone committed due alone),
      fun due => gives_of (f := eventFire d e) rfl r (run.trans (if_neg (Nat.not_lt.mpr due)))⟩
  case parity =>
    have run := (entryScan_bad h d e trkBad).trans (scanEntry_parity (g := g) rfl)
    exact ⟨fun new => gives_of (exec_entryScan die entry true trkBad s) r (run.trans (if_neg (Bool.eq_false_iff.mp new))),
      fun known => gives_of (exec_entryScan die entry true trkBad s) r (run.trans (if_pos known))⟩
  case scan =>
    intro x stays
    refine ⟨fun still => gives_scan r (scanEntry_stays rfl still), fun goes n next => ?_⟩
    intro near
    have room : near ↔ (g.crossingNear d e n ∧ ¬(g.evt d).pending.contains e ∧ (g.evt d).pending.length < 64) := by
      rw [Bool.not_eq_true]
    refine ⟨fun ahead close => ?_, fun ahead away => ?_, fun reached none => ?_, fun reached b bank => ?_⟩
    · exact gives_scan r ((scanEntry_ahead rfl goes next ahead).trans (if_pos (room.mp close)))
    · exact gives_scan r ((scanEntry_ahead rfl goes next ahead).trans (if_neg fun q => away (room.mpr q)))
    · intro k
      exact gives_scan r (scanEntry_reached rfl goes next reached (.inl ⟨none, rfl, rfl⟩) rfl)
    · intro tc j k
      exact gives_scan r (scanEntry_reached rfl goes next reached (.inr ⟨b, bank, rfl, rfl⟩) rfl)
  case rearm => exact gives_of (f := entryArm d e true false) rfl r ((entryArm_on h d e false).trans (if_pos armed))
  case arm => exact gives_of (f := entryArm d e true false) rfl r ((entryArm_on h d e false).trans (if_neg (Bool.eq_false_iff.mp idle)))
  case armFire =>
    intro k
    exact gives_of (f := entryArm d e true true) rfl r (entryArm_on h d e true)
  case calibrate =>
    intro k
    exact ⟨gives_of (f := placerCalibration d true) rfl r (placerCalibration_free free true),
      gives_of (f := placerCalibration d false) rfl r (placerCalibration_free free false)⟩

end Sys2Proof.Machine
end

section
/-!
PROOFS. The commands of a CAN controller, and the ends of integration, recovery and sleep.
-/

namespace Sys2Proof.Machine

/-! ## What a command reads once it stands in CAN_CMD -/

section
variable (h : Hw) (d k c : Nat)

theorem canCmd_state : (h.wr d R.CAN_CMD_CMD c k).canState d k = h.canState d k := rd_wr_apart _ _ _ _ _ _ _ rfl

theorem canCmd_receiving : (h.wr d R.CAN_CMD_CMD c k).on d R.CAN_STAT_RXING k = h.on d R.CAN_STAT_RXING k := by
  unfold Hw.on
  rw [rd_wr_apart _ _ _ _ _ _ _ rfl]

theorem canCmd_runs : (h.wr d R.CAN_CMD_CMD c k).canRuns d k = h.canRuns d k := by
  have enabled : (h.wr d R.CAN_CMD_CMD c k).on d R.CAN_CFG_EN k = h.on d R.CAN_CFG_EN k := by
    unfold Hw.on
    rw [rd_wr_apart _ _ _ _ _ _ _ rfl]
  have node : (h.wr d R.CAN_CMD_CMD c k).node = h.node := rfl
  unfold Hw.canRuns
  rw [enabled, node]

theorem canCmd_busOff : (h.wr d R.CAN_CMD_CMD c k).inBusOff d k = h.inBusOff d k := by
  unfold Hw.inBusOff
  rw [canCmd_state]

end

theorem inBusOff_iff {h : Hw} {d k : Nat} : h.inBusOff d k = true ↔ h.canState d k = 3 ∨ h.canState d k = 4 := by
  simp [Hw.inBusOff]

theorem setCan_state (h : Hw) (d k : Nat) (x : Can) : (h.setCan d k x).canState d k = h.canState d k := setCan_rd ..

theorem setCanState_state (h : Hw) (d k s : Nat) (lt : s < 8) : (h.setCanState d k s).canState d k = s :=
  (rd_wr _ _ _ _ _ _ rfl).trans (low_of_lt lt)

/-! ## A stop that settles -/

section
variable {h : Hw} {d k : Nat}

/-- A stop that finds no frame in progress takes effect (R354). -/
theorem settleStop_stops (stopping : (h.can d k).stopping = true) (idle : (h.can d k).tx = none) (quiet : h.on d R.CAN_STAT_RXING k = false) :
    h.settleStop d k = (h.setCan d k { h.can d k with stopping := false }).setCanState d k 0 :=
  if_pos ⟨stopping, idle, Bool.eq_false_iff.mp quiet⟩

theorem settleStop_sends (sends : (h.can d k).tx ≠ none) : h.settleStop d k = h := if_neg fun e => sends e.2.1

theorem settleStop_receives (receives : h.on d R.CAN_STAT_RXING k = true) : h.settleStop d k = h := if_neg fun e => e.2.2 receives

/-- What a stop that settles at once leaves at the controller. -/
theorem settled_reads {g : Hw} {x : Can} (stopping : x.stopping = true) (idle : x.tx = none) (quiet : g.on d R.CAN_STAT_RXING k = false) :
    (((g.setCan d k x).settleStop d k).can d k).stopping = false ∧ ((g.setCan d k x).settleStop d k).canState d k = 0 := by
  have own := setCan_can g d k x
  rw [settleStop_stops (h := g.setCan d k x) (by rw [own]; exact stopping) (by rw [own]; exact idle) quiet]
  refine ⟨?_, setCanState_state _ _ _ _ (by decide)⟩
  unfold Hw.setCanState
  rw [wr_can, setCan_can]

/-! ## The commands -/

theorem canStart_runs (runs : h.canRuns d k = true) (off : h.canState d k = 0) : canStart d k h = (h.wr d R.CAN_CMD_CMD 1 k).integrate d k :=
  if_pos ⟨(canCmd_runs ..).trans runs, (canCmd_state ..).trans off⟩

theorem canStart_other (on : h.canState d k ≠ 0) : canStart d k h = h.wr d R.CAN_CMD_CMD 1 k :=
  if_neg fun e => on ((canCmd_state ..).symm.trans e.2)

/-- What integration leaves of a controller that no STOP waits for. -/
theorem integrate_reads {h : Hw} {d k : Nat} (running : (h.can d k).stopping = false) : (h.integrate d k).canState d k = 1 ∧
    ((h.integrate d k).can d k) = { h.can d k with tx := none } ∧ (h.integrate d k).rd d R.CAN_STAT_TXING k = 0 ∧
    (h.integrate d k).rd d R.CAN_CMD_CMD k = h.rd d R.CAN_CMD_CMD k := by
  rw [integrate_running h d k running]
  refine ⟨(rd_wr_beside _ _ _ _ _ _ _ rfl).trans (setCanState_state _ _ _ _ (by decide)), ?_, rd_wr _ _ _ _ _ _ rfl, ?_⟩
  · unfold Hw.setCanState
    rw [wr_can, wr_can, setCan_can]
  · unfold Hw.setCanState
    rw [rd_wr_apart _ _ _ _ _ _ _ rfl, rd_wr_apart _ _ _ _ _ _ _ rfl, setCan_rd]

theorem canStop_busOff (off : h.canState d k = 3 ∨ h.canState d k = 4) (receiving : Bool) :
    canStop d k receiving h = h.wr d R.CAN_CMD_CMD 2 k := if_pos ((canCmd_busOff ..).trans (inBusOff_iff.mpr off))

section
variable (operating : h.canState d k = 2)
include operating

/-- A stop of an operating controller. -/
theorem canStop_operating (receiving : Bool) : canStop d k receiving h =
    let g := h.wr d R.CAN_CMD_CMD 2 k
    let g := if receiving = true ∧ (h.can d k).tx = none then g.flag d R.CAN_STAT_RXING k else g
    (g.setCan d k { h.can d k with stopping := true }).settleStop d k := by
  have free : ¬(h.wr d R.CAN_CMD_CMD 2 k).inBusOff d k = true := by
    rw [canCmd_busOff, inBusOff_iff, operating]
    decide
  have state : (h.wr d R.CAN_CMD_CMD 2 k).canState d k = 2 := (canCmd_state ..).trans operating
  have own := wr_can h d R.CAN_CMD_CMD 2 k 0 d k
  have flagged := wr_can (h.wr d R.CAN_CMD_CMD 2 k) d R.CAN_STAT_RXING 1 k 0 d k
  unfold canStop Hw.canAccept
  generalize h.wr d R.CAN_CMD_CMD 2 k = g at free state own flagged ⊢
  dsimp only
  rw [if_neg free]
  simp only [state, own, true_and]
  by_cases receives : receiving = true ∧ (h.can d k).tx = none
  · rw [if_pos receives, Hw.flag, flagged, own]
  · rw [if_neg receives, own]

theorem canStop_sends (sends : (h.can d k).tx ≠ none) (receiving : Bool) : canStop d k receiving h =
    (h.wr d R.CAN_CMD_CMD 2 k).setCan d k { h.can d k with stopping := true } := by
  rw [canStop_operating operating]
  dsimp only
  rw [if_neg fun e => sends e.2, settleStop_sends]
  rw [setCan_can]
  exact sends

theorem canStop_idle : canStop d k false h = ((h.wr d R.CAN_CMD_CMD 2 k).setCan d k { h.can d k with stopping := true }).settleStop d k := by
  rw [canStop_operating operating]
  dsimp only
  rw [if_neg fun e => Bool.false_ne_true e.1]

/-- A frame being received completes first. -/
theorem canStop_receives (idle : (h.can d k).tx = none) : canStop d k true h =
    ((h.wr d R.CAN_CMD_CMD 2 k).flag d R.CAN_STAT_RXING k).setCan d k { h.can d k with stopping := true } := by
  rw [canStop_operating operating]
  dsimp only
  rw [if_pos ⟨rfl, idle⟩]
  refine settleStop_receives ?_
  unfold Hw.on
  rw [setCan_rd, on_flag_self _ _ _ _ _ (by decide) (by decide)]
  rfl

end

theorem canSleep_busOff (off : h.canState d k = 3 ∨ h.canState d k = 4) : canSleep d k h = h.wr d R.CAN_CMD_CMD 4 k :=
  if_neg fun e => e.2 ((canCmd_busOff ..).trans (inBusOff_iff.mpr off))

theorem canSleep_runs (runs : h.canRuns d k = true) (s3 : h.canState d k ≠ 3) (s4 : h.canState d k ≠ 4) :
    canSleep d k h = (h.wr d R.CAN_CMD_CMD 4 k).canSleepNow d k :=
  if_pos ⟨(canCmd_runs ..).trans runs, fun e => (inBusOff_iff.mp ((canCmd_busOff ..).symm.trans e)).elim s3 s4⟩

theorem canWakeUp_other (other : h.canState d k ≠ 5) (cause : Nat) : h.canWakeUp d k cause = h := if_neg other

theorem canAbort_eq (h : Hw) (d k : Nat) : canAbort d k h =
    ((h.wr d R.CAN_CMD_CMD 6 k).abortQueue d k 0 (h.can d k).tx).abortQueue d k 1 (h.can d k).tx := by
  unfold canAbort Hw.canAccept
  dsimp only
  rw [wr_can]

/-! ## The ends of integration, recovery and sleep -/

/-- A controller whose counts are clear is error-active (R353). -/
theorem confine_clear (tec : h.rd d R.CAN_ERR_TEC k = 0) (rec : h.rd d R.CAN_ERR_REC k = 0) :
    h.confine d k = (h.wr d R.CAN_STAT_EWARN 0 k).wr d R.CAN_STAT_CONF 0 k := by
  unfold Hw.confine
  rw [tec, rec]
  rfl

/-- Recovery ends with the counts clear. -/
theorem recoveryComplete_recovers (recovering : h.canState d k = 4) : recoveryComplete d k h =
    ((((h.wr d R.CAN_ERR_TEC 0 k).wr d R.CAN_ERR_REC 0 k).setCanState d k 2).wr d R.CAN_STAT_EWARN 0 k).wr d R.CAN_STAT_CONF 0 k := by
  refine (if_pos recovering).trans (confine_clear ?_ ?_)
  · rw [Hw.setCanState, rd_wr_apart _ _ _ _ _ _ _ rfl, rd_wr_beside _ _ _ _ _ _ _ rfl, rd_wr _ _ _ _ _ _ rfl]
    rfl
  · rw [Hw.setCanState, rd_wr_apart _ _ _ _ _ _ _ rfl, rd_wr _ _ _ _ _ _ rfl]
    rfl

theorem recovered_reads (h : Hw) (d k : Nat) :
    let g := ((((h.wr d R.CAN_ERR_TEC 0 k).wr d R.CAN_ERR_REC 0 k).setCanState d k 2).wr d R.CAN_STAT_EWARN 0 k).wr d R.CAN_STAT_CONF 0 k
    g.canState d k = 2 ∧ g.rd d R.CAN_ERR_TEC k = 0 ∧ g.rd d R.CAN_ERR_REC k = 0 ∧ g.rd d R.CAN_STAT_CONF k = 0 ∧ g.rd d R.CAN_STAT_EWARN k = 0 := by
  dsimp only
  unfold Hw.setCanState Hw.canState
  refine ⟨?_, ?_, ?_, ?_, ?_⟩
  · rw [rd_wr_beside _ _ _ _ _ _ _ rfl, rd_wr_beside _ _ _ _ _ _ _ rfl, rd_wr _ _ _ _ _ _ rfl]
    rfl
  · rw [rd_wr_apart _ _ _ _ _ _ _ rfl, rd_wr_apart _ _ _ _ _ _ _ rfl, rd_wr_apart _ _ _ _ _ _ _ rfl, rd_wr_beside _ _ _ _ _ _ _ rfl,
      rd_wr _ _ _ _ _ _ rfl]
    rfl
  · rw [rd_wr_apart _ _ _ _ _ _ _ rfl, rd_wr_apart _ _ _ _ _ _ _ rfl, rd_wr_apart _ _ _ _ _ _ _ rfl, rd_wr _ _ _ _ _ _ rfl]
    rfl
  · rw [rd_wr _ _ _ _ _ _ rfl]
    rfl
  · rw [rd_wr_beside _ _ _ _ _ _ _ rfl, rd_wr _ _ _ _ _ _ rfl]
    rfl

section
variable (asleep : h.canState d k = 5)
include asleep

theorem canWakeDominant_wakes (level : h.on d R.CAN_WKCFG_WAKEMODE k = false) (ends : Bool) : canWakeDominant d k ends h =
    (if ends then h.bump d R.CAN_CNTC_MARGIN 1 k else h).canWakeUp d k 1 := if_pos ⟨asleep, Bool.eq_false_iff.mp level⟩

section
variable (frames : h.on d R.CAN_WKCFG_WAKEMODE k = true)
include frames

theorem canWakeFrame_decodes {id dlc : Nat} {data : List Byte} (classical : bit id 31 = false) (limit : Bool) : canWakeFrame d k id dlc data limit h =
    let g := h.wr d R.CAN_WKCFG_WKERR (h.rd d R.CAN_WKCFG_WKERR k - 1) k
    if g.wakeMatch d k id dlc data then g.canWakeUp d k 2 else if limit then g.canWakeUp d k 3 else g :=
  if_pos ⟨asleep, frames, Bool.eq_false_iff.mp classical⟩

theorem wakeErrorLimit_counts (n : Nat) : wakeErrorLimit d k n h =
    let e := min 32 (h.rd d R.CAN_WKCFG_WKERR k + n)
    if e = 32 then (h.wr d R.CAN_WKCFG_WKERR e k).canWakeUp d k 3 else h.wr d R.CAN_WKCFG_WKERR e k := if_pos ⟨asleep, frames⟩

end
end
end

theorem exec_canRecover (die : Die) (can : Fin 16) (o : Origin) (s : State) :
    exec (.canRecover die can o) s = s.onReg die o (0x60004 + 0x800 * can.val) (canRecover die.val can.val o) := rfl

theorem exec_canCmdReserved (die : Die) (can : Fin 16) (o : Origin) (s : State) :
    exec (.canCmdReserved die can o) s = s.onReg die o (0x60004 + 0x800 * can.val) (canCmdReserved die.val can.val o) := rfl

/-- Settles O47: each command by the branch that its case takes. -/
theorem canCommands : Obligations.CanCommands := by
  intro s die can r h d k st
  have onDie : ∀ {c : Instr} {f : Hw → Hw} {g : Hw}, exec c s = s.onDie die f → f h = g → Gives c s g := fun e p => gives_of e r p
  refine ⟨fun runs off running => ⟨onDie (f := canStart d k) rfl (canStart_runs runs off), ?started⟩,
    fun on => onDie (f := canStart d k) rfl (canStart_other on),
    fun operating sends receiving => ⟨onDie (f := canStop d k receiving) rfl (canStop_sends operating sends receiving), ?sending⟩,
    fun operating idle quiet => ⟨onDie (f := canStop d k false) rfl (canStop_idle operating), ?stopped⟩,
    fun operating idle => ⟨onDie (f := canStop d k true) rfl (canStop_receives operating idle), ?receiving⟩,
    fun off => ⟨fun receiving => onDie (f := canStop d k receiving) rfl (canStop_busOff off receiving),
      onDie (f := canSleep d k) rfl (canSleep_busOff off)⟩,
    fun off o => ⟨gives_of_reg (exec_canRecover ..) r (if_pos off), ?recovering⟩,
    fun other o => gives_of_reg (exec_canRecover ..) r (if_neg other),
    fun o => gives_of_reg (exec_canCmdReserved ..) r rfl,
    fun runs s3 s4 => onDie (f := canSleep d k) rfl (canSleep_runs runs s3 s4),
    fun asleep => onDie (f := canWake d k) rfl rfl, fun awake => ?wake, onDie (f := canAbort d k) rfl (canAbort_eq h d k),
    fun integrating => ⟨onDie (f := integrationComplete d k) rfl (if_pos integrating), setCanState_state _ _ _ _ (by decide)⟩,
    fun other => onDie (f := integrationComplete d k) rfl (if_neg other),
    fun recovering => ⟨onDie (f := recoveryComplete d k) rfl (recoveryComplete_recovers recovering), recovered_reads h d k⟩,
    fun asleep level => ⟨onDie (f := canWakeDominant d k false) rfl (canWakeDominant_wakes asleep level false),
      onDie (f := canWakeDominant d k true) rfl (canWakeDominant_wakes asleep level true)⟩,
    fun asleep frames id dlc data classical => ?frame, fun asleep frames n => ?limit,
    onDie (f := canParityCheck d k true) rfl rfl, onDie (f := canParityCheck d k false) rfl rfl⟩
  case started =>
    have own : ((h.wr d R.CAN_CMD_CMD 1 k).can d k).stopping = false := by
      rw [wr_can]
      exact running
    obtain ⟨state, can', sending, cmd⟩ := integrate_reads own
    refine ⟨state, cmd.trans (rd_wr _ _ _ _ _ _ rfl), ?_, ?_, sending⟩
    · rw [can']
    · rw [can']
      exact own
  case sending =>
    refine ⟨?_, (setCan_state ..).trans ((canCmd_state ..).trans operating)⟩
    dsimp only
    rw [setCan_can]
  case stopped =>
    exact settled_reads (x := { h.can d k with stopping := true }) rfl idle ((canCmd_receiving ..).trans quiet)
  case receiving =>
    refine ⟨?_, ?_, ?_⟩
    · dsimp only
      rw [setCan_can]
    · dsimp only
      rw [setCan_state, Hw.flag, Hw.canState, rd_wr_beside _ _ _ _ _ _ _ rfl]
      exact (canCmd_state ..).trans operating
    · dsimp only
      rw [setCan_rd]
      exact on_flag_self _ _ _ _ _ (by decide) (by decide)
  case recovering =>
    refine ⟨setCanState_state _ _ _ _ (by decide), ?_⟩
    rw [Hw.setCanState, rd_wr_apart _ _ _ _ _ _ _ rfl, rd_wr _ _ _ _ _ _ rfl]
    rfl
  case wake => exact onDie (f := canWake d k) rfl (canWakeUp_other (by rw [Hw.canAccept, canCmd_state]; exact awake) 0)
  case frame =>
    intro g
    have run := fun limit => canWakeFrame_decodes asleep frames (dlc := dlc.toNat) (data := data) classical limit
    refine ⟨fun hit l => onDie (f := canWakeFrame d k id.toNat dlc.toNat data l) rfl ((run l).trans (if_pos hit)), fun miss => ⟨?_, ?_⟩⟩
    · exact onDie (f := canWakeFrame d k id.toNat dlc.toNat data true) rfl ((run true).trans ((if_neg (Bool.eq_false_iff.mp miss)).trans (if_pos rfl)))
    · exact onDie (f := canWakeFrame d k id.toNat dlc.toNat data false) rfl
        ((run false).trans ((if_neg (Bool.eq_false_iff.mp miss)).trans (if_neg Bool.false_ne_true)))
  case limit =>
    intro e
    have run := wakeErrorLimit_counts asleep frames n
    refine ⟨fun full => ?_, fun more => ⟨onDie (f := wakeErrorLimit d k n) rfl (run.trans (if_neg more)), ?_, ?_⟩⟩
    · refine onDie (f := wakeErrorLimit d k n) rfl (run.trans ((if_pos full).trans ?_))
      rw [show min 32 (h.rd d R.CAN_WKCFG_WKERR k + n) = 32 from full]
    · exact (rd_wr _ _ _ _ _ _ rfl).trans (low_of_lt (lt_of_le_of_lt (min_le_left ..) (by decide)))
    · exact (rd_wr_apart _ _ _ _ _ _ _ rfl).trans asleep

end Sys2Proof.Machine
end

section
/-!
PROOFS. The frames of a CAN controller.
-/

namespace Sys2Proof.Machine

section
variable {h : Hw} {d k : Nat}

/-! ## Selection (R342, R343) -/

/-- The hardware in which the heads of both queues are fit to be offered. -/
def Hw.cleanHeads (h : Hw) (d k : Nat) : Hw :=
  let g := Hw.cleanQueue d k 1 (h.cq d (canQ k 1)).cells.length h
  Hw.cleanQueue d k 0 (g.cq d (canQ k 0)).cells.length g

theorem frameSelection_free {g : Hw} {u : Upset} (sends : h.canSends d k = true) (free : (h.can d k).tx = none)
    (heads : (h.meet d (canQ k (if (h.cq d (canQ k 1)).cells.isEmpty then 0 else 1)) u).2.cleanHeads d k = g) :
    frameSelection d k u h =
      if g.selectable d k 1 then (g.setCan d k { g.can d k with tx := some 1 }).flag d R.CAN_STAT_TXING k
      else if g.selectable d k 0 then (g.setCan d k { g.can d k with tx := some 0 }).flag d R.CAN_STAT_TXING k
      else g := by
  subst heads
  exact if_pos ⟨sends, free⟩

/-- A frame that starts is noted at its controller. -/
theorem started_reads (g : Hw) (d k : Nat) (x : Can) : (((g.setCan d k x).flag d R.CAN_STAT_TXING k).can d k) = x ∧
    ((g.setCan d k x).flag d R.CAN_STAT_TXING k).rd d R.CAN_STAT_TXING k = 1 := by
  refine ⟨?_, on_flag_self _ _ _ _ _ (by decide) (by decide)⟩
  rw [Hw.flag, wr_can, setCan_can]

/-! ## Frames sent, lost and in error -/

theorem arbitrationLost_sending {i : Nat} (sending : (h.can d k).tx = some i) :
    arbitrationLost d k h = (h.failTx d k).flag d R.CAN_STAT_RXING k := if_pos (by rw [sending]; rfl)

theorem arbitrationLost_idle (idle : (h.can d k).tx = none) : arbitrationLost d k h = h := if_neg (by rw [idle]; decide)

theorem frameTransmitted_idle (idle : (h.can d k).tx = none) (v : Option (BitVec 7)) : frameTransmitted d k v h = h := by
  unfold frameTransmitted
  rw [idle]

theorem frameTransmitted_sent {i : Nat} {c : List Byte} {rest : List (List Byte)} (sending : (h.can d k).tx = some i)
    (head : h.headCells d (canQ k i) = c :: rest) (v : Option (BitVec 7)) : frameTransmitted d k v h =
      let more := if frameCells c = 2 then rest.take 1 else []
      let g := (((h.measureTdc d k v).endTx d k).dropFrame d k i).bump d R.CAN_CNTA_TXOK 1 k
      (((g.sentOk d k).echoSent d k c more).loopSent d k (h.rd d R.CAN_STAT_CONF k == 1) c more).settleStop d k := by
  unfold frameTransmitted
  rw [sending]
  dsimp only
  rw [head]

/-- A transmitter in error adds to TEC (R351). -/
theorem canError_sending {lec extra : Nat} {exempt : Bool} {g x : Hw} (operating : h.canState d k = 2) (sending : (h.can d k).tx.isSome = true)
    (noted : h.wr d R.CAN_FLAGS_LEC lec k = g) (counts : g.counts d k = true)
    (counted : g.wr d R.CAN_ERR_TEC (min 256 (g.rd d R.CAN_ERR_TEC k + (if exempt then 0 else 8) + 8 * extra)) k = x) :
    canError d k lec exempt extra none h = (((x.failTx d k).wr d R.CAN_STAT_RXING 0 k).confine d k).settleStop d k := by
  have own : (g.can d k).tx.isSome = true := by
    rw [← noted, wr_can]
    exact sending
  unfold canError Hw.measureTdc
  rw [if_neg (not_not_intro operating)]
  dsimp only
  rw [noted, if_neg (not_not_intro counts), if_pos own, counted]

/-! ## Frames received -/

section
variable {id dlc : Nat} {brs esi : Bool} {data : List Byte} {parity limit : Bool}

theorem frameReceived_other (other : h.canState d k ≠ 2) : frameReceived d k id dlc brs esi data parity limit h = h := if_neg other

section
variable (operating : h.canState d k = 2)
include operating

theorem frameReceived_parity : frameReceived d k id dlc brs esi data true limit h = h.canParity d k := (if_pos operating).trans (if_pos rfl)

theorem frameReceived_fd (fd : bit id 31 = true) (off : h.on d R.CAN_CFG_FDEN k = false) :
    frameReceived d k id dlc brs esi data false limit h = h.fdUnexpected d k :=
  (if_pos operating).trans ((if_neg Bool.false_ne_true).trans (if_pos ⟨fd, Bool.eq_false_iff.mp off⟩))

theorem frameReceived_taken (taken : bit id 31 = false ∨ h.on d R.CAN_CFG_FDEN k = true) :
    frameReceived d k id dlc brs esi data false false h =
      (((h.recDown d k).wr d R.CAN_STAT_RXING 0 k).deliverFrame d k id dlc brs esi data).settleStop d k := by
  have known : ¬(bit id 31 = true ∧ ¬h.on d R.CAN_CFG_FDEN k = true) := fun e =>
    taken.elim (fun n => absurd (n.symm.trans e.1) (by decide)) e.2
  have early : ¬(false = true ∧ h.node.state = .dusk) := fun e => Bool.false_ne_true e.1
  unfold frameReceived
  dsimp only
  rw [if_pos operating, if_neg Bool.false_ne_true, if_neg known, if_neg early]

end
end
end

/-- Settles O48: each frame by the branch that its case takes. -/
theorem canFrames : Obligations.CanFrames := by
  intro s die can r h d k
  have onDie : ∀ {c : Instr} {f : Hw → Hw} {g : Hw}, exec c s = s.onDie die f → f h = g → Gives c s g := fun e p => gives_of e r p
  refine ⟨fun sends free upset => ?select, fun busy upset => ?busy,
    fun i sending => onDie (f := arbitrationLost d k) rfl (arbitrationLost_sending sending),
    fun idle => ⟨onDie (f := arbitrationLost d k) rfl (arbitrationLost_idle idle),
      fun v => onDie (f := frameTransmitted d k v) rfl (frameTransmitted_idle idle v)⟩,
    fun i c rest v sending head => onDie (f := frameTransmitted d k v) rfl (frameTransmitted_sent sending head v),
    fun operating sending lec exempt extra => ?error, fun other lec exempt extra v => ?quiet,
    fun operating id dlc brs esi data limit => ?received, fun other id dlc brs esi data parity limit => ?missed⟩
  case select =>
    intro g0 g1 g
    have run := frameSelection_free (u := upset) (g := g) sends free rfl
    refine ⟨fun high => ⟨onDie (f := frameSelection d k upset) rfl (run.trans (if_pos high)), ?_⟩,
      fun low high => ⟨onDie (f := frameSelection d k upset) rfl (run.trans ((if_neg (Bool.eq_false_iff.mp low)).trans (if_pos high))), ?_⟩,
      fun low none => onDie (f := frameSelection d k upset) rfl
        (run.trans ((if_neg (Bool.eq_false_iff.mp low)).trans (if_neg (Bool.eq_false_iff.mp none))))⟩
    all_goals
      obtain ⟨own, sending⟩ := started_reads g d k _
      exact ⟨by rw [own], sending⟩
  case busy => exact onDie (f := frameSelection d k upset) rfl (if_neg fun e => busy e.2)
  case error =>
    intro g counts x
    exact onDie (f := canError d k lec.val exempt extra none) rfl (canError_sending operating sending rfl counts rfl)
  case quiet => exact onDie (f := canError d k lec.val exempt extra v) rfl (if_pos other)
  case received =>
    have run := fun (parity limit : Bool) => (rfl : exec (.canFrameReceived die can id dlc brs esi data parity limit) s =
      s.onDie die (frameReceived d k id.toNat dlc.toNat brs esi data parity limit))
    exact ⟨onDie (run true limit) (frameReceived_parity operating), fun fd off => onDie (run false limit) (frameReceived_fd operating fd off),
      fun taken => onDie (run false false) (frameReceived_taken operating taken)⟩
  case missed => exact onDie (f := frameReceived d k id.toNat dlc.toNat brs esi data parity limit) rfl (frameReceived_other other)

end Sys2Proof.Machine
end

section
/-!
PROOFS. The commands of a host port.
-/

namespace Sys2Proof.Machine

/-! ## A port whose link is up -/

section
variable {h : Hw} {d : Nat} (host : d < 2) (up : h.on d R.BRG_HSTAT_LINKUP = true)
include host up

/-- A port with its link up takes requests. -/
theorem host_serves : ¬(2 ≤ d ∨ (!h.on d R.BRG_HSTAT_LINKUP) = true) := by
  rw [up]
  exact fun e => e.elim (Nat.not_le.mpr host) fun n => Bool.false_ne_true n

theorem hostRead_bar4 (off len tag reqid : Nat) (u : Upset) (m : SMap Byte) : hostRead d .bar4 off len tag reqid u (h, m) =
    (h.hostEnd d tag reqid 0 ((List.range len).map fun k => (h.msix.get .init d).byte (off + k)), m) :=
  (if_neg (host_serves host up)).trans (if_pos rfl)

/-- A read of memory is issued in pieces while fewer than 64 remote reads are outstanding (R431). -/
theorem hostRead_pieces {bar : Bar} {len : Nat} (memory : bar ≠ .bar4) (some : 0 < len) (few : h.remoteReads d < 64) (off tag reqid : Nat)
    (u : Upset) (m : SMap Byte) : hostRead d bar off len tag reqid u (h, m) =
      each (h.readPlan d bar off len) (issueRead d tag reqid u) (h.setHost d { h.host d with
        reads := (h.host d).reads ++ [⟨tag, reqid, h.waitingFor (h.readPlan d bar off len)⟩],
        tagNext := ((h.host d).tagNext + (h.readPlan d bar off len).length) % 2 ^ 16 }, m) := by
  unfold hostRead
  exact (if_neg (host_serves host up)).trans ((if_neg memory).trans ((if_neg fun e => Nat.not_le.mpr few e.1).trans
    (if_neg (Nat.ne_of_gt some))))

theorem hostWrite_bar4 (off : Nat) (bs : List Byte) (reqid : Nat) (u : Upset) (m : SMap Byte) : hostWrite d .bar4 off bs reqid u (h, m) =
    ({ h with msix := h.msix.put .init d (iter bs.length (fun k m => m.writeByte (off + k) (bs.getD k 0)) (h.msix.get .init d)).release }, m) :=
  (if_neg (host_serves host up)).trans (if_pos rfl)

/-- A write that crosses no boundary of 64 bytes is one piece (R430). -/
theorem hostWrite_piece {bar : Bar} {off : Nat} {bs : List Byte} (memory : bar ≠ .bar4) (some : 0 < bs.length) (one : off % 64 + bs.length ≤ 64)
    (reqid : Nat) (u : Upset) (m : SMap Byte) : hostWrite d bar off bs reqid u (h, m) = issueWrite d bar reqid u off bs (h, m) := by
  refine (if_neg (host_serves host up)).trans ((if_neg memory).trans ?_)
  rw [split_one _ _ _ some one]
  show issueWrite d bar reqid u off (slice bs (off - off) bs.length) (h, m) = _
  rw [slice_all]

theorem configAccess_read (off v be tag : Nat) : configAccess d false off v be tag h =
    h.setHost d { h.host d with last := some ⟨tag, 0, leBytes 4 (h.configWord d off)⟩ } :=
  (if_neg (host_serves host up)).trans (if_neg Bool.false_ne_true)

/-- A write of a whole word that is not the MSI-X capability's changes the configuration space alone. -/
theorem configAccess_word {off : Nat} (plain : off ≠ Config.msixCap) (v : Word) (tag : Nat) : configAccess d true off v.toNat 15 tag h =
    h.setHost d { h.host d with
      config := (h.host d).config.upd 0 off fun w => BitVec.ofNat 32 (w.toNat - (w.toNat &&& enabledMask 15) + (v.toNat &&& enabledMask 15)),
      last := some ⟨tag, 0, []⟩ } :=
  (if_neg (host_serves host up)).trans ((if_pos rfl).trans (if_neg plain))

end

/-- The first word of the configuration space is the Device ID and the Vendor ID (R427). -/
theorem configWord_zero (h : Hw) (d : Nat) : h.configWord d 0 = deviceId h.part * 2 ^ 16 + 0x1F4C := by
  show (((h.host d).config.get 0 0).toNat &&& 0) + (deviceId h.part * 2 ^ 16 + 0x1F4C) = _
  rw [Nat.and_zero, Nat.zero_add]

/-- A port changes its own state alone. -/
theorem setHost_other (h : Hw) {d e : Nat} (x : HostPort) (other : e ≠ d) : (h.setHost d x).host e = h.host e := SMap.get_put_of_ne _ _ _ _ other

theorem issueWrite_unmapped {h : Hw} {d off : Nat} {bar : Bar} (unmapped : h.barTarget d bar off true = none) (reqid : Nat) (u : Upset)
    (bs : List Byte) (m : SMap Byte) : issueWrite d bar reqid u off bs (h, m) =
      ((h.violation d (.host d)).endPosted (.host d) (h.host d).tagNext 0 reqid 1, m) := by
  unfold issueWrite
  dsimp only
  rw [unmapped]

theorem issueWrite_mapped {h : Hw} {d off a : Nat} {bar : Bar} (mapped : h.barTarget d bar off true = some a) (reqid : Nat) (u : Upset)
    (bs : List Byte) (m : SMap Byte) : issueWrite d bar reqid u off bs (h, m) = writePiece d reqid u a bs (h, m) := by
  unfold issueWrite
  dsimp only
  rw [mapped]

/-! ## The link and the read timer -/

theorem hostLinkDown_up {h : Hw} {d : Nat} (host : d < 2) (up : h.on d R.BRG_HSTAT_LINKUP = true) (perst : Bool) : hostLinkDown d perst h =
    if perst then ((h.journalHost d 4 0 0 0 0 []).hostLost d).clearFunction d else (h.journalHost d 4 0 0 0 0 []).hostLost d := by
  unfold hostLinkDown
  rw [if_neg (Nat.not_le.mpr host), if_pos up]

theorem hostLinkUp_enabled {h : Hw} {d : Nat} (host : d < 2) (enabled : h.on d R.BRG_HSTAT_ENABLED = true) (speed width : Nat) :
    hostLinkUp d speed width h = (((h.journalHost d 3 0 0 0 0 []).wr d R.BRG_HSTAT_LINKUP 1).wr d R.BRG_HSTAT_SPEED (speed + 1)).wr d
      R.BRG_HSTAT_WIDTH (2 ^ width) := by
  refine if_neg ?_
  rw [enabled]
  exact fun e => e.elim (Nat.not_le.mpr host) fun n => Bool.false_ne_true n

/-- What a port that is up reads of its link. -/
theorem linkUp_reads (g : Hw) (d : Nat) (speed : Fin 5) (width : Fin 3) :
    let t := ((g.wr d R.BRG_HSTAT_LINKUP 1).wr d R.BRG_HSTAT_SPEED (speed.val + 1)).wr d R.BRG_HSTAT_WIDTH (2 ^ width.val)
    t.rd d R.BRG_HSTAT_LINKUP = 1 ∧ t.rd d R.BRG_HSTAT_SPEED = speed.val + 1 ∧ t.rd d R.BRG_HSTAT_WIDTH = 2 ^ width.val := by
  refine ⟨?_, ?_, ?_⟩
  · rw [rd_wr_beside _ _ _ _ _ _ _ rfl, rd_wr_beside _ _ _ _ _ _ _ rfl, rd_wr _ _ _ _ _ _ rfl]
    rfl
  · rw [rd_wr_beside _ _ _ _ _ _ _ rfl, rd_wr _ _ _ _ _ _ rfl]
    revert speed
    decide
  · rw [rd_wr _ _ _ _ _ _ rfl]
    revert width
    decide

theorem hostReadTimeout_oldest {h : Hw} {d tag : Nat} {r : HostRead} {rest : List HostRead} (oldest : (h.host d).reads = r :: rest)
    (named : r.tag = tag) (remote : (r.pieces.any fun p => !h.localAddr p.addr) = true) (completion : Bool) : hostReadTimeout d tag completion h =
      if completion then h.bump d R.BRG_HCNT_MARGIN else (h.hostEnd d r.tag r.reqid 4 []).bump d R.BRG_HCNT_CATMO := by
  unfold hostReadTimeout
  rw [oldest, List.find?_cons_of_pos (by rw [named, remote]; simp)]

/-- A word written whole to the configuration space stands there, and nothing else of the hardware changes. -/
theorem configAccess_stores {h : Hw} {d off : Nat} (host : d < 2) (up : h.on d R.BRG_HSTAT_LINKUP = true) (plain : off ≠ Config.msixCap)
    (v : Word) (tag : Nat) :
    { configAccess d true off v.toNat 15 tag h with hosts := h.hosts } = h ∧
      (∀ e, e ≠ d → (configAccess d true off v.toNat 15 tag h).host e = h.host e) ∧
      ((configAccess d true off v.toNat 15 tag h).host d).config.get 0 off = v ∧
      ((configAccess d true off v.toNat 15 tag h).host d).last = some ⟨tag, 0, []⟩ := by
  rw [configAccess_word host up plain]
  refine ⟨rfl, fun e other => setHost_other h _ other, ?_, ?_⟩
  · rw [setHost_host]
    exact (SMap.get_put_self ..).trans (mask_all _ v)
  · rw [setHost_host]

theorem exec_pcieMemoryRead (die : Die) (bar : Bar) (off : BitVec 40) (len : Nat) (tag : Fin 1024) (reqid : BitVec 16) (u : Upset) (s : State) :
    exec (.pcieMemoryRead die bar off len tag reqid u) s = s.onDieMem die (hostRead die.val bar off.toNat len tag.val reqid.toNat u) := rfl

theorem exec_pcieMemoryWrite (die : Die) (bar : Bar) (off : BitVec 40) (bytes : List Byte) (reqid : BitVec 16) (u : Upset) (s : State) :
    exec (.pcieMemoryWrite die bar off bytes reqid u) s = s.onDieMem die (hostWrite die.val bar off.toNat bytes reqid.toNat u) := rfl

theorem exec_pcieConfiguration (die : Die) (write : Bool) (word : BitVec 10) (v : Word) (be : BitVec 4) (tag : Fin 1024) (s : State) :
    exec (.pcieConfiguration die write word v be tag) s =
      s.onDie die (configAccess die.val write (4 * word.toNat) v.toNat be.toNat tag.val) := rfl

/-- Settles O49: each request by the branch that its case takes. -/
theorem hostRequests : Obligations.HostRequests := by
  intro s die r host h d x m
  refine ⟨fun up => ⟨fun off len tag reqid u => ?table, fun bar off len tag reqid u memory some few => ?read, fun off bytes reqid u => ?tableWrite,
    fun bar off bytes reqid u memory some one => ?write, fun v be tag => ?ident, fun word v be tag => ?word, fun word v tag plain => ?store,
    fun tag => ?unsupported, ?reset, ?down, ?perst⟩, fun enabled speed width => ?up, fun disabled speed width => ?disabled,
    fun q rest tag oldest named remote => ?timeout⟩
  case table => exact gives_of_mem_only (exec_pcieMemoryRead ..) r (hostRead_bar4 host up ..)
  case read => exact gives_of_mem (exec_pcieMemoryRead ..) r (hostRead_pieces host up memory some few ..)
  case tableWrite => exact gives_of_mem_only (exec_pcieMemoryWrite ..) r (hostWrite_bar4 host up ..)
  case write =>
    have run := hostWrite_piece host up memory some one reqid.toNat u s.pir
    exact ⟨fun unmapped => gives_of_mem_only (exec_pcieMemoryWrite ..) r (run.trans (issueWrite_unmapped unmapped ..)),
      fun a mapped => gives_of_mem (exec_pcieMemoryWrite ..) r (run.trans (issueWrite_mapped mapped ..))⟩
  case ident =>
    have run := configAccess_read host up 0 v.toNat be.toNat tag.val
    rw [configWord_zero] at run
    exact gives_of (exec_pcieConfiguration die false 0 v be tag s) r run
  case word => exact gives_of (exec_pcieConfiguration die false word v be tag s) r (configAccess_read host up ..)
  case store => exact complete_of (exec_pcieConfiguration die true word v 0xF tag s) r (configAccess_stores host up plain v tag.val)
  case unsupported => exact gives_of (f := unsupported d tag.val) rfl r (if_neg (host_serves host up))
  case reset => exact gives_of (f := functionReset d) rfl r (if_neg (host_serves host up))
  case down => exact gives_of (f := hostLinkDown d false) rfl r (hostLinkDown_up host up false)
  case perst => exact gives_of (f := hostLinkDown d true) rfl r (hostLinkDown_up host up true)
  case up =>
    exact ⟨gives_of (f := hostLinkUp d speed.val width.val) rfl r (hostLinkUp_enabled host enabled ..), linkUp_reads _ d speed width⟩
  case disabled => exact gives_of (f := hostLinkUp d speed.val width.val) rfl r (if_pos (.inr (by rw [disabled]; rfl)))
  case timeout =>
    have run := hostReadTimeout_oldest oldest named remote
    exact ⟨gives_of (f := hostReadTimeout d tag.val true) rfl r (run true), gives_of (f := hostReadTimeout d tag.val false) rfl r (run false)⟩

end Sys2Proof.Machine
end

section
/-!
PROOFS. The cycles of a backplane master at a bridge's slave side.
-/

namespace Sys2Proof.Machine

section
variable {h : Hw} {d : Nat} {m : SMap Byte}

/-! ## Reads and writes of a window (R440 to R442, R445) -/

section
variable (free : (h.bp d).held = none) {a am w : Nat} {u : Upset}

section
variable {c : Claim}
include free

theorem slaveRead_silent (none : h.answered d a am w false = none) : slaveRead d a am w u (h, m) = (h.busAnswer d .silent, m) := by
  unfold slaveRead
  dsimp only
  rw [if_neg (by rw [free]; decide), none]

theorem slaveRead_claimed (claimed : h.answered d a am w false = some c) : slaveRead d a am w u (h, m) =
    if c.locken then lockCycle d a am w c u (h, m)
    else if h.direct d c.addr ∨ h.on d R.BRG_BCFG_RTYMODE then holdCycle d 0 0x40 a am w c.addr [] u (h, m)
    else slotCycle d 0x40 a am w c.addr [] u (h, m) := by
  unfold slaveRead
  dsimp only
  rw [if_neg (by rw [free]; decide), claimed]

theorem slaveWrite_silent {bs : List Byte} (none : h.answered d a am w true = none) :
    slaveWrite d a am w bs u (h, m) = (h.busAnswer d .silent, m) := by
  unfold slaveWrite
  dsimp only
  rw [if_neg (by rw [free]; decide), none]

theorem slaveWrite_claimed {bs : List Byte} (claimed : h.answered d a am w true = some c) : slaveWrite d a am w bs u (h, m) =
    if c.postw then busSend d 0x41 ((h.busAnswer d (.dtack [])).takeTag d).1 c.addr am true w bs u (((h.busAnswer d (.dtack [])).takeTag d).2, m)
    else if h.direct d c.addr ∨ h.on d R.BRG_BCFG_RTYMODE then holdCycle d 1 0x41 a am w c.addr bs u (h, m)
    else slotCycle d 0x41 a am w c.addr bs u (h, m) := by
  unfold slaveWrite
  dsimp only
  rw [if_neg (by rw [free]; decide), claimed]

end

/-- A posted write is acknowledged at once and takes a tag. -/
theorem acknowledged_tag (h : Hw) (d : Nat) : (h.busAnswer d (.dtack [])).takeTag d =
    ((h.bp d).tagNext, h.setBp d { h.bp d with tagNext := ((h.bp d).tagNext + 1) % 2 ^ 16, last := .dtack [] }) := by
  unfold Hw.busAnswer Hw.takeTag
  dsimp only
  rw [setBp_bp, setBp_setBp]

/-- A lock read withholds its answer (R445). -/
theorem lockCycle_eq (h : Hw) (m : SMap Byte) (d a am w : Nat) (c : Claim) (u : Upset) : lockCycle d a am w c u (h, m) =
    busSend d 0x44 (h.bp d).tagNext c.addr am false w [] u
      (h.setBp d { h.bp d with
        tagNext := ((h.bp d).tagNext + 1) % 2 ^ 16, held := some ⟨2, a, am, w, (h.bp d).tagNext⟩, last := .silent,
        lock := some ⟨c.addr, w, (h.bp d).tagNext, c.rdonly, false⟩, asLow := true }, m) := by
  unfold lockCycle
  dsimp only
  rw [hold_eq, setBp_bp, setBp_setBp]

/-! ## The slots of a read in RTYMODE 0 (R441, R442) -/

section
variable {target : Nat} {i : Nat} (slot : findSlot (h.bp d) false a am w = some i)
include slot

theorem slotRead_flies (flies : ((h.bp d).slots.get none i).bind (·.got) = none) :
    slotCycle d 0x40 a am w target [] u (h, m) = (h.busAnswer d .retry, m) := by
  unfold slotCycle
  dsimp only
  rw [show findSlot (h.bp d) (64 == 65) a am w = some i from slot]
  dsimp only
  rw [flies]

theorem slotRead_answered {code : Nat} {data : List Byte} (got : ((h.bp d).slots.get none i).bind (·.got) = some (code, data)) :
    slotCycle d 0x40 a am w target [] u (h, m) = (h.setBp d { h.bp d with
      slots := (h.bp d).slots.put none i none, last := if code ≠ 0 then .berr else .dtack (slice data 0 w) }, m) := by
  unfold slotCycle
  dsimp only
  rw [show findSlot (h.bp d) (64 == 65) a am w = some i from slot]
  dsimp only
  rw [got]
  rfl

end

section
variable {target : Nat} (new : findSlot (h.bp d) false a am w = none)
include new

theorem slotRead_full (full : ((List.range 16).find? fun i => ((h.bp d).slots.get none i).isNone) = none) :
    slotCycle d 0x40 a am w target [] u (h, m) = ((h.busAnswer d .retry).bump d R.BRG_BCNTA_SLOTFULL, m) := by
  unfold slotCycle
  dsimp only
  rw [show findSlot (h.bp d) (64 == 65) a am w = none from new]
  dsimp only
  rw [full]

theorem slotRead_new {i : Nat} (open' : ((List.range 16).find? fun i => ((h.bp d).slots.get none i).isNone) = some i) :
    slotCycle d 0x40 a am w target [] u (h, m) = busSend d 0x40 (h.bp d).tagNext target am false w [] u
      (h.setBp d { h.bp d with tagNext := ((h.bp d).tagNext + 1) % 2 ^ 16, last := .retry,
                               slots := (h.bp d).slots.put none i (some ⟨false, a, am, w, (h.bp d).tagNext, none⟩) }, m) := by
  unfold slotCycle
  dsimp only
  rw [show findSlot (h.bp d) (64 == 65) a am w = none from new]
  dsimp only
  rw [open']
  dsimp only [Hw.takeTag]
  rw [setBp_bp, setBp_setBp]
  rfl

end
end

/-! ## Locks (R445 to R447) -/

section
variable (low : (h.bp d).asLow = true) (free : (h.bp d).held = none)
include low free

theorem slaveLockWrite_unlocked (none : (h.bp d).lock = none) (v : Nat) : slaveLockWrite d v (h, m) = (h.busAnswer d .berr, m) := by
  unfold slaveLockWrite
  dsimp only
  rw [if_neg (by rw [low, free]; decide), none]

theorem slaveLockWrite_locked {l : LockOut} (locked : (h.bp d).lock = some l) (v : Nat) : slaveLockWrite d v (h, m) =
    if l.rdonly then (h.busAnswer d .silent, m)
    else busSend d 0x45 l.tag l.addr 0 false l.width (leBytes l.width v) .clean
      (h.setBp d { h.bp d with held := some ⟨3, 0, 0, l.width, l.tag⟩, last := .silent }, m) := by
  unfold slaveLockWrite
  dsimp only
  rw [if_neg (by rw [low, free]; decide), locked]

end

theorem asRelease_unlocked (unlocked : (h.bp d).lock = none) (idle : (h.bp d).waitAs = none) : asRelease d (h, m) =
    (h.setBp d { h.bp d with lock := none, asLow := false, waitAs := none }, m) := by
  unfold asRelease
  dsimp only
  rw [unlocked]
  dsimp only
  rw [unlocked, idle]
  rfl

/-- Without a lock of its own the release of AS lets a lock read that waited take the bus. -/
theorem asRelease_waiting {q : Req} (unlocked : (h.bp d).lock = none) (waits : (h.bp d).waitAs = some q) : asRelease d (h, m) =
    (h.setBp d { h.bp d with lock := none, asLow := false, waitAs := none, masters := ⟨q, []⟩ :: (h.bp d).masters }, m) := by
  unfold asRelease
  dsimp only
  rw [unlocked]
  dsimp only
  rw [unlocked, waits]
  rfl

theorem lockResend_locked {l : LockOut} (locked : (h.bp d).lock = some l) : lockResend d (h, m) =
    if l.busy && (h.bp d).awaitsLock then
      busSend d 0x44 l.tag l.addr 0 false l.width [] .clean (h.setBp d { h.bp d with lock := some { l with busy := false } }, m)
    else (h, m) := by
  unfold lockResend
  dsimp only
  rw [locked]

/-! ## Timers (R441, R447, R451) -/

theorem holdmaxExpiry_idle (idle : (h.bp d).held = none) (same : Bool) : holdmaxExpiry d same h = h := by
  unfold holdmaxExpiry
  dsimp only
  rw [idle]

theorem holdmaxExpiry_held {c : HeldCycle} (held : (h.bp d).held = some c) (same : Bool) : holdmaxExpiry d same h =
    if same then h.bump d R.BRG_HCNT_MARGIN
    else h.setBp d { h.bp d with held := none, last := if c.kind = 2 then .retry else .berr } := by
  unfold holdmaxExpiry
  dsimp only
  rw [held]

theorem slotTimeout_got {i : Nat} {x : Nat × List Byte} (got : ((h.bp d).slots.get none i).bind (·.got) = some x) (same : Bool) :
    slotTimeout d i same h =
      if same then h.bump d R.BRG_HCNT_MARGIN
      else (h.setBp d { h.bp d with slots := (h.bp d).slots.put none i none }).bump d R.BRG_BCNTA_SLOTEXP :=
  if_neg (by rw [got]; exact Bool.false_ne_true)

theorem slotTimeout_flies {i : Nat} (flies : ((h.bp d).slots.get none i).bind (·.got) = none) (same : Bool) : slotTimeout d i same h = h :=
  if_pos (by rw [flies]; rfl)

end

/-! ## The rows -/

section
variable (die : Die) (addr : Word) (am : BitVec 6) (wd : BusWidth) (u : Upset) (s : State)

/-- A lock read is a read of a window with LOCKEN = 1. -/
theorem exec_slaveReads {i : Instr} (mem : i ∈ [Instr.slaveRead die addr am wd u, .slaveLockRead die addr am wd u]) :
    exec i s = s.onDieMem die (slaveRead die.val addr.toNat am.toNat wd.bytes u) := by
  simp only [List.mem_cons, List.not_mem_nil, or_false] at mem
  obtain rfl | rfl := mem <;> rfl

theorem exec_slaveRead : exec (.slaveRead die addr am wd u) s = s.onDieMem die (slaveRead die.val addr.toNat am.toNat wd.bytes u) := rfl

theorem exec_slaveWrite (v : Word) : exec (.slaveWrite die addr am wd v u) s =
    s.onDieMem die (slaveWrite die.val addr.toNat am.toNat wd.bytes (leBytes wd.bytes v.toNat) u) := rfl

end

theorem exec_slaveLockWrite (die : Die) (v : Word) (s : State) :
    exec (.slaveLockWrite die v) s = s.onDieMem die (slaveLockWrite die.val v.toNat) := rfl

theorem exec_asRelease (die : Die) (s : State) : exec (.asRelease die) s = s.onDieMem die (asRelease die.val) := rfl

theorem exec_lockReadResend (die : Die) (s : State) : exec (.lockReadResend die) s = s.onDieMem die (lockResend die.val) := rfl

/-- Settles O50: each cycle by the branch that its case takes. -/
theorem slaveCycles : Obligations.SlaveCycles := by
  intro s die r h d b p
  refine ⟨fun free addr am wd u => ?cycle, fun low free v => ⟨fun unlocked => ?berr, fun l locked rdonly => ?rdonly, fun l locked rw' => ?lockWrite⟩,
    fun unlocked idle => gives_of_mem_only (exec_asRelease die s) r (asRelease_unlocked unlocked idle),
    fun q unlocked waits => gives_of_mem_only (exec_asRelease die s) r (asRelease_waiting unlocked waits),
    fun l locked busy awaits => ?resend, fun l locked quiet => ?sent, fun c held => ⟨?heldSame, fun read => ?heldRead, fun other => ?heldOther⟩,
    fun idle same => gives_of (f := holdmaxExpiry d same) rfl r (holdmaxExpiry_idle idle same),
    fun i x got => ⟨gives_of (f := slotTimeout d i.val true) rfl r (slotTimeout_got got true),
      gives_of (f := slotTimeout d i.val false) rfl r (slotTimeout_got got false)⟩,
    fun i flies same => gives_of (f := slotTimeout d i.val same) rfl r (slotTimeout_flies flies same)⟩
  case cycle =>
    intro a m w
    refine ⟨fun silent => gives_of_mem_only (exec_slaveRead ..) r (slaveRead_silent free silent),
      fun c claimed => ⟨fun lock i mem => ?lockRead, fun plain at' => ?direct, fun plain away slots => ?slot⟩, fun v => ?write⟩
    case lockRead =>
      exact gives_of_mem (exec_slaveReads die addr am wd u s mem) r ((slaveRead_claimed free claimed).trans ((if_pos lock).trans (lockCycle_eq ..)))
    case direct =>
      exact gives_of_mem (exec_slaveRead ..) r ((slaveRead_claimed free claimed).trans
        ((if_neg (Bool.eq_false_iff.mp plain)).trans ((if_pos at').trans (hold_eq ..))))
    case slot =>
      have far : ¬(h.direct d c.addr = true ∨ h.on d R.BRG_BCFG_RTYMODE = true) :=
        not_or.mpr ⟨Bool.eq_false_iff.mp away, Bool.eq_false_iff.mp slots⟩
      have run := (slaveRead_claimed (m := p) (u := u) free claimed).trans ((if_neg (Bool.eq_false_iff.mp plain)).trans (if_neg far))
      refine ⟨fun i slot flies => gives_of_mem_only (exec_slaveRead ..) r (run.trans (slotRead_flies slot flies)), fun i data slot got => ?_,
        fun i code data slot got fails => ?_, fun new full => gives_of_mem_only (exec_slaveRead ..) r (run.trans (slotRead_full new full)),
        fun i new open' => gives_of_mem (exec_slaveRead ..) r (run.trans (slotRead_new new open'))⟩
      · exact gives_of_mem_only (exec_slaveRead ..) r (run.trans (slotRead_answered slot got))
      · refine gives_of_mem_only (exec_slaveRead ..) r (run.trans ((slotRead_answered slot got).trans ?_))
        rw [if_pos fails]
    case write =>
      intro bs
      refine ⟨fun silent => gives_of_mem_only (exec_slaveWrite ..) r (slaveWrite_silent free silent), fun c claimed =>
        ⟨fun posted => ?_, fun plain at' => ?_⟩⟩
      · refine gives_of_mem (exec_slaveWrite ..) r ((slaveWrite_claimed free claimed).trans ((if_pos posted).trans ?_))
        rw [acknowledged_tag]
      · exact gives_of_mem (exec_slaveWrite ..) r ((slaveWrite_claimed free claimed).trans
          ((if_neg (Bool.eq_false_iff.mp plain)).trans ((if_pos at').trans (hold_eq ..))))
  case berr => exact gives_of_mem_only (exec_slaveLockWrite die v s) r (slaveLockWrite_unlocked low free unlocked v.toNat)
  case rdonly => exact gives_of_mem_only (exec_slaveLockWrite die v s) r ((slaveLockWrite_locked low free locked v.toNat).trans (if_pos rdonly))
  case lockWrite =>
    exact gives_of_mem (exec_slaveLockWrite die v s) r ((slaveLockWrite_locked low free locked v.toNat).trans (if_neg (Bool.eq_false_iff.mp rw')))
  case resend =>
    exact gives_of_mem (exec_lockReadResend die s) r ((lockResend_locked locked).trans (if_pos (by rw [busy]; exact awaits)))
  case sent =>
    exact gives_of_mem_only (exec_lockReadResend die s) r ((lockResend_locked locked).trans (if_neg (by rw [quiet]; exact Bool.false_ne_true)))
  case heldSame => exact gives_of (f := holdmaxExpiry d true) rfl r (holdmaxExpiry_held held true)
  case heldRead =>
    refine gives_of (f := holdmaxExpiry d false) rfl r ((holdmaxExpiry_held held false).trans ((if_neg Bool.false_ne_true).trans ?_))
    rw [if_pos read]
  case heldOther =>
    refine gives_of (f := holdmaxExpiry d false) rfl r ((holdmaxExpiry_held held false).trans ((if_neg Bool.false_ne_true).trans ?_))
    rw [if_neg other]

end Sys2Proof.Machine
end

section
/-!
PROOFS. The master side of a backplane bridge, its locks, its interrupter and BP_SYSRST_N.
-/

namespace Sys2Proof.Machine

/-! ## Accesses of this node to the bus (R443) -/

/-- The request of a master access. -/
def Hw.busReq (h : Hw) (d off : Nat) (o : Origin) (write posted : Bool) (bytes : List Byte) : Req :=
  h.rowReq (if write = true then 0xA1 else 0xA0) d 8 off bytes.length o (write && posted) (if write = true then bytes else [])

theorem exec_masterAccess (die : Die) (o : Origin) (off : Word) (write posted : Bool) (bytes : List Byte) (s : State) :
    exec (.masterAccess die o off write posted bytes) s = s.onMem fun x =>
      submit (x.1.entryOf o) (x.1.busReq die.val off.toNat o write posted bytes) .clean x := rfl

section
variable {h : Hw} {d off : Nat} {o : Origin} {write posted : Bool} {bytes : List Byte} (die : d < 8) (lt : off < 2 ^ 40)
include die lt

/-- A master access that its gate lets through waits for the bus; another ends there. -/
theorem submit_bus (m : SMap Byte) (e : Nat) : submit e (h.busReq d off o write posted bytes) .clean (h, m) =
    (if h.gate d 8 off bytes.length write o ≠ 0 then
      finish e (h.busReq d off o write posted bytes) (h.gate d 8 off bytes.length write o) [] (h.turnAway e d 8 off o)
      else h.setBp d { h.bp d with masters := (h.bp d).masters ++ [⟨h.busReq d off o write posted bytes, []⟩] }, m) := by
  obtain ⟨-, space, -⟩ := addr_parts (space := 8) die (by decide) lt
  refine (if_pos space).trans (congrArg (fun g : Hw => (g, m)) ?_)
  exact row_bus h d e off bytes.length o write (write && posted) (if write = true then bytes else []) die lt

theorem submit_bus_taken (m : SMap Byte) (e : Nat) (gate : h.gate d 8 off bytes.length write o = 0) :
    submit e (h.busReq d off o write posted bytes) .clean (h, m) =
      (h.setBp d { h.bp d with masters := (h.bp d).masters ++ [⟨h.busReq d off o write posted bytes, []⟩] }, m) := by
  rw [submit_bus die lt, if_neg (not_not_intro gate)]

theorem submit_bus_ended (m : SMap Byte) (e : Nat) (gate : h.gate d 8 off bytes.length write o ≠ 0) (single : posted = false) :
    submit e (h.busReq d off o write posted bytes) .clean (h, m) =
      ({ h.turnAway e d 8 off o with reply := ⟨h.gate d 8 off bytes.length write o, []⟩ }, m) := by
  rw [submit_bus die lt, if_pos gate, finish_row]
  · cases write
    · exact .inl rfl
    · exact .inr rfl
  · show (write && posted) = false
    rw [single, Bool.and_false]

end

/-! ## Cycles on the bus -/

section
variable {h : Hw} {d : Nat}

theorem busGrant_idle (idle : h.running d = none) : busGrant d h = h := if_neg (by simp [idle])

theorem strobeAccess_idle (idle : h.running d = none) (v : Nat) : strobeAccess d v h = h := if_neg (by simp [idle])

theorem cycleEnd_idle (idle : h.running d = none) (berr : Bool) (v : Nat) : cycleEnd d berr v h = h := by
  unfold cycleEnd
  rw [idle]

theorem fetchTimeout_idle (idle : h.running d = none) : fetchTimeout d h = h := by
  unfold fetchTimeout
  rw [idle]

section
variable {m : MasterReq} (runs : h.running d = some m)
include runs

theorem cycleEnd_runs (bus : (h.bp d).bus = true) (berr : Bool) (v : Nat) : cycleEnd d berr v h =
    if berr then (h.bump d R.BRG_BCNTB_BERRM).endMaster d m 3 []
    else
      let got := m.done ++ leBytes (h.cycleWidth d m) v
      if m.req.len ≤ got.length then h.endMaster d m 0 (if m.req.isWrite then [] else got)
      else h.setBp d { h.bp d with masters := ⟨m.req, got⟩ :: (h.bp d).masters.drop 1 } := by
  unfold cycleEnd
  rw [runs]
  exact if_neg (by rw [bus]; decide)

theorem fetchTimeout_frees {g : Hw} (ended : (h.bump d R.BRG_BCNTB_BERRM).endMaster d m 4 [] = g) (unlocked : (g.bp d).lockBy = none) :
    fetchTimeout d h = g.setBp d { g.bp d with bus := false, clear := false } := by
  subst ended
  unfold fetchTimeout
  rw [runs]
  exact if_pos (by rw [unlocked]; rfl)

end

theorem strobeAccess_runs {g : Hw} (on : h.busOn d = true) (mode : h.on d R.BRG_BCFG_MODE = true) (runs : (h.running d).isSome = true)
    (drives : h.setBp d { h.bp d with bus := true } = g) (v : Nat) :
    strobeAccess d v h = if h.on d R.BRG_BCFG_ACKMODE then cycleEnd d false v g else g := by
  subst drives
  exact if_pos (by rw [on, mode, runs]; rfl)

theorem busClear_off (off : (h.bp d).bus = false) : busClear d h = h := if_pos (by rw [off]; rfl)

theorem busClear_on (on : (h.bp d).bus = true) : busClear d h =
    if (h.running d).isNone ∧ (h.bp d).lockBy.isNone then h.setBp d { h.bp d with bus := false }
    else h.setBp d { h.bp d with clear := true } := if_neg (by rw [on]; decide)

/-! ## Lock timeouts (R445) -/

section
variable {m : SMap Byte}

theorem lockTimeout_unlocked (unlocked : (h.bp d).lockBy = none) : lockTimeout d none (h, m) = (h, m) := by
  unfold lockTimeout
  dsimp only
  rw [unlocked]

theorem lockTimeout_bus {l : UnitLock} (locked : (h.bp d).lockBy = some l) : lockTimeout d none (h, m) =
    ((((h.setBp d { h.bp d with lockBy := none }).lockEnded d l).bump d R.BRG_BCNTB_LOCKTO).settleBus d, m) := by
  unfold lockTimeout
  dsimp only
  rw [locked]

theorem lockTimeout_unit {i : Nat} {l : UnitLock} (held : (h.eng d).units[i]? = some l) : lockTimeout d (some i) (h, m) =
    retryParked (((h.dropLock l).lockEnded d l).bump d R.BRG_BCNTB_LOCKTO, m) := by
  unfold lockTimeout
  dsimp only
  rw [held]

/-! ## AS and BP_SYSRST_N -/

/-- The release of AS ends a lock at another node by an unlock. -/
theorem asRelease_remote {l : LockOut} (locked : (h.bp d).lock = some l) (remote : h.localAddr l.addr = false) (idle : (h.bp d).waitAs = none) :
    asRelease d (h, m) = ((h.sendAccess d (.backplane d) 0x46 l.tag l.addr 0 false false l.width []).setBp d
      { h.bp d with lock := none, held := none, asLow := false, waitAs := none }, m) := by
  have sent : sendUnlock d l (h, m) = (h.sendAccess d (.backplane d) 0x46 l.tag l.addr 0 false false l.width [], m) :=
    if_neg (Bool.eq_false_iff.mp remote)
  have own : (h.sendAccess d (.backplane d) 0x46 l.tag l.addr 0 false false l.width []).bp d = h.bp d :=
    by unfold Hw.bp; rw [sendAccess_bps]
  exact as_lock locked sent own locked idle

/-- Under BP_SYSRST_N the bridge drives nothing and its accesses start anew (R438). -/
theorem sysreset_low (host : d < 2) (unlocked : (h.bp d).lock = none) (idle : (h.bp d).waitAs = none) : backplaneSysreset d true (h, m) =
    (Hw.flushPort { h with
      bps := (h.setBp d { h.bp d with asLow := false, held := none, last := .silent, bus := false, clear := false, lockBy := none,
                                      lock := none, waitAs := none, masters := (h.bp d).masters.map fun m => ⟨m.req, []⟩ }).bps,
      sysRst := h.sysRst.put false d true } d 5, m) := by
  unfold backplaneSysreset
  rw [if_neg (Nat.not_le.mpr host), if_pos rfl, asRelease_unlocked unlocked idle]
  dsimp only
  rw [setBp_bp, setBp_setBp]
  rfl

end
end

theorem exec_lockTimeout (die : Die) (i : Option Nat) (s : State) : exec (.lockTimeout die i) s = s.onDieMem die (lockTimeout die.val i) := rfl

theorem exec_backplaneSysreset (die : Die) (low : Bool) (s : State) :
    exec (.backplaneSysreset die low) s = s.onDieMem die (backplaneSysreset die.val low) := rfl

/-- Settles O51: each cycle by the branch that its case takes. -/
theorem masterCycles : Obligations.MasterCycles := by
  intro s die r h d b
  refine ⟨fun o off write posted bytes => ?access, fun on mode runs => ?grant, fun idle => ?idle, fun m runs bus => ?ends,
    fun m runs => ?fetch, fun on mode runs v => ?strobe, fun off => gives_of (f := busClear d) rfl r (busClear_off off),
    fun on idle free => ?free, fun on busy => ?clear, fun unlocked => gives_of_mem_only (exec_lockTimeout die none s) r (lockTimeout_unlocked unlocked),
    fun l locked => gives_of_mem_only (exec_lockTimeout die none s) r (lockTimeout_bus locked),
    fun i l held => gives_of_mem (exec_lockTimeout die (some i) s) r (lockTimeout_unit held), fun low n named => ?ack, fun n other => ?pass,
    fun host => ⟨?high, fun l locked remote idle => gives_of_mem_only (exec_asRelease die s) r (asRelease_remote locked remote idle),
      fun unlocked idle => gives_of_mem_only (exec_backplaneSysreset die true s) r (sysreset_low host unlocked idle)⟩⟩
  case access =>
    intro q
    have lt : off.toNat < 2 ^ 40 := by have := off.isLt; omega
    refine ⟨fun gate => ?_, fun gate single => ?_⟩
    · exact gives_of_awake_mem (exec_masterAccess ..) r.2 (submit_bus_taken die.isLt lt s.pir (h.entryOf o) gate)
    · exact gives_of_awake_mem (exec_masterAccess ..) r.2 (submit_bus_ended die.isLt lt s.pir (h.entryOf o) gate single)
  case grant => exact gives_of (f := busGrant d) rfl r (if_pos (by rw [on, mode, runs]; rfl))
  case idle =>
    exact ⟨gives_of (f := busGrant d) rfl r (busGrant_idle idle), fun v =>
      ⟨gives_of (f := strobeAccess d v.toNat) rfl r (strobeAccess_idle idle v.toNat), fun e =>
        ⟨gives_of (f := cycleEnd d e v.toNat) rfl r (cycleEnd_idle idle e v.toNat), gives_of (f := fetchTimeout d) rfl r (fetchTimeout_idle idle)⟩⟩⟩
  case ends =>
    refine ⟨fun v => gives_of (f := cycleEnd d true v.toNat) rfl r ((cycleEnd_runs runs bus true v.toNat).trans (if_pos rfl)), fun v => ?_⟩
    intro k got
    have run := (cycleEnd_runs runs bus false v.toNat).trans (if_neg Bool.false_ne_true)
    exact ⟨fun whole => gives_of (f := cycleEnd d false v.toNat) rfl r (run.trans (if_pos whole)),
      fun more => gives_of (f := cycleEnd d false v.toNat) rfl r (run.trans (if_neg (Nat.not_le.mpr more)))⟩
  case fetch =>
    intro g unlocked
    exact gives_of (f := fetchTimeout d) rfl r (fetchTimeout_frees runs rfl unlocked)
  case strobe =>
    intro g
    have run := strobeAccess_runs (g := g) on mode runs rfl v.toNat
    exact ⟨fun fixed => gives_of (f := strobeAccess d v.toNat) rfl r (run.trans (if_pos fixed)),
      fun dtack => gives_of (f := strobeAccess d v.toNat) rfl r (run.trans (if_neg (Bool.eq_false_iff.mp dtack)))⟩
  case free => exact gives_of (f := busClear d) rfl r ((busClear_on on).trans (if_pos ⟨by rw [idle]; rfl, by rw [free]; rfl⟩))
  case clear =>
    refine gives_of (f := busClear d) rfl r ((busClear_on on).trans (if_neg fun e => ?_))
    exact busy.elim (fun runs => by simp [Option.isNone_iff_eq_none.mp e.1] at runs) fun locked => locked (Option.isNone_iff_eq_none.mp e.2)
  case ack => exact gives_of (f := interruptAcknowledge d n.val) rfl r (if_pos ⟨low, named⟩)
  case pass =>
    refine gives_of (f := interruptAcknowledge d n.val) rfl r (if_neg fun e => ?_)
    exact other.elim (fun high => absurd (high.symm.trans e.1) (by decide)) fun away => away e.2
  case high =>
    exact gives_of_mem_only (exec_backplaneSysreset die false s) r ((if_neg (Nat.not_le.mpr host)).trans (if_neg Bool.false_ne_true))

end Sys2Proof.Machine
end

section
/-!
PROOFS. The hot-swap channel, power-good, the ideal diodes and the store FET.
-/

namespace Sys2Proof.Machine

section
variable {h : Hw}

/-! ## The input window (R458, R459) -/

theorem windowEnter_starts (out : h.wlh.inWindow = false) (rests : h.wlh.hs = 0 ∨ h.wlh.hs = 5) :
    windowEnter h = { h with wlh := { h.wlh with inWindow := true, hs := 1 } } := by
  unfold windowEnter
  rw [if_neg (Bool.eq_false_iff.mp out), if_pos rests]

theorem windowEnter_goesOn (out : h.wlh.inWindow = false) (off : h.wlh.hs ≠ 0) (latched : h.wlh.hs ≠ 5) :
    windowEnter h = { h with wlh := { h.wlh with inWindow := true } } := by
  unfold windowEnter
  rw [if_neg (Bool.eq_false_iff.mp out), if_neg (not_or.mpr ⟨off, latched⟩)]

/-- The channel that leaves the window as the two cases of R459 differ by its state. -/
theorem windowLeave_below {above : Bool} (inside : h.wlh.inWindow = true) (kept : (above && h.wlh.hs == 3) = false) : windowLeave above h =
    { h with wlh := { h.wlh with inWindow := false, hs := if h.wlh.hs = 1 ∨ h.wlh.hs = 2 then 0 else h.wlh.hs,
                                 gate := if h.wlh.hs = 1 ∨ h.wlh.hs = 2 then false else h.wlh.gate } } :=
  if_neg (by rw [inside, kept]; decide)

theorem windowLeave_starting (inside : h.wlh.inWindow = true) (starts : h.wlh.hs = 1 ∨ h.wlh.hs = 2) (above : Bool) :
    windowLeave above h = { h with wlh := { h.wlh with inWindow := false, hs := 0, gate := false } } := by
  have kept : (above && h.wlh.hs == 3) = false := by
    rcases starts with e | e <;> rw [e] <;> exact Bool.and_false above
  rw [windowLeave_below inside kept, if_pos starts, if_pos starts]

theorem windowLeave_on_below (inside : h.wlh.inWindow = true) (on : h.wlh.hs = 3) :
    windowLeave false h = { h with wlh := { h.wlh with inWindow := false } } := by
  have running : ¬(h.wlh.hs = 1 ∨ h.wlh.hs = 2) := by omega
  rw [windowLeave_below inside rfl, if_neg running, if_neg running]

theorem windowLeave_on_above (on : h.wlh.hs = 3) : windowLeave true h = h := if_pos (by rw [on]; exact Bool.or_true _)

/-! ## Trips and retries (R462 to R465) -/

theorem fastTrip_gate (gate : h.wlh.gate = true) : fastTrip h =
    { h with wlh := { h.wlh with hold := true, limit := true, timer := true, fastCnt := min (h.wlh.fastCnt + 1) 255, flags := h.wlh.flags ||| 2 } } :=
  if_pos gate

/-- The fault timer expires: the gate goes off, and power-good drops where it was asserted. -/
theorem faultTimerExpiry_trips (runs : h.wlh.timer = true) (charging : h.wlh.hs = 2 ∨ h.wlh.hs = 3) (again : Bool)
    (left : again = true ↔ h.wconf R.WLH_INTIM_RETRY = 1 ∧ h.wlh.retry < 3) {g : Hw}
    (tripped : { h with wlh := { h.wlh with
      gate := false, limit := false, timer := false, hold := false, hs := if again = true then 4 else 5, flags := h.wlh.flags ||| 1 } } = g) :
    faultTimerExpiry h = if g.wlh.pg then g.powerDrop else g := by
  subst tripped
  unfold faultTimerExpiry
  rw [if_pos ⟨runs, charging⟩]
  simp only [← left]
  rfl

theorem retryEnd_starts (waits : h.wlh.hs = 4) (inside : h.wlh.inWindow = true) :
    retryEnd h = { h with wlh := { h.wlh with retry := min 3 (h.wlh.retry + 1), hs := 2, gate := true, hold := false } } :=
  (if_pos waits).trans (if_pos inside)

end

theorem exec_faultTimerClear (s : State) : exec .faultTimerClear s =
    s.onAny fun h => if h.wlh.hold then h else { h with wlh := { h.wlh with limit := false, timer := false } } := rfl

/-- Settles O52: each event by the branch that the state of the channel selects. -/
theorem hotSwap : Obligations.HotSwap := by
  intro s h w
  refine ⟨rfl, fun out rests => gives_of_any (f := windowEnter) rfl (windowEnter_starts out rests),
    fun out off latched => gives_of_any (f := windowEnter) rfl (windowEnter_goesOn out off latched),
    fun inside => gives_of_any (f := windowEnter) rfl (if_pos inside),
    fun inside starts above => gives_of_any (f := windowLeave above) rfl (windowLeave_starting inside starts above),
    fun inside on => ⟨gives_of_any (f := windowLeave true) rfl (windowLeave_on_above on),
      gives_of_any (f := windowLeave false) rfl (windowLeave_on_below inside on)⟩,
    fun waits inside => gives_of_any rfl (if_pos ⟨waits, inside⟩), fun other => gives_of_any rfl (if_neg fun e => other e.1),
    fun ramps free => gives_of_any rfl (if_pos ⟨ramps, by rw [free]; rfl⟩), fun other => gives_of_any rfl (if_neg fun e => other e.1),
    fun on clear => gives_of_any rfl (if_pos ⟨on, by rw [clear]; rfl, rfl⟩),
    fun runs again => gives_of_any rfl (if_neg fun e => absurd e.2.1 (by rw [runs]; decide)),
    gives_of_any rfl (if_neg fun e => absurd e.2.2 (by decide)),
    fun gate => ⟨gives_of_any rfl (if_pos gate), gives_of_any (f := fastTrip) rfl (fastTrip_gate gate)⟩,
    fun off => ⟨gives_of_any rfl (if_neg (Bool.eq_false_iff.mp off)), gives_of_any rfl (if_neg (Bool.eq_false_iff.mp off))⟩,
    fun free => gives_of_any (exec_faultTimerClear s) (if_neg (Bool.eq_false_iff.mp free)),
    fun holds => gives_of_any (exec_faultTimerClear s) (if_pos holds), rfl,
    fun runs charging off again left => ?trip, fun runs charging good again left => ?drop,
    fun clear => gives_of_any rfl (if_neg fun e => absurd e.1 (Bool.eq_false_iff.mp clear)),
    fun waits inside => gives_of_any (f := retryEnd) rfl (retryEnd_starts waits inside), fun other => gives_of_any rfl (if_neg other),
    fun good => ⟨gives_of_any rfl (if_pos good), gives_of_any rfl (if_pos good), ?low⟩,
    fun off => ⟨gives_of_any rfl (if_neg (Bool.eq_false_iff.mp off)), gives_of_any rfl (if_neg (Bool.eq_false_iff.mp off))⟩,
    fun on => gives_of_any rfl (if_pos on), fun other => gives_of_any rfl (if_neg other), rfl, rfl, rfl, rfl,
    fun good on => gives_of_any rfl (if_pos (by rw [good, on]; rfl)), fun off => gives_of_any rfl (if_neg (by rw [off]; exact Bool.false_ne_true)), rfl, rfl,
    fun off => gives_of_any rfl ((if_neg Bool.false_ne_true).trans (if_neg (Bool.eq_false_iff.mp off))),
    fun good => gives_of_any rfl ((if_neg Bool.false_ne_true).trans (if_pos good))⟩
  case trip =>
    exact gives_of_any (f := faultTimerExpiry) rfl
      ((faultTimerExpiry_trips runs charging again left rfl).trans (if_neg (Bool.eq_false_iff.mp off)))
  case drop =>
    intro x
    obtain ⟨low, -, -, gate, timer⟩ := drop_wlh { h with wlh := x }
    exact ⟨gives_of_any (f := faultTimerExpiry) rfl ((faultTimerExpiry_trips runs charging again left rfl).trans (if_pos good)),
      low, gate, timer, drop_night _⟩
  case low =>
    obtain ⟨low, store, state, gate, -⟩ := drop_wlh h
    exact ⟨low, store, state, gate, drop_night h⟩

end Sys2Proof.Machine
end

section
/-!
PROOFS. Conversions, the frames of the Wellhouse's links, AUTO, and the field feeds.
-/

namespace Sys2Proof.Machine

section
variable {h : Hw}

/-! ## The frames of the links (R452 to R454, R478) -/

/-- What the owner's first control frame leaves once AUTO is cleared and reported. -/
theorem controlFrame_clears {d : Nat} (owns : d = h.node.owner) (auto : h.wlh.auto = true) {g : Hw}
    (told : Hw.report { h with wlh := { h.wlh with auto := false } } h.node.owner 0xA8 .wlhLink d = g) :
    controlFrame d h = (g.raiseFault g.node.owner 0x60 d).sendWlhConf.fieldSelect := by
  subst told
  exact if_pos ⟨owns, auto⟩

theorem controlFrame_other {d : Nat} (other : d ≠ h.node.owner ∨ h.wlh.auto = false) : controlFrame d h = h :=
  if_neg fun e => other.elim (fun away => away e.1) fun off => Bool.eq_false_iff.mp off e.2

theorem standingLoss_fed (fed : h.wlh.bothLost = false) : h.standingLoss = h := by
  unfold Hw.standingLoss
  exact if_neg (by rw [fed]; exact Bool.false_ne_true)

theorem wlhLinkSilent_owner {d : Nat} (lt : d < 2) :
    wlhLinkSilent d h =
      let g := (Hw.copyFlags { h with wlh := { h.wlh with flags := h.wlh.flags ||| 2 ^ (12 + d) } }).raiseFault d 0x60 d
      if 1 < g.dies then g.raiseFault (1 - d) 0x60 d else g :=
  if_neg (Nat.not_le.mpr lt)

/-! ## The field feeds (R469 to R472, R477) -/

theorem fieldAllowed_auto {g : Hw} (auto : g.wlh.auto = true) (fauto : g.wconf R.WLH_FCFG_FAUTO = 1) : g.fieldAllowed = false := by
  unfold Hw.fieldAllowed
  rw [auto, fauto]
  exact Bool.and_false _

theorem fieldReturn_returns (on : h.wconf R.WLH_FCFG_FRETEN = 1) (other : h.wlh.fsel = otherField h.preferred)
    (good : h.wlh.fieldGood h.preferred = true) :
    fieldReturn h = { h with wlh := { h.wlh with fsel := 0, fbreak := true, ftarget := some h.preferred } } := by
  have runs : (h.wlh.fbreak || h.wlh.fsel != 0) = true := by
    rw [other]
    unfold otherField
    split <;> exact Bool.or_true _
  unfold fieldReturn Hw.fieldsOff
  rw [if_pos ⟨on, other, good⟩]
  dsimp only
  rw [runs]

theorem fieldOvercurrent_on (on : h.wlh.fsel ≠ 0) : fieldOvercurrent h = Hw.wlhFault { h with
    wlh := { h.wlh with fsel := 0, ftarget := none, fbreak := true, foclat := true, flags := h.wlh.flags ||| 2 ^ 9 } } 0x62 (h.wlh.fsel - 1) := by
  have runs : (h.wlh.fbreak || h.wlh.fsel != 0) = true := by rw [bne_iff_ne.mpr on]; exact Bool.or_true _
  unfold fieldOvercurrent Hw.fieldsOff Hw.wlhFlag
  rw [if_neg (not_and_of_not_left _ on)]
  dsimp only
  rw [if_neg on, runs]

end

/-- Settles O53: each event by the branch that its case takes. -/
theorem feedsAndFrames : Obligations.FeedsAndFrames := by
  intro s h w
  refine ⟨fun volts shunts => ?conversion, fun die r => ?frames, rfl, ?auto,
    fun off both => gives_of_any (f := fieldBad both) rfl (if_pos off),
    fun on => gives_of_any (f := fieldBad true) rfl (bad_both h on),
    fun first good => gives_of_any (f := fieldBad false) rfl (bad_one h first good),
    fun second good => gives_of_any (f := fieldBad false) rfl (bad_two h second good),
    fun breaks => gives_of_any rfl (if_pos breaks), fun done => gives_of_any rfl (if_neg (Bool.eq_false_iff.mp done)),
    fun on other good => gives_of_any (f := fieldReturn) rfl (fieldReturn_returns on other good),
    fun off => gives_of_any (f := fieldReturn) rfl (if_neg fun e => off e.1),
    fun on => gives_of_any (f := fieldOvercurrent) rfl (fieldOvercurrent_on on),
    fun off free => gives_of_any (f := fieldOvercurrent) rfl (if_pos ⟨off, free⟩), fun awake => ?commands⟩
  case conversion =>
    intro g
    refine ⟨fun stays => t1 volts shunts s g rfl stays, fun auto lost on low => ?_⟩
    intro x
    exact t2 volts shunts s g rfl auto lost on low
  case frames =>
    intro d
    refine ⟨?measured, fun lt => ⟨low_mirror d h, mirror_vab d h, mirror_hue d h, mirror_wlh d h⟩,
      fun le => ⟨gives_of (f := measurementFrame d) rfl r (if_pos le), gives_of rfl r (if_neg (Nat.not_lt.mpr le)),
        gives_of (f := wlhLinkSilent d) rfl r (if_pos le)⟩,
      fun lt other fed => ?kept, fun lt owns auto => ?clears, ?silent⟩
    case measured =>
      intro m x new y lt
      exact gives_of (exec_mf die s) r (frame_eq d h (Nat.not_le.mpr lt))
    case kept =>
      refine gives_of rfl r ((if_pos lt).trans ?_)
      rw [controlFrame_other other]
      exact standingLoss_fed fed
    case clears =>
      intro g
      exact gives_of rfl r ((if_pos lt).trans (congrArg Hw.standingLoss (controlFrame_clears owns auto rfl)))
    case silent =>
      intro g lt
      exact gives_of (f := wlhLinkSilent d) rfl r (wlhLinkSilent_owner lt)
  case auto =>
    intro g
    exact ⟨fun allowed => gives_of_any (f := autoEntry false) rfl ((if_neg Bool.false_ne_true).trans (if_pos allowed)),
      fun barred => gives_of_any (f := autoEntry false) rfl ((if_neg Bool.false_ne_true).trans (if_neg (Bool.eq_false_iff.mp barred))),
      fun fauto => fieldAllowed_auto rfl fauto⟩
  case commands =>
    refine ⟨gives_of_awake (f := fieldCommand 1) rfl awake rfl, gives_of_awake (f := fieldCommand 2) rfl awake rfl, rfl, rfl, rfl, ?_⟩
    show (h.wr 0 R.WLH_FCMD_CMD 2).rd 0 R.WLH_FCMD_CMD = 2
    rw [rd_wr _ _ _ _ _ _ rfl]
    rfl

end Sys2Proof.Machine
end

section
/-!
PROOFS. Feeds present and lost, and the samples of the tamper sources.
-/

namespace Sys2Proof.Machine

section
variable {h g : Hw} {f : Nat}

/-! ## Feeds (R468) -/

/-- A feed comes back while the hub dies have power. -/
theorem feedPresent_awake (came : { h with wlh := h.wlh.setFeed f { h.wlh.feed f with ever := true, ok := true } } = g)
    (awake : g.node.state ≠ .night) : feedPresent f h =
      (if h.wlh.bothLost && ((g.endFault g.node.owner 0x61 f).wlh.feed (1 - f)).ever then (g.endFault g.node.owner 0x61 f).raiseFeed (1 - f)
        else g.endFault g.node.owner 0x61 f).checkGuar :=
  (present_eq f h g came).trans (hub_awake g _ awake)

theorem feedPresent_night (came : { h with wlh := h.wlh.setFeed f { h.wlh.feed f with ever := true, ok := true } } = g)
    (night : g.node.state = .night) : feedPresent f h = g :=
  (present_eq f h g came).trans (hub_night g _ night)

theorem feedLost_absent (lost : (h.wlh.feed f).ok = false) (other : Bool) : feedLost f other h = h :=
  if_neg (Bool.eq_false_iff.mp lost)

theorem raiseFeed_night (night : h.node.state = .night) : h.raiseFeed f = h := if_pos night

/-- The loss of one feed leaves the other as it was. -/
theorem feed_other_lost {w : Wlh} (f : Fin 2) (x : Feed) (n : Nat) :
    ({ w.setFeed f.val x with flags := n } : Wlh).feed (1 - f.val) = w.feed (1 - f.val) :=
  setFeed_other w f x

/-! ## Tamper samples (R560, R561) -/

section
variable {holds : List Bool} {runs : List Nat} (counts : tamperRuns h.nightDom.tampCfg h.nightDom.tampRun holds = runs)
  (noted : { h with nightDom := { h.nightDom with tampRun := runs } } = g)
include counts noted

theorem tamperSample_quiet (quiet : tamperAlarms runs = []) :
    tamperSample holds h = g.onHub fun h => h.wr 0 R.VLT_STAT_TAMPNOW (b2n (runs.any (0 < ·))) := by
  rw [tamper_eq holds h g runs counts noted, quiet]
  rfl

theorem tamperSample_alarm {i : Nat} (alarm : tamperAlarms runs = [i]) (awake : g.node.state ≠ .night) :
    tamperSample holds h = tamperAct i ((g.wr 0 R.VLT_STAT_TAMPNOW (b2n (runs.any (0 < ·)))).tamperEntry i) := by
  rw [tamper_eq holds h g runs counts noted, alarm, hub_awake g _ awake]
  rfl

end
end

/-- Settles O54: each event by the branch that its case takes. -/
theorem feedsAndTamper : Obligations.FeedsAndTamper := by
  intro s h w
  refine ⟨fun f => ?present, fun f lost other => gives_of_any (f := feedLost f.val other) rfl (feedLost_absent lost other),
    fun f ok => ?lost, fun holds => ?tamper⟩
  case present =>
    intro g
    refine ⟨fun night => gives_of_any (f := feedPresent f.val) rfl (feedPresent_night rfl night), fun awake fed => ?_, fun awake lost ever => ?_⟩
    · refine gives_of_any (f := feedPresent f.val) rfl ((feedPresent_awake (g := g) rfl awake).trans (congrArg Hw.checkGuar (if_neg ?_)))
      rw [show s.hw.wlh.bothLost = false from fed]
      exact Bool.false_ne_true
    · refine gives_of_any (f := feedPresent f.val) rfl ((feedPresent_awake (g := g) rfl awake).trans (congrArg Hw.checkGuar (if_pos ?_)))
      rw [show s.hw.wlh.bothLost = true from lost, ever]
      rfl
  case lost =>
    intro g
    have run : feedLost f.val false h = if (g.wlh.feed (1 - f.val)).ok then g.raiseFeed f.val else g.onHub fun h => h.standingLoss :=
      lost_eq f.val h g ok rfl
    have other : g.wlh.feed (1 - f.val) = w.feed (1 - f.val) := feed_other_lost f _ _
    rw [other] at run
    refine ⟨fun fed => gives_of_any (f := feedLost f.val false) rfl (run.trans (if_pos fed)), fun dead awake => ?_, fun night => ?_⟩
    · exact gives_of_any (f := feedLost f.val false) rfl ((run.trans (if_neg (Bool.eq_false_iff.mp dead))).trans (hub_awake g _ awake))
    · refine gives_of_any (f := feedLost f.val false) rfl (run.trans ?_)
      split
      · exact raiseFeed_night night
      · exact hub_night g _ night
  case tamper =>
    intro n runs g
    refine ⟨fun night quiet => ?_, fun awake quiet => ?_, fun i awake alarm => ?_⟩
    · exact gives_of_any (f := tamperSample holds) rfl ((tamperSample_quiet rfl rfl quiet).trans (hub_night g _ night))
    · exact gives_of_any (f := tamperSample holds) rfl ((tamperSample_quiet rfl rfl quiet).trans (hub_awake g _ awake))
    · exact gives_of_any (f := tamperSample holds) rfl (tamperSample_alarm rfl rfl alarm awake)

end Sys2Proof.Machine
end

section
/-!
PROOFS. Key requests, revocations, the entropy source, the attestation statement and the clearing of the tamper log.
-/

namespace Sys2Proof.Machine

section
variable {h : Hw}

/-! ## Key requests (R547, R549) -/

theorem vaultCommand_requests {o : Origin} {off : Nat} (mgmt : o.isManagement = true) (inside : off ≤ 0xFFFF) (d slot e : Nat) :
    vaultCommand d o off slot e h = engineRequest d slot e false h :=
  if_neg (not_or.mpr ⟨Nat.not_lt.mpr inside, by rw [mgmt]; decide⟩)

theorem vaultCommand_violates {o : Origin} {off : Nat} (barred : o.isManagement = false ∨ 0xFFFF < off) (d slot e : Nat) :
    vaultCommand d o off slot e h = h.violation d o off :=
  if_pos (barred.elim (fun other => .inr (by rw [other]; rfl)) .inl)

/-- A refused request leaves its flag and its slot in VLT_ERR. -/
theorem engineRequest_refused {d slot e : Nat} (may : h.node.state ≠ .dusk ∨ e = 2)
    (bad : (h.keySlot d slot).valid = false ∨ (h.keySlot d slot).revoked = true ∨ bit (h.keySlot d slot).engines e = false) (go : Bool) :
    engineRequest d slot e go h =
      { ((h.flag 0 R.VLT_ERR_ENGREF).wr 0 R.VLT_ERR_LASTSLOT slot).report d 0xC0 .vaultError slot with
        vlt := { h.vlt with inUse := h.vlt.inUse.filter fun x => x.1 != d * 8 + e } } := by
  rw [eng_no d slot e go h may bad]
  exact congrArg (fun v : Vlt => { ((h.flag 0 R.VLT_ERR_ENGREF).wr 0 R.VLT_ERR_LASTSLOT slot).report d 0xC0 .vaultError slot with
    vlt := { v with inUse := v.inUse.filter fun x => x.1 != d * 8 + e } }) (report_vlt ..)

/-- A register of the node reads the same by every die. -/
theorem rd_node {F : Fld} (node : F.node = true) (d n : Nat) : h.rd 0 F n = h.rd d F n := by
  unfold Hw.rd Fld.key
  rw [node]
  rfl

/-- The report of a refused request leaves VLT_ERR. -/
theorem report_rd_vltErr {F : Fld} (node : F.node = true) (block : F.addr = 0xE0004) (s1 : F.s1 = 0) (s2 : F.s2 = 0) (d c x : Nat) (k : EventKind) :
    (h.report d c k x).rd 0 F = h.rd 0 F := by
  rw [rd_node node d, report_rd_apart _ _ _ _ _ _ _ _ (key_evr_vlt d F block s1 s2), rd_node node d]

/-! ## Revocation (R552 to R554, R592) -/

theorem keySlotCheck_revokes {d slot : Nat} (valid : (h.keySlot d slot).valid = true) (live : (h.keySlot d slot).revoked = false) :
    keySlotCheck d slot true false h =
      (Hw.revokeOn d (h.family d slot) (0, h)).2.afterRevoke d 3 slot (h.family d slot) (Hw.revokeOn d (h.family d slot) (0, h)).1 :=
  if_pos (by rw [valid, live]; rfl)

theorem keySlotCheck_unused {d slot : Nat} (unused : (h.keySlot d slot).valid = false ∨ (h.keySlot d slot).revoked = true) (bad am : Bool) :
    keySlotCheck d slot bad am h = h :=
  if_neg (by rcases unused with e | e <;> rw [e] <;> simp)

theorem keySlotCheck_sound {d slot : Nat} (am : Bool) : keySlotCheck d slot false am h = h := by
  unfold keySlotCheck
  exact if_neg (by simp)

theorem mayRevoke_derived {slot : Nat} (lt : slot < 2) : h.mayRevoke slot = false := by
  unfold Hw.mayRevoke
  rw [decide_eq_false (Nat.not_le.mpr lt)]
  rfl

/-! ## Attestation (R555 to R557) -/

theorem attestRefusal_producing (producing : h.vlt.producing = true) : h.attestRefusal = 1 := if_pos producing

theorem statementSigned_signs (producing : h.vlt.producing = true) {g : Hw} {whole : List Byte}
    (text : h.statementBody ++ tlv 0xFF (Config.ecdsaSign (h.keySlot h.node.owner 0).key h.statementBody h.draw.1.toNat) = whole)
    (signed : ({ h.draw.2 with vlt := { h.vlt with producing := false, statement := whole, lastSigned := some h.now } } : Hw) = g) :
    statementSigned h = ((g.wr 0 R.VLT_ASTAT_STATE 2).wr 0 R.VLT_ASTAT_LEN whole.length).stageRequested
      (keyEntry 6 0 (leAt ((g.wr 0 R.VLT_ASTAT_STATE 2).wr 0 R.VLT_ASTAT_LEN whole.length).nonce 0 4) whole.length 0 0 h.node.owner) := by
  subst signed
  subst text
  exact if_pos producing

end

theorem exec_attestationRequest (die : Die) (o : Origin) (s : State) :
    exec (.attestationRequest die o) s = s.onReg die o 0xE0020 (attestRequest die.val o) := rfl

/-- Settles O55: each command by the branch that its case takes. -/
theorem vaultCommands : Obligations.VaultCommands := by
  intro s awake h own
  refine ⟨fun die present => ?atDie, fun slot => ?revoke, ?fails, ?passes, fun idle => gives_of_awake (f := statementSigned) rfl awake
    (if_neg (Bool.eq_false_iff.mp idle)), fun producing => ?signs, gives_of_awake (f := tamperClear) rfl awake rfl⟩
  case atDie =>
    have r : s.ready die := ⟨present, awake⟩
    intro d
    refine ⟨fun slot e => ?keys, fun slot => ?check, fun o => ?attest⟩
    case keys =>
      intro k u mayHave
      refine ⟨fun dusk other => ?_, fun may valid live allowed => ?_, fun may bad go => ?_, fun o off barred => ?_⟩
      · intro g
        have run := fun go => eng_dusk d slot.val e.val go h dusk other
        exact ⟨fun go => gives_of (f := engineRequest d slot.val e.val go) rfl r (run go), fun o off mgmt inside =>
          gives_of_reg (f := vaultCommand d o off.toNat slot.val e.val) rfl r ((vaultCommand_requests mgmt inside ..).trans (run false))⟩
      · have run := fun go => eng_ok d slot.val e.val go h may valid live allowed
        exact ⟨gives_of (f := engineRequest d slot.val e.val true) rfl r (run true), gives_of (f := engineRequest d slot.val e.val false) rfl r (run false),
          fun o off mgmt inside =>
            gives_of_reg (f := vaultCommand d o off.toNat slot.val e.val) rfl r ((vaultCommand_requests mgmt inside ..).trans (run false))⟩
      · intro g
        refine ⟨gives_of (f := engineRequest d slot.val e.val go) rfl r (engineRequest_refused may bad go), ?_, ?_⟩
        · show g.rd 0 R.VLT_ERR_ENGREF = 1
          rw [report_rd_vltErr (F := R.VLT_ERR_ENGREF) rfl rfl rfl rfl, rd_wr_beside _ _ _ _ _ _ _ rfl, Hw.flag, rd_wr _ _ _ _ _ _ rfl]
          rfl
        · show g.rd 0 R.VLT_ERR_LASTSLOT = slot.val
          rw [report_rd_vltErr (F := R.VLT_ERR_LASTSLOT) rfl rfl rfl rfl, rd_wr _ _ _ _ _ _ rfl]
          exact low_of_lt (lt_of_lt_of_le slot.isLt (by decide))
      · exact gives_of_reg (f := vaultCommand d o off.toNat slot.val e.val) rfl r (vaultCommand_violates barred ..)
    case check =>
      intro k slots x
      exact ⟨fun valid live => gives_of (f := keySlotCheck d slot.val true false) rfl r (keySlotCheck_revokes valid live),
        fun unused bad am => gives_of (f := keySlotCheck d slot.val bad am) rfl r (keySlotCheck_unused unused bad am),
        fun am => gives_of (f := keySlotCheck d slot.val false am) rfl r (keySlotCheck_sound am),
        fun bad => gives_of (f := keySlotCheck d slot.val bad true) rfl r (if_neg (by simp))⟩
    case attest =>
      refine ⟨fun other run degraded safe => ?_, fun may => ⟨fun producing => ?_, fun granted => ?_, fun refused => ?_⟩⟩
      · exact gives_of_reg (exec_attestationRequest die o s) r (if_neg (by rw [other]; exact not_or.mpr ⟨Bool.false_ne_true, not_or.mpr ⟨run, not_or.mpr ⟨degraded, safe⟩⟩⟩))
      · exact gives_of_reg (exec_attestationRequest die o s) r
          ((att_eq d o h may 1 (attestRefusal_producing producing)).trans (if_neg (by decide)))
      · intro g
        refine ⟨gives_of_reg (exec_attestationRequest die o s) r ((att_eq d o h may 0 granted).trans (if_pos rfl)), ?_, ?_, ?_⟩
        · rw [rd_wr_beside _ _ _ _ _ _ _ rfl, rd_wr_beside _ _ _ _ _ _ _ rfl, rd_wr _ _ _ _ _ _ rfl]
          rfl
        · rw [rd_wr_beside _ _ _ _ _ _ _ rfl, rd_wr _ _ _ _ _ _ rfl]
          rfl
        · rw [rd_wr _ _ _ _ _ _ rfl]
          rfl
      · have run : attestRequest d o h = (h.wr 0 R.VLT_ASTAT_STATE 3).wr 0 R.VLT_ASTAT_REASON h.attestRefusal :=
          (att_eq d o h may h.attestRefusal rfl).trans ((if_neg (by omega)).trans (if_neg (by omega)))
        refine ⟨gives_of_reg (exec_attestationRequest die o s) r run, ?_, ?_⟩
        · rw [rd_wr_beside _ _ _ _ _ _ _ rfl, rd_wr _ _ _ _ _ _ rfl]
          rfl
        · rw [rd_wr _ _ _ _ _ _ rfl]
          exact low_of_lt (lt_of_lt_of_le (refusal_lt h) (by decide))
  case revoke =>
    intro slots x
    exact ⟨fun may => gives_of_awake (f := revokeSlot slot.val) rfl awake (if_pos may),
      fun barred => gives_of_awake (f := revokeSlot slot.val) rfl awake (if_neg (Bool.eq_false_iff.mp barred)), mayRevoke_derived⟩
  case fails =>
    intro g₁ g
    exact ⟨fun idle => gives_of_awake (f := entropyFail) rfl awake (if_neg (Bool.eq_false_iff.mp idle)),
      fun producing => gives_of_awake (f := entropyFail) rfl awake (if_pos producing)⟩
  case passes =>
    intro g
    have ok : g.rd 0 R.VLT_STAT_ENTOK = 1 := by
      show (h.wr 0 R.VLT_STAT_ENTOK 1).rd 0 R.VLT_STAT_ENTOK = 1
      rw [rd_wr _ _ _ _ _ _ rfl]
      rfl
    refine ⟨fun kept => ⟨gives_of_awake (f := entropyPass) rfl awake (pass_keep h kept), ok⟩,
      fun fresh => ⟨gives_of_awake (f := entropyPass) rfl awake (pass_new h fresh), ?_⟩⟩
    obtain ⟨regs, straps, grade⟩ := drawNightKey_sameRegs g
    exact (rd_congr regs straps grade ..).trans ok
  case signs =>
    intro whole g g'
    exact gives_of_awake (f := statementSigned) rfl awake (statementSigned_signs producing rfl rfl)

end Sys2Proof.Machine
end

section
/-!
PROOFS. The page writes of the log NVM, the entries that wait, the archive mark, and the rebuild of last_seq.
-/

namespace Sys2Proof.Machine

section
variable {h : Hw}

/-! ## Page writes (R492) -/

theorem pageEntries_empty (empty : h.ldg.staging = []) : pageEntries h = (0, []) := by
  unfold pageEntries
  rw [empty]

theorem pageEntries_front {e : LedgerEntry} {rest : List LedgerEntry} (front : h.ldg.staging = e :: rest) :
    pageEntries h = (e.slot * 64 / h.pageBytes, h.ldg.staging.takeWhile fun x => x.slot * 64 / h.pageBytes == e.slot * 64 / h.pageBytes) := by
  unfold pageEntries
  rw [front]

/-- The front entry is on its own page, so the page to be written holds an entry. -/
theorem front_on_page {e : LedgerEntry} {rest : List LedgerEntry} (front : h.ldg.staging = e :: rest) :
    (h.ldg.staging.takeWhile fun x => x.slot * 64 / h.pageBytes == e.slot * 64 / h.pageBytes).isEmpty = false := by
  rw [front, List.takeWhile_cons]
  simp only [beq_self_eq_true]
  rfl

theorem ledgerPageWrite_writes {e : LedgerEntry} {rest : List LedgerEntry} (front : h.ldg.staging = e :: rest) (idle : h.ldg.op = none)
    (fresh : h.ldg.retry = none) (live : h.mgt.headless = false) {es : List LedgerEntry} {g : Hw}
    (page : (h.ldg.staging.takeWhile fun x => x.slot * 64 / h.pageBytes == e.slot * 64 / h.pageBytes) = es) (wrapped : wrapEntries es h = g) :
    ledgerPageWrite h = { g with ldg := { g.ldg with op := some ⟨e.slot * 64 / h.pageBytes, es.map (·.lseq), [], 1⟩, wpHigh := true } } := by
  have some_entry := front_on_page front
  unfold ledgerPageWrite
  rw [pageEntries_front front]
  dsimp only
  rw [page] at some_entry ⊢
  rw [if_pos (by rw [idle, fresh, some_entry, live]; rfl), wrapped]

theorem ledgerPageWrite_waits (waits : h.ldg.staging = [] ∨ h.ldg.op ≠ none ∨ h.ldg.retry ≠ none ∨ h.mgt.headless = true) :
    ledgerPageWrite h = h := by
  unfold ledgerPageWrite
  dsimp only
  refine if_neg fun e => ?_
  simp only [Bool.and_eq_true, Bool.not_eq_true', Option.isNone_iff_eq_none] at e
  obtain ⟨⟨⟨idle, fresh⟩, entries⟩, live⟩ := e
  rcases waits with empty | busy | failed | headless
  · rw [pageEntries_empty empty] at entries
    exact absurd entries (by decide)
  · exact busy idle
  · exact failed fresh
  · exact absurd headless (Bool.eq_false_iff.mp live)

theorem ledgerPageRetry_tries {op : PageOp} (failed : h.ldg.retry = some op) (idle : h.ldg.op = none) :
    ledgerPageRetry h = { h with ldg := { h.ldg with op := some { op with writes := 1 }, retry := none, wpHigh := true } } := by
  unfold ledgerPageRetry
  rw [failed, idle]

theorem ledgerPageRetry_waits (waits : h.ldg.retry = none ∨ h.ldg.op ≠ none) : ledgerPageRetry h = h := by
  unfold ledgerPageRetry
  split
  next failed idle => exact waits.elim (fun none => by simp [none] at failed) fun busy => absurd idle busy
  next => rfl

/-! ## Entries that wait (R491) -/

theorem checkpointIfDue_not (between : h.ldg.nextLseq % 1024 ≠ 0) : h.checkpointIfDue = h := if_neg fun e => between e.1

theorem drainWaiting_empty (n : Nat) (empty : h.ldg.waiting = []) : drainWaiting (n + 1) h = h := by
  unfold drainWaiting
  rw [empty]

theorem requestedWaits_free (room : h.ldg.staging.length < 20) (free : h.ldg.forced = []) : h.requestedWaits = false := by
  unfold Hw.requestedWaits
  rw [decide_eq_false (Nat.not_le.mpr room), free]
  rfl

theorem drainWaiting_stages (n : Nat) {b : LedgerBody} {rest : List LedgerBody} (front : h.ldg.waiting = b :: rest)
    (between : h.ldg.nextLseq % 1024 ≠ 0) (live : h.mgt.headless = false) (turn : h.requestedWaits = false)
    (energy : h.holdupOk h.ldg.staging.length = true) :
    drainWaiting (n + 1) h = drainWaiting n (Hw.stageNow { h with ldg := { h.ldg with waiting := rest } } b) := by
  rw [drainWaiting, front]
  dsimp only
  rw [checkpointIfDue_not between]
  exact if_neg (by rw [live, turn, energy]; decide)

theorem drainForced_empty (n : Nat) (empty : h.ldg.forced = []) : drainForced (n + 1) h = h := by
  rw [drainForced, empty]
  exact ite_self h

theorem drainForced_full (n : Nat) (full : 24 ≤ h.ldg.staging.length) : drainForced (n + 1) h = h := by
  rw [drainForced]
  exact if_pos (.inl full)

theorem drainForced_stages (n : Nat) {b : LedgerBody} {rest : List LedgerBody} (front : h.ldg.forced = b :: rest)
    (room : h.ldg.staging.length < 24) (between : h.ldg.nextLseq % 1024 ≠ 0) (live : h.mgt.headless = false) :
    drainForced (n + 1) h = drainForced n (Hw.stageOne { h with ldg := { h.ldg with forced := rest } } b) := by
  have goes : ¬(24 ≤ h.ldg.staging.length ∨ h.mgt.headless = true) := not_or.mpr ⟨Nat.not_le.mpr room, Bool.eq_false_iff.mp live⟩
  rw [drainForced, if_neg goes, front]
  exact if_neg fun e => between e.1

/-! ## The archive mark and last_seq (R498, R499) -/

theorem archiveMark_low {hi : Nat} (same : Bool) {g : Hw}
    (marked : { h.wr 0 R.LDG_MARKHI_MARK hi with ldg := { h.ldg with mark := h.rd 0 R.LDG_MARKLO_MARK + hi * 2 ^ 32 } } = g)
    (low : g.nearFull = false) : archiveMark hi same h = if same then g.bump 0 R.LDG_CNT_MARGIN else g := by
  rw [arch_eq hi same h g marked, low, if_neg Bool.false_ne_true]

theorem archiveMark_crosses {hi : Nat} {g : Hw}
    (marked : { h.wr 0 R.LDG_MARKHI_MARK hi with ldg := { h.ldg with mark := h.rd 0 R.LDG_MARKLO_MARK + hi * 2 ^ 32 } } = g)
    (near : g.nearFull = true) (first : g.on 0 R.LDG_STAT_NEARFULL = false) :
    archiveMark hi false h = (g.flag 0 R.LDG_STAT_NEARFULL).report g.node.owner 0xB0 .ledgerFull := by
  rw [arch_eq hi false h g marked, near, first]
  rfl

/-- The rebuild reads every entry where there is no complete checkpoint set, else those from the latest set on. -/
theorem rebuildSeq_reads {use : List SlotView} (all : latestSet (ledgerViews h) = none → use = ledgerViews h)
    (from_set : ∀ a b, latestSet (ledgerViews h) = some (a, b) → use = (ledgerViews h).filter (afterSet a b)) :
    rebuildSeq h = { h with ldg := { h.ldg with lastSeq := use.foldl noteSeq .empty } } := by
  unfold rebuildSeq
  dsimp only
  cases found : latestSet (ledgerViews h) with
  | none => rw [all found]
  | some ab => rw [from_set ab.1 ab.2 found]

end

/-- Settles O56: each command by the branch that its case takes. -/
theorem ledgerCommands : Obligations.LedgerCommands := by
  intro s awake h l
  refine ⟨fun e rest front idle fresh live => ?write, fun waits => gives_of_awake (f := ledgerPageWrite) rfl awake (ledgerPageWrite_waits waits),
    fun p failed idle => gives_of_awake (f := ledgerPageRetry) rfl awake (ledgerPageRetry_tries failed idle),
    fun waits => gives_of_awake (f := ledgerPageRetry) rfl awake (ledgerPageRetry_waits waits),
    fun empty => gives_of_awake (f := drainWaiting 64) rfl awake (drainWaiting_empty 63 empty),
    fun b rest front room free between live energy => gives_of_awake (f := drainWaiting 64) rfl awake
      (drainWaiting_stages 63 front between live (requestedWaits_free room free) energy),
    fun empty => gives_of_awake (f := drainForced 64) rfl awake (drainForced_empty 63 empty),
    fun full => gives_of_awake (f := drainForced 64) rfl awake (drainForced_full 63 full),
    fun b rest front room between live => gives_of_awake (f := drainForced 64) rfl awake (drainForced_stages 63 front room between live),
    fun hi => ?mark, fun use all from_set => ?rebuild⟩
  case write =>
    intro p es g
    exact gives_of_awake (f := ledgerPageWrite) rfl awake (ledgerPageWrite_writes front idle fresh live rfl rfl)
  case mark =>
    intro g₁ g
    exact ⟨fun low => ⟨gives_of_awake (f := archiveMark hi.toNat false) rfl awake (archiveMark_low (g := g) false rfl low),
        gives_of_awake (f := archiveMark hi.toNat true) rfl awake (archiveMark_low (g := g) true rfl low)⟩,
      fun near first => gives_of_awake (f := archiveMark hi.toNat false) rfl awake (archiveMark_crosses (g := g) rfl near first)⟩
  case rebuild =>
    refine gives_of_awake (f := lastSeqRebuild) rfl awake ?_
    unfold lastSeqRebuild
    rw [rebuildSeq_reads all from_set]

end Sys2Proof.Machine
end

section
/-!
PROOFS. The intake of reports, the records, their copies and their clearing, and the Dusk record.
-/

namespace Sys2Proof.Machine

section
variable {h : Hw} {d : Nat}

/-! ## Intake (R502) -/

/-- Of the four reports that a core cycle takes, those after the last pending one do nothing. -/
theorem eventReport_last {g : Hw} (first : takeReport d h = g) (rest : (g.rcd d).pending = []) : eventReport d h = g := by
  unfold eventReport
  rw [first, take_none d g rest, take_none d g rest, take_none d g rest]

theorem takeReport_only {x : Report} (pending : (h.rcd d).pending = [x]) : takeReport d h =
    if 64 ≤ (h.rcd d).input.length then (h.setRcd d { h.rcd d with pending := [], lossNext := true }).bump d R.EVR_CNT_DROPPED
    else h.setRcd d { h.rcd d with pending := [],
                                   input := (h.rcd d).input ++ [if (h.rcd d).lossNext = true then { x with flags := x.flags + 8 } else x],
                                   lossNext := false } := by
  unfold takeReport
  dsimp only
  rw [pending]
  rfl

theorem recordWrite_empty (empty : (h.rcd d).input = []) : recordWrite d h = h := by
  unfold recordWrite
  dsimp only
  rw [empty]

theorem recordWrite_front {x : Report} {rest : List Report} (front : (h.rcd d).input = x :: rest) :
    recordWrite d h = writeRecord d x (h.setRcd d { h.rcd d with input := rest }) := by
  unfold recordWrite
  dsimp only
  rw [front]

/-! ## Clearing (R508) -/

theorem evrClr_new (o : Origin) (none_pending : (h.rcd d).clrOrigin = none) :
    evrClr d o h = tryClear d ((h.setRcd d { h.rcd d with clrOrigin := some o }).wr d R.EVR_CLR_CLRST 1) := by
  unfold evrClr
  rw [none_pending]

theorem tryClear_none (none_pending : (h.rcd d).clrOrigin = none) : tryClear d h = h := by
  unfold tryClear
  rw [none_pending]

section
variable {o : Origin} (pending : (h.rcd d).clrOrigin = some o)
include pending

theorem evrClr_joins (o' : Origin) : evrClr d o' h = h := by
  unfold evrClr
  rw [pending]

theorem tryClear_headless (headless : h.mgt.headless = true) : tryClear d h = h := by
  unfold tryClear
  rw [pending]
  exact if_pos headless

theorem tryClear_tries (live : h.mgt.headless = false) (between : h.ldg.nextLseq % 1024 ≠ 0) : tryClear d h =
    if h.requestedWaits then h
    else if h.holdupOk h.ldg.staging.length then applyClear d o h
    else (h.setRcd d { h.rcd d with clrOrigin := none }).wr d R.EVR_CLR_CLRST 2 := by
  unfold tryClear
  rw [pending, checkpointIfDue_not between]
  exact if_neg (Bool.eq_false_iff.mp live)

end

/-! ## Copies (R506, R507) -/

theorem recorderCopy_waits (aged : Bool) (waits : uncopiedAll h = [] ∨ h.ldg.op ≠ none ∨ h.holdupOk h.ldg.staging.length = false ∨
    h.node.replay = true ∨ (h.node.state = .dusk ∧ h.ldg.staging ≠ [])) : recorderCopy aged h = h := by
  unfold recorderCopy
  refine if_neg fun e => ?_
  simp only [Bool.and_eq_true, Bool.not_eq_true', Option.isNone_iff_eq_none] at e
  obtain ⟨⟨⟨⟨⟨⟨idle, flushed⟩, records⟩, -⟩, energy⟩, -⟩, real⟩ := e
  rcases waits with empty | busy | low | replay | ⟨dusk, staged⟩
  · rw [empty] at records
    exact absurd records (by decide)
  · exact busy idle
  · exact absurd energy (Bool.eq_false_iff.mp low)
  · exact absurd replay (Bool.eq_false_iff.mp real)
  · rw [dusk] at flushed
    exact staged (List.isEmpty_iff.mp flushed)

theorem recorderCopy_copies {aged : Bool} (records : uncopiedAll h ≠ []) (due : aged = true ∨ h.pageBytes / 32 ≤ (uncopiedAll h).length)
    (idle : h.ldg.op = none) (energy : h.holdupOk h.ldg.staging.length = true) (live : h.mgt.headless = false)
    (real : h.node.replay = false) (flushed : h.node.state ≠ .dusk ∨ h.ldg.staging = []) :
    recorderCopy aged h = { h with ldg := { h.ldg with
      op := some ⟨(recArea h + h.ldg.copyPos * 32) / h.pageBytes, [],
        (List.range (min (uncopiedAll h).length (h.pageBytes / 32 - h.ldg.copyPos % (h.pageBytes / 32)))).map fun i =>
          (h.ldg.copyPos + i, (uncopiedAll h).getD i (0, 0)), 1⟩,
      wpHigh := true } } := by
  unfold recorderCopy
  refine if_pos ?_
  simp only [Bool.and_eq_true, Bool.or_eq_true, Bool.not_eq_true', Option.isNone_iff_eq_none, decide_eq_true_eq, bne_iff_ne, List.isEmpty_iff]
  refine ⟨⟨⟨⟨⟨⟨idle, flushed⟩, ?_⟩, due⟩, energy⟩, live⟩, real⟩
  exact List.isEmpty_eq_false_iff.mpr records

theorem duskRecord_waits (waits : h.node.state ≠ .dusk ∨ h.ldg.staging ≠ [] ∨ h.ldg.op ≠ none) (n : Nat) : duskRecord n h = h :=
  if_neg fun ⟨dusk, flushed, idle, _⟩ => waits.elim (fun e => e dusk) fun e => e.elim (fun e => e flushed) fun e => e idle

end

/-- Settles O57: each command by the branch that its case takes. -/
theorem recorderCommands : Obligations.RecorderCommands := by
  intro s awake h
  refine ⟨fun die present => ?atDie, ?copy, fun waits n => gives_of_awake (exec_duskRecord n s) awake (congrArg Hw.duskCheck (duskRecord_waits waits n)),
    fun dusk flushed idle live n => ?dusk⟩
  case atDie =>
    have r : s.ready die := ⟨present, awake⟩
    intro d q
    refine ⟨fun empty => gives_of (f := eventReport d) rfl r (eventReport_last (take_none d h empty) empty), fun x pending room => ?_,
      fun x pending full => ?_, fun empty => gives_of (f := recordWrite d) rfl r (recordWrite_empty empty), fun x rest front => ?_,
      fun x rest front => gives_of (f := recordWrite d) rfl r (recordWrite_front front), fun o pending => ?_, fun free => ?none⟩
    · refine gives_of (f := eventReport d) rfl r
        (eventReport_last ((takeReport_only pending).trans (if_neg (Nat.not_le.mpr room))) ?_)
      rw [setRcd_rcd]
    · refine gives_of (f := eventReport d) rfl r (eventReport_last ((takeReport_only pending).trans (if_pos full)) ?_)
      show (Hw.rcd (h.setRcd d _) d).pending = []
      rw [setRcd_rcd]
    · intro sq privileged freezes free
      exact gives_of (f := recordWrite d) rfl r ((recordWrite_front front).trans (write_plain d x h q rest sq rfl privileged freezes free))
    · refine ⟨fun o' => gives_of_reg (f := evrClr d o') rfl r (evrClr_joins pending o'),
        fun headless => gives_of (f := tryClear d) rfl r (tryClear_headless pending headless), fun live between => ?_⟩
      have run := tryClear_tries pending live between
      exact ⟨fun waits => gives_of (f := tryClear d) rfl r (run.trans (if_pos waits)),
        fun turn energy => gives_of (f := tryClear d) rfl r ((run.trans (if_neg (Bool.eq_false_iff.mp turn))).trans (if_pos energy)),
        fun turn low => gives_of (f := tryClear d) rfl r
          ((run.trans (if_neg (Bool.eq_false_iff.mp turn))).trans (if_neg (Bool.eq_false_iff.mp low)))⟩
    case none =>
      exact ⟨gives_of (f := tryClear d) rfl r (tryClear_none free),
        fun o => gives_of_reg (f := evrClr d o) rfl r (evrClr_new o free)⟩
  case copy =>
    intro u per
    refine ⟨fun aged waits => gives_of_awake (f := recorderCopy aged) rfl awake (recorderCopy_waits aged waits),
      fun aged records due idle energy live real flushed => ?_⟩
    intro n
    exact gives_of_awake (f := recorderCopy aged) rfl awake (recorderCopy_copies records due idle energy live real flushed)
  case dusk =>
    intro d g g'
    exact gives_of_awake (exec_duskRecord n s) awake (congrArg Hw.duskCheck (if_pos ⟨dusk, flushed, idle, live⟩))

end Sys2Proof.Machine
end

section
/-!
PROOFS. Digests, checkpoints, the end of a loss, freezes and re-arming.
-/

namespace Sys2Proof.Machine

section
variable {h : Hw} {d : Nat}

/-! ## Digests (R519, R524, R537) -/

theorem digest_between (recording : h.rd d R.JRN_STAT_STATE ≠ 5) (between : h.digestBoundary = false) : digest d h = h :=
  (if_neg recording).trans (if_pos (by rw [between]; rfl))

theorem digest_unjournaled (recording : h.rd d R.JRN_STAT_STATE ≠ 5) (boundary : h.digestBoundary = true) (off : h.journaling d = false) :
    digest d h = h.setJrn d { h.jrn d with pirWrites := [] } :=
  (if_neg recording).trans ((if_neg (by rw [boundary]; exact Bool.false_ne_true)).trans (if_neg (Bool.eq_false_iff.mp off)))

/-! ## Checkpoints (R521 to R523) -/

theorem checkpointEnd_idle (idle : h.on d R.JRN_STAT_CKOPEN = false ∨ h.journaling d = false) : checkpointEnd d h = h :=
  if_neg fun e => idle.elim (fun closed => Bool.eq_false_iff.mp closed e.1) fun off => Bool.eq_false_iff.mp off e.2

theorem checkpointBegin_due {m : SMap Byte} (boundary : h.digestBoundary = true) (due : ((List.range h.dies).any fun d => h.ckptNow d) = true) :
    checkpointBegin (h, m) = iter h.dies beginCheckpoint (h, m) :=
  if_pos (Bool.and_eq_true_iff.mpr ⟨boundary, due⟩)

theorem checkpointBegin_waits {m : SMap Byte}
    (waits : h.digestBoundary = false ∨ ((List.range h.dies).any fun d => h.ckptNow d) = false) : checkpointBegin (h, m) = (h, m) :=
  if_neg fun e => by
    obtain ⟨boundary, due⟩ := Bool.and_eq_true_iff.mp e
    exact waits.elim (fun between => Bool.eq_false_iff.mp between boundary) fun none => Bool.eq_false_iff.mp none due

/-! ## Losses, freezes and windows (R528, R529) -/

theorem journalLossEnd_ends (loss : (h.jrn d).inLoss = true) (on : h.journaling d = true) (room : (h.jrn d).buffer.length + 3 ≤ 2048)
    (window : h.on d R.JRN_CFG_MODE = false) :
    journalLossEnd d h = (h.setJrn d { h.jrn d with inLoss := false, ckptDue := true }).journal d 9 4 :=
  if_pos ⟨loss, on, room, fun stream => Bool.eq_false_iff.mp window stream.1⟩

theorem journalLossEnd_none (none : (h.jrn d).inLoss = false) : journalLossEnd d h = h :=
  if_neg fun e => Bool.eq_false_iff.mp none e.1

theorem freezeEffect_none (none_triggered : h.freeze = none) : freezeEffect h = h := by
  unfold freezeEffect
  rw [none_triggered]

theorem freezeEffect_triggered {f : Freeze} (triggered : h.freeze = some f) :
    freezeEffect h = if h.now < f.cycle + 4 then h else Hw.eachDie { h with freeze := none } (freezeDie f) := by
  unfold freezeEffect
  rw [triggered]

theorem freezeDie_ignored {f : Freeze} (ended : h.rd d R.JRN_STAT_STATE = 2 ∨ h.rd d R.JRN_STAT_STATE = 3) :
    freezeDie f d h = h.bump d R.JRN_CNT_FRZIGN := by
  have stopped : h.rd d R.JRN_STAT_STATE ≠ 1 := by omega
  exact (if_neg stopped).trans (if_pos ended)

end

/-- Settles O58: each command by the branch that its case takes. -/
theorem journalCommands : Obligations.JournalCommands := by
  intro s awake h
  refine ⟨fun die present => ?atDie, fun boundary due => ?_, fun waits => ?_,
    fun none_triggered => gives_of_awake (f := freezeEffect) rfl awake (freezeEffect_none none_triggered),
    fun f triggered early => gives_of_awake (f := freezeEffect) rfl awake ((freezeEffect_triggered triggered).trans (if_pos early)),
    fun f triggered late => gives_of_awake (f := freezeEffect) rfl awake ((freezeEffect_triggered triggered).trans (if_neg (Nat.not_lt.mpr late))),
    fun f d ended => freezeDie_ignored ended, gives_of_awake (f := jrnRearm) rfl awake rfl⟩
  case atDie =>
    have r : s.ready die := ⟨present, awake⟩
    intro d j st
    refine ⟨fun replays => gives_of (f := digest d) rfl r (if_pos replays),
      fun recording between => gives_of (f := digest d) rfl r (digest_between recording (boundary_no between)),
      fun recording boundary off => gives_of (f := digest d) rfl r (digest_unjournaled recording (boundary_yes boundary) off),
      fun recording boundary on => ?digest, fun idle => gives_of (f := checkpointEnd d) rfl r (checkpointEnd_idle idle), fun isOpen on => ?checkpoint,
      fun loss on room window => gives_of (f := journalLossEnd d) rfl r (journalLossEnd_ends loss on room window),
      fun none => gives_of (f := journalLossEnd d) rfl r (journalLossEnd_none none), gives_of (f := jrnFreeze) rfl r rfl, fun post written => ?window,
      fun before => gives_of (f := postComplete d) rfl r (if_neg fun e => before.elim (fun other => other e.1) fun short => Bool.eq_false_iff.mp short e.2)⟩
    case digest =>
      intro k g g'
      exact gives_of (f := digest d) rfl r (digest_on d h recording (boundary_yes boundary) on)
    case checkpoint =>
      intro ws f g g'
      exact ⟨fun window => gives_of (f := checkpointEnd d) rfl r (ckpt_flush d h isOpen on window),
        fun stream full => gives_of (f := checkpointEnd d) rfl r (ckpt_loss d h isOpen on stream full)⟩
    case window =>
      intro g
      exact gives_of (f := postComplete d) rfl r (if_pos ⟨post, written⟩)
  · exact gives_of_awake_mem (f := checkpointBegin) rfl awake (checkpointBegin_due (boundary_yes boundary) due)
  · exact gives_of_awake_mem (f := checkpointBegin) rfl awake (checkpointBegin_waits (waits.imp_left boundary_no))

end Sys2Proof.Machine
end

section
/-!
PROOFS. The commands of Replay mode, and the scrubber of the Process Image RAM.
-/

namespace Sys2Proof.Machine

section
variable {h : Hw} {d : Nat}

/-! ## Replay control (R535, R536) -/

theorem replayRun_own (replay : h.node.replay = true) (own : d ≠ 0) :
    replayRun d h = if h.rd d R.JRN_STAT_STATE = 6 then (h.wr d R.JRN_RCTL_CMD 2).wr d R.JRN_STAT_STATE 5 else h.wr d R.JRN_RCTL_CMD 2 := by
  have moved := move_own (h.wr d R.JRN_RCTL_CMD 2) d 6 5 own
  rw [rd_wr_apart _ _ _ _ _ _ _ rfl] at moved
  exact (if_pos replay).trans ((congrArg (fun g : Hw => g.replayMove d [6] 5) (rctl_own h d 2 replay own)).trans moved)

theorem replayPause_own (replay : h.node.replay = true) (own : d ≠ 0) :
    replayPause d h = if h.rd d R.JRN_STAT_STATE = 5 then (h.wr d R.JRN_RCTL_CMD 3).wr d R.JRN_STAT_STATE 6 else h.wr d R.JRN_RCTL_CMD 3 := by
  have moved := move_own (h.wr d R.JRN_RCTL_CMD 3) d 5 6 own
  rw [rd_wr_apart _ _ _ _ _ _ _ rfl] at moved
  exact (if_pos replay).trans ((congrArg (fun g : Hw => g.replayMove d [5] 6) (rctl_own h d 3 replay own)).trans moved)

theorem replayStop_moves (enabled : h.on 0 R.JRN_RCTL_STOPEN = true) (reached : h.replayStopAt ≤ h.now) : replayStop h =
    each (List.range h.dies) (fun e g => if g.rd e R.JRN_STAT_STATE = 5 then g.wr e R.JRN_STAT_STATE 6 else g) h := by
  have test : ∀ n : Nat, [5].contains n = true ↔ n = 5 := fun n => by simp
  refine (if_pos ⟨enabled, reached⟩).trans ?_
  unfold Hw.replayMove
  simp only [test]
  rfl

theorem replayStop_waits (waits : h.on 0 R.JRN_RCTL_STOPEN = false ∨ h.now < h.replayStopAt) : replayStop h = h :=
  if_neg fun e => waits.elim (fun off => Bool.eq_false_iff.mp off e.1) fun early => Nat.not_le.mpr early e.2

/-! ## Feeding (R535) -/

theorem replayFeed_word (replay : h.node.replay = true) (w : Dword) : replayFeed d [w] h =
    (h.feedWord d (h.rd d R.JRN_RFEED_INDEX) w.toNat).wr d R.JRN_RFEED_INDEX ((h.rd d R.JRN_RFEED_INDEX + 1) % jrnSize) := if_pos replay

theorem feedWord_words (i : Nat) (w : Dword) : ((h.feedWord d i w.toNat).jrn d).words.get 0 (i % jrnSize) = w.toNat := by
  unfold Hw.feedWord
  rw [setJrn_jrn]
  dsimp only
  rw [SMap.get_put_self]
  exact low_of_lt w.isLt

end

/-- Settles O59: each command by the branch that its case takes. -/
theorem replayCommands : Obligations.ReplayCommands := by
  intro s awake h
  refine ⟨fun die present => ?atDie, fun enabled reached => gives_of_awake (f := replayStop) rfl awake (replayStop_moves enabled reached),
    fun waits => gives_of_awake (f := replayStop) rfl awake (replayStop_waits waits)⟩
  case atDie =>
    have r : s.ready die := ⟨present, awake⟩
    intro d
    refine ⟨fun off => ?off, fun replay => ?replay, fun runs => gives_of (f := replayEnd d) rfl r (if_pos runs),
      fun other => gives_of (f := replayEnd d) rfl r (if_neg other), ?scrub⟩
    case off =>
      have service : ¬s.hw.node.replay = true := Bool.eq_false_iff.mp off
      exact ⟨gives_of_mem_only (f := replayLoad d) rfl r (if_neg service), gives_of (f := replayRun d) rfl r (if_neg service),
        gives_of (f := replayPause d) rfl r (if_neg service), fun o => gives_of_reg (f := replayReserved d o) rfl r (if_neg service),
        fun ws => gives_of (f := replayFeed d ws) rfl r (if_neg service)⟩
    case replay =>
      refine ⟨gives_of_mem (f := replayLoad d) rfl r (if_pos replay),
        fun own paused => gives_of (f := replayRun d) rfl r ((replayRun_own replay own).trans (if_pos paused)),
        fun own runs => gives_of (f := replayPause d) rfl r ((replayPause_own replay own).trans (if_pos runs)),
        fun own other => gives_of (f := replayRun d) rfl r ((replayRun_own replay own).trans (if_neg other)),
        fun o => gives_of_reg (f := replayReserved d o) rfl r (if_pos replay),
        fun w => ⟨gives_of (f := replayFeed d [w]) rfl r (replayFeed_word replay w), ?_, ?_⟩⟩
      · exact feedWord_words (h.rd d R.JRN_RFEED_INDEX) w
      · rw [rd_wr _ _ _ _ _ _ rfl]
        exact low_of_lt (Nat.mod_lt _ (by decide))
    case scrub =>
      intro x g
      exact ⟨gives_of (f := pirScrub d none) rfl r rfl, gives_of (f := pirScrub d (some false)) rfl r rfl,
        gives_of (f := pirScrub d (some true)) rfl r rfl⟩

end Sys2Proof.Machine
end

section
/-!
PROOFS. The update transaction, the handover of the dies, and the write-back of a ring-booted image.
-/

namespace Sys2Proof.Machine

section
variable {h : Hw}

/-! ## Staging and commit (R573 to R575, R583) -/

theorem updateData_full (d : Nat) (o : Origin) (v : Word) (opened : h.mgt.isOpen = true) (receives : h.ustate = 1) (full : h.stageFull = true) :
    updateData d o v h = h.endUpdate 0x01 :=
  (if_neg (open3 opened receives)).trans (if_pos full)

theorem updateCommit_judges (opened : h.mgt.isOpen = true) (receives : h.ustate = 1) {g : Hw}
    (checks : (h.wr 0 R.MGT_UCMD_CMD 2).wr 0 R.MGT_USTAT_USTATE 2 = g) :
    updateCommit h = if g.judgeUpdate ≠ 0 then g.endUpdate g.judgeUpdate else (g.wr 0 R.MGT_USTAT_USTATE 3).eraseHeader := by
  subst checks
  exact if_neg (open3 opened receives)

theorem endUpdate_closed {n : Nat} (closed : h.mgt.isOpen = false) : h.endUpdate n = h := if_neg (Bool.eq_false_iff.mp closed)

theorem holdupWaitTimeout_waits (waits : h.mgt.isOpen = false ∨ h.ustate ≠ 3) : holdupWaitTimeout h = h :=
  if_neg fun e => waits.elim (fun closed => Bool.eq_false_iff.mp closed e.1) fun other => other e.2

/-! ## The write-back of a ring-booted image (R581) -/

theorem ringBootWriteBack_waits (bytes : List Byte) (waits : h.loaderState = false ∨ h.node.replay = true ∨ h.rd 0 R.NOD_DAWN_SRC ≠ 3 ∨
    h.on 0 R.MGT_CFG_RBWB = false ∨ h.mgt.isOpen = true) : ringBootWriteBack bytes h = h :=
  if_pos (waits.imp_right (Or.imp_right .inr))

theorem ringBootWriteBack_writes {bytes : List Byte} (loader : h.loaderState = true) (service : h.node.replay = false)
    (fallback : h.rd 0 R.NOD_DAWN_FALLBACK ≠ 0) (ring : h.rd 0 R.NOD_DAWN_SRC = 3) (enabled : h.on 0 R.MGT_CFG_RBWB = true)
    (closed : h.mgt.isOpen = false) {body : List Byte} {g : Hw} (text : slice bytes 0x200 (h.cfg.header.imgLen - 0x200) = body)
    (written : (h.norWrite 0 (List.replicate 512 0xFF)).norWrite 0x200 body = g) : ringBootWriteBack bytes h =
      if hashBytes (Config.sha384 body) = slice bytes 0x30 48 ∧ slice bytes 0x30 48 = h.cfg.header.imgHash ∧
          g.holdupOk g.ldg.staging.length then
        (g.norWrite 0 (slice bytes 0 512)).stageRequested
          (ledgerBody 0x05 .loader (6 + h.cfg.header.fwVer * 2 ^ 32 + h.cfg.header.fwVer * 2 ^ 48) (leAt h.cfg.header.imgHash (4 * 0) 4)
            (leAt h.cfg.header.imgHash (4 * 1) 4) (leAt h.cfg.header.imgHash (4 * 2) 4) (leAt h.cfg.header.imgHash (4 * 3) 4)
            (some (g.norWrite 0 (slice bytes 0 512)).node.owner))
      else g := by
  subst text
  subst written
  refine if_neg ?_
  rw [loader, service, enabled, closed, ring]
  simp [fallback]

end

/-- Settles O60: each command by the branch that its case takes. -/
theorem updateCommands : Obligations.UpdateCommands := by
  intro s awake h m own
  refine ⟨fun other => gives_of_awake (f := updateStart) rfl awake (if_pos other),
    fun loader opened => gives_of_awake (f := updateStart) rfl awake (start_busy h loader opened), fun loader closed => ?start,
    fun die present o v => ?data, fun waits => gives_of_awake (f := updateCommit) rfl awake (if_pos waits), fun opened receives => ?commit,
    fun closed => gives_of_awake (f := updateAbort) rfl awake (endUpdate_closed closed), fun _ => gives_of_awake (f := updateAbort) rfl awake rfl,
    fun eq waits => ⟨gives_of_awake (f := norWriteComplete eq) rfl awake (if_pos waits),
      gives_of_awake (f := holdupWaitTimeout) rfl awake (holdupWaitTimeout_waits waits)⟩,
    fun opened writes => ⟨gives_of_awake (f := holdupWaitTimeout) rfl awake (if_pos ⟨opened, writes⟩), ?nor⟩,
    fun a b waits => ⟨gives_of_awake (f := handover a b.toNat) rfl awake (if_pos waits), gives_of_awake (f := handoverTimeout) rfl awake (if_pos waits)⟩,
    fun d opened hands next => ?hands,
    fun bytes waits => gives_of_awake (f := ringBootWriteBack bytes) rfl awake (ringBootWriteBack_waits bytes waits),
    fun bytes loader service fallback ring enabled closed => ?back⟩
  case start =>
    intro g₁ g₂ g x
    exact gives_of_awake (f := updateStart) rfl awake (start_new h loader closed)
  case data =>
    have r : s.ready die := ⟨present, awake⟩
    refine ⟨fun waits => gives_of_reg (f := updateData die.val o v) rfl r (if_pos waits),
      fun opened receives full => gives_of_reg (f := updateData die.val o v) rfl r (updateData_full _ o v opened receives full),
      fun opened receives room => ?_⟩
    intro x
    exact gives_of_reg (f := updateData die.val o v) rfl r (data_eq h die.val o v opened receives room x rfl)
  case commit =>
    intro g
    have run := updateCommit_judges (g := g) opened receives rfl
    exact ⟨fun fails => gives_of_awake (f := updateCommit) rfl awake (run.trans (if_pos fails)),
      fun passes => gives_of_awake (f := updateCommit) rfl awake (run.trans (if_neg (not_not_intro passes)))⟩
  case nor =>
    intro g
    refine ⟨fun eq waits => gives_of_awake (f := norWriteComplete eq) rfl awake (nor_wait h eq opened writes waits), fun done energy => ⟨
      fun again => gives_of_awake (f := norWriteComplete false) rfl awake (nor_bad h opened writes done energy again),
      fun first => gives_of_awake (f := norWriteComplete false) rfl awake (nor_again h opened writes done energy first), ?_⟩⟩
    intro x y
    exact gives_of_awake (f := norWriteComplete true) rfl awake (nor_good h opened writes done energy)
  case hands =>
    intro x g at'
    refine ⟨fun b => ?_, gives_of_awake (f := handoverTimeout) rfl awake (hto_eq h g d opened hands next rfl)⟩
    intro y z₁ z
    exact ⟨gives_of_awake (f := handover true b.toNat) rfl awake (hand_eq h g d b.toNat true opened hands next rfl),
      gives_of_awake (f := handover false b.toNat) rfl awake (hand_eq h g d b.toNat false opened hands next rfl)⟩
  case back =>
    intro hd body g
    have run := ringBootWriteBack_writes (bytes := bytes) (body := body) (g := g) loader service fallback ring enabled closed rfl rfl
    refine ⟨fun differs => ?_, fun hash same energy => ?_⟩
    · refine gives_of_awake (f := ringBootWriteBack bytes) rfl awake (run.trans (if_neg fun e => ?_))
      exact differs.elim (fun other => other e.1) fun other => other e.2.1
    · intro w
      exact gives_of_awake (f := ringBootWriteBack bytes) rfl awake (run.trans (if_pos ⟨hash, same, energy⟩))

end Sys2Proof.Machine
end
